-- ==== Sys2Proof/Word.lean ====
section
/-! DEFINITION. The word types of the module (R6: little-endian, bit 0 least significant) and their plainest arithmetic. -/

namespace Sys2Proof

/-- A 64-bit scalar value, a queue entry, a handle (R43, R282). -/
abbrev W64 := BitVec 64

/-- One byte of memory (R6). -/
abbrev Byte := BitVec 8

/-- A 256-bit vector register (R44). -/
abbrev W256 := BitVec 256

end Sys2Proof
end

