-- ==== Sys2Proof/Syntax.lean ====
section
/-! DEFINITION. The instructions of the Karken set as the decoder gives them, and the module's events and commands, each one
indivisible step (R10, R62, file 95): one constructor for each row of the opcode table. -/

namespace Sys2Proof

/-- The length of an instruction word, LEN [1:0] (R38). -/
inductive Len where
  | l64 | l96 | l128
  deriving DecidableEq, Repr

/-- GUARD [13:10]: predicate number, negated or not (R41). -/
structure Guard where
  neg : Bool
  p   : Fin 8
  deriving DecidableEq, Repr

/-- An operand code that is not reserved (R45). -/
inductive Opnd where
  | q (k : Fin 16)   -- Q(k+1)
  | n (k : Fin 32)
  | w (k : Fin 16)
  | v (k : Fin 8)
  | p (k : Fin 8)
  | imm (k : Fin 32) -- the value k - 16
  deriving DecidableEq, Repr

/-- A destination code (R46). -/
inductive Dst where
  | queue
  | n (k : Fin 32)
  | v (k : Fin 8)
  | p (k : Fin 7)    -- P(k+1)
  | w (k : Fin 16)
  deriving DecidableEq, Repr

/-- The fields of an instruction word besides OP (R41, R42). An operand or destination field that the form does not read is
held as code 0 (R14). `ext` holds IMM32 zero-extended in a 96-bit word, EXT64 in a 128-bit word, 0 in a 64-bit word. -/
structure Fields where
  len   : Len
  guard : Guard
  dst   : Dst
  a     : Opnd
  b     : Opnd
  c     : Opnd
  func  : BitVec 12
  imm11 : BitVec 11
  ext   : W64
  deriving DecidableEq, Repr

/-- The key of a page at a home port: ASID, buffer index, home-local page (R286, R299). -/
structure PageKey where
  asid : Nat
  buf  : Nat
  page : Nat
  deriving DecidableEq, Repr

/-- A 32-byte command of a hub's privileged queue (R302), and the hub whose queue holds it. -/
structure Command where
  hub   : Nat
  w0    : W64
  arg   : W64
  param : W64
  tag   : W64
  deriving DecidableEq, Repr

/-- A 32-byte job record (R157) with the ASID of the queue it was written to. -/
structure JobRecord where
  queueAsid : Nat
  w0     : W64
  image  : W64
  notify : W64
  w3     : W64
  deriving DecidableEq, Repr

/-- A register of the memory BAR, which the host reads through CXL.io (R336, R345, R348, R351, R396, R411, R413, R421): word `k` of a channel's counter
block, MCFG of a port, the register of a stack, word `k` of an entry of the map-out report, a counter of a die's throttle table, word `k` of an entry of a
core's credit table, PSTAT of a hub, MCONF and MCAP. -/
inductive IoReg where
  | counter (core k : Nat)
  | mcfg (core : Nat)
  | stack (stack : Nat)
  | report (entry k : Nat)
  | throttle (die asid : Nat)
  | credit (core entry k : Nat)
  | pstat (hub : Nat)
  | mconf
  | mcap
  deriving DecidableEq, Repr

/-- An access of the host (R411): on CXL.mem MemRd of `size` bytes, MemWr of `data`, or MemWrPtl of those bytes of `data` whose place in `mask` is set; or
the read of a register through CXL.io, at the port of a hub. -/
inductive HostAccess where
  | read (mpa size : Nat)
  | write (mpa : Nat) (data : List Byte)
  | writePart (mpa : Nat) (data : List Byte) (mask : List Bool)
  | io (hub : Nat) (reg : IoReg)
  deriving DecidableEq, Repr

/-- A direction of a link (R405): from its end A, or from its end B. -/
structure LinkEnd where
  link  : Nat
  fromA : Bool
  deriving DecidableEq, Repr

/-- How a flit comes in (R405): whether its CRC is good, and bits of its cell's header that its transmitter has sent wrong. -/
structure FlitSeen where
  crcGood : Bool
  flip    : W64
  deriving DecidableEq, Repr

/-- A core clock of `step` times 0.275 GHz, on M4 of the module, on M8 of a die (R410). -/
structure ClockSet where
  die  : Nat
  step : Nat
  deriving DecidableEq, Repr

/-- A hub's host port that trains, at a rate in GT/s (R413). -/
structure PortRate where
  hub  : Nat
  rate : Nat
  deriving DecidableEq, Repr

/-- A port of a hub to peer modules (R412). -/
structure PeerPort where
  hub  : Nat
  port : Nat
  deriving DecidableEq, Repr

/-- The endpoint address of a peer module (R415, R416). -/
structure Endpoint where
  hi : W64
  lo : W64
  deriving DecidableEq, Repr

/-- A PLDM request on the side-band port (R423): discovery (type 0), and of type 2 the effecter of the power cap, written or read, and a sensor: the
temperature or power of a die (8 and 9 the hubs), the module's power, the coolant inlet temperature. -/
inductive Pldm where
  | discovery
  | setCap (watts : Nat)
  | getCap
  | dieTemp (die : Nat)
  | diePower (die : Nat)
  | modulePower
  | coolant
  deriving DecidableEq, Repr

/-- What a message from a peer module carries (R412, R416, R417). -/
inductive PeerBody where
  | store (handle : W64) (data : List Byte)
  | atomic (handle : W64) (aop ty : Nat) (b c : W64) (post : Bool) (tag : Nat)   -- `tag`: the number of the peer's thread
  | arm (handle : W64) (ty cond : Nat) (b : W64) (tag : Nat)                     -- of a `WAITC`
  | entry (core bank : Nat) (data : List Byte)
  | read (handle : W64) (size tag : Nat)
  | context (tid : Nat) (kdesc : W64) (words : List W64)   -- R26, R27: a thread that comes back, or one of the peer's own and its kernel
  | saved (tid : Nat) (words : List W64)      -- a thread of this module that the peer has saved, with its record (R210, R211)
  | saveNotice (launch gang : Nat)
  | exit (tid : Nat)
  | spawned (job launch : Nat) (up : Bool)    -- a thread of a launch of this module has been spawned there, or such a one has exited (R16)
  | kick (tid : Nat) (record : Bool) (nap : Nat)   -- R206, R207: an increment, or the record request of an `IDLE`, by the peer's number of it
  | kickRead (tid : Nat)
  | wake (tid nap : Nat)                      -- for a thread that sleeps or waits here: the `IDLE` of that number, 0 a `WAITC`
  | grant (bank size count credits : Nat) (fresh : Bool)
  | credit (bank : Nat)
  | revoke (bank : Nat) (wantReply : Bool)
  deriving DecidableEq, Repr

/-- A message that arrives from a peer module (R416): the address it came from, its ASID, its source and target. -/
structure PeerMessage where
  addrHi : W64
  addrLo : W64
  asid   : Nat
  src    : Nat
  dst    : Nat
  body   : PeerBody
  deriving DecidableEq, Repr

/-- What a cold boot finds (R419, R420): the configuration, whether the flash image passes, and for each of CD0-CD7, HD0, HD1
whether its own image check and its authentication with the active hub succeed; the MCFG word that firmware gives each port: the
word of the listed ports, and that of every other (R336). -/
structure BootInput where
  m8      : Bool
  imageOk : Bool
  check   : List Bool
  auth    : List Bool
  mcfg    : W64
  mcfgs   : List (Nat × W64)
  deriving DecidableEq, Repr

/-- One constructor for each row of spec/opcode_table.json. The events that come only from outside the module, or that no part of
the model names, stand last. -/
inductive Instr where
  /-- R65. -/
  | add (f : Fields)
  /-- R65. -/
  | sub (f : Fields)
  /-- R65. -/
  | mul (f : Fields)
  /-- R65. -/
  | mulh (f : Fields)
  /-- R65. -/
  | div (f : Fields)
  /-- R65. -/
  | rem (f : Fields)
  /-- R65. -/
  | mad (f : Fields)
  /-- R65. -/
  | neg (f : Fields)
  /-- R65. -/
  | abs (f : Fields)
  /-- R65. -/
  | min (f : Fields)
  /-- R65. -/
  | max (f : Fields)
  /-- R66. -/
  | and (f : Fields)
  /-- R66. -/
  | or (f : Fields)
  /-- R66. -/
  | xor (f : Fields)
  /-- R66. -/
  | andn (f : Fields)
  /-- R66. -/
  | shl (f : Fields)
  /-- R66. -/
  | shr (f : Fields)
  /-- R66. -/
  | sra (f : Fields)
  /-- R66. -/
  | rol (f : Fields)
  /-- R66. -/
  | clz (f : Fields)
  /-- R66. -/
  | ctz (f : Fields)
  /-- R66. -/
  | popc (f : Fields)
  /-- R66. -/
  | brev (f : Fields)
  /-- R66. -/
  | bfx (f : Fields)
  /-- R66. -/
  | bfi (f : Fields)
  /-- R66. -/
  | sext (f : Fields)
  /-- R66. -/
  | zext (f : Fields)
  /-- R67. -/
  | cmp (f : Fields)
  /-- R67. -/
  | sel (f : Fields)
  /-- R67. -/
  | mov (f : Fields)
  /-- R68. -/
  | lim (f : Fields)
  /-- R70. -/
  | plog (f : Fields)
  /-- R71. -/
  | hmk (f : Fields)
  /-- R71. -/
  | hadd (f : Fields)
  /-- R71. -/
  | hidx (f : Fields)
  /-- R71. -/
  | hofs (f : Fields)
  /-- R72. -/
  | hchk (f : Fields)
  /-- R73. -/
  | bra (f : Fields)
  /-- R73. -/
  | brp (f : Fields)
  /-- R73. -/
  | call (f : Fields)
  /-- R74. -/
  | callx (f : Fields)
  /-- R73. -/
  | ret (f : Fields)
  /-- R77. -/
  | exit (f : Fields)
  /-- R81. -/
  | rjoin (f : Fields)
  /-- R73. -/
  | loop (f : Fields)
  /-- R78. -/
  | nop (f : Fields)
  /-- R78. -/
  | bkpt (f : Fields)
  /-- R84. -/
  | rdsp (f : Fields)
  /-- R85. -/
  | cntrd (f : Fields)
  /-- R80. -/
  | shfl (f : Fields)
  /-- R80. -/
  | vote (f : Fields)
  /-- R80. -/
  | ballot (f : Fields)
  /-- R80. -/
  | gscan (f : Fields)
  /-- R91. -/
  | ld (f : Fields)
  /-- R92. -/
  | st (f : Fields)
  /-- R91. -/
  | ldk (f : Fields)
  /-- R93. -/
  | ldl (f : Fields)
  /-- R93. -/
  | stl (f : Fields)
  /-- R94. -/
  | prf (f : Fields)
  /-- R99. -/
  | qpush (f : Fields)
  /-- R102. -/
  | qpop (f : Fields)
  /-- R103. -/
  | qcnt (f : Fields)
  /-- R100. -/
  | bankm (f : Fields)
  /-- R96. -/
  | fence (f : Fields)
  /-- R105. -/
  | atom (f : Fields)
  /-- R105. -/
  | atomf (f : Fields)
  /-- R106. -/
  | cas (f : Fields)
  /-- R107. -/
  | lres (f : Fields)
  /-- R107. -/
  | scond (f : Fields)
  /-- R108. -/
  | waitc (f : Fields)
  /-- R109. -/
  | sleep (f : Fields)
  /-- R110. -/
  | yield (f : Fields)
  /-- R380. -/
  | bar (f : Fields)
  /-- R380. -/
  | gbar (f : Fields)
  /-- R384. -/
  | pbari (f : Fields)
  /-- R385. -/
  | pbara (f : Fields)
  /-- R385. -/
  | pbarw (f : Fields)
  /-- R111. -/
  | migr (f : Fields)
  /-- R112. -/
  | spawn (f : Fields)
  /-- R115. -/
  | launch (f : Fields)
  /-- R114. -/
  | home (f : Fields)
  /-- R117. -/
  | cancel (f : Fields)
  /-- R118. -/
  | cwait (f : Fields)
  /-- R389. -/
  | nbpost (f : Fields)
  /-- R390. -/
  | nbload (f : Fields)
  /-- R389. -/
  | nbview (f : Fields)
  /-- R391. -/
  | nbmask (f : Fields)
  /-- R392. -/
  | nbgen (f : Fields)
  /-- R242. -/
  | fadd (f : Fields)
  /-- R242. -/
  | fsub (f : Fields)
  /-- R242. -/
  | fmul (f : Fields)
  /-- R242. -/
  | fma (f : Fields)
  /-- R242. -/
  | fdiv (f : Fields)
  /-- R242. -/
  | fsqrt (f : Fields)
  /-- R242. -/
  | frcp (f : Fields)
  /-- R242. -/
  | frsq (f : Fields)
  /-- R242. -/
  | fex2 (f : Fields)
  /-- R242. -/
  | flg2 (f : Fields)
  /-- R243. -/
  | fmin (f : Fields)
  /-- R243. -/
  | fmax (f : Fields)
  /-- R244. -/
  | fcmp (f : Fields)
  /-- R245. -/
  | fcls (f : Fields)
  /-- R246. -/
  | fcvt (f : Fields)
  /-- R246. -/
  | icvf (f : Fields)
  /-- R247. -/
  | fcvi (f : Fields)
  /-- R249. -/
  | vld (f : Fields)
  /-- R249. -/
  | vst (f : Fields)
  /-- R249. -/
  | vldl (f : Fields)
  /-- R249. -/
  | vstl (f : Fields)
  /-- R251. -/
  | vadd (f : Fields)
  /-- R251. -/
  | vsub (f : Fields)
  /-- R251. -/
  | vmul (f : Fields)
  /-- R251. -/
  | vfma (f : Fields)
  /-- R251. -/
  | vmin (f : Fields)
  /-- R251. -/
  | vmax (f : Fields)
  /-- R251. -/
  | vabs (f : Fields)
  /-- R252. -/
  | vred (f : Fields)
  /-- R253. -/
  | vdot (f : Fields)
  /-- R254. -/
  | vbcs (f : Fields)
  /-- R254. -/
  | vext (f : Fields)
  /-- R254. -/
  | vins (f : Fields)
  /-- R254. -/
  | vprm (f : Fields)
  /-- R256. -/
  | vcvt (f : Fields)
  /-- R257. -/
  | vqnt (f : Fields)
  /-- R258. -/
  | vdqn (f : Fields)
  /-- R259. -/
  | vtag (f : Fields)
  /-- R255. -/
  | vcmp (f : Fields)
  /-- R255. -/
  | vsel (f : Fields)
  /-- R260. -/
  | fmtw (f : Fields)
  /-- R261. -/
  | fmtr (f : Fields)
  /-- R191. -/
  | tdef (f : Fields)
  /-- R191. -/
  | tzero (f : Fields)
  /-- R191. -/
  | tld (f : Fields)
  /-- R191. -/
  | tst (f : Fields)
  /-- R191. -/
  | tcvt (f : Fields)
  /-- R191. -/
  | tget (f : Fields)
  /-- R191. -/
  | tset (f : Fields)
  /-- R187. -/
  | ufdef (f : Fields)
  /-- R184. -/
  | mma (f : Fields)
  /-- R186. -/
  | mmau (f : Fields)
  /-- R269. -/
  | mmas (f : Fields)
  /-- R188. -/
  | mtrans (f : Fields)
  /-- R188. -/
  | mperm (f : Fields)
  /-- R188. -/
  | mrsum (f : Fields)
  /-- R188. -/
  | mscale (f : Fields)
  /-- R174. -/
  | mcommit (f : Fields)
  /-- R192. -/
  | mwait (f : Fields)
  /-- R193. -/
  | mstat (f : Fields)
  /-- R192. -/
  | mclear (f : Fields)
  /-- R192. -/
  | mresume (f : Fields)
  /-- R194. -/
  | mpark (f : Fields)
  /-- R194. -/
  | munpark (f : Fields)
  /-- R268. -/
  | sccfg (f : Fields)
  /-- R268. -/
  | sctag (f : Fields)
  /-- R268. -/
  | scinv (f : Fields)
  /-- R270. -/
  | scstat (f : Fields)
  /-- R322. -/
  | cpygo (f : Fields)
  /-- R323. -/
  | engwait (f : Fields)
  /-- R324. -/
  | engstat (f : Fields)
  /-- R325. -/
  | engcan (f : Fields)
  /-- R326. -/
  | cbrd (f : Fields)
  /-- R327. -/
  | cbrst (f : Fields)
  /-- R201. -/
  | trap (f : Fields)
  /-- R202. -/
  | rte (f : Fields)
  /-- R203. -/
  | sysrd (f : Fields)
  /-- R203. -/
  | syswr (f : Fields)
  /-- R206. -/
  | idle (f : Fields)
  /-- R21. Each cc the selector builds and issues at most one issue group. -/
  | issueGroupSelect (core : Nat)
  /-- R97. Before migrating, the thread waits for its writes to complete, then issues. -/
  | writeDrainInterlock (tid : Nat)
  /-- R30. A context message arrives whole and lands, is held, or goes to a reserved overflow entry. -/
  | contextArrival (k : Nat)
  /-- R30. A context held 4,096 cc is written to the overflow area and accepted. -/
  | holdTimeout (core tid : Nat)
  /-- R32. A freed general overflow entry takes the earliest held context. -/
  | overflowEntryFree (core : Nat)
  /-- R31. A freed landing slot is filled from held or overflow contexts. -/
  | landingSlotRefill (core lane slot : Nat)
  /-- R28. A free thread slot takes the oldest landed thread of its lane. -/
  | landedThreadMove (core lane : Nat)
  /-- R29. An acceptance reaching the source frees the OUTBOUND thread's slot. -/
  | contextAcceptance (k : Nat)
  /-- R112. A spawn message arrives and lands as a general context. -/
  | spawnMessage (k : Nat)
  /-- R112. The packing unit places a plaza spawn-queue entry in a freed general landing slot. -/
  | spawnQueuePlace (plaza lane : Nat)
  /-- R91. A remote read arrives at the home and is performed there. -/
  | remoteReadRequest (k : Nat)
  /-- R92. A store arrives at the home, is translated and performed, then acknowledged. -/
  | storeRequest (k : Nat)
  /-- R105. An atomic arrives at the home port and is performed indivisibly. -/
  | atomicRequest (k : Nat)
  /-- R398. A queue entry arrives and is written at the bank tail. -/
  | queueEntry (k : Nat)
  /-- R293. A fill request reads the line and records a lease at the home. -/
  | leaseFillRequest (k : Nat)
  /-- R108. A monitor arm request arrives and is evaluated at the home. -/
  | monitorArm (k : Nat)
  /-- R403. A launch or engine request arrives at a hub. -/
  | hubRequest (k : Nat)
  /-- R101. The producer's revoke reply arrives at the bank and finishes the BANKM change. -/
  | revokeReply (k : Nat)
  /-- R403. Read data returns on VC1 and the waiting thread proceeds. -/
  | readData (k : Nat)
  /-- R105. An atomic result returns on VC1 and is pushed. -/
  | atomicResult (k : Nat)
  /-- R88. A write acknowledgement, with a returned time or fault code, reaches the issuing core. -/
  | writeAcknowledgement (k : Nat)
  /-- R88. A leased write completes when dtc() reaches the returned time. -/
  | leasedWriteComplete (tid : Nat)
  /-- R293. A lease-table entry frees when dtc() passes its end. -/
  | leaseExpiry (core : Nat)
  /-- R100. A grant creates or refreshes the producer's credit entry, or is refused. -/
  | grant (k : Nat)
  /-- R296. A credit returns to the producer and releases a waiting QPUSH. -/
  | credit (k : Nat)
  /-- R101. A revoke removes the producer's credit entry and sends a revoke reply. -/
  | revoke (k : Nat)
  /-- R303. A unit drops the covered translations and answers when nothing old is in flight. -/
  | invalidation (k : Nat)
  /-- R303. An answer reaches the hub; the last one posts the INVAL completion. -/
  | invalidationAnswer (k : Nat)
  /-- R385. The SYE performs a barrier arrival or wait request. -/
  | barrierRequest (k : Nat)
  /-- R385. A release reaches a waiting thread with WHOLE or BROKEN. -/
  | barrierRelease (k : Nat)
  /-- R389. The SYE performs a board post, view, load or generation request. -/
  | boardRequest (k : Nat)
  /-- R389. A board reply writes the view register and wakes the thread. -/
  | boardReply (k : Nat)
  /-- R108. A wake makes a parked or idle thread READY. -/
  | wake (k : Nat)
  /-- R207. A kick cell increments SY_KICK at the anchor or records k0 for IDLE. -/
  | kick (k : Nat)
  /-- R210. A core saves every thread of the gang it holds. -/
  | gangSaveNotice (k : Nat)
  /-- R210. The WGPOS 0 anchor counts SAVED; pre-emption completes at LIVE. -/
  | savedNotice (k : Nat)
  /-- R210. An exit notice reaches the anchor from a thread away from it. -/
  | exitNotice (k : Nat)
  /-- R304. A port sets WB in its MTLB entry and acknowledges. -/
  | wbNotice (k : Nat)
  /-- R354. A surviving unit processes a fenced die's loss in one step. -/
  | dieLossNotice (k : Nat)
  /-- R403. Bulk engine data arrives on VC3. -/
  | engineData (k : Nat)
  /-- R340. Sector data from a hub fills a memory-side cache index. -/
  | sectorData (k : Nat)
  /-- R340. The hub acknowledges a write-back and the fill proceeds. -/
  | sectorWriteBackAck (k : Nat)
  /-- R287. A buffer-descriptor cache miss completes and the thread resumes. -/
  | descriptorCacheFill (tid : Nat)
  /-- R298. An MTLB miss walk returns a PME, filling the MTLB or parking. -/
  | pageMapWalk (core : Nat) (key : PageKey)
  /-- R301. Every 1,000 ns the port retries a post to a full fault queue. -/
  | faultPostRetry (core : Nat)
  /-- R279. The tier migration engine's TAIL monitor fires; it checks the next request and sets WB. -/
  | moveRequestTake (hub asid : Nat)
  /-- R304. The page copy ends; the entry switches and held writes drain. -/
  | pageCopyDone (hub : Nat)
  /-- R340. A tier CAP access hits or starts a write-back and fill. -/
  | memorySideCacheAccess (core index : Nat)
  /-- R349. At each 32,000 ns boundary the row activation counts reset. -/
  | rowWindow (die : Nat)
  /-- R350. Every 1,000 ns a throttled row is activated for up to 16 held requests. -/
  | throttledActivation (core row : Nat)
  /-- R158. The job status is written to NOTIFY and the completion entry is posted. -/
  | jobCompletion (job : Nat)
  /-- R165. A phase reads its size word and starts a class's graph. -/
  | phaseStart (job : Nat)
  /-- R161. Argument blocks are read and footprint edges and counters derived. -/
  | graphStart (job : Nat)
  /-- R162. A launch completes and its successors' counters decrement. -/
  | launchCompletion (job tcb : Nat)
  /-- R152. The scheduler offers the head ready gang to a die. -/
  | readyHandOn
  /-- R151. A distributor places its queued gang on the first run that can take it. -/
  | gangPlacement (die : Nat)
  /-- R154. A running gang is pre-empted and restored elsewhere to make room. -/
  | relocation (die : Nat)
  /-- R155. A gang retires once its threads, writes, batches and jobs are done. -/
  | gangRetire (launch gang : Nat)
  /-- R166. A cancellation stops the launch's gangs and spawned threads. -/
  | launchCancellation (job tcb : Nat)
  /-- R213. A saved gang is restored and issue resumes in one cc. -/
  | gangRestore (launch gang : Nat)
  /-- R79. A cross-lane or RJOIN instance completes and its members become READY. -/
  | joinInstance (wg pc : Nat)
  /-- R380. A workgroup or gang barrier releases in the cc it fills. -/
  | barrierPhaseEnd (wg n : Nat)
  /-- R109. A sleeping or idle thread's time or promise is reached. -/
  | sleepWake (tid : Nat)
  /-- R184. The sequencer runs one k-step or stops at a fetch fault. -/
  | kStep (wg : Nat)
  /-- R196. After the issuer exits, the sequencer commits the open batch when its number frees. -/
  | issuerExitCommit (wg : Nat)
  /-- R317. A job's waits end and the copy engine takes it. -/
  | engineJobStart (plaza : Nat)
  /-- R316. The engine runs the next chain entry once earlier writes complete. -/
  | chainEntry (plaza job : Nat)
  /-- R315. A COND entry re-evaluates after a bank write. -/
  | condEvaluate (plaza job : Nat)
  /-- R315. A COND entry's TIMEOUT expires and the job ends TIMEOUT. -/
  | condTimeout (plaza job : Nat)
  /-- R328. The dedupe gather engine fetches a distinct index and writes every position. -/
  | dedupeFetch (plaza job position : Nat)
  /-- R378. An object in the overflow area is brought back before its request. -/
  | syeOverflow (die object : Nat)
  /-- R419. Firmware check, die authentication, training and configuration. -/
  | coldBoot (b : BootInput)
  /-- R411. A host completion for a device RdCurr or WrCur arrives at a hub's host port; a tier-HOST read's data goes back to the waiting thread and a write is acknowledged. -/
  | cxlCacheCompletion (k : Nat)
  /-- R426. A die is fenced, the configuration written and the loss notice sent. -/
  | dieFatalError (die cause : Nat)
  /-- R426. A hub die is fenced and the other hub takes its roles. -/
  | hubFatalError (hub cause : Nat)
  /-- R347. A layer is mapped out, its pages moved and capacity reduced. -/
  | layerMapOut (stack layer : Nat)
  /-- R408. After three failed retrains the link is down and a die is fenced. -/
  | linkDown (link : Nat)
  /-- R410. A link steps its rate on sustained high or low use. -/
  | linkRateStep (link : Nat) (up : Bool)
  /-- R409. On M4 issue stops, links drain and the clock changes module-wide. -/
  | frequencyChange (clock : ClockSet)
  /-- R427. Every 1 ms over temperature or the power cap, the clock is lowered one step. -/
  | thermalStep (die : Nat)
  /-- R427. A die at 105 degrees C takes a fatal error. -/
  | thermalTrip (die : Nat)
  /-- R346. Once per second the controller evaluates layer error counts. -/
  | layerEvaluation (stack : Nat)
  /-- R157. The host writes a job record; it is checked and the job starts or is rejected. -/
  | jobSubmit (hub : Nat) (record : JobRecord)
  /-- R170. HD1's graph scheduler takes over after HD0's fails. -/
  | schedulerTakeover
  /-- R303. Privileged command that invalidates translations at a level. -/
  | inval (c : Command)
  /-- R302. Privileged command that completes a page fault at a home. -/
  | faultdone (c : Command)
  /-- R302. Privileged command that registers an ASID's tables. -/
  | regasid (c : Command)
  /-- R302. Privileged command that registers the hot-page tracker. -/
  | track (c : Command)
  /-- R302. Privileged command that sets a move pool. -/
  | pool (c : Command)
  /-- R302. Privileged command that sets the host fault queue. -/
  | faultq (c : Command)
  /-- R302. Privileged command that pre-empts a job's gangs. -/
  | suspend (c : Command)
  /-- R302. Privileged command that restores a suspended job. -/
  | resume (c : Command)
  /-- R292. Privileged command that writes a die's DLEASE. -/
  | lease (c : Command)
  /-- R302. Privileged command that registers a move ring. -/
  | movering (c : Command)
  /-- R416. Privileged command that registers a peer table with both hubs. -/
  | peertab (c : Command)
  /-- R140. The loader checks an image and creates its buffers and boards. -/
  | imageLoad (asid : Nat) (image : List Nat)
  /-- R141. An unload releases an image's buffers and boards, or is refused. -/
  | imageUnload (asid : Nat) (code : W64)
  /-- R373. A host MemRd or MemWr is performed at its home. -/
  | cxlMemAccess (acc : HostAccess)
  /-- R411. A host snoop is answered RspIHitI. -/
  | cxlSnoop (hub address : Nat)
  /-- R414. A host port goes down and its traffic is forwarded through the other hub. -/
  | portFailure (hub : Nat)
  /-- R414. A failed port trains again and forwarding stops. -/
  | portTrained (port : PortRate)
  /-- R416. A hub checks and rewrites the ASID of an incoming peer message. -/
  | peerMessageIn (hub : Nat) (m : PeerMessage)
  /-- R418. A connection without progress for 1 s fails and settles its messages. -/
  | rodTimeout (port : PeerPort) (peer : Endpoint)
  /-- R422. An SPDM request is answered with signed measurements. -/
  | spdmRequest (block : Nat)
  /-- R424. A PLDM firmware update writes the single image in place. -/
  | firmwareUpdate (image : List Nat)
  /-- R424. ActivateFirmware completes the update for the next boot. -/
  | activateFirmware (signatureGood : Bool)
  /-- R423. A PLDM effecter write sets the power cap. -/
  | powerCapEffecter (c : Pldm)
  /-- R425. Every 10 ms HD1 checks HD0's heartbeat and takes over after three misses. -/
  | heartbeatCheck (beat : Bool)
  /-- R343. After an eighth failed replay of a class L CRC error the HBM4E channel retrains; its traffic is held for up to 1 µs and resumes when the retrain ends. -/
  | hbmChannelRetrain (core : Nat) (succeeds : Bool)
  /-- R108. The core swaps a PARKED-MONITOR thread out of its slot to a general entry of its landing overflow area. -/
  | parkedThreadSwapOut (tid : Nat)
  /-- R405. A receiver checks CRC and SEQ, delivers the cell or NAKs. -/
  | flitReceive (link : LinkEnd) (flit : FlitSeen)
  /-- R405. A NAK makes the transmitter resend from the named SEQ. -/
  | nak (link : LinkEnd)
  /-- R408. A link retrains, holding traffic in its replay buffers. -/
  | linkRetrain (link : Nat) (succeeds : Bool)
  /-- R430. A write from another module is acknowledged across the ROD connection: a message of this module leaves with its answer
  from the peer, a fault code or data. -/
  | peerAcknowledgement (k code : Nat) (data : List Nat)
  deriving DecidableEq, Repr

end Sys2Proof
end

