-- ==== Sys2Proof/Machine/Forms.lean ====
section
/-! DEFINITION. The forms of the opcode map (R62): for each opcode and FUNC the lengths it accepts, what its operand positions
accept (R45, R46), its Result, and the field values it defines. What this file does not accept raises 0x01 at step 4 of R61
(log entry 8: the 0x01 fates of IMM11 and EXT64 fields are taken at the same step). -/

namespace Sys2Proof.Machine

/-- What an operand position accepts (R45). -/
inductive Pos where
  | unread | scalar | vec | pred
  deriving DecidableEq, Repr

/-- The Result entry of the opcode map (R46, R62). -/
inductive Res where
  | unit | q | p | v
  deriving DecidableEq, Repr

/-- A form: lengths, Result, positions as the 64-bit word reads them, and whether IMM32 or EXT64 replaces the
highest-lettered operand in the longer forms (R42). -/
structure Form where
  lens : List Len
  res  : Res
  a    : Pos
  b    : Pos
  c    : Pos
  imm  : Bool
  deriving DecidableEq, Repr

/-- Bits [hi:lo] of FUNC as a number. -/
def fbits (func : BitVec 12) (hi lo : Nat) : Nat := (func.toNat >>> lo) % 2 ^ (hi - lo + 1)

/-- Bits [hi:lo] of IMM11 as a number. -/
def ibits (imm : BitVec 11) (hi lo : Nat) : Nat := (imm.toNat >>> lo) % 2 ^ (hi - lo + 1)

/-- Bits [hi:lo] of EXT64, or of any 64-bit value, as a number. -/
def xbits (x : W64) (hi lo : Nat) : Nat := (x.toNat >>> lo) % 2 ^ (hi - lo + 1)

/-- TYPE codes 0x00-0x07 (R55). -/
def isInt (t : Nat) : Bool := t < 8
/-- TYPE codes 0x08-0x0A. -/
def isFloat (t : Nat) : Bool := 8 ≤ t && t ≤ 10
/-- TYPE codes 0x10-0x17, `.xF0`-`.xF7`. -/
def isNarrow (t : Nat) : Bool := 16 ≤ t && t ≤ 23
def isStd (t : Nat) : Bool := t ≤ 10
def isAssigned (t : Nat) : Bool := isStd t || isNarrow t
/-- The 32- and 64-bit integer types of the atomics (R104). -/
def isAtomInt (t : Nat) : Bool := t == 2 || t == 3 || t == 6 || t == 7
/-- Types of the multiply group (R178). -/
def isMulType (t : Nat) : Bool := t == 0 || t == 1 || t == 4 || t == 5 || isFloat t || isNarrow t
def isTileType (t : Nat) : Bool := t ≤ 2 || t == 4 || t == 5 || isFloat t || isNarrow t

def len64 : List Len := [.l64]
def len96 : List Len := [.l64, .l96]
def lenAll : List Len := [.l64, .l96, .l128]
def len128 : List Len := [.l128]

def formIA (n : Nat) : Form :=
  { lens := lenAll, res := .q, a := .scalar, b := if 2 ≤ n then .scalar else .unread,
    c := if 3 ≤ n then .scalar else .unread, imm := true }

/-- A class-X form of 64 bits with `n` scalar operands. -/
def formX (res : Res) (n : Nat) : Form :=
  { lens := len64, res := res, a := if 1 ≤ n then .scalar else .unread, b := if 2 ≤ n then .scalar else .unread,
    c := if 3 ≤ n then .scalar else .unread, imm := false }

def Form.withLens (f : Form) (l : List Len) : Form := { f with lens := l }

def formV (res : Res) (a b c : Pos) : Form := { lens := len64, res := res, a := a, b := b, c := c, imm := false }

def formF (n : Nat) : Form := (formIA n).withLens len96

def orReject (ok : Bool) (f : Form) : Option Form := if ok then some f else none

/-- ORD and SCOPE of class MA (R58, R90): loads accept ACQ, stores REL; with ORD 00, SCOPE is 000. -/
def ordOk (func : BitVec 12) (ord maxScope : Nat) : Bool :=
  fbits func 11 11 == 0 &&
    ((fbits func 6 5 == 0 && fbits func 9 7 == 0) || (fbits func 6 5 == ord && fbits func 9 7 ≤ maxScope))

def formMA (load : Bool) (stay : Bool) (maxScope : Nat) (tyOk : Nat → Bool) (val : Pos) (func : BitVec 12)
    (res : Res) : Option Form :=
  orReject (ordOk func (if load then 1 else 2) maxScope && (stay || fbits func 10 10 == 0) && tyOk (fbits func 4 0))
    { lens := len96, res := res, a := .scalar, b := val, c := .unread, imm := false }

/-- MODE, SCOPE and length of class AT (R59). -/
def modeOk (func : BitVec 12) (imm : BitVec 11) (len : Len) (post : Bool) : Bool :=
  let m := fbits func 11 9
  let ordered := m == 1 || m == 2 || m == 3 || m == 6
  (m ≤ 3 || (post && (m == 4 || m == 6))) &&
    (if ordered then len == .l96 && ibits imm 10 3 == 0 && ibits imm 2 0 ≤ 5 else len != .l96 || imm == 0)

def formAT (func : BitVec 12) (imm : BitVec 11) (len : Len) (post : Bool) (ok : Bool) (n : Nat) (res : Res) : Option Form :=
  orReject (modeOk func imm len post && ok)
    { formX (if fbits func 11 9 ≥ 4 then .unit else res) n with lens := len96 }

/-- FN fields (R57, R241): OPX 00, and SAT, FZO, FZI, RM as allowed. -/
def fnOk (func : BitVec 12) (sat fzo fzi rm : Bool) : Bool :=
  (sat || fbits func 9 9 == 0) && (fzo || fbits func 8 8 == 0) && (fzi || fbits func 7 7 == 0) && (rm || fbits func 6 5 == 0)

/-- Source type of a conversion (R55). -/
def srcOk (imm : BitVec 11) (ok : Nat → Bool) : Bool := ibits imm 10 5 == 0 && ok (ibits imm 4 0)

def isFx (t : Nat) : Bool := isFloat t || isNarrow t

/-- The multiply group (R178-R181). -/
def mulOk (op : Nat) (func : BitVec 12) (imm : BitVec 11) (ext : W64) : Bool :=
  let ta := fbits func 4 0
  let tb := if fbits func 10 10 == 1 then fbits func 9 5 else ta
  let readsA := op != 0xC9 && op != 0xCC
  let pa := xbits ext 53 44
  let pb := xbits ext 63 54
  let hasB := op != 0xCB && op != 0xCD
  fbits func 11 11 == 0 && (fbits func 10 10 == 1 || fbits func 9 5 == 0) && isMulType ta && isMulType tb &&
    (isInt ta == isInt tb) && ibits imm 10 10 == 0 && (ibits imm 6 6 == 1 || ibits imm 5 3 == 0) &&
    (if readsA then pa != 0 else pa == 0) && (op != 0xC9 || xbits ext 29 16 == 0) &&
    (hasB || (pb == 0 && xbits ext 43 30 == 0)) && (if op == 0xCE then pb == 0 else !hasB || pb != 0) &&
    ((op != 0xCB && op != 0xCE) || xbits ext 15 6 == 0) && (op != 0xCD || xbits ext 5 0 == 0) &&
    (op != 0xCC || ibits imm 7 7 == 0) && (!hasB || !isNarrow tb || ibits imm 7 7 == 1) && (op != 0xCA || !isInt ta)

/-- EXT64 of TLD and TST (R190). -/
def tileExtOk (ext : W64) : Bool := xbits ext 63 53 == 0 && xbits ext 38 23 != 0

/-- SAT, QUANT, RM, FZI and FZO of TST (R189). -/
def tstOk (func : BitVec 12) : Bool :=
  let t := fbits func 4 0
  isTileType t && fbits func 11 11 == 0 && (isNarrow t == (fbits func 10 10 == 1)) &&
    (fbits func 6 5 == 0 || isFloat t) && (fbits func 7 7 == 0 || isFx t) && (fbits func 8 8 == 0 || isFx t) &&
    (fbits func 9 9 == 0 || (t != 2 && t != 8))

/-- TCVT (R189, R191): between equal types the cells are copied, so RM is RNE. -/
def tcvtOk (func : BitVec 12) (imm : BitVec 11) : Bool :=
  let t := fbits func 4 0
  let srcF := fbits func 10 10 == 1
  (t == 2 || t == 8) && fbits func 11 11 == 0 && ibits imm 10 6 == 0 && (fbits func 7 7 == 0 || srcF) &&
    (fbits func 8 8 == 0 || t == 8) && (fbits func 6 5 == 0 || (srcF != (t == 8)))

/-- Register numbers that SYSRD and SYSWR know (R203). -/
def sysRegOk (r : Nat) : Bool := r ≤ 9 || (0x10 ≤ r && r ≤ 0x20)

/-- Opcodes 0x01-0x3D. -/
def formLow (op : Nat) (func : BitVec 12) : Option Form :=
  let iaOk := fbits func 11 5 == 0 && isInt (fbits func 4 0)
  match op with
  | 0x01 | 0x02 | 0x03 | 0x04 | 0x05 | 0x06 | 0x0A | 0x0B => orReject iaOk (formIA 2)
  | 0x07 => orReject iaOk (formIA 3)
  | 0x08 | 0x09 => orReject iaOk (formIA 1)
  | 0x10 | 0x11 | 0x12 | 0x13 | 0x14 | 0x15 | 0x16 | 0x17 => orReject iaOk (formIA 2)
  | 0x18 | 0x19 | 0x1A | 0x1B => orReject iaOk (formIA 1)
  | 0x1C | 0x1E | 0x1F => orReject iaOk (formIA 2)
  | 0x1D => orReject iaOk (formIA 3)
  | 0x20 => orReject (fbits func 11 9 == 0 && fbits func 8 5 ≤ 5 && isInt (fbits func 4 0))
      { formIA 2 with lens := len96, res := .p }
  | 0x21 => orReject iaOk { formIA 3 with a := .pred }
  | 0x22 => orReject iaOk (formIA 1)
  | 0x23 => orReject (fbits func 11 7 == 0 && fbits func 6 5 ≤ 2 && isInt (fbits func 4 0))
      (formIA (if fbits func 6 5 == 0 then 3 else 2))
  | 0x24 => orReject (fbits func 11 8 == 0) (formV .p .pred .pred .pred)
  | 0x28 | 0x29 => orReject (func == 0) { formX .q 2 with lens := len96, imm := true }
  | 0x2A | 0x2B => orReject (func == 0) ((formX .q 1).withLens len96)
  | 0x2C => orReject (fbits func 11 3 == 0) { formX .p 2 with lens := len96, imm := true }
  | 0x30 => orReject (func == 0) ((formX .unit 0).withLens len96)
  | 0x31 => orReject (func == 0) ((formX .unit 1).withLens len96)
  | 0x32 => orReject (func == 0) ((formX .q 0).withLens len96)
  | 0x33 => orReject (func == 0) (formX .q 1)
  | 0x34 => orReject (func == 0) (formX .unit 1)
  | 0x35 => orReject (func == 0) (formX .unit 0)
  | 0x36 => orReject (func == 0) (formX .unit 2)
  | 0x37 => orReject (func == 0) ((formX .q 1).withLens len96)
  | 0x38 => orReject (func == 0) ((formX .unit 0).withLens len96)
  | 0x39 => orReject (func == 0) (formX .unit 0)
  | 0x3C => orReject (fbits func 11 6 == 0 && fbits func 5 0 ≤ 0x11) (formX .q 0)
  | 0x3D => orReject (fbits func 11 1 == 0) (formX .q 1)
  | _ => none

/-- Opcodes 0x40-0x7C. -/
def formMid (op : Nat) (func : BitVec 12) (imm : BitVec 11) (ext : W64) (len : Len) : Option Form :=
  match op with
  | 0x40 => orReject (fbits func 11 2 == 0) (formX .q 3)
  | 0x41 => orReject (fbits func 11 2 == 0 && fbits func 1 0 ≤ 2) (formV .p .pred .scalar .unread)
  | 0x42 => orReject (func == 0) (formV .q .pred .scalar .unread)
  | 0x43 => orReject (fbits func 11 9 ≤ 5 && fbits func 8 7 ≤ 2 && fbits func 6 5 == 0 && isInt (fbits func 4 0)) (formX .q 2)
  | 0x50 => formMA true true 5 isStd .unread func .q
  | 0x51 => formMA false false 5 isStd .scalar func .unit
  | 0x52 => formMA true false 5 isStd .unread func .q
  | 0x53 => formMA true false 2 isStd .unread func .q
  | 0x54 => formMA false false 2 isStd .scalar func .unit
  | 0x55 => orReject (fbits func 11 5 == 0 && isStd (fbits func 4 0)) ((formX .unit 1).withLens len96)
  | 0x56 => orReject (fbits func 11 4 == 0 && fbits func 1 0 ≤ 2 && (fbits func 1 0 == 2 || fbits func 3 2 == 0))
      (formV .unit .scalar (if fbits func 1 0 == 1 then .vec else .scalar) .unread)
  | 0x57 => orReject (fbits func 11 1 == 0) (formX .q 2)
  | 0x58 => orReject (fbits func 11 2 == 0) (formX .q 1)
  | 0x59 => orReject (fbits func 11 2 == 0 && fbits func 1 0 ≤ 2) (formX .unit (if fbits func 1 0 == 2 then 3 else 1))
  | 0x5A => orReject (fbits func 11 10 == 0 && fbits func 6 0 == 0 && fbits func 9 7 ≤ 5) (formX .unit 0)
  | 0x60 => formAT func imm len true (isAtomInt (fbits func 4 0) && (fbits func 7 5 != 7 || fbits func 4 0 ≥ 6)) 2 .q
  | 0x61 => formAT func imm len true (isFloat (fbits func 4 0) && fbits func 7 5 ≤ 2) 2 .q
  | 0x62 => formAT func imm len false (isAtomInt (fbits func 4 0) && fbits func 7 5 == 0) 3 .q
  | 0x63 => formAT func imm len false (isAtomInt (fbits func 4 0) && fbits func 8 5 == 0) 1 .q
  | 0x64 => formAT func imm len false (isAtomInt (fbits func 4 0) && fbits func 8 5 == 0) 2 .p
  | 0x65 => orReject (fbits func 11 9 == 0 && fbits func 3 0 ≤ 5 && isAtomInt (fbits func 8 4)) ((formX .unit 2).withLens len96)
  | 0x66 => orReject (fbits func 11 2 == 0 && fbits func 1 0 ≤ 2) (formX .unit (if fbits func 1 0 == 2 then 2 else 1))
  | 0x67 => orReject (func == 0) (formX .unit 0)
  | 0x68 => orReject (fbits func 11 4 == 0 && (fbits func 0 0 == 1 || fbits func 3 1 == 0))
      (formX .unit (if fbits func 0 0 == 1 then 2 else 1))
  | 0x69 => orReject (func == 0) (formX .unit 0)
  | 0x6A => orReject (func == 0) (formX .q 1)
  | 0x6B => orReject (func == 0) (formX .unit 1)
  | 0x6C => orReject (func == 0) (formX .p 1)
  | 0x70 => orReject (fbits func 11 1 == 0) (formX .unit 1)
  | 0x71 => orReject (fbits func 11 1 == 0)
      { lens := len96, res := .unit, a := if fbits func 0 0 == 1 then .unread else .scalar, b := .scalar, c := .scalar,
        imm := false }
  | 0x72 => orReject (func == 0 && xbits ext 63 12 == 0 && xbits ext 7 5 == 0 && xbits ext 4 0 ≤ 16)
      ((formX .q 3).withLens len128)
  | 0x73 => orReject (func == 0) (formX .q 1)
  | 0x74 => orReject (fbits func 11 2 == 0) (formX .unit (if fbits func 1 0 == 0 then 1 else 0))
  | 0x75 => orReject (fbits func 11 2 == 0) (formX .p 1)
  | 0x78 => orReject (fbits func 11 2 == 0) (formX .q 3)
  | 0x79 | 0x7A => orReject (fbits func 11 2 == 0) (formX .q 1)
  | 0x7B => orReject (fbits func 11 4 == 0) (formX .q 0)
  | 0x7C => orReject (fbits func 11 1 == 0) (formX .unit (if fbits func 0 0 == 1 then 2 else 1))
  | _ => none

/-- Opcodes 0x80-0xB9. -/
def formVec (op : Nat) (func : BitVec 12) (imm : BitVec 11) (ext : W64) : Option Form :=
  let t := fbits func 4 0
  let opx := fbits func 11 10
  let fl := isFloat t
  match op with
  | 0x80 | 0x81 | 0x82 | 0x84 => orReject (opx == 0 && fl && fnOk func false true true true) (formF 2)
  | 0x83 => orReject (opx == 0 && fl && fnOk func false true true true) (formF 3)
  | 0x85 | 0x86 | 0x87 | 0x88 | 0x89 => orReject (opx == 0 && fl && fnOk func false true true true) (formF 1)
  | 0x8A | 0x8B => orReject (opx == 0 && fl && fnOk func false true true false) (formF 2)
  | 0x8C => orReject (opx == 0 && fl && fbits func 8 5 ≤ 7) { formIA 2 with lens := len96, res := .p }
  | 0x8D => orReject (opx == 0 && fl && fnOk func false false true false) (formX .q 1)
  | 0x8E => orReject (opx == 0 && isFx t && srcOk imm isFx) (formX .q 1)
  | 0x8F => orReject (opx == 0 && isFx t && srcOk imm isInt && fnOk func false true false true) (formX .q 1)
  | 0x90 => orReject (opx == 0 && isInt t && srcOk imm isFx && fnOk func true false true true) (formX .q 1)
  | 0xA0 => formMA true true 5 isAssigned .unread func .v
  | 0xA1 => formMA false false 5 (· == 4) .vec func .unit
  | 0xA2 => formMA true false 2 isAssigned .unread func .v
  | 0xA3 => formMA false false 2 (· == 4) .vec func .unit
  | 0xA4 | 0xA5 | 0xA6 | 0xA8 | 0xA9 => orReject (opx == 0 && isStd t && fnOk func false fl fl fl) (formV .v .vec .vec .unread)
  | 0xA7 => orReject (opx == 0 && isStd t && fnOk func false fl fl fl) (formV .v .vec .vec .vec)
  | 0xAA => orReject (opx == 0 && isStd t && fnOk func false fl fl fl) (formV .v .vec .unread .unread)
  | 0xAB => orReject (isStd t && (opx != 3 || fl) && fnOk func false fl fl (fl && opx == 0)) (formV .q .vec .unread .unread)
  | 0xAC => orReject (opx == 0 && isStd t && fnOk func false fl fl fl) (formV .q .vec .vec .scalar)
  | 0xAD => orReject (fbits func 11 5 == 0 && isAssigned t) (formV .v .scalar .unread .unread)
  | 0xAE => orReject (fbits func 11 5 == 0 && isAssigned t) (formV .q .vec .scalar .unread)
  | 0xAF => orReject (fbits func 11 5 == 0 && isAssigned t) (formV .v .vec .scalar .scalar)
  | 0xB0 => orReject (fbits func 11 5 == 0 && isAssigned t) (formV .v .vec .vec .unread)
  | 0xB1 => orReject (opx == 0 && isAssigned t && srcOk imm isAssigned &&
      fnOk func true (isFx t) (isFx (ibits imm 4 0)) (isFx t || isFx (ibits imm 4 0))) (formV .v .vec .scalar .unread)
  | 0xB2 => orReject (opx ≤ 1 && isNarrow t && srcOk imm isFloat && fnOk func true true true false)
      (formV .v .vec .scalar .scalar)
  | 0xB3 => orReject (opx == 0 && fl && srcOk imm isNarrow && fnOk func false true true true) (formV .v .vec .scalar .scalar)
  | 0xB4 => orReject (fbits func 11 5 == 0 && isAssigned t) (formV .v .vec .unread .unread)
  | 0xB5 => orReject (opx == 0 && isStd t && (fbits func 8 5 ≤ 5 || (fl && fbits func 8 5 ≤ 7)) &&
      (fl || fbits func 9 9 == 0)) (formV .v .vec .vec .unread)
  | 0xB6 => orReject (fbits func 11 5 == 0 && isStd t) (formV .v .vec .vec .vec)
  | 0xB8 => orReject (fbits func 11 4 == 0 && (fbits func 3 3 == 0 || ext == 0)) ((formX .unit (fbits func 3 3)).withLens len128)
  | 0xB9 => orReject (fbits func 11 3 == 0) (formX .q 0)
  | _ => none

/-- Opcodes 0xC0-0xF4. `RTE` with another FUNC than 0: R202 gives it FUNC 0 and reads no field, R54 gives an undefined FUNC 0x01; the model raises 0x01 (log
entry 152). -/
def formHigh (op : Nat) (func : BitVec 12) (imm : BitVec 11) (ext : W64) : Option Form :=
  let t := fbits func 4 0
  match op with
  | 0xC0 => orReject (fbits func 11 5 == 0 && (t == 2 || t == 8) && ibits imm 10 3 == 0 && xbits ext 63 14 == 0)
      ((formX .unit 0).withLens len128)
  | 0xC1 => orReject (func == 0 && ibits imm 10 3 == 0) (formX .unit 0)
  | 0xC2 => orReject (fbits func 11 8 == 0 && isTileType t && (fbits func 7 5 == 0 || isFx t) && ibits imm 10 3 == 0 &&
      tileExtOk ext) ((formX .unit 0).withLens len128)
  | 0xC3 => orReject (tstOk func && ibits imm 10 3 == 0 && tileExtOk ext) ((formX .unit 0).withLens len128)
  | 0xC4 => orReject (tcvtOk func imm) (formX .unit 0)
  | 0xC5 => orReject (func == 0 && ibits imm 10 3 == 0) (formX .q 2)
  | 0xC6 => orReject (func == 0 && ibits imm 10 3 == 0) (formX .unit 3)
  | 0xC7 => orReject (fbits func 11 5 == 0 && isMulType t && !isNarrow t && xbits ext 63 37 == 0)
      ((formX .unit 2).withLens len128)
  | 0xC8 | 0xCB | 0xCC | 0xCD | 0xCE => orReject (mulOk op func imm ext) ((formX .unit 0).withLens len128)
  | 0xC9 | 0xCA => orReject (mulOk op func imm ext) ((formX .unit 1).withLens len128)
  | 0xD0 => orReject (func == 0) (formX .q 0)
  | 0xD1 => orReject (func == 0) (formX .p 1)
  | 0xD2 => orReject (fbits func 11 2 == 0) (formX .q 0)
  | 0xD3 | 0xD4 | 0xD5 | 0xD6 => orReject (func == 0) (formX .unit 0)
  | 0xD8 => orReject (func == 0 && xbits ext 63 20 == 0 && xbits ext 15 13 == 0 && xbits ext 7 3 == 0 &&
      xbits ext 19 16 != 0 && xbits ext 12 8 ≤ 20 && xbits ext 2 0 ≤ 4) ((formX .unit 2).withLens len128)
  | 0xD9 => orReject (func == 0) (formX .unit 1)
  | 0xDA => orReject (fbits func 11 2 == 0 && fbits func 1 0 ≤ 1) (formX .unit (fbits func 1 0))
  | 0xDB => orReject (fbits func 11 3 == 0 && fbits func 2 0 ≤ 6) (formX .q 0)
  | 0xE0 => orReject (fbits func 11 1 == 0) (formX .q 1)
  | 0xE1 => orReject (func == 0) (formX .p 1)
  | 0xE2 => orReject (fbits func 11 2 == 0 && fbits func 1 0 ≤ 2) (formX .q 1)
  | 0xE3 => orReject (func == 0) (formX .unit 1)
  | 0xE4 => orReject (fbits func 11 3 == 0) (formX .q (1 - fbits func 2 2))
  | 0xE5 => orReject (func == 0) (formX .unit 1)
  | 0xF0 => orReject (func == 0) (formX .unit 1)
  | 0xF1 => orReject (func == 0) (formX .unit 0)
  | 0xF2 => orReject (fbits func 11 8 == 0 && sysRegOk (fbits func 7 0)) (formX .q 0)
  | 0xF3 => orReject (fbits func 11 8 == 0 && sysRegOk (fbits func 7 0))
      { formX .unit 1 with lens := len96, imm := true }
  | 0xF4 => orReject (func == 0) (formX .unit 1)
  | _ => none

/-- The form of a word, or none where step 4 of R61 raises 0x01 for its OP, LEN, FUNC, IMM11 or EXT64. -/
def form (op : Nat) (func : BitVec 12) (imm : BitVec 11) (ext : W64) (len : Len) : Option Form :=
  let f := if op < 0x40 then formLow op func
    else if op < 0x80 then formMid op func imm ext len
    else if op < 0xC0 then formVec op func imm ext
    else formHigh op func imm ext
  match f with
  | some g => if g.lens.contains len then some g else none
  | none => none

/-- Positions as the word of this length reads them: the operand that IMM32 or EXT64 replaces is not read (R42). -/
def Form.positions (f : Form) (len : Len) : Pos × Pos × Pos :=
  if f.imm && len != .l64 then
    if f.c != .unread then (f.a, f.b, .unread) else if f.b != .unread then (f.a, .unread, .unread) else (.unread, .unread, .unread)
  else (f.a, f.b, f.c)

/-- Whether a position accepts an operand (R45). An unread position holds code 0: the decoder does not read it (R14). -/
def Pos.accepts : Pos → Opnd → Bool
  | .unread, o => o == .q 0
  | .scalar, .v _ => false
  | .scalar, _ => true
  | .vec, .v _ => true
  | .vec, _ => false
  | .pred, .p _ => true
  | .pred, _ => false

/-- Whether a Result accepts a destination (R46). -/
def Res.accepts : Res → Dst → Bool
  | .unit, d => d == .queue
  | .q, .queue => true
  | .q, .n _ => true
  | .q, .w _ => true
  | .q, _ => false
  | .p, .p _ => true
  | .p, _ => false
  | .v, .v _ => true
  | .v, _ => false

/-- EXT64 holds nothing above what the length carries. -/
def extFits (len : Len) (ext : W64) : Bool :=
  match len with
  | .l64 => ext == 0
  | .l96 => ext.toNat < 2 ^ 32
  | .l128 => true

/-- The fields of a well-formed instruction of opcode `op`. -/
def fieldsOk (op : Nat) (f : Fields) : Bool :=
  match form op f.func f.imm11 f.ext f.len with
  | none => false
  | some g =>
    let (pa, pb, pc) := g.positions f.len
    g.res.accepts f.dst && pa.accepts f.a && pb.accepts f.b && pc.accepts f.c && extFits f.len f.ext

end Sys2Proof.Machine
end

