-- ==== Sys2Proof/Machine/Opcodes.lean ====
section
/-! DEFINITION. The assignment of the 256 major opcode slots (R62). A slot that no row names is reserved (R63). -/

namespace Sys2Proof.Machine

/-- The slot and the fields of a Karken instruction; none for a module event or command, which has no word (R62). -/
def opFields : Instr → Option (Nat × Fields)
  | .add f => some (0x01, f)
  | .sub f => some (0x02, f)
  | .mul f => some (0x03, f)
  | .mulh f => some (0x04, f)
  | .div f => some (0x05, f)
  | .rem f => some (0x06, f)
  | .mad f => some (0x07, f)
  | .neg f => some (0x08, f)
  | .abs f => some (0x09, f)
  | .min f => some (0x0A, f)
  | .max f => some (0x0B, f)
  | .and f => some (0x10, f)
  | .or f => some (0x11, f)
  | .xor f => some (0x12, f)
  | .andn f => some (0x13, f)
  | .shl f => some (0x14, f)
  | .shr f => some (0x15, f)
  | .sra f => some (0x16, f)
  | .rol f => some (0x17, f)
  | .clz f => some (0x18, f)
  | .ctz f => some (0x19, f)
  | .popc f => some (0x1A, f)
  | .brev f => some (0x1B, f)
  | .bfx f => some (0x1C, f)
  | .bfi f => some (0x1D, f)
  | .sext f => some (0x1E, f)
  | .zext f => some (0x1F, f)
  | .cmp f => some (0x20, f)
  | .sel f => some (0x21, f)
  | .mov f => some (0x22, f)
  | .lim f => some (0x23, f)
  | .plog f => some (0x24, f)
  | .hmk f => some (0x28, f)
  | .hadd f => some (0x29, f)
  | .hidx f => some (0x2A, f)
  | .hofs f => some (0x2B, f)
  | .hchk f => some (0x2C, f)
  | .bra f => some (0x30, f)
  | .brp f => some (0x31, f)
  | .call f => some (0x32, f)
  | .callx f => some (0x33, f)
  | .ret f => some (0x34, f)
  | .exit f => some (0x35, f)
  | .rjoin f => some (0x36, f)
  | .loop f => some (0x37, f)
  | .nop f => some (0x38, f)
  | .bkpt f => some (0x39, f)
  | .rdsp f => some (0x3C, f)
  | .cntrd f => some (0x3D, f)
  | .shfl f => some (0x40, f)
  | .vote f => some (0x41, f)
  | .ballot f => some (0x42, f)
  | .gscan f => some (0x43, f)
  | .ld f => some (0x50, f)
  | .st f => some (0x51, f)
  | .ldk f => some (0x52, f)
  | .ldl f => some (0x53, f)
  | .stl f => some (0x54, f)
  | .prf f => some (0x55, f)
  | .qpush f => some (0x56, f)
  | .qpop f => some (0x57, f)
  | .qcnt f => some (0x58, f)
  | .bankm f => some (0x59, f)
  | .fence f => some (0x5A, f)
  | .atom f => some (0x60, f)
  | .atomf f => some (0x61, f)
  | .cas f => some (0x62, f)
  | .lres f => some (0x63, f)
  | .scond f => some (0x64, f)
  | .waitc f => some (0x65, f)
  | .sleep f => some (0x66, f)
  | .yield f => some (0x67, f)
  | .bar f => some (0x68, f)
  | .gbar f => some (0x69, f)
  | .pbari f => some (0x6A, f)
  | .pbara f => some (0x6B, f)
  | .pbarw f => some (0x6C, f)
  | .migr f => some (0x70, f)
  | .spawn f => some (0x71, f)
  | .launch f => some (0x72, f)
  | .home f => some (0x73, f)
  | .cancel f => some (0x74, f)
  | .cwait f => some (0x75, f)
  | .nbpost f => some (0x78, f)
  | .nbload f => some (0x79, f)
  | .nbview f => some (0x7A, f)
  | .nbmask f => some (0x7B, f)
  | .nbgen f => some (0x7C, f)
  | .fadd f => some (0x80, f)
  | .fsub f => some (0x81, f)
  | .fmul f => some (0x82, f)
  | .fma f => some (0x83, f)
  | .fdiv f => some (0x84, f)
  | .fsqrt f => some (0x85, f)
  | .frcp f => some (0x86, f)
  | .frsq f => some (0x87, f)
  | .fex2 f => some (0x88, f)
  | .flg2 f => some (0x89, f)
  | .fmin f => some (0x8A, f)
  | .fmax f => some (0x8B, f)
  | .fcmp f => some (0x8C, f)
  | .fcls f => some (0x8D, f)
  | .fcvt f => some (0x8E, f)
  | .icvf f => some (0x8F, f)
  | .fcvi f => some (0x90, f)
  | .vld f => some (0xA0, f)
  | .vst f => some (0xA1, f)
  | .vldl f => some (0xA2, f)
  | .vstl f => some (0xA3, f)
  | .vadd f => some (0xA4, f)
  | .vsub f => some (0xA5, f)
  | .vmul f => some (0xA6, f)
  | .vfma f => some (0xA7, f)
  | .vmin f => some (0xA8, f)
  | .vmax f => some (0xA9, f)
  | .vabs f => some (0xAA, f)
  | .vred f => some (0xAB, f)
  | .vdot f => some (0xAC, f)
  | .vbcs f => some (0xAD, f)
  | .vext f => some (0xAE, f)
  | .vins f => some (0xAF, f)
  | .vprm f => some (0xB0, f)
  | .vcvt f => some (0xB1, f)
  | .vqnt f => some (0xB2, f)
  | .vdqn f => some (0xB3, f)
  | .vtag f => some (0xB4, f)
  | .vcmp f => some (0xB5, f)
  | .vsel f => some (0xB6, f)
  | .fmtw f => some (0xB8, f)
  | .fmtr f => some (0xB9, f)
  | .tdef f => some (0xC0, f)
  | .tzero f => some (0xC1, f)
  | .tld f => some (0xC2, f)
  | .tst f => some (0xC3, f)
  | .tcvt f => some (0xC4, f)
  | .tget f => some (0xC5, f)
  | .tset f => some (0xC6, f)
  | .ufdef f => some (0xC7, f)
  | .mma f => some (0xC8, f)
  | .mmau f => some (0xC9, f)
  | .mmas f => some (0xCA, f)
  | .mtrans f => some (0xCB, f)
  | .mperm f => some (0xCC, f)
  | .mrsum f => some (0xCD, f)
  | .mscale f => some (0xCE, f)
  | .mcommit f => some (0xD0, f)
  | .mwait f => some (0xD1, f)
  | .mstat f => some (0xD2, f)
  | .mclear f => some (0xD3, f)
  | .mresume f => some (0xD4, f)
  | .mpark f => some (0xD5, f)
  | .munpark f => some (0xD6, f)
  | .sccfg f => some (0xD8, f)
  | .sctag f => some (0xD9, f)
  | .scinv f => some (0xDA, f)
  | .scstat f => some (0xDB, f)
  | .cpygo f => some (0xE0, f)
  | .engwait f => some (0xE1, f)
  | .engstat f => some (0xE2, f)
  | .engcan f => some (0xE3, f)
  | .cbrd f => some (0xE4, f)
  | .cbrst f => some (0xE5, f)
  | .trap f => some (0xF0, f)
  | .rte f => some (0xF1, f)
  | .sysrd f => some (0xF2, f)
  | .syswr f => some (0xF3, f)
  | .idle f => some (0xF4, f)
  | .issueGroupSelect _ => none
  | .writeDrainInterlock _ => none
  | .contextArrival _ => none
  | .holdTimeout _ _ => none
  | .overflowEntryFree _ => none
  | .landingSlotRefill _ _ _ => none
  | .landedThreadMove _ _ => none
  | .contextAcceptance _ => none
  | .spawnMessage _ => none
  | .spawnQueuePlace _ _ => none
  | .remoteReadRequest _ => none
  | .storeRequest _ => none
  | .atomicRequest _ => none
  | .queueEntry _ => none
  | .leaseFillRequest _ => none
  | .monitorArm _ => none
  | .hubRequest _ => none
  | .revokeReply _ => none
  | .readData _ => none
  | .atomicResult _ => none
  | .writeAcknowledgement _ => none
  | .leasedWriteComplete _ => none
  | .leaseExpiry _ => none
  | .grant _ => none
  | .credit _ => none
  | .revoke _ => none
  | .invalidation _ => none
  | .invalidationAnswer _ => none
  | .barrierRequest _ => none
  | .barrierRelease _ => none
  | .boardRequest _ => none
  | .boardReply _ => none
  | .wake _ => none
  | .kick _ => none
  | .gangSaveNotice _ => none
  | .savedNotice _ => none
  | .exitNotice _ => none
  | .wbNotice _ => none
  | .dieLossNotice _ => none
  | .engineData _ => none
  | .sectorData _ => none
  | .sectorWriteBackAck _ => none
  | .flitReceive _ _ => none
  | .nak _ => none
  | .linkRetrain _ _ => none
  | .linkDown _ => none
  | .linkRateStep _ _ => none
  | .frequencyChange _ => none
  | .thermalStep _ => none
  | .thermalTrip _ => none
  | .descriptorCacheFill _ => none
  | .pageMapWalk _ _ => none
  | .faultPostRetry _ => none
  | .moveRequestTake _ _ => none
  | .pageCopyDone _ => none
  | .memorySideCacheAccess _ _ => none
  | .rowWindow _ => none
  | .throttledActivation _ _ => none
  | .layerEvaluation _ => none
  | .layerMapOut _ _ => none
  | .jobSubmit _ _ => none
  | .jobCompletion _ => none
  | .phaseStart _ => none
  | .graphStart _ => none
  | .launchCompletion _ _ => none
  | .readyHandOn => none
  | .gangPlacement _ => none
  | .relocation _ => none
  | .gangRetire _ _ => none
  | .launchCancellation _ _ => none
  | .schedulerTakeover => none
  | .gangRestore _ _ => none
  | .joinInstance _ _ => none
  | .barrierPhaseEnd _ _ => none
  | .sleepWake _ => none
  | .kStep _ => none
  | .issuerExitCommit _ => none
  | .engineJobStart _ => none
  | .chainEntry _ _ => none
  | .condEvaluate _ _ => none
  | .condTimeout _ _ => none
  | .dedupeFetch _ _ _ => none
  | .syeOverflow _ _ => none
  | .inval _ => none
  | .faultdone _ => none
  | .regasid _ => none
  | .track _ => none
  | .pool _ => none
  | .faultq _ => none
  | .suspend _ => none
  | .resume _ => none
  | .lease _ => none
  | .movering _ => none
  | .peertab _ => none
  | .imageLoad _ _ => none
  | .imageUnload _ _ => none
  | .cxlMemAccess _ => none
  | .cxlSnoop _ _ => none
  | .portFailure _ => none
  | .portTrained _ => none
  | .peerAcknowledgement _ _ _ => none
  | .peerMessageIn _ _ => none
  | .rodTimeout _ _ => none
  | .coldBoot _ => none
  | .spdmRequest _ => none
  | .firmwareUpdate _ => none
  | .activateFirmware _ => none
  | .powerCapEffecter _ => none
  | .heartbeatCheck _ => none
  | .dieFatalError _ _ => none
  | .hubFatalError _ _ => none
  | .hbmChannelRetrain _ _ => none
  | .cxlCacheCompletion _ => none
  | .parkedThreadSwapOut _ => none

/-- Slots 0x01-0x0F (R62). -/
def opsArith : List (Nat × (Fields → Instr)) :=
  [(0x01, .add), (0x02, .sub), (0x03, .mul), (0x04, .mulh), (0x05, .div), (0x06, .rem), (0x07, .mad),
   (0x08, .neg), (0x09, .abs), (0x0A, .min), (0x0B, .max)]

/-- Slots 0x10-0x1F (R62). `AND` is 0x10; a field line of R276 says 0x12, which is `XOR` here (log entry 149). -/
def opsBits : List (Nat × (Fields → Instr)) :=
  [(0x10, .and), (0x11, .or), (0x12, .xor), (0x13, .andn), (0x14, .shl), (0x15, .shr), (0x16, .sra), (0x17, .rol),
   (0x18, .clz), (0x19, .ctz), (0x1A, .popc), (0x1B, .brev), (0x1C, .bfx), (0x1D, .bfi), (0x1E, .sext),
   (0x1F, .zext)]

/-- Slots 0x20-0x3F (R62). -/
def opsControl : List (Nat × (Fields → Instr)) :=
  [(0x20, .cmp), (0x21, .sel), (0x22, .mov), (0x23, .lim), (0x24, .plog), (0x28, .hmk), (0x29, .hadd),
   (0x2A, .hidx), (0x2B, .hofs), (0x2C, .hchk), (0x30, .bra), (0x31, .brp), (0x32, .call), (0x33, .callx),
   (0x34, .ret), (0x35, .exit), (0x36, .rjoin), (0x37, .loop), (0x38, .nop), (0x39, .bkpt), (0x3C, .rdsp),
   (0x3D, .cntrd)]

/-- Slots 0x40-0x4F (R62). -/
def opsLanes : List (Nat × (Fields → Instr)) :=
  [(0x40, .shfl), (0x41, .vote), (0x42, .ballot), (0x43, .gscan)]

/-- Slots 0x50-0x5F (R62). -/
def opsMemory : List (Nat × (Fields → Instr)) :=
  [(0x50, .ld), (0x51, .st), (0x52, .ldk), (0x53, .ldl), (0x54, .stl), (0x55, .prf), (0x56, .qpush),
   (0x57, .qpop), (0x58, .qcnt), (0x59, .bankm), (0x5A, .fence)]

/-- Slots 0x60-0x6F (R62). -/
def opsAtomic : List (Nat × (Fields → Instr)) :=
  [(0x60, .atom), (0x61, .atomf), (0x62, .cas), (0x63, .lres), (0x64, .scond), (0x65, .waitc), (0x66, .sleep),
   (0x67, .yield), (0x68, .bar), (0x69, .gbar), (0x6A, .pbari), (0x6B, .pbara), (0x6C, .pbarw)]

/-- Slots 0x70-0x77 (R62). -/
def opsTravel : List (Nat × (Fields → Instr)) :=
  [(0x70, .migr), (0x71, .spawn), (0x72, .launch), (0x73, .home), (0x74, .cancel), (0x75, .cwait)]

/-- Slots 0x78-0x7F (R62). -/
def opsBoard : List (Nat × (Fields → Instr)) :=
  [(0x78, .nbpost), (0x79, .nbload), (0x7A, .nbview), (0x7B, .nbmask), (0x7C, .nbgen)]

/-- Slots 0x80-0x9F (R62). -/
def opsFloat : List (Nat × (Fields → Instr)) :=
  [(0x80, .fadd), (0x81, .fsub), (0x82, .fmul), (0x83, .fma), (0x84, .fdiv), (0x85, .fsqrt), (0x86, .frcp),
   (0x87, .frsq), (0x88, .fex2), (0x89, .flg2), (0x8A, .fmin), (0x8B, .fmax), (0x8C, .fcmp), (0x8D, .fcls),
   (0x8E, .fcvt), (0x8F, .icvf), (0x90, .fcvi)]

/-- Slots 0xA0-0xBF (R62). -/
def opsVec : List (Nat × (Fields → Instr)) :=
  [(0xA0, .vld), (0xA1, .vst), (0xA2, .vldl), (0xA3, .vstl), (0xA4, .vadd), (0xA5, .vsub), (0xA6, .vmul),
   (0xA7, .vfma), (0xA8, .vmin), (0xA9, .vmax), (0xAA, .vabs), (0xAB, .vred), (0xAC, .vdot), (0xAD, .vbcs),
   (0xAE, .vext), (0xAF, .vins), (0xB0, .vprm), (0xB1, .vcvt), (0xB2, .vqnt), (0xB3, .vdqn), (0xB4, .vtag),
   (0xB5, .vcmp), (0xB6, .vsel), (0xB8, .fmtw), (0xB9, .fmtr)]

/-- Slots 0xC0-0xCF (R62). -/
def opsTile : List (Nat × (Fields → Instr)) :=
  [(0xC0, .tdef), (0xC1, .tzero), (0xC2, .tld), (0xC3, .tst), (0xC4, .tcvt), (0xC5, .tget), (0xC6, .tset),
   (0xC7, .ufdef), (0xC8, .mma), (0xC9, .mmau), (0xCA, .mmas), (0xCB, .mtrans), (0xCC, .mperm), (0xCD, .mrsum),
   (0xCE, .mscale)]

/-- Slots 0xD0-0xDF (R62). -/
def opsSeq : List (Nat × (Fields → Instr)) :=
  [(0xD0, .mcommit), (0xD1, .mwait), (0xD2, .mstat), (0xD3, .mclear), (0xD4, .mresume), (0xD5, .mpark),
   (0xD6, .munpark), (0xD8, .sccfg), (0xD9, .sctag), (0xDA, .scinv), (0xDB, .scstat)]

/-- Slots 0xE0-0xEF (R62). -/
def opsEngine : List (Nat × (Fields → Instr)) :=
  [(0xE0, .cpygo), (0xE1, .engwait), (0xE2, .engstat), (0xE3, .engcan), (0xE4, .cbrd), (0xE5, .cbrst)]

/-- Slots 0xF0-0xFF (R62). -/
def opsSys : List (Nat × (Fields → Instr)) :=
  [(0xF0, .trap), (0xF1, .rte), (0xF2, .sysrd), (0xF3, .syswr), (0xF4, .idle)]

/-- The slots of the row of sixteen or more that holds `op`. -/
def opsNear (op : Nat) : List (Nat × (Fields → Instr)) :=
  if op < 0x10 then opsArith
  else if op < 0x20 then opsBits
  else if op < 0x40 then opsControl
  else if op < 0x50 then opsLanes
  else if op < 0x60 then opsMemory
  else if op < 0x70 then opsAtomic
  else if op < 0x78 then opsTravel
  else if op < 0x80 then opsBoard
  else if op < 0xA0 then opsFloat
  else if op < 0xC0 then opsVec
  else if op < 0xD0 then opsTile
  else if op < 0xE0 then opsSeq
  else if op < 0xF0 then opsEngine
  else opsSys

/-- The instruction of slot `op` with these fields; none for a reserved slot (R63). -/
def ofOp (op : Nat) (f : Fields) : Option Instr := ((opsNear op).lookup op).map (fun mk => mk f)

/-- The two readings of the map agree. -/
theorem ofOp_opFields (i : Instr) (op : Nat) (f : Fields) (h : opFields i = some (op, f)) : ofOp op f = some i := by
  cases i <;> first | (cases h; done) | (obtain ⟨rfl, rfl⟩ := Prod.mk.inj (Option.some.inj h); rfl)

/-- Every slot is one of 256. -/
theorem opFields_lt (i : Instr) (op : Nat) (f : Fields) (h : opFields i = some (op, f)) : op < 256 := by
  cases i <;> first | (cases h; done) | (obtain ⟨rfl, rfl⟩ := Prod.mk.inj (Option.some.inj h); decide)

end Sys2Proof.Machine
end

