-- ==== Sys2Proof/WellFormed.lean ====
section
/-! DEFINITION. Well-formed instructions: the operands, lengths and field values that the opcode map accepts (R42-R62), and
the ranges of the arguments of the module's events. -/

namespace Sys2Proof

/-- A command is written to the queue of one of the two hubs (R302). -/
def Command.wf (c : Command) : Bool := c.hub < 2

/-- A cold boot reports on the ten dies (R419). -/
def BootInput.wf (b : BootInput) : Bool := b.check.length == 10 && b.auth.length == 10 && b.mcfgs.all (fun x => x.1 < 512)

/-- An instruction that the module can be given. -/
def Instr.wf (i : Instr) : Bool :=
  match Machine.opFields i with
  | some (op, f) => Machine.fieldsOk op f
  | none =>
    match i with
    | .inval c | .faultdone c | .regasid c | .track c | .pool c | .faultq c | .suspend c | .resume c | .lease c
    | .movering c | .peertab c => c.wf
    | .coldBoot b => b.wf
    | .portFailure h | .portTrained ⟨h, _⟩ | .hubFatalError h _ | .rodTimeout ⟨h, _⟩ _ => h < 2
    | _ => true

end Sys2Proof
end

