-- ==== Sys2Proof/Decode.lean ====
section
/-! DEFINITION. Decoding words of 64, 96 and 128 bits (R38-R63), total on any bytes, and the encoder that writes the same
fields. A field that the form does not read is not examined (R14, R42); the encoder writes 0 there. -/

namespace Sys2Proof

/-- Why bytes are not an instruction: 0x02 and 0x01 of R61, or fewer bytes than LEN says. -/
inductive DecodeError where
  | invalidLength
  | illegal
  | short
  deriving DecidableEq, Repr

open Machine

/-! ## Decoding -/

/-- LEN [1:0] (R38). -/
def lenOf (w : Nat) : Option Len :=
  match w % 4 with
  | 0 => some .l64
  | 1 => some .l96
  | 2 => some .l128
  | _ => none

/-- Bytes of an instruction (R38). -/
def lenBytes : Len → Nat
  | .l64 => 8
  | .l96 => 12
  | .l128 => 16

/-- Operand codes (R45); none for the reserved codes 0x50-0x5F. -/
def opndOf (c : Nat) : Option Opnd :=
  if h : c < 16 then some (.q ⟨c, h⟩)
  else if h : c < 48 then some (.n ⟨c - 16, by omega⟩)
  else if h : c < 64 then some (.w ⟨c - 48, by omega⟩)
  else if h : c < 72 then some (.v ⟨c - 64, by omega⟩)
  else if h : c < 80 then some (.p ⟨c - 72, by omega⟩)
  else if c < 96 then none
  else if h : c < 128 then some (.imm ⟨c - 96, by omega⟩)
  else none

/-- Destination codes (R46). -/
def dstOf (c : Nat) : Option Dst :=
  if c = 0 then some .queue
  else if h : c < 33 then some (.n ⟨c - 1, by omega⟩)
  else if h : c < 41 then some (.v ⟨c - 33, by omega⟩)
  else if h : c < 48 then some (.p ⟨c - 41, by omega⟩)
  else if h : c < 64 then some (.w ⟨c - 48, by omega⟩)
  else none

/-- GUARD: [2:0] the predicate, bit 3 the negation (R41). -/
def guardOf (c : Nat) : Guard := ⟨c / 8 % 2 == 1, ⟨c % 8, Nat.mod_lt _ (by decide)⟩⟩

/-- An operand field in a position: not examined where the form does not read it (R14, R45). -/
def readPos (p : Pos) (c : Nat) : Option Opnd :=
  match p with
  | .unread => some (.q 0)
  | p =>
    match opndOf c with
    | some o => if p.accepts o then some o else none
    | none => none

/-- The DST field under a Result (R46). -/
def readDst (r : Res) (c : Nat) : Option Dst :=
  match r with
  | .unit => some .queue
  | r =>
    match dstOf c with
    | some d => if r.accepts d then some d else none
    | none => none

/-- The fields of a word of slot `op` and length `len`, or none where step 4 of R61 raises 0x01 (R41, R42, R61). -/
def decodeFields (op : Nat) (len : Len) (w : Nat) (ext : W64) : Option Fields :=
  let func := BitVec.ofNat 12 (w / 2 ^ 41)
  let imm := BitVec.ofNat 11 (w / 2 ^ 53)
  match form op func imm ext len with
  | none => none
  | some g =>
    match readDst g.res (w / 2 ^ 14 % 64), readPos (g.positions len).1 (w / 2 ^ 20 % 128),
      readPos (g.positions len).2.1 (w / 2 ^ 27 % 128), readPos (g.positions len).2.2 (w / 2 ^ 34 % 128) with
    | some d, some a, some b, some c => some ⟨len, guardOf (w / 2 ^ 10 % 16), d, a, b, c, func, imm, ext⟩
    | _, _, _, _ => none

/-- The instruction of a base word and its extension (R61 steps 2 and 4). -/
def decodeWord (len : Len) (w : Nat) (ext : W64) : Except DecodeError Instr :=
  match decodeFields (w / 4 % 256) len w ext with
  | none => .error .illegal
  | some f =>
    match ofOp (w / 4 % 256) f with
    | none => .error .illegal
    | some i => .ok i

/-- The instruction at the head of a list of bytes and its length in bytes. -/
def decode (bs : List Byte) : Except DecodeError (Instr × Nat) :=
  match lenOf (leNat (bs.take 1)) with
  | none => if bs.isEmpty then .error .short else .error .invalidLength
  | some len =>
    if bs.length < lenBytes len then .error .short
    else
      match decodeWord len (leNat (bs.take 8)) (BitVec.ofNat 64 (leNat ((bs.take (lenBytes len)).drop 8))) with
      | .error e => .error e
      | .ok i => .ok (i, lenBytes len)

/-- The instruction whose first `nbits` bits are `w`, the bits above being 0 (R6: little-endian). -/
def decodeTableWord (nbits w : Nat) : Option Instr :=
  match decode (leBytes 16 (w % 2 ^ nbits)) with
  | .ok (i, _) => some i
  | .error _ => none

/-! ## Encoding -/

def lenCode : Len → Nat
  | .l64 => 0
  | .l96 => 1
  | .l128 => 2

/-- R45. -/
def opndCode : Opnd → Nat
  | .q k => k
  | .n k => 16 + k
  | .w k => 48 + k
  | .v k => 64 + k
  | .p k => 72 + k
  | .imm k => 96 + k

/-- R46. -/
def dstCode : Dst → Nat
  | .queue => 0
  | .n k => 1 + k
  | .v k => 33 + k
  | .p k => 41 + k
  | .w k => 48 + k

/-- R41. -/
def guardCode (g : Guard) : Nat := (if g.neg then 8 else 0) + g.p

/-- The base word of R41. -/
def baseWord (op : Nat) (f : Fields) : Nat :=
  lenCode f.len + 4 * (op + 2 ^ 8 * (guardCode f.guard + 2 ^ 4 * (dstCode f.dst + 2 ^ 6 * (opndCode f.a + 2 ^ 7 *
    (opndCode f.b + 2 ^ 7 * (opndCode f.c + 2 ^ 7 * (f.func.toNat + 2 ^ 12 * f.imm11.toNat)))))))

/-- The bytes of an instruction as they stand in memory (R6, R42); none for an event, which has no word. -/
def encode (i : Instr) : List Byte :=
  match opFields i with
  | none => []
  | some (op, f) => leBytes 8 (baseWord op f) ++ leBytes (lenBytes f.len - 8) f.ext.toNat

end Sys2Proof
end

