-- ==== Sys2Proof/Config.lean ====
section
/-! DEFINITION. What an implementation fixes and the manual leaves open. Every opaque constant here is a free value: no
proof can see what it is (assumption log, entries 6, 7, 15 and 131). -/

namespace Sys2Proof

/-- The SHA-512 digest of a byte string stands for what R419 and R422 compute; the spec does not restate SHA-512, so the
digest is a free function of the bytes. Log entry 6. -/
opaque Config.sha512 : List Nat → BitVec 512

/-- The identity certificate of a die (R420, R422): its bytes are a fact of manufacture. Log entry 6. -/
opaque Config.certificate : Nat → List Nat

/-- The signature the module key gives over a report (R422). Log entry 6. -/
opaque Config.signature : List Nat → BitVec 4096

/-- The DRAM row that a 64-byte unit of a channel lies in; the spec does not lay rows out. Log entry 15. -/
opaque Config.rowOf : Nat → Nat

/-- What an inline immediate reads as under a narrow format (sign, exponent and mantissa bits, bias, policy) that has no code of
that value; the spec states none. Log entry 131. -/
opaque Config.inexactImmediate : List Int → Int → W64

/-- A free 64-bit value, one for each value of the counter it is applied to. Log entry 7. -/
opaque Config.freeValue : Nat → W64

end Sys2Proof
end

