-- ==== Sys2Proof/Machine/State.lean ====
section
/-! DEFINITION. The state of the module: every piece of state the spec names, as plain data. Cores, ports, plazas and dies are
held sparsely: a unit that no entry names holds its reset value. Identities of cores, dies and threads are Nat keys (R5). -/

namespace Sys2Proof.Machine

/-- Bytes by address: addresses strictly rising, no entry holding the byte an unlisted address reads as (0). Log entry 2. -/
abbrev Memory := List Host.Cell

/-! ## Threads -/

/-- A thread's status (R19). -/
inductive Status where
  | ready | waiting | outbound | overflow | parkedFault | parkedMonitor | sleeping | joining | handler | saved | exited
  deriving DecidableEq, Repr

/-- The one place where a thread is (R18). -/
inductive Place where
  | slot (k : Nat)                 -- a thread slot 0-23 of its lane at `core`
  | landing (k : Nat)              -- a landing slot 0-3 of its lane at `core`
  | staged (src since : Nat)       -- held in `core`'s context staging, from core `src`, since that cc (R30)
  | spawnStaged (src since wid parent : Nat)  -- a spawn message held there: its write and the thread that sent it
  | area (reserved : Bool) (entry : Nat)  -- in an entry of the landing overflow area of `core`, a reserved or a general one (R32, R33)
  | saveArea                       -- in its gang's save area (R209)
  | spawnQueue                     -- an entry of a plaza's spawn queue (R112)
  | gone                           -- exited
  deriving DecidableEq, Repr

/-- What kind of location a sent write has: it decides which FENCE waits for it (R96). -/
inductive WriteKind where
  | localMem                       -- the workgroup's allocation
  | home (tier : Nat)              -- a home of tier 0 HBM, 1 CAP, 2 HOST, 3 PEER
  | spawn
  | queue (peer : Bool)
  deriving DecidableEq, Repr

/-- Where a sent write stands (R88, R89). -/
inductive WriteState where
  | sent
  | until (t : W64)                -- acknowledged for a leased line: complete when dtc() reaches t
  | held                           -- in a fault-hold queue at its home
  | failed (code : Nat)
  deriving DecidableEq, Repr

/-- A write that has been sent from the thread's core and is not complete (R88). -/
structure SentWrite where
  id     : Nat
  kind   : WriteKind
  core   : Nat                     -- the core it was sent from (R97)
  target : Nat                     -- home core, bank core or spawn target; of a peer, 1024 · (1 + peer) + the core there
  leased : Bool
  handle : W64
  state  : WriteState
  deriving DecidableEq, Repr

/-- One entry of the store-to-load forwarding table: a local write not yet performed at its bank (R295). -/
structure LocalWrite where
  id    : Nat
  addr  : Nat                      -- plaza byte address
  bytes : List Byte
  deriving DecidableEq, Repr

/-- What is done with the answer a thread waits for. -/
inductive Cont where
  | load (dst : Dst) (ty : BitVec 5) (len : Nat)
  | vload (v : Fin 8) (ty : BitVec 5) (mask : Nat) (len : Nat)
  | atomic (dst : Dst) (ty : BitVec 5) (len : Nat)
  | scond (p : Fin 7) (len : Nat)
  | monitor (len : Nat)
  | kick (dst : Dst) (len : Nat)
  | image (k : Fin 8)              -- a format image; the instruction then executes again (R240)
  | bytes                          -- bytes of a peer; the instruction then executes again
  | view (vm : Fin 4) (dst : Dst) (len : Nat)
  | slot (vm : Fin 4) (dst : Dst) (len : Nat)
  | gen (len : Nat)
  | release (p : Fin 7) (len : Nat)
  deriving DecidableEq, Repr

/-- Which cross-lane or joining instruction a JOINING thread executed (R79-R81). -/
inductive JoinOp where
  | shfl (mode : Nat) | vote (mode : Nat) | ballot | gscan (sop kind : Nat) (ty : BitVec 5) | rjoin
  deriving DecidableEq, Repr

/-- What a thread that does not issue waits for. After every wait but `answer`, `join`, `bar`, `gbar`, `sleep` and `monitor` the
thread executes its instruction again. -/
inductive Wait where
  | none
  | descriptor (asid slot : Nat)               -- R287
  | walk (core : Nat) (key : PageKey) (h : W64) (acc : Nat)   -- R298
  | fault (core : Nat) (key : PageKey)         -- PARKED-FAULT (R35, R301)
  | answer (c : Cont)                          -- a response on VC1 or VC2
  | writes                                     -- R96, R97
  | drain (dest : Nat)                         -- the write-drain interlock (R97)
  | credit (desc : W64)                        -- R99
  | bank (plaza bank : Nat)                    -- BANKM's messages (R100, R101)
  | entry (plaza bank : Nat)                   -- QPOP.W (R102)
  | localWrites                                -- R295
  | sequencer                                  -- R174-R176, R192
  | engine                                     -- R322, R323
  | object                                     -- CWAIT, LAUNCH (R115, R118)
  | spawnQueue (plaza : Nat)                   -- R112
  | monitors (core : Nat)                      -- no monitor free (R108)
  | monitor (core len : Nat)                   -- PARKED-MONITOR
  | savePool                                   -- R209
  | join (op : JoinOp) (dst : Dst)
  | bar (n : Nat) (batch : Option Nat) (pk : Nat)
  | gbar
  | sleep                                      -- SLEEPING by the fields smode, wake, wdie, wjob
  | late                                       -- the bytes of a load that it has run ahead of (R49, R360)
  | yield
  deriving DecidableEq, Repr

/-- A view register VM0-VM3 (R388). -/
structure View where
  board  : BitVec 32
  gen    : BitVec 16
  status : BitVec 2
  level  : BitVec 7
  mask   : W64
  deriving DecidableEq, Repr

/-- A load whose bytes are outstanding while its thread has gone on (R49, R360): what they are for, the handle, the pushes since, and the registers
and pc of the thread at the load, to which a failure goes back. -/
structure Late where
  cont  : Cont
  h     : W64
  depth : Nat
  pc    : W64
  q     : Vector W64 16
  n     : Vector W64 32
  v     : Vector W256 8
  vtag  : Vector (BitVec 6) 8
  p     : Vector Bool 8
  fpflags : BitVec 7
  deriving DecidableEq, Repr

/-- A thread (R18). -/
structure Thread where
  tid      : Nat                   -- the model's own key
  asid     : Nat
  job      : Nat
  launch   : Nat
  gang     : Nat
  wgpos    : Nat
  index    : Nat
  spawned  : Bool
  sser     : Nat
  anchor   : Nat
  core     : Nat
  place    : Place
  status   : Status
  pc       : W64
  q        : Vector W64 16         -- q[k] is Q(k+1)
  n        : Vector W64 32
  v        : Vector W256 8
  vtag     : Vector (BitVec 6) 8
  p        : Vector Bool 8         -- p[0] is P0, true
  vm       : Vector View 4
  fpflags  : BitVec 7
  nbud     : Nat
  vbud     : Nat
  snbud    : Nat                   -- budgets of the threads it spawns (R113)
  svbud    : Nat
  bars     : Nat
  tiles    : Nat
  localLen : Nat
  epc      : W64
  cause    : W64
  faddr    : W64
  trapbase : W64
  kernTrap : W64                   -- the value SY_TRAPBASE takes at creation and on landing (R204)
  hnd      : Bool
  frameQ   : Vector W64 16
  frameP   : BitVec 8              -- bits [7:1]
  since    : Nat                   -- cc of the core at which it last entered READY (R21)
  wait     : Wait
  depA     : W64
  depB     : W64
  depC     : W64
  smode    : Nat                   -- 0 NS, 1 UNTIL, 2 PROMISE, 3 IDLE (R211)
  wake     : W64
  wdie     : Nat
  wjob     : W64
  kick0    : Option W64            -- k0 of IDLE, once recorded (R206)
  wcode    : Nat
  wfail    : W64
  writes   : List SentWrite
  awaited  : List Nat              -- ids of the writes that the present instruction waits for (R89, R96, R97)
  nap      : Nat                   -- the model's number of its last `IDLE` (R206)
  fwd      : List LocalWrite       -- oldest first, at most 16
  stalled  : Bool                  -- this QPUSH has been counted as stalled (R397)
  images   : List (Fin 8 × W64)    -- format images read from the anchor for the present instruction (R240)
  got      : List (W64 × List Byte)   -- bytes that peers have answered to the present instruction
  pendH    : W64                   -- handle of the access whose answer it waits for
  badIndex : Option Nat            -- the buffer index whose table entry was just read and is not valid (R287)
  late     : Option Late           -- the load that it has run ahead of (R360)
  wgsize   : Nat                   -- of a thread of a peer's job: its kernel's WGSIZE, GANGW and issuer (R84)
  gangw    : Nat
  issuer   : Nat
  deriving DecidableEq, Repr

/-! ## Workgroups and the matrix sequencer -/

/-- Shape and tag of a tile register (R171). -/
structure Shape where
  rows : Nat
  cols : Nat
  tag  : BitVec 6
  deriving DecidableEq, Repr

/-- A sequencer instruction with what it captured at issue: operands, format images (R232), code handle. -/
structure SeqInstr where
  word   : W64                     -- its base word, as the sequencer queue of a record holds it (R212)
  op     : BitVec 8
  func   : BitVec 12
  imm11  : BitVec 11
  ext    : W64
  a      : W64
  b      : W64
  c      : W64
  imgs   : Vector W64 8
  pc     : W64
  batch  : Option Nat              -- none: the open batch
  pos    : Nat                     -- position in its batch
  serial : Nat                     -- plaza issue order (R317)
  parts  : Nat                     -- 1, or the number of parts of a gang split (R185)
  partsDone : Nat
  deriving DecidableEq, Repr

/-- What a running `MMAS` keeps of its probe (R269, R273). -/
structure Probe where
  probed : Bool
  hits   : Nat                     -- bit b: output tile b hit
  fp     : W64                     -- fingerprint taken at the probe
  acopy  : List (List Byte)        -- the A rows of each tile as the probe read them
  got    : List (W64 × List Byte)  -- bytes of the cache that a peer has answered
  writes : List (List (List (W64 × List Byte)))   -- entries still to be written: of each, its remaining phases, and their pieces (R271)
  deriving DecidableEq, Repr

/-- One part p >= 1 of a gang-split multiply, run by the sequencer of WGPOS p (R185). -/
structure SeqPart where
  instr : SeqInstr
  step  : Nat
  begun : Bool
  stop  : Nat                      -- cause of its stop, 0: not stopped
  probe : Probe
  fault : Option (Nat × PageKey)   -- as of the workgroup's own steps
  deriving DecidableEq, Repr

/-- Batch state (R174): 0 NONE, 1 RUN, 2 DONE, 3 STOP, 4 CLEAR. -/
structure Sequencer where
  queue   : List SeqInstr          -- unfinished instructions in issue order
  parts   : List SeqPart
  step    : Nat                    -- step of the head instruction
  begun   : Bool                   -- the head instruction has set its D
  held    : Bool                   -- its own steps are stopped; a stop of a part alone lets them run on
  ownDone : Bool                   -- it has finished its own steps and waits for its parts
  probe   : Probe
  openLen : Nat                    -- instructions that have entered the open batch
  batches : Vector Nat 4
  last    : Nat
  lvalid  : Bool
  cause   : Nat                    -- 0: not stopped
  sbatch  : Nat
  sstep   : Nat
  sidx    : Nat
  spos    : Nat
  spc     : W64
  mflags  : BitVec 8
  unfold  : Option (BitVec 5 × W64 × W64 × W64)   -- type, a, b, EXT64 of the last UFDEF run
  issueUf : Option (BitVec 5 × W64 × W64 × W64)   -- as the issue view sees it
  view    : Vector Shape 8         -- issue view (R173)
  shape   : Vector Shape 8         -- as the registers stand
  pendingCommit : Bool             -- the issuer has exited and the open batch waits for its number (R196)
  fault   : Option (Nat × PageKey) -- the page that its step waits for until the host completes the fault (R272, R301)
  deriving DecidableEq, Repr

/-- Step-cache state of a workgroup (R268, R273). -/
structure StepCache where
  sch    : W64
  cfg    : BitVec 20
  tau    : BitVec 32
  stag   : BitVec 32
  hit    : BitVec 32
  mthr   : BitVec 32
  mtag   : BitVec 32
  mwgt   : BitVec 32
  mabs   : BitVec 32
  byp    : BitVec 32
  deriving DecidableEq, Repr

/-- A workgroup barrier (R382). -/
structure Barrier where
  phase   : BitVec 16
  arrived : Nat
  bmask   : BitVec 4
  deriving DecidableEq, Repr

/-- A workgroup (R148, R149). -/
structure Workgroup where
  wid      : Nat                   -- the model's own key
  asid     : Nat
  job      : Nat
  launch   : Nat
  gang     : Nat
  wgpos    : Nat
  anchor   : Nat
  wgsize   : Nat
  gangw    : Nat
  issuer   : Nat
  kdesc    : W64
  entry    : W64
  nbud     : Nat
  vbud     : Nat
  snbud    : Nat
  svbud    : Nat
  bars     : Nat
  tiles    : Nat
  localLen : Nat
  lbase    : Nat                   -- plaza byte address of its allocation
  tbase    : Nat                   -- byte address of its tile slices in the anchor's tile memory
  trapbase : W64
  w        : Vector W64 16
  wPend    : List (Fin 16 × W64)   -- W writes of this cc (R48)
  f        : Vector W64 8
  fPend    : List (Fin 8 × W64)
  cb       : Vector W256 4
  bar      : Vector Barrier 16
  gbarArr  : Nat
  gbarPhase : BitVec 16
  kick     : W64
  seq      : Sequencer
  park     : Option Sequencer
  parkTiles : Memory               -- tile image that MPARK wrote
  sc       : StepCache
  nextJob  : BitVec 8
  outcomes : Vector (BitVec 2) 256
  exited   : List Nat              -- indices of its threads that have exited
  deriving DecidableEq, Repr

/-- Mode of a bank (R100). -/
inductive BankMode where
  | scratch
  | cache
  | fifo (size count head tail fill : Nat) (producer : Option W64)
  deriving DecidableEq, Repr

/-- A region of a scheduled item: local bytes of the plaza or bytes of a buffer (R317). -/
structure Region where
  isLocal : Bool
  buf   : Nat
  lo    : Nat
  hi    : Nat
  write : Bool
  deriving DecidableEq, Repr

/-- A sequencer instruction as an item of the plaza task scheduler (R317). -/
structure SeqItem where
  serial  : Nat
  wid     : Nat
  regions : List Region
  deriving DecidableEq, Repr

/-- A gang from its hand-on to its retirement (R148-R155, R209-R213). -/
inductive GangState where
  | queued | running | saving | saved | restoring | retired    -- restoring: handed to its distributor again
  deriving DecidableEq, Repr

/-- The images of one workgroup in a gang save area (R212). -/
structure GangImage where
  wgpos  : Nat
  bytes  : Memory                  -- local image, by allocation offset
  stamps : List (Nat × Nat)        -- stamp image, by unit of the allocation
  tiles  : Memory                  -- tile images, by offset from T0
  banks  : List (Nat × BankMode × List Byte)  -- banks of the allocation not in scratch mode, in order, with the bytes of a FIFO (R289)
  items  : List SeqItem            -- queued sequencer instructions as they stood in the plaza order
  doomed : List Nat
  soft   : List Nat                -- words in error, by offset / 4
  softTile : List Nat
  deriving DecidableEq, Repr

structure Gang where
  asid    : Nat
  job     : Nat
  launch  : Nat
  gang    : Nat
  tcb     : Nat
  die     : Nat
  run     : Nat                    -- identity of the core of WGPOS 0
  width   : Nat
  prio    : Nat
  state   : GangState
  order   : Nat                    -- placement order
  saveArea : Bool                  -- a save area is held
  base    : Nat                    -- where it starts in its die's save pool (R209)
  reason  : Nat                    -- 0 relocation, 1 suspend
  live    : Nat
  savedN  : Nat
  target  : Option Nat             -- relocation target
  barred  : Option (Nat × Nat)     -- the gang N for which its relocation was abandoned (R154)
  helped  : Bool                   -- a gang has been relocated for it (R153)
  images  : List GangImage
  deriving DecidableEq, Repr

/-! ## Cores and memory ports -/

/-- A buffer table entry as read (R284). -/
structure BufEntry where
  gen     : Nat
  owner   : Nat
  length  : Nat
  count   : Nat
  first   : Nat
  gran    : Nat
  imode   : Nat
  pinned  : Bool
  replica : Bool
  leased  : Bool
  tier    : Nat
  at_     : Bool
  wr      : Bool
  rd      : Bool
  peer    : Nat
  mirror  : W64
  deriving DecidableEq, Repr

/-- A page-map entry as read (R297). -/
structure Pme where
  frame : Nat
  tier  : Nat
  pin   : Bool
  wb    : Bool
  at_   : Bool
  wr    : Bool
  rd    : Bool
  core  : Nat                      -- core whose channel holds the page after a move of a tier-HOST page (R305)
  deriving DecidableEq, Repr

/-- A credit table entry (R396). -/
structure CreditEntry where
  place   : Nat                    -- its place in the table, 0-31
  desc    : W64
  size    : Nat                    -- bytes of an entry
  count   : Nat
  credits : Nat
  stalls  : BitVec 32
  pushed  : BitVec 32
  deriving DecidableEq, Repr

/-- A line of the read cache (R291). -/
structure CacheLine where
  asid   : Nat
  buf    : Nat
  line   : Nat                     -- offset of the line, a multiple of 512
  stop   : W64                     -- lease end
  bank   : Nat                     -- way
  order  : Nat
  bytes  : List Byte               -- 512, or the sectors that lie in the buffer
  deriving DecidableEq, Repr

/-- A line fill on its way (R290, R291): the model's number of it, its line, and the way that it takes. -/
structure Fill where
  id   : Nat
  asid : Nat
  buf  : Nat
  line : Nat
  way  : Nat
  deriving DecidableEq, Repr

structure CoreSt where
  id       : Nat
  lastBin  : BitVec 8
  ccnt     : W64
  ctr      : Vector W64 9          -- R85
  credits  : List CreditEntry
  desc     : List (Nat × Nat × BufEntry)    -- (ASID, buffer index), newest first, at most 256
  lines    : List CacheLine
  fills    : List Fill             -- line fills on their way
  placedSpawns : BitVec 19
  leaving  : List (Nat × Nat)      -- thread slots held for threads whose acceptance is on its way (R29): thread, place code
  stopped  : Bool                  -- issue stopped for a module-wide frequency step (R22, R409)
  deriving DecidableEq, Repr

/-- The kinds of request a port performs: read, write, atomic, monitor. -/
inductive ReqKind where
  | read | write | atomic
  deriving DecidableEq, Repr

/-- The atomic operations of class AT (R104). -/
inductive AtomOp where
  | atom (op : Nat) | atomf (op : Nat) | cas | lres | scond
  deriving DecidableEq, Repr

/-- Who asked: a thread, a sequencer, an engine job, the host or a peer. -/
inductive Requester where
  | thread (tid : Nat)
  | sequencer (wid serial : Nat)   -- for an instruction, by its plaza order
  | engine (plaza job : Nat)
  | row (plaza job pos : Nat)      -- an engine job, for the row of one position of a SCATTER (R313)
  | peer (peer tag : Nat)          -- a thread of a peer, by the number that its request carries
  | sector (core index : Nat)      -- an index of a memory-side cache, for the sector that a miss brings (R340)
  | cache                          -- a prefetch of the requesting core (R94), or a word of a vector store but its last (R250)
  | hub (hub : Nat)                -- an engine or scheduler of a hub
  | host                           -- a CXL.mem access, by its MPA (R411)
  deriving DecidableEq, Repr

/-- A request that its home port has translated, and that its memory holds back or performs at another unit (R280, R340, R350): the home
port, the requesting core, the unit that performs it, and what `translate` gave. -/
structure Translated where
  port : Nat
  src  : Nat
  unit : Nat
  e    : BufEntry
  key  : PageKey
  p    : Pme
  lam  : Nat
  lent : Option W64                -- the lease that a line fill was granted as it went on to another unit (R293)
  deriving DecidableEq, Repr

/-- A request to a home memory port. -/
structure Request where
  who    : Requester
  asid   : Nat
  handle : W64
  size   : Nat
  kind   : ReqKind
  data   : List Byte               -- of a store
  op     : AtomOp                  -- of an atomic
  ty     : BitVec 5
  b      : W64
  c      : W64
  post   : Bool
  wid    : Nat                     -- id of the sent write, for the acknowledgement
  cond   : BitVec 4                -- of a monitor arm
  monitor : Bool
  lease  : Bool                    -- a fill request (R293)
  trans  : Option Translated       -- none: not translated yet
  deriving DecidableEq, Repr

/-- An armed monitor (R108). -/
structure Monitor where
  tid   : Nat
  core  : Nat                      -- where the waiting thread is
  cell  : Nat                      -- address of the location in main memory
  key   : PageKey
  ty    : BitVec 5
  cond  : BitVec 4
  value : W64
  deriving DecidableEq, Repr

structure PortSt where
  id       : Nat                   -- core identity, 0x200 or 0x240 for a hub
  mtlb     : List (PageKey × Pme)  -- least recently used first
  desc     : List (Nat × Nat × BufEntry)
  resv     : List (Nat × Nat)      -- (thread, 64-byte unit address), oldest first
  monitors : List Monitor
  leases   : List (Nat × Nat × Nat × W64)   -- (ASID, buffer index, line offset, end)
  walking  : List (PageKey × Nat × Request) -- requests that wait for a page-map walk: page, sender core, request
  ackHold  : List (W64 × Nat × Request)     -- acknowledgements held until the leases on a line expire (R88): time, core, write
  holdQ    : List (PageKey × Nat × Request) -- fault-hold queue: page, sender core, request
  readHold : List (PageKey × Nat × Request) -- reads whose page is absent
  records  : List PageKey          -- outstanding fault records
  unposted : List (PageKey × List Byte × W64)  -- records not yet posted, the fault queue being full: page, bytes, the DTC of the next try
  wbQ      : List (PageKey × Nat × Request) -- write-hold queue
  rpth     : BitVec 16
  rpen     : Bool
  carve    : BitVec 2
  msc      : List (Nat × BitVec 16 × BitVec 16)   -- metadata by index: the spare bits of units 0 and 1 (R339)
  mscWait  : List (Nat × Nat × Request)     -- requests waiting for a sector: index, sender, request
  mscBusy  : List (Nat × Nat × Nat)         -- index, sector wanted, phase (0 write-back, 1 fill)
  poisonIdx : List Nat
  poison   : List Nat              -- poisoned 64-byte units (address div 64)
  ctrs     : Vector W64 7          -- MHIT MMISS MWB LREP ACE AUE THR (R345)
  cel      : Vector (BitVec 32) 16
  uel      : Vector (BitVec 32) 16
  rows     : List (Nat × Nat)      -- activations of each row in this window
  throttled : List Nat
  rowHold  : List (Nat × Nat × Request)     -- row, sender, request
  rowNext  : List (Nat × W64)      -- row and the DTC from which it may be activated again
  rowPass  : List (Nat × Requester) -- accesses made in place that an activation of their row lets through
  resFrames : List (Nat × Nat)     -- reserved frames that a map-out has moved: as they lay at boot, and now (R347)
  pools    : List (Nat × List Nat) -- move pools by ASID: free frames
  deriving DecidableEq, Repr

/-! ## Plazas: local memory, queues, engine -/

/-- Where a BANKM that has sent a message stands (R100, R101). -/
inductive BankStage where
  | revoking (next : BankMode)     -- waits for the revoke reply
  | arrivedLate                    -- an entry arrived meanwhile: raises 0x0F
  | granting (old next : BankMode) -- waits for the grant's acknowledgement
  | refused
  | done
  | releasing                      -- its workgroup leaves the plaza: waits for the revoke reply (R289)
  | released                       -- the reply has come: no entry is on its way
  deriving DecidableEq, Repr

/-- An engine job; its state is coded as in R324: 1 QUEUED, 2 RUNNING, 3 HELD, 4 DONE, 5 FAULTED, 6 TIMEOUT, 7 CANCELLED. -/
structure EngJob where
  key      : Nat                   -- the model's own key
  wid      : Nat
  id       : BitVec 8
  asid     : Nat
  isLocal  : Bool
  chain    : W64
  first    : Nat                   -- index of the first entry after the job card
  regions  : List Region
  prio     : Nat
  scope    : Nat
  fstop    : Bool
  cb       : Option (Fin 4)
  restartable : Bool
  keep     : Bool
  state    : Nat
  entry    : Nat
  cause    : Nat
  serial   : Nat                   -- plaza issue order
  loops    : List (Nat × Nat × Nat × W64) -- of each LOOP in progress: its index, BACK, c, its word 0x08
  started  : Bool                  -- the present entry has begun
  after    : Nat                   -- the entry that follows it
  words    : List W64              -- its words, with the loop deltas added
  idxs     : List Nat              -- index values of a GATHER or SCATTER
  served   : List Nat              -- its positions that are served, or need not be
  landed   : List Nat              -- positions whose rows have come in and are not complete yet (R88, R313)
  failed   : List Nat              -- positions of which a part was not written (R329)
  watch    : Option (Nat × Nat × Nat × Nat)  -- of a COND: plaza byte address, bytes, condition, value
  met      : Bool                  -- the condition has held
  deadline : W64                   -- of a COND, as a DTC time
  stopping : Nat                   -- 0, a fault code, or 256: ends once nothing is in flight
  heldKey  : Option (Nat × PageKey)
  resume   : Bool                  -- CBRST: serve only clear bits
  got      : List (W64 × List Byte)    -- what peers have answered to its reads
  scan     : List (Nat × Nat)      -- the chain's entries, as `CPYGO` found them: index and word 0x00 (R321)
  moved    : Nat                   -- bytes that the present entry has moved, or need not move
  deriving DecidableEq, Repr

structure PlazaSt where
  id       : Nat                   -- 8·die + plaza
  wctr     : Nat                   -- write counter, 64 bits (R218)
  stamps   : List (Nat × Nat)      -- stamp of each written 512-byte unit
  banks    : List (Nat × BankMode) -- banks not in scratch mode
  stages   : List (Nat × Nat × BankStage)   -- by bank: the thread whose BANKM it is, 0 none, and where it stands
  spawnQ   : List Thread           -- in queue order
  jobs     : List EngJob
  items    : List SeqItem
  doomed   : List Nat              -- serials of sequencer instructions that stop at step 0 with 0x12 (R318)
  nextSerial : Nat
  soft     : List Nat              -- aligned words of local memory in error (class S)
  softTile : List (Nat × Nat)      -- (core, word) of tile memory in error
  softCount : Nat
  deriving DecidableEq, Repr

/-! ## Dies -/

/-- A module barrier (R384, R385). -/
structure ModBarrier where
  index    : Nat
  asid     : Nat
  job      : Nat
  parties  : Nat
  arrivals : Nat
  phase    : Nat
  broken   : Bool
  last     : Option Bool           -- none: never released; some true: WHOLE
  records  : List (List Nat)       -- thread identities with a record in this phase
  waiters  : List (Nat × Nat)      -- (thread, core)
  deriving DecidableEq, Repr

/-- A notice board (R387). -/
structure Board where
  index : Nat
  asid  : Nat
  image : W64
  n     : Nat
  slots : List W64
  mask  : W64
  gen   : BitVec 16
  level : Nat
  deriving DecidableEq, Repr

structure DieSt where
  id        : Nat
  dlease    : BitVec 16
  ctr       : Vector W64 10        -- R85
  linkErr   : Nat
  queue     : List (Nat × Nat)     -- distributor's placement queue: (launch, gang)
  barriers  : List ModBarrier
  boards    : List Board
  syeFull   : List Nat             -- objects written out to the overflow area (R378)
  syeUse    : List Nat             -- objects of its SYE, least recently used first
  saveUsed  : Nat                  -- bytes of the save pool in use
  throttle  : List (Nat × W64)     -- by ASID (R351)
  window    : Nat                  -- number of the row-activation window that the counts are of (R349)
  clock     : Nat                  -- core clock in steps of 0.275 GHz: 6 to 12
  temp      : Nat                  -- junction temperature in 0.1 °C
  power     : Nat                  -- in W
  lossSeen  : List Nat             -- dies whose loss notice it has processed
  deriving DecidableEq, Repr

/-! ## Hubs, graph scheduler, management -/

/-- A tracker registration (R277, TRACK). -/
structure Tracker where
  asid      : Nat
  queue     : W64
  threshold : Nat
  entries   : Nat
  counts    : List (Nat × Nat × Nat)  -- (buffer index, page, count)
  quiet     : List (Nat × Nat)        -- pinned pages already posted
  pins      : List (Nat × Nat)        -- pages that it has counted while PIN was set (R306)
  deriving DecidableEq, Repr

/-- A notice of a tracker on its way to its queue (R277, R278): the registration's queue and length, the page and whether it is pinned, and the number of the
entry once it has been written. -/
structure Notice where
  asid    : Nat
  queue   : W64
  entries : Nat
  buf     : Nat
  page    : Nat
  pin     : Bool
  written : Option Nat
  deriving DecidableEq, Repr

/-- The move a tier migration engine is performing (R279, R304). -/
structure Move where
  asid  : Nat
  ring  : W64
  index : Nat
  port  : Nat
  key   : PageKey
  pmeAt : Nat                      -- MPA of the PME
  old   : Pme
  new   : Pme
  stage : Nat                      -- 0 WB notice sent, 1 copying, 2 acknowledged: STATE is to be written, 3 drained: STATE and DONE are, 4 switched: the held
                                   -- writes drain
  mapOut : Bool                    -- a move of a layer map-out, with no ring (R347)
  handle : W64
  deriving DecidableEq, Repr

/-- A request of a move ring as the engine has read it: its ring, its number and its words (R279). -/
structure MoveRequest where
  asid  : Nat
  ring  : W64
  index : Nat
  h     : W64
  w1    : Nat
  w2    : Nat
  deriving DecidableEq, Repr

/-- An INVAL whose answers are outstanding (R303). -/
structure PendingInval where
  tag   : W64
  asid  : Nat
  left  : Nat
  bases : Option (Nat × Nat)       -- of the REGASID that implies it, which takes effect when it is complete
  deriving DecidableEq, Repr

structure HubSt where
  id        : Nat                  -- 0 or 1
  faultBase : Nat
  faultLen  : Nat
  trackers  : List Tracker
  rings     : List (Nat × W64)
  armed     : List Nat             -- ASIDs of the rings whose TAIL a monitor of the engine watches (R279)
  notices   : List Notice          -- oldest first
  move      : Option Move
  request   : Option MoveRequest   -- a request that it has taken and holds, because its page is not present
  moveHold  : Option (Nat × PageKey)   -- the page, at its port, that an access of the tier migration engine waits for (R279)
  capPools  : List (Nat × List Nat)
  dcores    : List (PageKey × Nat)     -- DCORE of each moved tier-HOST page that this port serves (R305)
  peers     : List (Nat × Nat × Nat)   -- ASID, MPA of the peer table, entries
  inval     : Option PendingInval
  up        : Bool
  fwd       : Bool
  carry     : Bool
  rate      : Nat
  retrains  : Nat
  deriving DecidableEq, Repr

/-- A kernel descriptor as loaded (R133, R134). -/
structure KDesc where
  off      : Nat                   -- offset of the descriptor in the code buffer
  entry    : Nat
  wgsize   : Nat
  gangw    : Nat
  issuer   : Nat
  nbud     : Nat
  vbud     : Nat
  snbud    : Nat
  svbud    : Nat
  bars     : Nat
  tiles    : Nat
  localLen : Nat
  trap     : Option Nat
  finit    : List W64
  prints   : List (Bool × Nat × Int × Nat × Int)  -- templates: write, WREG, OFFSET, BYTES, STRIDE
  deriving DecidableEq, Repr

/-- A phase table as loaded (R135): size word handle and (LIMIT, offset of the graph image) pairs. -/
structure Phase where
  sizew   : W64
  classes : List (Nat × Nat)
  deriving DecidableEq, Repr

structure Image where
  asid    : Nat
  code    : W64                    -- handle of the code buffer
  rodata  : Option W64
  chain   : Option W64
  kdescs  : List KDesc
  phases  : List Phase
  sched   : List Byte              -- the .sched section, relocated
  boards  : List (Nat × Nat)       -- (die, index)
  deriving DecidableEq, Repr

/-- STATE of a TCB (R160): 0 PENDING, 1 READY, 2 RUNNING, 3 DONE, 4 CANCELLED, 5 ERROR. -/
structure Tcb where
  index   : Nat
  kdesc   : W64
  args    : W64
  gangs   : Nat
  prio    : Nat
  wcnt    : Nat
  diemask : Nat
  state   : Nat
  err     : Nat
  counter : Nat
  rdy     : W64
  launch  : Nat
  gleft   : Nat
  spawned : Nat                    -- spawned threads not exited
  handed  : Nat                    -- gangs handed on
  child   : Bool
  built   : Bool                   -- false: a child whose request has not reached the hub
  parent  : Nat
  pred    : List Nat
  words   : List W64               -- W values read from the argument block
  regions : List (Nat × Nat × Nat × Bool)   -- buffer, lo, hi, write
  complete : Bool
  cancel  : Bool                   -- cancellation has been started
  early   : Bool                   -- ready before a scheduler takeover (R170)
  deriving DecidableEq, Repr

/-- State of a job: 0 submitted, 1 phase starting, 2 graph starting, 3 running, 4 complete. -/
structure Job where
  num     : Nat
  asid    : Nat
  hub     : Nat
  image   : W64
  notify  : W64
  cpol    : Nat
  phase0  : Nat
  nphase  : Nat
  phase   : Nat                    -- phases completed
  stage   : Nat
  graph   : Nat                    -- offset of the present graph image
  tcbs    : List Tcb
  phases  : List Nat               -- outcome of each completed phase: 0 complete, 1 cancelled, 2 error
  outcome : Nat
  cause   : Nat
  canc    : Nat
  cancelGraph : Bool
  cancelJob   : Bool
  suspended   : Bool
  doneOrder   : Nat                -- order of completion
  deriving DecidableEq, Repr

structure Scheduler where
  active   : Nat                   -- hub whose scheduler is active
  images   : List Image
  jobs     : List Job
  gangs    : List Gang
  nextJob  : Nat
  nextLaunch : Nat
  lastDie  : Nat
  order    : Nat
  asids    : List (Nat × Nat × Nat)   -- registered ASIDs: MPA of buffer table and of level-1 page map (REGASID)
  suspends : List (Nat × Nat × W64)   -- SUSPEND commands not complete: hub, job, TAG
  resumes  : List (Nat × Nat × W64)   -- RESUME commands not complete
  present  : List (Nat × List Nat)    -- jobs that were present on each fenced die as it was fenced (R354)
  got      : List (Nat × W64 × Nat × List Byte)   -- answers of peers to the scheduler's accesses: job, handle, code, bytes (R158, R161)
  handed   : Option W64               -- hub DTC of the last hand-on, which ends the scheduler's work of that DTC value (R144)
  deriving DecidableEq, Repr

/-- One direction of a link (R405). -/
structure LinkDir where
  txSeq   : BitVec 16              -- of the next flit that is sent
  rxSeq   : BitVec 16              -- that the receiver expects
  replay  : List (BitVec 16 × W64) -- unacknowledged flits, at most 256: SEQ, cell header
  nak     : Bool                   -- the receiver has answered the first of them with a NAK, and discards what follows it
  naks    : Nat                    -- NAKs for the present SEQ
  deriving DecidableEq, Repr

/-- A link (R405-R410). -/
structure Link where
  id      : Nat
  endA    : Nat                    -- die numbers, 8 and 9 the hubs
  endB    : Nat
  up      : Bool
  rate    : Nat                    -- GT/s
  ab      : LinkDir                -- from end A to end B
  ba      : LinkDir
  failed  : Nat                    -- failed retrains in a row
  training : Bool
  deriving DecidableEq, Repr

/-- A RAS event record (R426). -/
structure RasEvent where
  code   : BitVec 16
  die    : Nat
  detail : W64
  deriving DecidableEq, Repr

structure Mgmt where
  imageValid : Bool
  flash      : List Nat
  updating   : Bool
  activeCtl  : Nat                 -- hub whose controller is active
  misses     : Nat
  cap        : Nat                 -- power cap in W
  power      : Nat                 -- module power in W
  events     : List RasEvent       -- oldest first
  stackRegs  : List (Nat × BitVec 32 × BitVec 16)       -- stacks whose register differs from reset: CAPMIB, LMASK
  reports    : List (List W64)     -- map-out report entries
  mapOut     : Option (Nat × Nat × Bool)  -- the stack and the layer that is being mapped out, and whether its pages move by now (R347)
  coolant    : Nat                 -- coolant inlet temperature in 0.1 °C (R423)
  clockTo    : Option Nat          -- the clock that a module-wide frequency step on M4 goes to (R409)
  deriving DecidableEq, Repr

/-- The module configuration (R421) and the interleave list (R286). -/
structure Conf where
  booted : Bool
  m8     : Bool
  admitted  : BitVec 8
  fenced : BitVec 8
  hubs   : BitVec 2
  hubsBooted : BitVec 2            -- the hubs that were admitted at boot (R422)
  mconf  : W64
  mcap   : W64
  lc     : List Nat
  deriving DecidableEq, Repr

/-! ## The fabric -/

/-- The payload of a message, by its TYPE (R403). -/
inductive Body where
  | context (tid : Nat)                                    -- 0x01; the registers are the thread's own
  | spawn (t : Thread) (wid : Nat) (parent : Nat)          -- 0x02
  | read (r : Request)                                     -- 0x03
  | store (r : Request)                                    -- 0x04
  | atomic (r : Request)                                   -- 0x05
  | entry (plaza bank : Nat) (data : List Byte) (tid wid : Nat)   -- 0x06
  | fill (r : Request)                                     -- 0x07, lease
  | sectorFill (index sector : Nat)                        -- 0x07, sector
  | arm (r : Request)                                      -- 0x08
  | hub (req : Nat) (job tcb : Nat)                        -- 0x09
  | revokeReply (plaza bank : Nat)                         -- 0x0A
  | data (tid fill : Nat) (bytes : List Byte) (stop : W64) (code : Nat)   -- 0x10; of a line fill with its number, else 0
  | line (fill : Nat) (bytes : List Byte) (stop : W64)     -- 0x10, a line that no thread waits for; with `stop` 0 none has come
  | result (tid : Nat) (old : W64) (ok : Bool) (flags : BitVec 7) (code : Nat) (wid : Nat)  -- 0x11
  | ack (tid wid : Nat) (until_ : W64) (code : Nat)        -- 0x20
  | accepted (tid : Nat)                                   -- 0x21
  | grant (desc : W64) (size count credits plaza bank : Nat) (fresh : Bool)  -- 0x22
  | grantAck (plaza bank : Nat) (ok : Bool)                -- 0x22, its acknowledgement
  | credit (desc : W64)                                    -- 0x23
  | revoke (desc : W64) (plaza bank : Nat) (wantReply : Bool)     -- 0x24
  | inval (hub asid level : Nat) (handle : W64) (bytes : Nat)     -- 0x25
  | invalAnswer (hub asid : Nat)                           -- 0x26
  | barrier (op : Nat) (index asid : Nat) (ident : List Nat) (tid : Nat)  -- 0x27: 0 arrive, 1 wait
  | release (tid : Nat) (whole : Bool)                     -- 0x28
  | board (op index asid : Nat) (slot : Nat) (value : W64) (tid : Nat) (gen : BitVec 16) (mask : W64)  -- 0x29
  | boardReply (tid : Nat) (view : View) (value : W64) (level : Nat)      -- 0x2A
  | wake (tid nap : Nat)                                   -- 0x2B, for the `IDLE` of that number, or 0 for a monitor
  | kick (wid : Nat) (increment : Bool) (tid nap : Nat)    -- 0x2C
  | saveNotice (launch gang : Nat)                         -- 0x2D
  | savedNotice (launch gang : Nat)                        -- 0x2E
  | exitNotice (wid index : Nat)                           -- 0x2F
  | awaySaved (tid : Nat) (words : List W64)               -- 0x2E, of a thread that another module has saved, with its record (R210)
  | awayExit (tid : Nat)                                   -- 0x2F, of a thread that has exited in another module
  | awaySpawn (job launch : Nat) (up : Bool)               -- a thread of a launch of another module has been spawned here, or has exited (R16)
  | wbNotice (hub : Nat) (key : PageKey)                   -- 0x30
  | wbAck (hub : Nat)                                      -- 0x30, its acknowledgement
  | dieLoss (die : Nat)                                    -- 0x31
  | engine (plaza job asid : Nat) (pos : Option Nat) (h : W64) (bytes : List Byte)   -- 0x38: bytes that a job writes
  | sector (index sector : Nat) (bytes : List Byte)        -- 0x39
  | units (r : Request) (bytes : List Byte) (code : Nat)   -- 0x39, what a home without a carve-out fetches for a read
  | writeBack (index sector : Nat) (bytes : List Byte)     -- 0x39, toward the hub
  | writeBackAck (index : Nat)                             -- 0x20, of a write-back
  | hostRead (r : Request) (src page off : Nat)            -- CXL.cache RdCurr in flight, for the requester at core `src`
  | hostWrite (r : Request) (src page off : Nat)           -- CXL.cache WrCur in flight
  | peerAck (tid wid : Nat) (code : Nat)                   -- 0x20 with XMOD
  | image (tid : Nat) (k : Fin 8) (img : W64)              -- 0x10, a format image
  | imageRead (tid : Nat) (wid : Nat) (k : Fin 8)          -- 0x03, of a format image or SY_KICK
  | kickRead (tid wid : Nat)
  | kickValue (tid : Nat) (v : W64)
  deriving DecidableEq, Repr

/-- How far a message has come: on its way, as sent or with so many links of its path behind it and so many of its cells across the next one (R405); in
the context staging behind a held context of its source, or held at an SYE (R378); or arrived and still in the link because the staging has no room for it;
with the cc of the core at which it arrived (R30). -/
inductive Spot where
  | moving
  | hop (n cells : Nat)
  | staged (since : Nat)
  | link (since : Nat)
  deriving DecidableEq, Repr

/-- A message in flight (R402): the messages of one (source, destination, VC, ARET) stream keep the order of the list. -/
structure Msg where
  src  : Nat
  dst  : Nat
  vc   : Nat
  aret : Bool
  body : Body
  spot : Spot
  deriving DecidableEq, Repr

/-- What the module sent to the host or the side-band port: command completions, job queue completions, answers. -/
inductive HostOut where
  | completion (hub : Nat) (tag : W64) (status : Nat)
  | jobQueue (status : Nat) (job : Nat)
  | loader (status : Nat)
  | data (bytes : List Byte) (poison : Bool)
  | writeDone (error : Bool)
  | snoop                          -- RspIHitI
  | io (v : W64)                   -- what a register read through CXL.io answers
  | event (e : RasEvent)           -- a PLDM PlatformEventMessage of OEM class 0xF0 (R423)
  | pldm (v : List Nat)            -- what a PLDM request answers (R423)
  | peerSent (hub port asid : Nat) (header : W64)   -- a message that has left for a peer: its ASID there (R412, R416)
  | report (block : List Nat) (digest : BitVec 512) (signature : BitVec 4096)
  deriving DecidableEq, Repr

/-- Who acts next. The list of them in the state is where the outside world and every choice the spec leaves open come in. -/
inductive Turn where
  | event (i : Instr)              -- a module event or command
  | issue (tid : Nat)              -- the thread's core selects, if the group it would select has the thread in it
  | time (die : Nat) (ns : Nat)    -- the DTC of a die moves on
  | cycles (core : Nat) (cc : Nat) -- the cc count of a core moves on
  | localWrite (tid : Nat)         -- the oldest entry of a thread's forwarding table is performed at its bank
  | splitStore (k : Nat) (order : List Nat)     -- the four words of a vector store on its way are performed in this order (R250)
  | splitLocal (tid : Nat) (order : List Nat)   -- so are those of the oldest entry of a thread's forwarding table
  | notice (hub : Nat)             -- the tracker of a hub goes on with a notice (R278)
  | flit (link : Nat) (fromA : Bool)            -- the next flit of a link's direction arrives good (R405)
  | resend (link : Nat) (fromA : Bool)          -- the transmitter takes a NAK (R405)
  | clock (step : Nat)             -- a module-wide frequency step goes on (R409)
  | upset (kind core word : Nat)   -- an error of the environment (R342, R343)
  | temperature (die : Nat) (tenths : Nat)
  | power (watts : Nat)
  | diePower (die watts : Nat)
  | coolant (tenths : Nat)
  | runAhead (tid : Nat)           -- a thread that waits for the bytes of a load goes on (R360)
  deriving DecidableEq, Repr

/-! ## The state -/

/-- What a write that a sequencer, an engine job or a hub makes in place still waits for (R88, R304): the end of the leases on its line, by
the DTC of the home's die, or the drain of the write-hold queue that it is in. -/
inductive Due where
  | lease (die : Nat) (t : W64)
  | held (port id : Nat)
  deriving DecidableEq, Repr

structure State where
  th       : Thread                -- the thread whose instruction executes now
  threads  : List Thread           -- every other live thread
  wgs      : List Workgroup
  cores    : List CoreSt
  ports    : List PortSt
  plazas   : List PlazaSt
  dies     : List DieSt
  dtc      : Vector W64 10         -- CD0-CD7, HD0, HD1
  hubs     : Vector HubSt 2
  gs       : Scheduler
  conf     : Conf
  mgmt     : Mgmt
  mem      : Memory                -- main memory (Machine/Memory.lean says how spaces are laid out)
  lmem     : Memory                -- plaza local memories
  tmem     : Memory                -- tile memories
  net      : List Msg              -- messages in flight, oldest first
  owed     : List (Requester × Due) -- writes made in place that are not complete
  links    : List Link
  host     : List HostOut          -- newest first
  agenda   : List Turn
  issuing  : List Nat              -- members of the group of this cc that have not executed yet
  group    : List Nat              -- lanes of that group
  groupCore : Nat
  nextTid  : Nat
  nextId   : Nat                   -- ids of writes, workgroups and jobs
  fresh    : Nat                   -- counter applied to the free values of Config
  deriving DecidableEq, Repr

/-! ## Why a step can stop -/

/-- Faults of the model. Each is raised only where the spec gives no behaviour. -/
inductive Fault where
  /-- Raised by no step: every instruction, event and command of the model has an effect, and a module with nothing to do lets time
  pass. It would stand for an instruction that no thread executes. Safe. -/
  | noThread
  deriving DecidableEq, Repr

/-- Refusals of the model. -/
inductive Refusal where
  /-- Raised by an arm of `exec` whose instruction has no meaning; there is none left. Safe. -/
  | notModelled (mnemonic : String)
  deriving DecidableEq, Repr

/-! ## Reset -/

def View.empty : View := ⟨0, 0, 0, 0, 0⟩

/-- A thread with every register at the value R44 gives (log entry 3 for what it does not give). -/
def Thread.blank : Thread :=
  { tid := 0, asid := 0, job := 0, launch := 0, gang := 0, wgpos := 0, index := 0, spawned := false, sser := 0, anchor := 0,
    core := 0, place := .gone, status := .exited, pc := 0, q := Vector.replicate 16 0, n := Vector.replicate 32 0,
    v := Vector.replicate 8 0, vtag := Vector.replicate 8 0, p := #v[true, false, false, false, false, false, false, false],
    vm := Vector.replicate 4 View.empty, fpflags := 0, nbud := 0, vbud := 0, snbud := 0, svbud := 0, bars := 0, tiles := 0, localLen := 0, epc := 0,
    cause := 0, faddr := 0, trapbase := 0, kernTrap := 0, hnd := false, frameQ := Vector.replicate 16 0, frameP := 0,
    since := 0, wait := .none, depA := 0, depB := 0, depC := 0, smode := 0, wake := 0, wdie := 0, wjob := 0, kick0 := none,
    wcode := 0, wfail := 0, writes := [], awaited := [], nap := 0, fwd := [], stalled := false, images := [], got := [], pendH := 0, badIndex := none,
    late := none, wgsize := 0, gangw := 0, issuer := 0 }

def Shape.undef : Shape := ⟨0, 0, 0⟩

def Probe.none : Probe := ⟨false, 0, 0, [], [], []⟩

/-- A sequencer in state IDLE (R149, R194): every batch NONE, numbering from 0, MFLAGS 0, tags 0x00, no unfold descriptor. -/
def Sequencer.idle : Sequencer :=
  { queue := [], parts := [], step := 0, begun := false, held := false, ownDone := false, probe := Probe.none, openLen := 0,
    batches := Vector.replicate 4 0, last := 0,
    lvalid := false, cause := 0, sbatch := 0, sstep := 0, sidx := 0, spos := 0, spc := 0, mflags := 0, unfold := none,
    issueUf := none, view := Vector.replicate 8 Shape.undef, shape := Vector.replicate 8 Shape.undef, pendingCommit := false, fault := none }

/-- No configuration, tag 0, counters 0 (R268). -/
def StepCache.off : StepCache :=
  { sch := 0, cfg := 0, tau := 0, stag := 0, hit := 0, mthr := 0, mtag := 0, mwgt := 0, mabs := 0, byp := 0 }

def Barrier.empty : Barrier := ⟨0, 0, 0⟩

/-- A workgroup with the initial values of R149 and no kernel. -/
def Workgroup.blank : Workgroup :=
  { wid := 0, asid := 0, job := 0, launch := 0, gang := 0, wgpos := 0, anchor := 0, wgsize := 0, gangw := 1, issuer := 0,
    kdesc := 0, entry := 0, nbud := 0, vbud := 0, snbud := 0, svbud := 0, bars := 0, tiles := 0, localLen := 0, lbase := 0,
    tbase := 0, trapbase := 0, w := Vector.replicate 16 0, wPend := [], f := Vector.replicate 8 0, fPend := [],
    cb := Vector.replicate 4 0, bar := Vector.replicate 16 Barrier.empty, gbarArr := 0, gbarPhase := 0, kick := 0,
    seq := Sequencer.idle, park := none, parkTiles := [], sc := StepCache.off, nextJob := 0,
    outcomes := Vector.replicate 256 0, exited := [] }

def CoreSt.blank (c : Nat) : CoreSt :=
  { id := c, lastBin := 255, ccnt := 0, ctr := Vector.replicate 9 0, credits := [], desc := [], lines := [], fills := [],
    placedSpawns := 0, leaving := [], stopped := false }

/-- A memory port at boot: RPTH 4,096, RPEN 1, CARVE 00 (R336), everything else empty or 0. -/
def PortSt.blank (c : Nat) : PortSt :=
  { id := c, mtlb := [], desc := [], resv := [], monitors := [], leases := [], walking := [], ackHold := [], holdQ := [],
    readHold := [], records := [], unposted := [], wbQ := [], rpth := 4096, rpen := true, carve := 0, msc := [],
    mscWait := [], mscBusy := [], poisonIdx := [], poison := [], ctrs := Vector.replicate 7 0, cel := Vector.replicate 16 0,
    uel := Vector.replicate 16 0, rows := [], throttled := [], rowHold := [], rowNext := [], rowPass := [],
    resFrames := [], pools := [] }

def PlazaSt.blank (p : Nat) : PlazaSt :=
  { id := p, wctr := 0, stamps := [], banks := [], stages := [], spawnQ := [], jobs := [], items := [], doomed := [],
    nextSerial := 0, soft := [], softTile := [], softCount := 0 }

/-- A die at boot: DLEASE 2,000 (R292), counters 0 (R85), core clock 3.3 GHz (R2). -/
def DieSt.blank (d : Nat) : DieSt :=
  { id := d, dlease := 2000, ctr := Vector.replicate 10 0, linkErr := 0, queue := [], barriers := [], boards := [],
    syeFull := [], syeUse := [], saveUsed := 0, throttle := [], window := 0, clock := 12, temp := 0, power := 0, lossSeen := [] }

/-- A hub: PSTAT resets of R413 (RATE 48, RETRAINS 0, FWD 0, CARRY 0). -/
def HubSt.blank (h : Nat) : HubSt :=
  { id := h, faultBase := 0, faultLen := 0, trackers := [], rings := [], armed := [], notices := [], move := none, request := none, moveHold := none, capPools := [], dcores := [], peers := [],
    inval := none, up := false, fwd := false, carry := false, rate := 48, retrains := 0 }

def Scheduler.blank : Scheduler :=
  { active := 0, images := [], jobs := [], gangs := [], nextJob := 1, nextLaunch := 1, lastDie := 7,
    order := 0, asids := [], suspends := [], resumes := [], present := [], got := [], handed := none }

def Conf.off : Conf := ⟨false, true, 0, 0, 0, 0, 0, 0, []⟩

/-- Before power: the image in flash is taken to be valid, HD0's controller active, the power cap at its default (R427). -/
def Mgmt.blank : Mgmt :=
  { imageValid := true, flash := [], updating := false, activeCtl := 0, misses := 0, cap := 3400, power := 0, events := [],
    stackRegs := [], reports := [], mapOut := none, coolant := 0, clockTo := none }

/-- The module at reset: nothing booted, no thread, memory with nothing listed. COLD_BOOT is its first step. -/
def State.reset : State :=
  { th := Thread.blank, threads := [], wgs := [], cores := [], ports := [], plazas := [], dies := [],
    dtc := Vector.replicate 10 0, hubs := #v[HubSt.blank 0, HubSt.blank 1], gs := Scheduler.blank, conf := Conf.off,
    mgmt := Mgmt.blank, mem := [], lmem := [], tmem := [], net := [], owed := [], links := [], host := [], agenda := [],
    issuing := [], group := [], groupCore := 0, nextTid := 1, nextId := 1, fresh := 0 }

end Sys2Proof.Machine
end

