-- ==== Sys2Proof/Machine/Memory.lean ====
section
/-! DEFINITION. Bytes by address, and where each memory of the module lies in its address space. Log entry 2: a byte that
nothing has written reads 0. -/

namespace Sys2Proof.Machine

/-- The byte at an address; an unlisted address reads 0. -/
def memByte : Memory → Nat → Byte
  | [], _ => 0
  | (k, v) :: m, a => if a < k then 0 else if a = k then v else memByte m a

/-- Writing one byte. A byte equal to what an unlisted address reads as is not listed. -/
def memSet : Memory → Nat → Byte → Memory
  | [], a, b => if b = 0 then [] else [(a, b)]
  | (k, v) :: m, a, b =>
    if a < k then (if b = 0 then (k, v) :: m else (a, b) :: (k, v) :: m)
    else if a = k then (if b = 0 then m else (k, b) :: m)
    else (k, v) :: memSet m a b

/-- A memory without its leading entries below `a`, which no read at `a` or above meets. -/
def memSkip : Memory → Nat → Memory
  | [], _ => []
  | (k, v) :: m, a => if k < a then memSkip m a else (k, v) :: m

/-- The `n` bytes from `a` upward; each reads what is left of the list. -/
def memRead (m : Memory) (a : Nat) : Nat → List Byte
  | 0 => []
  | n + 1 => memByte (memSkip m a) a :: memRead (memSkip m a) (a + 1) n

/-- Bytes written from `a` upward, one after another. -/
def memPut (m : Memory) (a : Nat) : List Byte → Memory
  | [] => m
  | b :: bs => memPut (memSet m a b) (a + 1) bs

/-- Writing bytes from `a` upward: the leading entries below `a` stay. -/
def memWrite : Memory → Nat → List Byte → Memory
  | [], a, bs => memPut [] a bs
  | (k, v) :: m, a, bs => if k < a then (k, v) :: memWrite m a bs else memPut ((k, v) :: m) a bs

/-- The little-endian number in the `n` bytes from `a` (R6). -/
def memNat (m : Memory) (a n : Nat) : Nat := leNat (memRead m a n)

/-- The part [a, a + n) of a memory, by its offset from `a`. -/
def memCut (m : Memory) (a n : Nat) : Memory := (m.filter (fun c => a ≤ c.1 && c.1 < a + n)).map (fun c => (c.1 - a, c.2))

/-- A memory whose part [a, a + n) is an image. -/
def memPaste (m : Memory) (a n : Nat) (img : Memory) : Memory :=
  img.foldl (fun m c => memSet m (a + c.1) c.2) (m.filter (fun c => c.1 < a || a + n ≤ c.1))

/-- The canonical form: addresses strictly rising, no listed byte 0. -/
def Memory.wf : Memory → Bool
  | [] => true
  | [(_, v)] => v != 0
  | (k, v) :: (k', v') :: m => v != 0 && k < k' && Memory.wf ((k', v') :: m)

/-! ## Where memories lie -/

/-- MPA of a byte of a core's HBM4E channel: CORE [40:31], offset [30:0] (17, "The page map"). -/
def hbmAt (core off : Nat) : Nat := core * 2 ^ 31 + off

/-- A byte of the LPDDR-6 of a hub, by the CAP address of R338. -/
def capAt (a : Nat) : Nat := 2 ^ 42 + a

/-- A byte of host memory, by 64 KiB host page (R297). -/
def hostAt (page off : Nat) : Nat := 2 ^ 50 + page * 65536 + off

/-- A byte of host memory by its host address (R300). -/
def hostByte (a : Nat) : Nat := 2 ^ 50 + a

/-- The plaza that holds a core, 0-63 (R5). -/
def plazaOf (core : Nat) : Nat := core / 8

/-- The die of a core or hub identity (R5). -/
def dieOf (core : Nat) : Nat := core / 64

/-- A byte of the 8 MiB local memory of a plaza (R288). -/
def localAt (plaza x : Nat) : Nat := plaza * 2 ^ 23 + x

/-- A byte of the tile memory of a core (R2). Each of its eight workgroup contexts has 512 KiB of addresses of its own; what the tile
registers of all of them use together is at most 512 KiB (R150, log entry 17). -/
def tileAt (core x : Nat) : Nat := core * 2 ^ 22 + x

end Sys2Proof.Machine
end

