-- ==== Sys2Proof/Machine/Ops.lean ====
section
/-! DEFINITION. The operations that the meanings share: units by identity, the queue and the registers (R11, R44, R51), moving
on, delivering a fault and returning from it (R198-R202), waiting and waking (R19), messages (R402, R403). -/

namespace Sys2Proof.Machine

/-! ## Records by key -/

/-- The record of a key, or the value an absent record has. -/
def lookupBy {α : Type} (key : α → Nat) (k : Nat) (dflt : α) : List α → α
  | [] => dflt
  | x :: xs => if key x = k then x else lookupBy key k dflt xs

/-- The list with the record of a key replaced, or added at the end. -/
def putBy {α : Type} (key : α → Nat) (x : α) : List α → List α
  | [] => [x]
  | y :: ys => if key y = key x then x :: ys else y :: putBy key x ys

def State.core (s : State) (c : Nat) : CoreSt := lookupBy CoreSt.id c (CoreSt.blank c) s.cores
def State.putCore (s : State) (x : CoreSt) : State := { s with cores := putBy CoreSt.id x s.cores }
def State.port (s : State) (c : Nat) : PortSt := lookupBy PortSt.id c (PortSt.blank c) s.ports
def State.putPort (s : State) (x : PortSt) : State := { s with ports := putBy PortSt.id x s.ports }
def State.plaza (s : State) (p : Nat) : PlazaSt := lookupBy PlazaSt.id p (PlazaSt.blank p) s.plazas
def State.putPlaza (s : State) (x : PlazaSt) : State := { s with plazas := putBy PlazaSt.id x s.plazas }
def State.die (s : State) (d : Nat) : DieSt := lookupBy DieSt.id d (DieSt.blank d) s.dies
def State.putDie (s : State) (x : DieSt) : State := { s with dies := putBy DieSt.id x s.dies }
def State.hub (s : State) (h : Nat) : HubSt := if h = 0 then s.hubs[0] else s.hubs[1]
def State.putHub (s : State) (h : Nat) (x : HubSt) : State :=
  { s with hubs := if h = 0 then #v[x, s.hubs[1]] else #v[s.hubs[0], x] }

/-- `dtc()` of a die: CD0-CD7, then HD0 and HD1 (R7, R11). -/
def State.dtcOf (s : State) (die : Nat) : W64 := if h : die < 10 then s.dtc[die] else 0

/-- The thread of a key. -/
def State.thread? (s : State) (tid : Nat) : Option Thread :=
  if s.th.tid = tid then some s.th else s.threads.find? (fun t => t.tid == tid)

/-- A thread's record replaced, wherever it stands. -/
def State.putThread (s : State) (t : Thread) : State :=
  if s.th.tid = t.tid then { s with th := t } else { s with threads := putBy Thread.tid t s.threads }

/-- Every live thread. -/
def State.allThreads (s : State) : List Thread := if s.th.tid = 0 then s.threads else s.th :: s.threads

def State.mapThreads (s : State) (g : Thread → Thread) : State :=
  { s with threads := s.threads.map g, th := if s.th.tid = 0 then s.th else g s.th }

def Workgroup.is (w : Workgroup) (t : Thread) : Bool :=
  w.launch == t.launch && w.gang == t.gang && w.wgpos == t.wgpos

/-- The workgroup that a thread belongs to. -/
def State.wgOf (s : State) (t : Thread) : Workgroup := (s.wgs.find? (fun w => w.is t)).getD Workgroup.blank

def State.wg (s : State) : Workgroup := s.wgOf s.th

def State.wgBy (s : State) (wid : Nat) : Workgroup := lookupBy Workgroup.wid wid Workgroup.blank s.wgs

def State.putWg (s : State) (w : Workgroup) : State := { s with wgs := putBy Workgroup.wid w s.wgs }

/-- The list with one place changed. -/
def setAt {α : Type} (l : List α) (i : Nat) (x : α) : List α := l.set i x

/-- A vector with one place changed; unchanged outside its range. -/
def vset {α : Type} {n : Nat} (v : Vector α n) (i : Nat) (x : α) : Vector α n := if h : i < n then v.set i x h else v

/-- A place of a vector. -/
def vget {α : Type} {n : Nat} (v : Vector α n) (i : Nat) (dflt : α) : α := if h : i < n then v[i] else dflt

/-! ## Handles and code addresses -/

/-- OFFSET [47:0] of a handle (R282). -/
def offsetOf (h : W64) : Nat := h.toNat % 2 ^ 48

/-- The buffer index [63:48] of a handle (R282). -/
def indexOf (h : W64) : Nat := h.toNat / 2 ^ 48

/-- A handle from a buffer index and an offset. -/
def handleOf (idx off : Nat) : W64 := BitVec.ofNat 64 (idx % 65536 * 2 ^ 48 + off % 2 ^ 48)

/-- A code handle with `d` added to its offset field; bits [63:48] are unchanged (R73). -/
def pcAdd (pc : W64) (d : Int) : W64 := handleOf (indexOf pc) (((offsetOf pc : Int) + d) % (2 ^ 48 : Int)).toNat

/-! ## The queue, the registers and moving on -/

/-- `push(v)` of R11. -/
def pushQ (q : Vector W64 16) (v : W64) : Vector W64 16 := Vector.ofFn (fun i => if i.val = 0 then v else q[i.val - 1])

/-- The 4-bit code of a status (R19). -/
def Status.code : Status → BitVec 4
  | .ready => 0x0
  | .waiting => 0x1
  | .outbound => 0x2
  | .overflow => 0x3
  | .parkedFault => 0x4
  | .parkedMonitor => 0x5
  | .sleeping => 0x6
  | .joining => 0x7
  | .handler => 0x8
  | .saved => 0x9
  | .exited => 0xA

/-- A running thread is READY, or HANDLER in handler mode (R19). -/
def Thread.running (t : Thread) : Status := if t.hnd then .handler else .ready

/-- The thread goes on behind an instruction of `len` bytes (R38). -/
def Thread.next (t : Thread) (len : Nat) : Thread :=
  { t with pc := pcAdd t.pc len, status := t.running, wait := .none, badIndex := none, images := [], got := [] }

/-- Writing an N register. -/
def Thread.setN (t : Thread) (k : Fin 32) (v : W64) : Thread := { t with n := t.n.set k v }

/-- Writing the register that a destination names, if it names N (R51). -/
def Thread.setDst (t : Thread) (d : Dst) (v : W64) : Thread :=
  match d with
  | .n k => t.setN k v
  | .queue | .v _ | .p _ | .w _ => t

def Thread.setP (t : Thread) (k : Fin 7) (b : Bool) : Thread := { t with p := t.p.set (k.val + 1) b }

/-- A typed write of a V register sets its tag (R50). -/
def Thread.setV (t : Thread) (k : Fin 8) (v : W256) (tag : BitVec 6) : Thread :=
  { t with v := t.v.set k v, vtag := t.vtag.set k tag }

def Thread.push (t : Thread) (v : W64) : Thread := { t with q := pushQ t.q v }

/-- OR-ing sticky flags (R205). -/
def Thread.flag (t : Thread) (f : BitVec 7) : Thread := { t with fpflags := t.fpflags ||| f }

/-- A W write takes effect at the end of the cc (R48). -/
def State.writeW (s : State) (d : Dst) (v : W64) : State :=
  match d with
  | .w k => s.putWg { s.wg with wPend := s.wg.wPend ++ [(k, v)] }
  | .queue | .n _ | .v _ | .p _ => s

def State.onTh (s : State) (g : Thread → Thread) : State := { s with th := g s.th }

/-- The end of an instruction without Result. -/
def finishU (f : Fields) (s : State) : State := s.onTh (fun t => t.next (lenBytes f.len))

/-- The end of an instruction whose Result is Q: DST, the push, the next pc (R51). -/
def finishQ (f : Fields) (v : W64) (s : State) : State :=
  (s.writeW f.dst v).onTh (fun t => ((t.setDst f.dst v).push v).next (lenBytes f.len))

/-- The end of an instruction whose Result is P. -/
def finishP (f : Fields) (b : Bool) (s : State) : State :=
  s.onTh (fun t => (match f.dst with | .p k => t.setP k b | _ => t).next (lenBytes f.len))

/-- The end of an instruction whose Result is V, with the tag it sets (R50). -/
def finishV (f : Fields) (v : W256) (tag : BitVec 6) (s : State) : State :=
  s.onTh (fun t => (match f.dst with | .v k => t.setV k v tag | _ => t).next (lenBytes f.len))

/-- The thread waits; its instruction has changed nothing (R19). -/
def block (st : Status) (w : Wait) (s : State) : State := s.onTh (fun t => { t with status := st, wait := w })

/-! ## Messages -/

/-- A message sent (R402). -/
def State.send (s : State) (src dst vc : Nat) (b : Body) : State := { s with net := s.net ++ [⟨src, dst, vc, false, b, .moving⟩] }

/-- Cells of one stream keep their order (R407). -/
def Msg.sameStream (a b : Msg) : Bool := a.src == b.src && a.dst == b.dst && a.vc == b.vc && a.aret == b.aret

/-! ## Jobs, launches and cancellation -/

def State.job? (s : State) (num : Nat) : Option Job := s.gs.jobs.find? (fun j => j.num == num)

def State.putJob (s : State) (j : Job) : State := { s with gs := { s.gs with jobs := putBy Job.num j s.gs.jobs } }

def Job.tcbOf (j : Job) (launch : Nat) : Option Tcb := j.tcbs.find? (fun t => t.launch == launch)

def Job.mapTcb (j : Job) (sel : Tcb → Bool) (g : Tcb → Tcb) : Job :=
  { j with tcbs := j.tcbs.map (fun t => if sel t then g t else t) }

/-- Cancellation at a level: 0 launch, 1 graph, 2 phase, 3 job (R117, R166). An object that is complete is not changed. -/
def Job.cancelAt (j : Job) (level launch : Nat) : Job :=
  let j' := j.mapTcb (fun t => !t.complete && (level != 0 || t.launch == launch)) (fun t => { t with cancel := true })
  if level = 0 then j' else if level = 3 then { j' with cancelJob := true, cancelGraph := true }
  else { j' with cancelGraph := true }

/-- R199: code in ERR, STATE ERROR, cancellation at CPOL, the first code as CAUSE. Of a second error of one launch R199 says nothing for ERR: the model
keeps the first there too (log entry 161). -/
def Job.launchError (j : Job) (launch code : Nat) : Job :=
  let j1 := j.mapTcb (fun t => t.launch == launch && !t.complete)
    (fun t => { t with err := if t.err = 0 then code else t.err, state := 5, cancel := true })
  let j2 := j1.cancelAt j.cpol launch
  if j2.cause = 0 then { j2 with cause := code } else j2

/-- The launch of a job takes a launch error (R199). -/
def State.recordError (s : State) (job launch code : Nat) : State :=
  match s.job? job with
  | some j => s.putJob (j.launchError launch code)
  | none => s

/-- A spawned thread that exits no longer counts for its launch (R156). -/
def State.spawnedExit (s : State) (job launch : Nat) : State :=
  match s.job? job with
  | some j => s.putJob (j.mapTcb (fun t => t.launch == launch) (fun t => { t with spawned := t.spawned - 1 }))
  | none => s

/-- A thread stops (R77, R166): its slot frees, its reservations and monitors go, its index is absent; away from its anchor
it sends an exit notice (R210 step 4). The workgroup of a peer's thread is not here, and its launch counts its spawned threads there (R16). -/
def State.stopThread (s : State) (t : Thread) : State :=
  let s1 : State := { s with ports := s.ports.map (fun (p : PortSt) =>
    { p with resv := p.resv.filter (fun r => r.1 != t.tid), monitors := p.monitors.filter (fun m => m.tid != t.tid) }) }
  let t' := { t with status := .exited, place := .gone, wait := .none, writes := t.writes.filter (fun w => match w.state with | .failed _ => false | _ => true) }
  let s2 := s1.putThread t'
  if t.spawned then
    (if t.job < 2 ^ 24 then s2.spawnedExit t.job t.launch else s2.send t.core (1024 * (t.job / 2 ^ 24)) 2 (.awaySpawn t.job t.launch false))
  else
    let w := s2.wgOf t
    let s3 := if w.wid = 0 then s2 else s2.putWg { w with exited := t.index :: w.exited }
    if t.core = t.anchor then s3 else s3.send t.core t.anchor 2 (.exitNotice w.wid t.index)

/-- `launch_error(code)` of R199 for one thread. -/
def State.launchErrorOf (s : State) (t : Thread) (code : Nat) : State :=
  (s.stopThread t).recordError t.job t.launch code

/-! ## Taking an exception and returning from it -/

/-- `fault(code)` of R11: CAUSE, EPC and FADDR; `info` is SY_CAUSE[63:8] (R197). What the instruction has gathered is gone with it. -/
def Thread.faulted (t : Thread) (code info : Nat) (faddr : W64) : Thread :=
  { t with cause := BitVec.ofNat 64 (code + 256 * info), epc := t.pc, faddr := faddr, badIndex := none, images := [], got := [],
           stalled := false }

/-- Delivery to the handler (R198): the frame, HND, the status and the pc. -/
def Thread.enterHandler (t : Thread) : Thread :=
  { t with frameQ := t.q, frameP := BitVec.ofFnLE (fun i => if i.val = 0 then false else t.p[i.val]), hnd := true,
           status := .handler, wait := .none, pc := t.trapbase }

/-- A fault of a thread, with its delivery (R11, R198, R199). -/
def State.raiseAt (s : State) (t : Thread) (code info : Nat) (faddr : W64) : State :=
  let t1 := t.faulted code info faddr
  if code = 0x0E || t.hnd || t.trapbase = 0 then s.launchErrorOf t1 code
  else s.putThread t1.enterHandler

/-- A fault of the executing thread. -/
def raise (code : Nat) (faddr : W64) (s : State) : State := s.raiseAt s.th code 0 faddr

/-- Return from handler mode (R202). -/
def Thread.leaveHandler (t : Thread) : Thread :=
  { t with q := t.frameQ, p := Vector.ofFn (fun i => if i.val = 0 then true else t.frameP[i.val]), hnd := false,
           status := .ready, wait := .none, pc := t.epc }

/-! ## Waking -/

/-- A thread enters READY (HANDLER in handler mode) on the next cc of its core (R20, R21). -/
def State.wakeThread (s : State) (t : Thread) : State :=
  s.putThread { t with status := t.running, wait := .none, since := (s.core t.core).ccnt.toNat + 1 }

/-- Every thread whose wait satisfies a test runs its instruction again. -/
def State.wakeWaiting (s : State) (p : Thread → Bool) : State :=
  s.mapThreads (fun t =>
    if (t.status == .waiting || t.status == .parkedFault) && p t then
      { t with status := t.running, wait := .none, since := (s.core t.core).ccnt.toNat + 1 }
    else t)

/-- Threads held for a free monitor of a port that has one try again (R108). -/
def State.freeMonitors (s : State) : State :=
  s.wakeWaiting (fun t => match t.wait with | .monitors c => (s.port c).monitors.length < 4096 | _ => false)

/-- An event counter of a core (R85). -/
def State.countCore (s : State) (c k : Nat) : State :=
  let x := s.core c
  s.putCore { x with ctr := vset x.ctr k (vget x.ctr k 0 + 1) }

/-- An event counter of a die (R85). -/
def State.countDie (s : State) (d k : Nat) : State :=
  let x := s.die d
  s.putDie { x with ctr := vset x.ctr k (vget x.ctr k 0 + 1) }

/-! ## Which dies run -/

/-- A compute die that was admitted at boot and is not fenced (R4, R87). -/
def State.dieUp (s : State) (d : Nat) : Bool := d < 8 && s.conf.admitted.getLsbD d && !s.conf.fenced.getLsbD d

/-- A hub that runs: HUBS of MCONF (R421). -/
def State.hubUp (s : State) (h : Nat) : Bool := h < 2 && s.conf.hubs.getLsbD h

/-- The hub that serves a compute die (R432). -/
def State.hubOf (s : State) (d : Nat) : Nat := if s.hubUp (d % 2) then d % 2 else 1 - d % 2

/-- The hub that performs the roles of the active hub. -/
def State.activeHub (s : State) : Nat := s.gs.active

/-! ## Free values -/

/-- A value that nothing constrains, and the counter moved on (log entry 7). -/
def State.free (s : State) : W64 × State := (Config.freeValue s.fresh, { s with fresh := s.fresh + 1 })

end Sys2Proof.Machine
end

