-- ==== Sys2Proof/Machine/Homes.lean ====
section
/-! DEFINITION. Buffers and homes (R282-R287), the page map and `translate` (R297-R299), and the source checks of R87. -/

namespace Sys2Proof.Machine

/-! ## The buffer table -/

/-- Word `k` of a list of bytes. -/
def wordAt (bs : List Byte) (k : Nat) : Nat := leNat ((bs.drop (8 * k)).take 8)

/-- Bounds of the home set (R285). -/
def homeSetOk (imode first count : Nat) : Bool :=
  match imode with
  | 0 | 5 => 1 ≤ count && first + count ≤ 0x200
  | 1 => first % 8 == 0 && first < 0x200 && 1 ≤ count && first / 8 % 8 + count ≤ 8
  | 2 => first % 64 == 0 && 1 ≤ count && first / 64 + count ≤ 8
  | 3 => first == 0 && count == 0
  | 4 => (first == 0x200 || first == 0x240) && count == 1
  | _ => false

/-- TIER and IMODE agree (R285). -/
def tierOk (tier imode : Nat) : Bool :=
  match tier with
  | 0 | 1 => imode ≤ 3
  | 2 => imode == 4
  | 3 => imode == 5
  | _ => false

/-- A valid entry of an ASID's buffer table (R284, R285), from its 64 bytes. -/
def parseEntry (asid : Nat) (bs : List Byte) : Option BufEntry :=
  let w0 := wordAt bs 0
  let w1 := wordAt bs 1
  let w2 := wordAt bs 2
  let tier := bits w1 6 4
  let imode := bits w1 12 10
  let first := bits w1 25 16
  let count := bits w1 41 32
  let ok := bitOf w1 0 && wordAt bs 4 == 0 && wordAt bs 5 == 0 && wordAt bs 6 == 0 && wordAt bs 7 == 0 &&
    bits w2 63 12 == 0 && bits w1 63 42 == 0 && bits w1 31 26 == 0 && !bitOf w1 15 && bits w1 14 13 != 3 &&
    tierOk tier imode && homeSetOk imode first count && bits w0 59 48 == asid && bits w0 47 0 != 0 &&
    (!bitOf w1 7 || tier ≤ 1) && (if bitOf w1 8 then tier == 0 else wordAt bs 3 == 0)
  if ok then
    some { gen := bits w0 63 60, owner := bits w0 59 48, length := bits w0 47 0, count := count, first := first,
           gran := bits w1 14 13, imode := imode, pinned := bitOf w1 9, replica := bitOf w1 8, leased := bitOf w1 7,
           tier := tier, at_ := bitOf w1 3, wr := bitOf w1 2, rd := bitOf w1 1, peer := bits w2 11 0,
           mirror := BitVec.ofNat 64 (wordAt bs 3) }
  else none

/-- The bases that REGASID registered for an ASID (R302): buffer table, level-1 page map. -/
def State.bases (s : State) (asid : Nat) : Option (Nat × Nat) :=
  (s.gs.asids.find? (fun x => x.1 == asid)).map (fun x => x.2)

/-- The entry that a buffer index names as the table in memory holds it: none where it is invalid or stale, or the slot is 0
(R282, R283, R285). -/
def State.tableEntry (s : State) (asid idx : Nat) : Option BufEntry :=
  match s.bases asid with
  | none => none
  | some (bt, _) =>
    if idx % 4096 = 0 then none
    else
      match parseEntry asid (memRead s.mem (bt + 64 * (idx % 4096)) 64) with
      | none => none
      | some e => if e.gen = idx / 4096 then some e else none

/-- What a lookup of the current core's descriptor cache finds (R287). -/
inductive DescResult where
  | hit (e : BufEntry)
  | invalid
  | miss
  deriving DecidableEq, Repr

def findDesc (l : List (Nat × Nat × BufEntry)) (asid idx : Nat) : Option BufEntry :=
  (l.find? (fun x => x.1 == asid && x.2.1 == idx)).map (fun x => x.2.2)

/-- The descriptor-cache lookup of the executing thread: an entry that was read for it and was not valid is invalid. -/
def lookupDesc (s : State) (h : W64) : DescResult :=
  if indexOf h % 4096 = 0 then .invalid
  else
    match findDesc (s.core s.th.core).desc s.th.asid (indexOf h) with
    | some e => .hit e
    | none => if s.th.badIndex = some (indexOf h) then .invalid else .miss

/-- Filling a core's descriptor cache: at most 256 entries, the oldest leaves. Log entry 9. -/
def fillDesc (l : List (Nat × Nat × BufEntry)) (asid idx : Nat) (e : BufEntry) : List (Nat × Nat × BufEntry) :=
  (asid, idx, e) :: (l.filter (fun x => !(x.1 == asid && x.2.1 == idx))).take 255

/-- The instruction goes on with the entry of a handle, or the thread waits for the entry (R287). -/
def withDesc (h : W64) (k : BufEntry → State → State) (bad : State → State) (s : State) : State :=
  match lookupDesc s h with
  | .hit e => k e s
  | .invalid => bad s
  | .miss => block .waiting (.descriptor s.th.asid (indexOf h)) s

/-! ## Homes -/

/-- Where an offset of a buffer lies: home, home-local offset and page, i mod S, and the page-map position n (R286, R298). -/
structure Homed where
  home : Nat
  lam  : Nat
  page : Nat
  pos  : Nat
  npos : Nat
  deriving DecidableEq, Repr

/-- The granule in bytes (R284). -/
def granule (gran : Nat) : Nat := if gran = 0 then 512 else if gran = 1 then 4096 else 65536

/-- R286. -/
def homeLoc (lc : List Nat) (e : BufEntry) (o : Nat) : Homed :=
  let g := granule e.gran
  let i := o / g
  let (home, n) :=
    match e.imode with
    | 0 | 5 => (e.first + i % e.count, e.count)
    | 1 => (e.first / 64 * 64 + (e.first / 8 % 8 + i % e.count) * 8 + i / e.count % 8, 8 * e.count)
    | 2 => ((e.first / 64 + i % e.count) * 64 + i / e.count % 64, 64 * e.count)
    | 3 => (lc.getD (i % lc.length) 0, lc.length)
    | _ => (e.first, 1)
  let lam := i / n * g + o % g
  ⟨home, lam, lam / 65536, i % n, lam / 65536 * n + i % n⟩

/-- The position i mod S of a home port in the home set of a buffer, the converse of R286. -/
def posOf (lc : List Nat) (e : BufEntry) (core : Nat) : Nat :=
  match e.imode with
  | 0 | 5 => core - e.first
  | 1 => core % 8 * e.count + (core / 8 % 8 - e.first / 8 % 8)
  | 2 => core % 64 * e.count + (core / 64 - e.first / 64)
  | 3 => lc.findIdx (· == core)
  | _ => 0

/-- The size of the home set S (R286). -/
def setSize (lc : List Nat) (e : BufEntry) : Nat :=
  match e.imode with
  | 0 | 5 => e.count
  | 1 => 8 * e.count
  | 2 => 64 * e.count
  | 3 => lc.length
  | _ => 1

/-- `home_of(h)` (R11): the instruction goes on with the entry and the place, or faults 0x08. -/
def withHome (h : W64) (k : BufEntry → Homed → State → State) (s : State) : State :=
  withDesc h (fun e s => k e (homeLoc s.conf.lc e (offsetOf h)) s) (raise 0x08 h) s

/-- The right that an access needs (R87): 0 read, 1 write, 2 atomic; 3, an access of the host, needs none. -/
def BufEntry.allows (e : BufEntry) (kind : Nat) : Bool :=
  match kind with
  | 0 => e.rd
  | 1 => e.wr
  | 2 => e.at_
  | _ => true

/-- The source checks of R87: bounds, then the right. The owner is checked by validity (R285). -/
def srcCheck (e : BufEntry) (o size kind : Nat) : Option Nat :=
  if o + size > e.length then some 0x06 else if !e.allows kind then some 0x07 else none

/-- `ea(a, d)` of R86: none where it raises 0x06. -/
def effAddr (a : W64) (d : Int) : Option W64 :=
  let x := (offsetOf a : Int) + d
  if x < 0 ∨ x ≥ 2 ^ 48 then none else some (handleOf (indexOf a) x.toNat)

/-- A home on a compute die that does not run, or on a hub that does not (R37, R87). -/
def homeDead (s : State) (e : BufEntry) (home : Nat) : Bool :=
  e.tier != 3 && (if home < 0x200 then !s.dieUp (dieOf home) else !s.hubUp (dieOf home - 8))

/-! ## The page map -/

/-- A present page-map entry (R297). `core` is the home whose channel a tier-HBM frame lies in. -/
def parsePme (core : Nat) (w : Nat) : Option Pme :=
  let ok := bits w 63 48 == 0 && bits w 15 10 == 0 && !bitOf w 7 && !bitOf w 1 && bits w 9 8 != 3 && bitOf w 0
  if ok then
    some { frame := bits w 47 16, tier := bits w 9 8, pin := bitOf w 6, wb := bitOf w 5, at_ := bitOf w 4, wr := bitOf w 3,
           rd := bitOf w 2, core := core }
  else none

/-- The image of a present entry (R297). -/
def pmeWord (p : Pme) : Nat :=
  1 + (if p.rd then 4 else 0) + (if p.wr then 8 else 0) + (if p.at_ then 16 else 0) + (if p.wb then 32 else 0) +
    (if p.pin then 64 else 0) + p.tier * 256 + p.frame * 65536

/-- The MPA of PME `n` of a slot, none beyond NPME or for an unregistered ASID (R297, R298). -/
def State.pmeAt (s : State) (asid slot n : Nat) : Option Nat :=
  match s.bases asid with
  | none => none
  | some (_, l1) =>
    if n < memNat s.mem (l1 + 16 * slot + 8) 4 then some (memNat s.mem (l1 + 16 * slot) 8 + 8 * n) else none

/-- The core whose channel or cache a page that `port` serves lies on: the home itself, or DCORE for a moved tier-HOST page
(R305). -/
def State.frameCore (s : State) (port : Nat) (key : PageKey) : Nat :=
  if port < 0x200 then port
  else (((s.hub (port / 64 - 8)).dcores.find? (fun x => x.1 == key)).map (fun x => x.2)).getD 0

/-- The entry that a memory port's own descriptor cache or the table gives (R287). -/
def State.portEntry (s : State) (port asid idx : Nat) : Option BufEntry :=
  match findDesc (s.port port).desc asid idx with
  | some e => some e
  | none => s.tableEntry asid idx

/-- The PME of a page at a home port, as the page map in memory holds it; the port's own entry of the buffer says where (R287, R298). -/
def State.walkPme (s : State) (core : Nat) (key : PageKey) : Option Pme :=
  match s.portEntry core key.asid key.buf with
  | none => none
  | some e =>
    match s.pmeAt key.asid (key.buf % 4096) (key.page * setSize s.conf.lc e + posOf s.conf.lc e core) with
    | none => none
    | some a => parsePme (s.frameCore core key) (memNat s.mem a 8)

/-- An MTLB lookup (R299). -/
def PortSt.lookup (p : PortSt) (key : PageKey) : Option Pme := (p.mtlb.find? (fun x => x.1 == key)).map (fun x => x.2)

/-- The page of a place as the port's MTLB or a walk gives it (R298). -/
def State.pageOf (s : State) (home : Nat) (key : PageKey) : Option Pme :=
  match (s.port home).lookup key with
  | some p => some p
  | none => s.walkPme home key

/-- A use or a fill makes the entry the most recently used one; the MTLB holds 2,048 (R299). -/
def PortSt.fill (p : PortSt) (key : PageKey) (e : Pme) : PortSt :=
  let l := p.mtlb.filter (fun x => x.1 != key)
  { p with mtlb := (if l.length < 2048 then l else l.drop 1) ++ [(key, e)] }

def Pme.allows (p : Pme) (kind : Nat) : Bool :=
  match kind with
  | 0 => p.rd
  | 1 => p.wr
  | 2 => p.at_
  | _ => true

/-- The channel address of a tier-HBM byte, or the CAP address of R338. -/
def Pme.byteAt (p : Pme) (lam : Nat) : Nat :=
  if p.tier = 0 then hbmAt p.core (p.frame % 2 ^ 15 * 65536 + lam % 65536)
  else if p.tier = 1 then capAt (bits p.frame 31 31 * 2 ^ 40 + bits p.frame 23 0 * 65536 + lam % 65536)
  else hostAt p.frame (lam % 65536)

/-- A core of a peer module, as a place that messages leave for (R412): the module is entry `peer` of an ASID's peer table (R416). -/
def peerCore (asid peer home : Nat) : Nat := 1024 * (1 + 4096 * asid + peer) + home

/-- The number that a thread of a peer stands under in the tables of a port (R107, R108, R376). -/
def peerThread (p tag : Nat) : Nat := 2 ^ 64 + p * 2 ^ 32 + tag

/-- Bytes of the carve-out of a port (R336). -/
def PortSt.carveBytes (p : PortSt) : Nat := if p.carve = 1 then 192 * 2 ^ 20 else if p.carve = 2 then 384 * 2 ^ 20 else 0

/-- The configuration register MCFG of a port as the host reads it (R336). -/
def PortSt.mcfg (p : PortSt) : W64 :=
  BitVec.ofNat 64 (p.carve.toNat + (if p.rpen then 4 else 0) + p.rpth.toNat * 2 ^ 16)

/-- The counter block of a channel as the host reads it, 24 words from 0x00 (R345). -/
def PortSt.counterWords (p : PortSt) : List W64 := p.ctrs.toList ++ [0] ++ (p.uel.toList.zip p.cel.toList).map (fun x => x.1 ++ x.2)

/-- NS, the sectors of the memory-side cache (R338). -/
def PortSt.sectors (p : PortSt) : Nat := p.carveBytes / 2048

/-- CHECK[j], the parity of the bits of M = (DIRTY, VALID, TAG) whose position is j mod 4 (R339). -/
def checkOf (m : BitVec 22) : BitVec 4 :=
  BitVec.ofFnLE (fun (j : Fin 4) => ((List.range 6).map (fun k => m.getLsbD (4 * k + j.val))).foldl xor false)

/-- The spare bits of the first two units of a sector that hold its metadata (R339). -/
def metaImage (valid dirty : Bool) (tag : BitVec 20) : BitVec 16 × BitVec 16 :=
  let m : BitVec 22 := BitVec.ofBool dirty ++ BitVec.ofBool valid ++ tag
  (tag.extractLsb' 0 16, (0 : BitVec 6) ++ checkOf m ++ BitVec.ofBool dirty ++ BitVec.ofBool valid ++ tag.extractLsb' 16 4)

/-- The metadata images of a cache index; firmware zeroes them at boot (R339). -/
def PortSt.images (p : PortSt) (i : Nat) : BitVec 16 × BitVec 16 := ((p.msc.find? (fun x => x.1 == i)).map (fun x => x.2)).getD (0, 0)

/-- The state of a cache index: VALID, DIRTY, TAG, and whether its CHECK agrees (R339). -/
def PortSt.line (p : PortSt) (i : Nat) : Bool × Bool × BitVec 20 × Bool :=
  let u := p.images i
  let tag : BitVec 20 := u.2.extractLsb' 0 4 ++ u.1
  let valid := u.2.getLsbD 4
  let dirty := u.2.getLsbD 5
  (valid, dirty, tag, u.2.extractLsb' 6 4 == checkOf (BitVec.ofBool dirty ++ BitVec.ofBool valid ++ tag))

/-- Bytes of a channel (R2). -/
def channelSize : Nat := 1536 * 2 ^ 20

/-- The channel address of a byte that firmware reserved at boot, by its offset then: a map-out moves reserved frames (R347). -/
def PortSt.resByte (p : PortSt) (x : Nat) : Nat :=
  let f := x / 65536
  hbmAt p.id (((p.resFrames.find? (fun y => y.1 == f)).map (fun y => y.2)).getD f * 65536 + x % 65536)

/-- The channel address of a byte of a cached sector: the carve-out stands at the top of the channel (R337). -/
def PortSt.sectorAt (p : PortSt) (i off : Nat) : Nat := p.resByte (channelSize - p.carveBytes + i * 2048 + off)

/-- Whether the sector that holds a CAP address is cached at a port. -/
def PortSt.caches (p : PortSt) (a : Nat) : Bool :=
  p.sectors != 0 &&
    (let m := p.line (a / 2048 % p.sectors)
     m.1 && m.2.2.2 && m.2.2.1.toNat == a / 2048 / p.sectors)

/-- The hub of a CAP address runs. -/
def State.capUp (s : State) (a : Nat) : Bool := s.hubUp (a / 2 ^ 40)

/-- Bytes of a page can be read where they stand: its channel's die runs, or, of tier CAP, a sound index of its cache holds them or their hub runs (R341,
R342, R426). -/
def State.readable (s : State) (p : Pme) (lam : Nat) : Bool :=
  match p.tier with
  | 0 => s.dieUp (dieOf p.core)
  | 1 =>
    let q := s.port p.core
    let a := p.byteAt lam - 2 ^ 42
    if q.sectors = 0 then s.capUp a
    else !q.poisonIdx.contains (a / 2048 % q.sectors) && (q.line (a / 2048 % q.sectors)).2.2.2 && (q.caches a || s.capUp a)
  | _ => true

/-- The address at which the bytes of a page stand now: the carve-out holds a cached sector of a tier-CAP page (R340). -/
def State.phys (s : State) (p : Pme) (lam : Nat) : Nat :=
  if p.tier = 1 then
    let q := s.port p.core
    let a := p.byteAt lam - 2 ^ 42
    if q.caches a then q.sectorAt (a / 2048 % q.sectors) (a % 2048) else p.byteAt lam
  else p.byteAt lam

/-- The port that keeps the poison of an address: the channel's, or the hub's for its LPDDR-6. -/
def unitPort (a : Nat) : Nat := if a < 2 ^ 42 then a / 2 ^ 31 else 0x200 + 64 * ((a - 2 ^ 42) / 2 ^ 40)

/-- Whether a 64-byte unit of a byte range of the module's memory is poisoned (R344). -/
def State.poisoned (s : State) (a n : Nat) : Bool :=
  a < 2 ^ 50 && (s.port (unitPort a)).poison.any (fun u => a / 64 ≤ u && u ≤ (a + n - 1) / 64)

/-- Whole units copied: their bytes, and the poison of a unit that has it (R347). -/
def State.copyMem (s : State) (src dst n : Nat) : State :=
  let q := s.port (unitPort src)
  let bad := if src < 2 ^ 50 then q.poison.filter (fun u => src / 64 ≤ u && u < (src + n) / 64) else []
  let s1 : State := { s with mem := memPaste s.mem dst n (memCut s.mem src n) }
  if dst ≥ 2 ^ 50 then s1
  else
    let d := s1.port (unitPort dst)
    s1.putPort { d with poison := d.poison.filter (fun u => !(dst / 64 ≤ u && u < (dst + n) / 64)) ++ bad.map (fun u => u - src / 64 + dst / 64) }

/-- What `translate` gives for an access at a port (R11, R298). -/
inductive Trans where
  | code (c : Nat)                 -- 0x06, 0x07 or 0x08
  | walk (key : PageKey)           -- the MTLB does not hold the page
  | page (e : BufEntry) (key : PageKey) (p : Pme) (lam : Nat)
  deriving DecidableEq, Repr

/-- `translate(h, kind)` at a port, for `size` bytes (R11, R298). -/
def translate (s : State) (port asid : Nat) (h : W64) (kind size : Nat) : Trans :=
  match s.portEntry port asid (indexOf h) with
  | none => .code 0x08
  | some e =>
    if offsetOf h + size > e.length then .code 0x06
    else
      let l := homeLoc s.conf.lc e (offsetOf h)
      let key : PageKey := ⟨asid, indexOf h, l.page⟩
      match (s.port port).lookup key with
      | none => .walk key
      | some p => if e.allows kind && p.allows kind then .page e key p l.lam else .code 0x07

/-- The entry and the page become the most recently used ones of the port. -/
def State.touch (s : State) (port : Nat) (key : PageKey) (e : BufEntry) (p : Pme) : State :=
  let q := (s.port port).fill key p
  s.putPort { q with desc := fillDesc q.desc key.asid key.buf e }

/-- An access that a port refuses has used the entries that it looked up (R287, R299). -/
def State.looked (s : State) (port asid : Nat) (h : W64) : State :=
  match s.portEntry port asid (indexOf h) with
  | none => s
  | some e =>
    let key : PageKey := ⟨asid, indexOf h, (homeLoc s.conf.lc e (offsetOf h)).page⟩
    match (s.port port).lookup key with
    | some p => s.touch port key e p
    | none => let q := s.port port; s.putPort { q with desc := fillDesc q.desc asid (indexOf h) e }

end Sys2Proof.Machine
end

