-- ==== Sys2Proof/Machine/Context.lean ====
section
/-! DEFINITION. What a thread looks like outside a slot: the context message (R26, R27) among the messages of the fabric (R402, R403), an entry of the landing overflow area (R32), a thread
record (R211); and where the areas that firmware reserves lie in a channel (R209, R337). -/

namespace Sys2Proof.Machine

/-! ## The context message -/

/-- Cells of a context message (R26). -/
def Thread.cells (t : Thread) : Nat := 3 + (t.nbud + 6) / 7 + (4 * t.vbud + 6) / 7

/-- P7-P1 with P1 in bit 0 (R27). -/
def Thread.predBits (t : Thread) : Nat := (BitVec.ofFnLE (fun (i : Fin 7) => t.p[i.val + 1])).toNat

/-- The format tags of the registers of the vector budget, Vi at [6i+5:6i] (R27). -/
def Thread.tagBits (t : Thread) : Nat :=
  ((List.range 8).map (fun i => if i < t.vbud then (vget t.vtag i 0).toNat * 2 ^ (6 * i) else 0)).sum

/-- The seven words of the header cell, from offset 0x00 upward, with the status that they carry (R27). -/
def Thread.headerWords (t : Thread) (st : Status) : List W64 :=
  [t.pc,
   BitVec.ofNat 64 (t.asid % 2 ^ 12 + t.anchor % 2 ^ 10 * 2 ^ 12 + t.index % 2 ^ 10 * 2 ^ 22 + t.wgpos % 8 * 2 ^ 32 + t.sser % 2 ^ 29 * 2 ^ 35),
   BitVec.ofNat 64 (t.launch % 2 ^ 32 + t.gang % 2 ^ 32 * 2 ^ 32),
   BitVec.ofNat 64 (t.job % 2 ^ 24 + t.predBits * 2 ^ 24 + t.fpflags.toNat * 2 ^ 32 + t.nbud % 64 * 2 ^ 39 + t.vbud % 16 * 2 ^ 45 +
     st.code.toNat * 2 ^ 49),
   BitVec.ofNat 64 t.tagBits, t.q[15], t.q[14]]

/-- Words filled up with zeros to whole cells of seven. -/
def padCells (l : List W64) : List W64 := l ++ List.replicate ((7 - l.length % 7) % 7) 0

/-- The four words of a V register, from byte 0 upward. -/
def vWords (v : W256) : List W64 := (List.range 4).map (fun k => v.extractLsb' (64 * k) 64)

/-- The payload words of a context message (R26): the header cell with the status that it carries, Q1-Q14, the named registers and the vector
registers of the budgets. -/
def Thread.contextWords (t : Thread) (st : Status) : List W64 :=
  t.headerWords st ++ t.q.toList.take 14 ++ padCells (t.n.toList.take t.nbud) ++ padCells ((t.v.toList.take t.vbud).flatMap vWords)

/-- A field of a word of a context. -/
def ctxField (ws : List W64) (k hi lo : Nat) : Nat := bits (ws.getD k 0).toNat hi lo

/-- The registers that a context brings (R26, R27); a register beyond its budget holds 0. -/
def Thread.withContext (t : Thread) (ws : List W64) : Thread :=
  let n := ctxField ws 3 44 39
  let v := ctxField ws 3 48 45
  let at_ (k : Nat) : W64 := ws.getD k 0
  let vAt := 21 + (n + 6) / 7 * 7
  { t with
    pc := at_ 0, nbud := n, vbud := v, fpflags := BitVec.ofNat 7 (ctxField ws 3 38 32),
    p := Vector.ofFn (fun i => i.val == 0 || bitOf (ctxField ws 3 30 24) (i.val - 1)),
    q := Vector.ofFn (fun i => if i.val = 14 then at_ 6 else if i.val = 15 then at_ 5 else at_ (7 + i.val)),
    n := Vector.ofFn (fun i => if i.val < n then at_ (21 + i.val) else 0),
    v := Vector.ofFn (fun i =>
      if i.val < v then at_ (vAt + 4 * i.val + 3) ++ at_ (vAt + 4 * i.val + 2) ++ at_ (vAt + 4 * i.val + 1) ++ at_ (vAt + 4 * i.val) else 0),
    vtag := Vector.ofFn (fun i => if i.val < v then BitVec.ofNat 6 (ctxField ws 4 (6 * i.val + 5) (6 * i.val)) else 0) }

/-! ## Messages (R402, R403) -/

/-- TYPE of a message (R403). What passes between a port and its host, or between a port and itself, crosses no link and has none. -/
def Body.type : Body → Nat
  | .context _ => 0x01
  | .spawn _ _ _ => 0x02
  | .read _ | .imageRead _ _ _ | .kickRead _ _ => 0x03
  | .store _ => 0x04
  | .atomic _ => 0x05
  | .entry _ _ _ _ _ => 0x06
  | .fill _ | .sectorFill _ _ => 0x07
  | .arm _ => 0x08
  | .hub _ _ _ => 0x09
  | .revokeReply _ _ => 0x0A
  | .hostRead _ _ _ _ | .hostWrite _ _ _ _ => 0x00
  | .data _ _ _ _ _ | .line _ _ _ | .image _ _ _ | .kickValue _ _ => 0x10
  | .result _ _ _ _ _ _ => 0x11
  | .ack _ _ _ _ | .writeBackAck _ | .peerAck _ _ _ => 0x20
  | .accepted _ => 0x21
  | .grant _ _ _ _ _ _ _ | .grantAck _ _ _ => 0x22
  | .credit _ => 0x23
  | .revoke _ _ _ _ => 0x24
  | .inval _ _ _ _ _ => 0x25
  | .invalAnswer _ _ => 0x26
  | .barrier _ _ _ _ _ => 0x27
  | .release _ _ => 0x28
  | .board _ _ _ _ _ _ _ _ => 0x29
  | .boardReply _ _ _ _ => 0x2A
  | .wake _ _ => 0x2B
  | .kick _ _ _ _ => 0x2C
  | .saveNotice _ _ => 0x2D
  | .savedNotice _ _ | .awaySaved _ _ => 0x2E
  | .exitNotice _ _ | .awayExit _ | .awaySpawn _ _ _ => 0x2F
  | .wbNotice _ _ | .wbAck _ => 0x30
  | .dieLoss _ => 0x31
  | .engine _ _ _ _ _ _ => 0x38
  | .sector _ _ _ | .writeBack _ _ _ | .units _ _ _ => 0x39

/-- Cells of a message: those of R26 for a context; else its bytes of data in 56-byte payloads. -/
def Msg.cells (m : Msg) (s : State) : Nat :=
  let ofBytes (bs : List Byte) : Nat := max 1 ((bs.length + 55) / 56)
  match m.body with
  | .context tid => ((s.thread? tid).map Thread.cells).getD 1
  | .store r => ofBytes r.data
  | .entry _ _ bs _ _ | .data _ _ bs _ _ | .line _ bs _ | .engine _ _ _ _ _ bs | .sector _ _ bs | .writeBack _ _ bs | .units _ bs _ => ofBytes bs
  | .awaySaved _ ws => max 1 ((ws.length + 6) / 7)
  | _ => 1

/-- The payload carries uncorrectable data (R344, R402). -/
def Body.poison (b : Body) : Bool :=
  match b with
  | .data _ _ _ _ code | .units _ _ code => code == 0x0D
  | _ => false

/-- The header of cell `k` of what is sent as one message of the model, with the sequence number that its transmitter gives it (R402). More than 16 cells
are sent as several messages of at most 16, one behind the other. -/
def Msg.header (m : Msg) (s : State) (seq k : Nat) : W64 :=
  BitVec.ofNat 64 (m.dst % 1024 + m.src % 1024 * 2 ^ 10 + m.vc * 2 ^ 20 + m.body.type * 2 ^ 22 + (min 16 (m.cells s - k / 16 * 16) - 1) * 2 ^ 28 +
    seq % 2 ^ 16 * 2 ^ 32 + k % 16 * 2 ^ 48 + (if 1024 ≤ m.dst ∨ 1024 ≤ m.src then 2 ^ 52 else 0) + (if m.body.poison then 2 ^ 53 else 0) +
    (if m.aret then 2 ^ 54 else 0))

/-! ## Thread records (R211) -/

/-- A view register as it is saved (R388). -/
def View.words (v : View) : List W64 :=
  [v.mask, BitVec.ofNat 64 (v.board.toNat + v.gen.toNat * 2 ^ 32 + v.status.toNat * 2 ^ 48 + v.level.toNat * 2 ^ 50)]

/-- The word of a record that says when the thread wakes (R211). -/
def Thread.wakeWord (t : Thread) : W64 := if t.smode = 3 then t.kick0.getD 0 else t.wake

/-- What the record holds at 0x370: the deposits of a joining thread, or the job of a sleeping one. -/
def Thread.joinWords (t : Thread) : List W64 := if t.status = .sleeping then [t.wjob, 0, 0] else [t.depA, t.depB, t.depC]

/-- The 128 words of a thread record (R211); the status is that at the save. -/
def Thread.recordWords (t : Thread) (wcode : Nat) (wfail : W64) : List W64 :=
  t.headerWords t.status ++
    [BitVec.ofNat 64 (wcode % 256 * 2 ^ 48 + t.wdie % 16 * 2 ^ 44 + t.smode % 4 * 2 ^ 42 + (if t.hnd then 2 ^ 41 else 0))] ++
    t.q.toList.take 14 ++ [0, 0] ++ (t.n.toList.take t.nbud ++ List.replicate (32 - t.nbud) 0) ++ t.v.toList.flatMap vWords ++
    [t.epc, t.cause, t.faddr, t.trapbase] ++ t.frameQ.toList ++ [t.frameP.zeroExtend 64 &&& 0xFE] ++ [t.wakeWord] ++ t.joinWords ++ [wfail] ++
    t.vm.toList.flatMap View.words ++ List.replicate 6 0

/-- A view register from its two words (R388). -/
def View.ofWords (mask x : W64) : View :=
  ⟨x.extractLsb' 0 32, x.extractLsb' 32 16, x.extractLsb' 48 2, x.extractLsb' 50 7, mask⟩

/-- What a thread record brings back (R211, R213): the registers, the handler state, the views, and a sleep that goes on. The moment k0 of an `IDLE`
stands at the anchor (R206). -/
def Thread.withRecord (t : Thread) (ws : List W64) : Thread :=
  let at_ (k : Nat) : W64 := ws.getD k 0
  let asleep := ctxField ws 3 52 49 = Status.sleeping.code.toNat
  let idle := ctxField ws 7 43 42 = 3
  { t.withContext ws with
    q := Vector.ofFn (fun i => if i.val = 14 then at_ 6 else if i.val = 15 then at_ 5 else at_ (8 + i.val)),
    n := Vector.ofFn (fun i => at_ (24 + i.val)),
    v := Vector.ofFn (fun i => at_ (56 + 4 * i.val + 3) ++ at_ (56 + 4 * i.val + 2) ++ at_ (56 + 4 * i.val + 1) ++ at_ (56 + 4 * i.val)),
    epc := at_ 88, cause := at_ 89, faddr := at_ 90, trapbase := at_ 91, frameQ := Vector.ofFn (fun i => at_ (92 + i.val)),
    frameP := (at_ 108).truncate 8, hnd := bitOf (at_ 7).toNat 41, wcode := ctxField ws 7 55 48, wdie := ctxField ws 7 47 44,
    smode := if asleep then ctxField ws 7 43 42 else 0, wake := if asleep && !idle then at_ 109 else 0, wjob := if asleep then at_ 110 else 0,
    kick0 := if asleep && idle then t.kick0 else none, wait := if asleep then .sleep else .none, wfail := at_ 113,
    vm := Vector.ofFn (fun i => View.ofWords (at_ (114 + 2 * i.val)) (at_ (115 + 2 * i.val))) }

/-- Words as they lie in memory (R6). -/
def wordBytes (l : List W64) : List Byte := l.flatMap (fun w => leBytes 8 w.toNat)

/-! ## Row activations (R349) -/

/-- An access to a channel row counts one activation (log entry 15); a row that reaches RPTH is throttled for the window. -/
def countRow (core row : Nat) (s : State) : State :=
  let q := s.port core
  if !q.rpen then s
  else
    let n := ((q.rows.find? (fun x => x.1 == row)).map (fun x => x.2)).getD 0 + 1
    let rows := (row, n) :: q.rows.filter (fun x => x.1 != row)
    let limit := if q.rpth = 0 then 4096 else q.rpth.toNat
    if n = limit then
      let d := s.die (dieOf core)
      (s.putPort { q with rows := rows, throttled := row :: q.throttled, ctrs := vset q.ctrs 6 (vget q.ctrs 6 0 + 1),
                          rowNext := (row, s.dtcOf (dieOf core) + 1000) :: q.rowNext.filter (fun x => x.1 != row) }).putDie
        { d with ctr := vset d.ctr 9 (vget d.ctr 9 0 + 1) }
    else s.putPort { q with rows := rows }

/-- The rows of a channel that a range of bytes lies in, each once; none outside the channels. -/
def rowsAt (pa n : Nat) : List Nat :=
  if pa < 2 ^ 42 then ((List.range ((pa + n - 1) / 64 + 1 - pa / 64)).map (fun k => Config.rowOf (pa / 64 + k))).eraseDups else []

/-- Bytes of a channel are accessed: each of their rows counts (R349). -/
def State.countRows (s : State) (pa n : Nat) : State :=
  if pa < 2 ^ 42 && (s.port (pa / 2 ^ 31)).rpen then (rowsAt pa n).foldl (fun s r => countRow (pa / 2 ^ 31) r s) s else s

/-! ## The areas that firmware reserves -/

/-- The save pool share of a channel stands below the carve-out (R209, R337). -/
def PortSt.poolAt (p : PortSt) : Nat := channelSize - p.carveBytes - 8 * 2 ^ 20

/-- The landing overflow area of a core stands below that (R32, R337). -/
def PortSt.areaAt (p : PortSt) : Nat := p.poolAt - 32 * 2 ^ 20

/-- A byte of a die's save pool, by its offset: 8 MiB of each channel of the die in turn (R209, log entry 132). -/
def State.poolByte (s : State) (die x : Nat) : Nat :=
  let c := 64 * die + x / 2 ^ 23
  let q := s.port c
  q.resByte (q.poolAt + x % 2 ^ 23)

/-- An image of `n` bytes put into a die's save pool at an offset, frame by frame; its rows count (R349). -/
def State.pastePool (s : State) (die x n : Nat) (img : Memory) : State :=
  let first := x / 2 ^ 16
  (List.range ((x + n - 1) / 2 ^ 16 + 1 - first)).foldl (fun s k =>
    let a := max x ((first + k) * 2 ^ 16)
    let b := min (x + n) ((first + k + 1) * 2 ^ 16)
    ({ s with mem := memPaste s.mem (s.poolByte die a) (b - a) (memCut img (a - x) (b - a)) } : State).countRows (s.poolByte die a) (b - a)) s

/-- Words put into a die's save pool. -/
def State.writePool (s : State) (die x : Nat) (l : List W64) : State := s.pastePool die x (8 * l.length) (memWrite [] 0 (wordBytes l))

/-- The place of an entry of a core's landing overflow area, 1 KiB each (R32). -/
def State.areaByte (s : State) (core entry : Nat) : Nat :=
  let q := s.port core
  q.resByte (q.areaAt + 1024 * entry)

/-- A context written into its entry: as its message had it, with STATUS 0x0, or, of a thread that is swapped out, with the code of its status (R19, R27,
R32, log entry 132). -/
def State.writeArea (s : State) (t : Thread) (st : Status) (entry : Nat) : State :=
  let bs := wordBytes (t.contextWords (if st = .overflow then .ready else st))
  ({ s with mem := memWrite s.mem (s.areaByte t.core entry) bs } : State).countRows (s.areaByte t.core entry) bs.length

end Sys2Proof.Machine
end

