-- ==== Sys2Proof/Machine/Operands.lean ====
section
/-! DEFINITION. Reading operands (R42-R45), narrowing and extending (R43), the checks of R61 steps 5 to 8, the guarded-off push
(R52), the waits for a thread's writes (R88, R89, R96, R97) and the departure of a thread (R24, R29, R97, R200). -/

namespace Sys2Proof.Machine

/-! ## Types -/

/-- Width w of a TYPE (R55); 0 for `.xFk`, whose width is in the format register. -/
def width (t : Nat) : Nat :=
  match t with
  | 0 | 4 => 8
  | 1 | 5 => 16
  | 2 | 6 => 32
  | 3 | 7 => 64
  | 8 => 32
  | 9 | 10 => 16
  | _ => 0

def isSigned (t : Nat) : Bool := t < 4

/-- TYPE of an instruction of class IA, CP, FN or MA (R54). -/
def tyOf (f : Fields) : Nat := fbits f.func 4 0

/-- An integer operand narrowed to TYPE (R43, R64). -/
def narrow (t : Nat) (x : W64) : Int :=
  if isSigned t then toSigned (width t) x.toNat else ((x.toNat % 2 ^ width t : Nat) : Int)

/-- The w-bit pattern u of R64. -/
def pattern (t : Nat) (x : W64) : Nat := x.toNat % 2 ^ width t

/-- Reducing an exact integer to TYPE and extending it to 64 bits (R43, R64). -/
def extend (t : Nat) (r : Int) : W64 :=
  let v := (r % (2 ^ width t : Nat)).toNat
  if isSigned t then sext64 (width t) v else zext64 (width t) v

/-! ## Operand values -/

/-- Which operand IMM32 or EXT64 replaces (R42): 0 A, 1 B, 2 C, 3 none. -/
def replaced (g : Form) (len : Len) : Nat :=
  if g.imm && len != .l64 then
    (if g.c != .unread then 2 else if g.b != .unread then 1 else if g.a != .unread then 0 else 3)
  else 3

/-- Whether IMM32 is sign-extended: a `.s` TYPE (R43), `HADD` (R71), `SYSWR` (R203). `HMK` and `HCHK` extend with zeros. -/
def immSigned (op : Nat) (f : Fields) : Bool :=
  if op = 0x28 ∨ op = 0x2C then false
  else if op = 0x29 ∨ op = 0xF3 then true
  else isSigned (tyOf f)

/-- IMM32 extended, or EXT64 (R42, R43). -/
def immValue (op : Nat) (f : Fields) : W64 :=
  match f.len with
  | .l128 => f.ext
  | _ => if immSigned op f then sext64 32 f.ext.toNat else f.ext

/-- IMM32 or IMM11 as a signed displacement or word offset (R42, R60, R73). -/
def disp (f : Fields) : Int :=
  match f.len with
  | .l64 => f.imm11.toInt
  | _ => toSigned 32 f.ext.toNat

/-- A scalar operand as a 64-bit value (R43, R45). -/
def opndValue (s : State) (o : Opnd) : W64 :=
  match o with
  | .q k => s.th.q[k]
  | .n k => s.th.n[k]
  | .w k => s.wg.w[k]
  | .v k => s.th.v[k].truncate 64
  | .p k => if s.th.p[k] then 1 else 0
  | .imm k => ofInt64 ((k : Int) - 16)

/-- Operand k (0 A, 1 B, 2 C) of an instruction as a 64-bit value (R42, R43). -/
def src (op : Nat) (f : Fields) (k : Nat) (s : State) : W64 :=
  let o := if k = 0 then f.a else if k = 1 then f.b else f.c
  match form op f.func f.imm11 f.ext f.len with
  | none => opndValue s o
  | some g => if replaced g f.len = k then immValue op f else opndValue s o

/-- The V register that an operand names. -/
def vReg (o : Opnd) : Fin 8 :=
  match o with
  | .v k => k
  | _ => 0

/-- The value of a predicate operand. -/
def predOf (s : State) (o : Opnd) : Bool :=
  match o with
  | .p k => s.th.p[k]
  | _ => false

/-! ## The guard and the guarded-off push -/

/-- GUARD (R41). -/
def guardTrue (t : Thread) (g : Guard) : Bool := t.p[g.p] != g.neg

/-- The value that a guarded-off instruction of Result Q pushes (R52): A before narrowing; 0 where the form reads no A, where A
lies beyond the budget, or where A is a W register away from the anchor (log entry 20). So it is where A is a W register of a spawned thread at its own
anchor, which has no workgroup: R52 gives no value there (log entry 153). -/
def offValue (op : Nat) (f : Fields) (s : State) : W64 :=
  match form op f.func f.imm11 f.ext f.len with
  | none => 0
  | some g =>
    if replaced g f.len = 0 then immValue op f
    else if g.a = .unread then 0
    else
      match f.a with
      | .n k => if k.val < s.th.nbud then s.th.n[k] else 0
      | .v k => if k.val < s.th.vbud then s.th.v[k].truncate 64 else 0
      | .w k => if s.th.core = s.th.anchor ∧ !s.th.spawned then s.wg.w[k] else 0
      | o => opndValue s o

def resultOf (op : Nat) (f : Fields) : Res :=
  match form op f.func f.imm11 f.ext f.len with
  | none => .unit
  | some g => g.res

/-- A guarded-off instruction (R12, R52). -/
def guardOff (op : Nat) (f : Fields) (s : State) : State :=
  let v := offValue op f s
  s.onTh (fun t => (if resultOf op f = .q then t.push v else t).next (lenBytes f.len))

/-! ## Budgets, issuer and handler checks (R61 steps 6-8) -/

def opndIsW : Opnd → Bool
  | .w _ => true
  | _ => false

/-- An N or V operand at or above its budget (R47). -/
def overBudget (t : Thread) (o : Opnd) : Bool :=
  match o with
  | .n k => t.nbud ≤ k.val
  | .v k => t.vbud ≤ k.val
  | _ => false

def dstOverBudget (t : Thread) (d : Dst) : Bool :=
  match d with
  | .n k => t.nbud ≤ k.val
  | .v k => t.vbud ≤ k.val
  | _ => false

def dstIsW : Dst → Bool
  | .w _ => true
  | _ => false

/-- The operands that the word's positions read; an unread field is held as Q1 (R14, R42). -/
def usesW (f : Fields) : Bool := opndIsW f.a || opndIsW f.b || opndIsW f.c || dstIsW f.dst

/-- Tile, matrix and step-cache instructions (R172). -/
def isMatrix (op : Nat) : Bool := 0xC0 ≤ op && op ≤ 0xDB

/-- Instructions that only the issuer may execute (R48, R172, R260). -/
def issuerOnly (op : Nat) (f : Fields) : Bool := isMatrix op || op == 0xB8 || dstIsW f.dst

/-- Anchored instructions (R25, R100, R260). -/
def isAnchored (op : Nat) (f : Fields) : Bool :=
  (0x40 ≤ op && op ≤ 0x43) || op == 0x36 || op == 0x68 || op == 0x69 || op == 0x59 || op == 0xB8 || isMatrix op || usesW f

/-- Steps 6, 7 and 8 of R61: the code of the first check that fails. -/
def preCheck (op : Nat) (f : Fields) (s : State) : Option Nat :=
  let t := s.th
  if overBudget t f.a || overBudget t f.b || overBudget t f.c || dstOverBudget t f.dst then some 0x04
  else if t.spawned && isAnchored op f then some 0x0B
  else if issuerOnly op f && t.index != (s.wgOf t).issuer then some 0x0B
  else if isMatrix op && t.hnd && op != 0xD2 && op != 0xD5 && (s.wgOf t).park.isNone then some 0x0E
  else none

/-! ## Waiting for the thread's own writes -/

/-- A write that is complete needs no wait: an acknowledged write to a leased line is complete once `dtc()` has reached the
returned time (R88). -/
def SentWrite.pending (now : W64) (w : SentWrite) : Bool :=
  match w.state with
  | .until t => now.toNat < t.toNat
  | _ => true

/-- The writes sent from the current core that an instruction waits for (R89, R96, R97): a failed one raises its code, a held
one parks the thread, another makes it wait. Local writes not yet performed count with `loc`. -/
def awaitWrites (need : SentWrite → Bool) (loc : Bool) (k : State → State) (s : State) : State :=
  let t := s.th
  let now := s.dtcOf (dieOf t.core)
  let l := t.writes.filter (fun w => w.core == t.core && need w && w.pending now)
  match l.find? (fun w => match w.state with | .failed _ => true | _ => false) with
  | some w =>
    let code := match w.state with | .failed c => c | _ => 0
    raise code w.handle (s.onTh (fun t => { t with writes := t.writes.filter (fun x => x.id != w.id) }))
  | none =>
    let s1 := s.onTh (fun t => { t with awaited := l.map SentWrite.id })
    if l.any (fun w => match w.state with | .held => true | _ => false) then block .parkedFault .writes (s1.countCore t.core 7)
    else if !l.isEmpty then block .waiting .writes s1
    else if loc && !t.fwd.isEmpty then block .waiting .localWrites s
    else k s

/-- Whether a scope waits for a write (R96): 0 TH, 1 GR, 2 GA, 3 DI, 4 MO, 5 SY. At GA a queue entry counts as a write to the local memory
of the anchor's plaza, at GR as one to the workgroup's allocation where its bank lies there, from byte `lo` up to `hi`; a home or a spawn target counts
as one in the current plaza. -/
def inScope (scope core anchor lo hi : Nat) (w : SentWrite) : Bool :=
  let wide := 4 ≤ scope || (3 ≤ scope && dieOf w.target == dieOf core)
  match w.kind with
  | .localMem => 1 ≤ scope
  | .home tier => if tier ≤ 1 then wide || (2 ≤ scope && plazaOf w.target == plazaOf core) else scope == 5
  | .spawn => wide || (2 ≤ scope && plazaOf w.target == plazaOf core)
  | .queue peer =>
    let a := (32 * (w.target % 8) + bits w.handle.toNat 14 10) * 0x8000
    if peer then scope == 5 else wide || (plazaOf w.target == plazaOf anchor && (2 ≤ scope || (scope == 1 && lo ≤ a && a < hi)))

/-- The wait of `FENCE.s` (R96). -/
def awaitScope (scope : Nat) (k : State → State) (s : State) : State :=
  awaitWrites (inScope scope s.th.core s.th.anchor s.wg.lbase (s.wg.lbase + s.wg.localLen)) (1 ≤ scope) k s

/-! ## Departure -/

/-- The thread sends its context to another core (R24, R29, R33): OUTBOUND, its pc unchanged, its reservation cleared (R107).
SY_TRAPBASE is the kernel's value again on landing (R204). -/
def depart (dest : Nat) (s : State) : State :=
  let t := s.th
  let aret := !t.spawned && dest == t.anchor
  let s1 : State := { s with
    ports := s.ports.map (fun (p : PortSt) => { p with resv := p.resv.filter (fun r => r.1 != t.tid) }),
    net := s.net ++ [⟨t.core, dest, 0, aret, .context t.tid, .moving⟩] }
  (s1.countCore t.core 6).onTh (fun t => { t with status := .outbound, wait := .none })

/-- A migration to another core: handler mode forbids it (R200), a die of this module that does not run poisons it (R37), and the write-drain
interlock comes first (R97), so that an earlier store of the thread is performed before it arrives (R34). -/
def migrate (dest : Nat) (faddr : W64) (s : State) : State :=
  let t := s.th
  if t.hnd then raise 0x0E 0 s
  else if dest < 1024 && !s.dieUp (dieOf dest) then raise 0x0D faddr s
  else
    let aret := !t.spawned && dest == t.anchor
    awaitWrites (fun w => aret || w.leased || w.target != dest) true (fun s => depart dest (s.onTh (fun t => { t with pendH := faddr }))) s

/-- An anchored instruction away from its anchor returns there first (R25). -/
def atAnchor (k : State → State) (s : State) : State :=
  if s.th.core = s.th.anchor then k s else migrate s.th.anchor 0 s

/-- An access to local memory executes on any core of the anchor's plaza (R23, R93). -/
def atPlaza (k : State → State) (s : State) : State :=
  if plazaOf s.th.core = plazaOf s.th.anchor then k s else migrate s.th.anchor 0 s

/-! ## Running an instruction -/

/-- Steps 5 to 9 of R61 for an instruction of slot `op`: guard, checks, the return to the anchor, then its own effect. -/
def runOp (op : Nat) (f : Fields) (body : State → State) (s : State) : Host.Outcome State Fault Refusal :=
  .next (
    if !guardTrue s.th f.guard then guardOff op f s
    else
      match preCheck op f s with
      | some code => raise code 0 s
      | none => if isAnchored op f then atAnchor body s else body s)

end Sys2Proof.Machine
end

