-- ==== Sys2Proof/Machine/Batch.lean ====
section
/-! DEFINITION. The batches of a matrix sequencer (R174-R176, R192, R193, R196). -/

namespace Sys2Proof.Machine

def Sequencer.stopped (q : Sequencer) : Bool := q.cause != 0

/-- The number that the next batch takes (R174). -/
def Sequencer.nextNo (q : Sequencer) : Nat := if q.lvalid then (q.last + 1) % 4 else 0

def Sequencer.state (q : Sequencer) (n : Nat) : Nat := vget q.batches n 0

/-- A batch in RUN (1) or STOP (3) holds its number (R174). -/
def Sequencer.holds (q : Sequencer) (n : Nat) : Bool := q.state n == 1 || q.state n == 3

/-- A RUN batch none of whose instructions is unfinished becomes DONE once every earlier batch has ended (R174). -/
def Sequencer.settleFrom (q : Sequencer) : List Nat → Sequencer
  | [] => q
  | n :: ns =>
    if q.state n = 1 ∧ !(q.queue.any (fun i => i.batch == some n)) then
      Sequencer.settleFrom { q with batches := vset q.batches n 2 } ns
    else if q.holds n then q
    else Sequencer.settleFrom q ns

def Sequencer.settle (q : Sequencer) : Sequencer :=
  q.settleFrom [(q.last + 1) % 4, (q.last + 2) % 4, (q.last + 3) % 4, q.last % 4]

/-- `MCOMMIT`, where the number is free (R174). A batch whose instruction is stopped enters STOP. -/
def Sequencer.commit (q : Sequencer) : Sequencer :=
  let n := q.nextNo
  let headOpen := match q.queue with | i :: _ => i.batch.isNone | [] => false
  Sequencer.settle { q with
    queue := q.queue.map (fun i => if i.batch.isNone then { i with batch := some n } else i)
    batches := vset q.batches n (if q.stopped && headOpen then 3 else 1)
    last := n, lvalid := true, openLen := 0, pendingCommit := false }

/-- `MCLEAR` of a stopped sequencer (R192): every batch that holds its number becomes CLEAR, the open batch is discarded. The issue view
stays (R173); a discarded `UFDEF` has no effect. -/
def Sequencer.clear (q : Sequencer) : Sequencer :=
  { q with queue := [], step := 0, begun := false, held := false, ownDone := false, probe := Probe.none, openLen := 0, shape := q.view, issueUf := q.unfold, batches := q.batches.map (fun b => if b = 1 ∨ b = 3 then 4 else b),
           cause := 0, sbatch := 0, sstep := 0, sidx := 0, spos := 0, spc := 0, pendingCommit := false, fault := none }

/-- STATE of the status word (R193). -/
def Sequencer.stateCode (q : Sequencer) : Nat := if q.stopped then 2 else if q.queue.isEmpty then 0 else 1

/-- The status word of R193; the position of an instruction in a batch of more than 64 is its low 6 bits (log entry 136). -/
def Sequencer.statusWord (q : Sequencer) : W64 :=
  BitVec.ofNat 64 (q.stateCode + (if q.lvalid then 16 else 0) + q.last * 32 + q.sbatch * 128 +
    (q.state 0 * 2 ^ 9 + q.state 1 * 2 ^ 12 + q.state 2 * 2 ^ 15 + q.state 3 * 2 ^ 18) + q.spos * 2 ^ 21 +
    q.sidx % 64 * 2 ^ 24 + q.sstep % 1024 * 2 ^ 30 + q.cause * 2 ^ 40)

/-- What `MWAIT b` finds (R192): none while the issuer waits. -/
def Sequencer.answer (q : Sequencer) (b : Nat) : Option Bool :=
  match q.state b with
  | 1 => if q.stopped then some false else none
  | 2 => some true
  | _ => some false

/-- A stop (R183): the head instruction, its step, its cause. The open batch has no number yet: for SBATCH of an instruction in it R193 gives none, and the
model reports the number that the batch would take next (log entry 160). -/
def Sequencer.stop (q : Sequencer) (cause step spos : Nat) : Sequencer :=
  match q.queue with
  | [] => q
  | i :: _ =>
    { q with cause := cause, sstep := step, sidx := i.pos, spos := spos, spc := i.pc, sbatch := i.batch.getD q.nextNo,
             batches := match i.batch with | some n => vset q.batches n 3 | none => q.batches }

/-- The head instruction has finished its last step (R174). -/
def Sequencer.finishHead (q : Sequencer) : Sequencer :=
  Sequencer.settle { q with queue := q.queue.drop 1, step := 0, begun := false, held := false, ownDone := false, probe := Probe.none }

/-- A workgroup's sequencer replaced; threads that wait for the sequencer run again. -/
def State.putSeq (s : State) (w : Workgroup) (q : Sequencer) : State :=
  (s.putWg { w with seq := q }).wakeWaiting (fun t => t.wait == .sequencer && w.is t)

/-- An item of the plaza task scheduler has finished or is discarded (R317). -/
def State.dropItem (s : State) (plaza serial : Nat) : State :=
  let p := s.plaza plaza
  s.putPlaza { p with items := p.items.filter (fun i => i.serial != serial), doomed := p.doomed.filter (· != serial) }

/-- Parts of an instruction at the other workgroups of the gang are dropped with it (R185). -/
def State.dropParts (s : State) (w : Workgroup) (serial : Nat) : State :=
  let s1 : State := { s with wgs := s.wgs.map (fun x =>
      if x.launch = w.launch ∧ x.gang = w.gang then
        { x with seq := { x.seq with parts := x.seq.parts.filter (fun p => p.instr.serial != serial) } }
      else x) }
  s1.wakeWaiting (fun t => t.wait == .sequencer && t.launch == w.launch && t.gang == w.gang)

/-- The instructions of a sequencer leave the plaza order and the other sequencers of the gang. -/
def State.dropQueue (s : State) (w : Workgroup) (q : Sequencer) : State :=
  q.queue.foldl (fun s i => (s.dropItem (plazaOf w.anchor) i.serial).dropParts w i.serial) s

/-- `MCLEAR` and the clearings of R192 and R196. -/
def State.clearSeq (s : State) (wid : Nat) : State :=
  let w := s.wgBy wid
  let s1 := s.dropQueue w w.seq
  let w1 := s1.wgBy wid
  s1.putSeq w1 w1.seq.clear

/-- The issuer of a workgroup has exited. -/
def Workgroup.issuerGone (w : Workgroup) : Bool := w.exited.contains w.issuer

/-- The issuer's exit (R196): a stop is cleared; otherwise the open batch, an empty one too, is committed with the next number, at once where
that number is free. Log entry 12. -/
def State.issuerExit (s : State) (wid : Nat) : State :=
  let w := s.wgBy wid
  let q := w.seq
  if q.stopped then s.clearSeq wid
  else s.putSeq w (if q.holds q.nextNo then { q with pendingCommit := true } else q.commit)

/-- A stop of the head instruction of a workgroup's sequencer, or of its part `spos`. After the issuer's exit the stopped batch and
everything behind it is cleared at once (R183, R196). -/
def State.stopSeq (s : State) (wid cause step spos : Nat) : State :=
  let w := s.wgBy wid
  let s1 := s.putSeq w (w.seq.stop cause step spos)
  if w.issuerGone then s1.clearSeq wid else s1

end Sys2Proof.Machine
end

