-- ==== Sys2Proof/Machine/Flags.lean ====
section
/-! DEFINITION. Conditions (R56) and the sticky flags of SY_FPFLAGS (R205), whose bits MFLAGS [6:0] shares. -/

namespace Sys2Proof.Machine

/-- COND on integers whose signedness has already been taken (R56). Codes 6 and 7 are not integer conditions. -/
def condInt (cond : Nat) (a b : Int) : Bool :=
  match cond with
  | 0 => a == b
  | 1 => a != b
  | 2 => a < b
  | 3 => a ≤ b
  | 4 => a > b
  | 5 => a ≥ b
  | _ => false

/-- How two float values compare: none where either is NaN. -/
def condFloat (cond : Nat) (c : Option Ordering) : Bool :=
  match cond, c with
  | 0, some o => o == .eq
  | 1, some o => o != .eq
  | 1, none => true
  | 2, some o => o == .lt
  | 3, some o => o != .gt
  | 4, some o => o == .gt
  | 5, some o => o != .lt
  | 6, c => c.isNone
  | 7, c => c.isSome
  | _, _ => false

def flagNV : BitVec 7 := 1
def flagDZ : BitVec 7 := 2
def flagOF : BitVec 7 := 4
def flagUF : BitVec 7 := 8
def flagNX : BitVec 7 := 16
def flagQNAN : BitVec 7 := 32
def flagQSAT : BitVec 7 := 64

end Sys2Proof.Machine
end

