-- ==== Sys2Proof/Machine/Float.lean ====
section
/-! DEFINITION. Number formats (R221-R229), exact values, `round` (R233, R234, R429) and the exact operations of R242 and R243. -/

namespace Sys2Proof.Machine

/-! ## Formats and values -/

/-- A floating format: sign bit, exponent and mantissa bits, bias, special-value policy (0 IEEE, 1 NAN1, 2 FINITE), and whether it
is one of the standard formats (R221, R223). -/
structure Fmt where
  sign : Bool
  e    : Nat
  m    : Nat
  bias : Int
  spec : Nat
  std  : Bool
  deriving DecidableEq, Repr

def fmtF32 : Fmt := ⟨true, 8, 23, 127, 0, true⟩
def fmtF16 : Fmt := ⟨true, 5, 10, 15, 0, true⟩
def fmtB16 : Fmt := ⟨true, 8, 7, 127, 0, true⟩

/-- The format of a float TYPE (R55). -/
def stdFmt (t : Nat) : Fmt := if t = 8 then fmtF32 else if t = 9 then fmtF16 else fmtB16

/-- The width of a code (R223). -/
def Fmt.width (F : Fmt) : Nat := (if F.sign then 1 else 0) + F.e + F.m

/-- A value: NaN, infinity, or (−1)^neg · mant · 2^exp. -/
inductive Val where
  | nan (signalling : Bool)
  | inf (neg : Bool)
  | fin (neg : Bool) (mant : Nat) (exp : Int)
  deriving DecidableEq, Repr

def Val.isNan : Val → Bool
  | .nan _ => true
  | _ => false

def Val.isSig : Val → Bool
  | .nan true => true
  | _ => false

def Val.isInf : Val → Bool
  | .inf _ => true
  | _ => false

def Val.isZero : Val → Bool
  | .fin _ 0 _ => true
  | _ => false

def Val.neg : Val → Val
  | .nan b => .nan b
  | .inf b => .inf (!b)
  | .fin b m e => .fin (!b) m e

def Val.abs : Val → Val
  | .nan b => .nan b
  | .inf _ => .inf false
  | .fin _ m e => .fin false m e

def Val.isNeg : Val → Bool
  | .nan _ => false
  | .inf b => b
  | .fin b _ _ => b

/-- The value of a code (R225, R226); with FZI a subnormal is a zero of its sign. -/
def decodeVal (F : Fmt) (fzi : Bool) (code : Nat) : Val :=
  let mag := code % 2 ^ (F.e + F.m)
  let s := F.sign && bitOf code (F.e + F.m)
  let x := mag / 2 ^ F.m
  let f := mag % 2 ^ F.m
  if F.spec = 0 ∧ F.e ≥ 1 ∧ x = 2 ^ F.e - 1 then
    if f = 0 then .inf s else .nan (F.std && f / 2 ^ (F.m - 1) == 0)
  else if F.spec = 1 ∧ code % 2 ^ F.width = 2 ^ F.width - 1 then .nan false
  else if F.e = 0 then .fin s f (-F.bias)
  else if x = 0 then (if fzi then .fin s 0 0 else .fin s f (1 - F.bias - F.m))
  else .fin s (2 ^ F.m + f) ((x : Int) - F.bias - F.m)

/-- Formats that have infinities (R226). -/
def Fmt.hasInf (F : Fmt) : Bool := F.spec == 0 && F.e ≥ 1

/-- The code, sign 0, of the largest finite magnitude Mf (R227). -/
def Fmt.maxCode (F : Fmt) : Nat :=
  if F.hasInf then (2 ^ F.e - 1) * 2 ^ F.m - 1
  else if F.spec = 1 then 2 ^ (F.e + F.m) - 2
  else 2 ^ (F.e + F.m) - 1

/-- Mf as a mantissa and an exponent. -/
def Fmt.maxVal (F : Fmt) : Nat × Int :=
  match decodeVal F false F.maxCode with
  | .fin _ m e => (m, e)
  | _ => (0, 0)

/-- The canonical NaN (R221, R226); a FINITE format has none and gives the code 0. -/
def Fmt.nanCode (F : Fmt) : Nat :=
  if F.spec = 0 then (2 ^ F.e - 1) * 2 ^ F.m + 2 ^ (F.m - 1) else if F.spec = 1 then 2 ^ F.width - 1 else 0

def Fmt.signBit (F : Fmt) (neg : Bool) : Nat := if neg && F.sign then 2 ^ (F.e + F.m) else 0

/-- The code of an infinity. -/
def Fmt.infCode (F : Fmt) (neg : Bool) : Nat := F.signBit neg + (2 ^ F.e - 1) * 2 ^ F.m

def Fmt.largest (F : Fmt) (neg : Bool) : Nat := F.signBit neg + F.maxCode

/-! ## Comparing -/

/-- a·2^ea against b·2^eb. -/
def cmpMag (a : Nat) (ea : Int) (b : Nat) (eb : Int) : Ordering :=
  if ea ≥ eb then compare (a * 2 ^ (ea - eb).toNat) b else compare a (b * 2 ^ (eb - ea).toNat)

/-- The order of two values; none where either is NaN. Zeros of both signs are equal (R244). -/
def cmpVal (a b : Val) : Option Ordering :=
  match a, b with
  | .nan _, _ => none
  | _, .nan _ => none
  | .inf x, .inf y => some (if x = y then .eq else if x then .lt else .gt)
  | .inf x, _ => some (if x then .lt else .gt)
  | _, .inf y => some (if y then .gt else .lt)
  | .fin x m e, .fin y n g =>
    if m = 0 ∧ n = 0 then some .eq
    else if m = 0 then some (if y then .gt else .lt)
    else if n = 0 then some (if x then .lt else .gt)
    else if x = y then some (if x then (cmpMag m e n g).swap else cmpMag m e n g)
    else some (if x then .lt else .gt)

/-! ## Rounding -/

/-- Rounding modes (R57): 0 RNE, 1 RTZ, 2 RUP, 3 RDN. `up` tells whether n0 is followed by n0 + 1. -/
def roundsUp (rm : Nat) (neg odd : Bool) (rem half : Nat) (sticky : Bool) : Bool :=
  let inexact := rem != 0 || sticky
  match rm with
  | 0 => rem > half || (rem == half && half != 0 && (sticky || odd))
  | 1 => false
  | 2 => !neg && inexact
  | _ => neg && inexact

/-- mant·2^exp, with a part below the last bit if `sticky`, as a multiple of 2^q: the multiple and whether it is inexact.
`odd` says which multiples have an odd code. -/
def roundAt (odd : Nat → Bool) (rm : Nat) (neg : Bool) (mant : Nat) (exp : Int) (sticky : Bool) (q : Int) : Nat × Bool :=
  if exp ≥ q then (mant * 2 ^ (exp - q).toNat, sticky)
  else
    let d := (q - exp).toNat
    let n0 := mant / 2 ^ d
    let rem := mant % 2 ^ d
    (n0 + (if roundsUp rm neg (odd n0) rem (2 ^ (d - 1)) sticky then 1 else 0), rem != 0 || sticky)

/-- Whether the code of n·2^q is odd: in a format without mantissa bits that is the parity of the exponent field. -/
def Fmt.oddCode (F : Fmt) (q : Int) (n : Nat) : Bool := if F.m = 0 ∧ F.e ≠ 0 ∧ n ≠ 0 then (q + F.bias) % 2 == 1 else n % 2 == 1

/-- The exponent of the most significant bit. -/
def topExp (mant : Nat) (exp : Int) : Int := exp + (mant.log2 : Int)

/-- The code of n·2^q, not beyond the largest finite value. -/
def Fmt.pack (F : Fmt) (neg : Bool) (n : Nat) (q : Int) : Nat :=
  if n = 0 then F.signBit neg
  else if F.e = 0 then F.signBit neg + n
  else if n < 2 ^ F.m then F.signBit neg + n
  else
    let (n', q') := if n ≥ 2 ^ (F.m + 1) then (n / 2, q + 1) else (n, q)
    F.signBit neg + (q' + F.m + F.bias).toNat * 2 ^ F.m + (n' - 2 ^ F.m)

/-- Steps 2 and 3 of R233 and the flags of R234 for a finite value of a format taken with a sign bit. -/
def roundSigned (F : Fmt) (rm : Nat) (fzo sat : Bool) (neg : Bool) (mant : Nat) (exp : Int) (sticky : Bool) : Nat × BitVec 7 :=
  if mant = 0 ∧ !sticky then (F.signBit neg, 0)
  else
    let emin := 1 - F.bias
    let q := if F.e = 0 then -F.bias else max (topExp mant exp - F.m) (emin - F.m)
    let (n, inexact) := roundAt (F.oddCode q) rm neg mant exp sticky q
    let (nu, _) := roundAt (F.oddCode (topExp mant exp - F.m)) rm neg mant exp sticky (topExp mant exp - F.m)
    let tiny := F.e ≠ 0 && nu != 0 && cmpMag nu (topExp mant exp - F.m) 1 emin == .lt
    if tiny && fzo then (F.signBit neg, flagUF ||| flagNX)
    else if cmpMag n q F.maxVal.1 F.maxVal.2 == .gt then
      let toInf := rm = 0 ∨ (rm = 2 ∧ !neg) ∨ (rm = 3 ∧ neg)
      (if toInf ∧ !sat ∧ F.hasInf then F.infCode neg else F.largest neg, flagOF ||| flagNX)
    else (F.pack neg n q, (if inexact then flagNX else 0) ||| (if tiny && inexact then flagUF else 0))

/-- A negative value rounded into a format without a sign bit (R429). -/
def roundUnsigned (F : Fmt) (rm : Nat) (fzo sat : Bool) (mant : Nat) (exp : Int) (sticky : Bool) : Nat × BitVec 7 :=
  let (c, fl) := roundSigned { F with sign := true } rm fzo sat true mant exp sticky
  if c % 2 ^ (F.e + F.m) = 0 ∧ fl &&& flagOF = 0 then (0, fl) else (F.nanCode, flagNV)

/-- Rounding of a finite value (R233, R429). -/
def roundFin (F : Fmt) (rm : Nat) (fzo sat : Bool) (neg : Bool) (mant : Nat) (exp : Int) (sticky : Bool) : Nat × BitVec 7 :=
  if neg && !F.sign then roundUnsigned F rm fzo sat mant exp sticky else roundSigned F rm fzo sat neg mant exp sticky

/-- `round(x, fmt, ctl)` (R11, R233). -/
def roundVal (F : Fmt) (rm : Nat) (fzo sat : Bool) (v : Val) : Nat × BitVec 7 :=
  match v with
  | .nan _ => (F.nanCode, if F.spec = 2 then flagNV else 0)
  | .inf neg =>
    if neg && !F.sign then (F.nanCode, flagNV)
    else if F.hasInf then (F.infCode neg, 0)
    else (F.largest neg, flagOF)
  | .fin neg m e => roundFin F rm fzo sat neg m e false

/-! ## Exact operations -/

/-- A result before rounding: a value, or one known up to a part below its last bit; and the flags it raises. -/
structure Exact where
  val    : Val
  sticky : Bool
  flags  : BitVec 7
  deriving DecidableEq, Repr

def exactVal (v : Val) : Exact := ⟨v, false, 0⟩
def invalid : Exact := ⟨.nan false, false, flagNV⟩

/-- NV for a signalling NaN among the operands (R222). -/
def sigFlags (l : List Val) : BitVec 7 := if l.any Val.isSig then flagNV else 0

/-- Rounding an exact result: its flags and those of the rounding. -/
def Exact.round (x : Exact) (F : Fmt) (rm : Nat) (fzo sat : Bool) : Nat × BitVec 7 :=
  match x.val with
  | .fin neg m e => let (c, fl) := roundFin F rm fzo sat neg m e x.sticky; (c, fl ||| x.flags)
  | v => let (c, fl) := roundVal F rm fzo sat v; (c, fl ||| x.flags)

/-- a · b (R243): a product of two NaN-free operands is exact; ∞ · 0 is invalid. -/
def mulVal (a b : Val) : Exact :=
  match a, b with
  | .nan _, _ => exactVal (.nan false)
  | _, .nan _ => exactVal (.nan false)
  | .inf x, .inf y => exactVal (.inf (x != y))
  | .inf x, .fin y m _ => if m = 0 then invalid else exactVal (.inf (x != y))
  | .fin x m _, .inf y => if m = 0 then invalid else exactVal (.inf (x != y))
  | .fin x m e, .fin y n g => exactVal (.fin (x != y) (m * n) (e + g))

/-- The least exponent of the terms that are finite and not zero. -/
def minExp (l : List Val) : Int :=
  (l.foldl (fun (r : Option Int) v =>
    match v, r with
    | .fin _ (_ + 1) e, none => some e
    | .fin _ (_ + 1) e, some x => some (min x e)
    | _, r => r) none).getD 0

/-- The exact sum of terms (R243, R252, R253): infinities of both signs are invalid; a zero sum keeps the sign of terms that are all
zeros of one sign, and is −0 only in RDN otherwise. -/
def sumVals (rm : Nat) (l : List Val) : Exact :=
  if l.any Val.isNan then exactVal (.nan false)
  else if l.any Val.isInf then
    let infs := l.filter Val.isInf
    if infs.any Val.isNeg && infs.any (fun v => !v.isNeg) then invalid else exactVal (.inf (infs.any Val.isNeg))
  else
    let e := minExp l
    let n : Int := l.foldl (fun r v =>
      match v with
      | .fin b (m + 1) x => r + (if b then -1 else 1) * (((m + 1) * 2 ^ (x - e).toNat : Nat) : Int)
      | _ => r) 0
    if n = 0 then
      if l.all (fun v => v.isZero && v.isNeg) then exactVal (.fin true 0 0)
      else if l.all (fun v => v.isZero && !v.isNeg) then exactVal (.fin false 0 0)
      else exactVal (.fin (rm == 3) 0 0)
    else exactVal (.fin (n < 0) n.natAbs e)

/-- a · b + c with one rounding (R242, R243): ∞ · 0 is invalid also with a NaN c. -/
def fmaVal (rm : Nat) (a b c : Val) : Exact :=
  let p := mulVal a b
  if p.flags != 0 then p else sumVals rm [p.val, c]

/-- The quotient with at least 80 bits (R243). -/
def divVal (a b : Val) : Exact :=
  match a, b with
  | .nan _, _ => exactVal (.nan false)
  | _, .nan _ => exactVal (.nan false)
  | .inf _, .inf _ => invalid
  | .inf x, .fin y _ _ => exactVal (.inf (x != y))
  | .fin x _ _, .inf y => exactVal (.fin (x != y) 0 0)
  | .fin x m e, .fin y n g =>
    if n = 0 then (if m = 0 then invalid else ⟨.inf (x != y), false, flagDZ⟩)
    else
      let k := 80 + n.log2
      ⟨.fin (x != y) (m * 2 ^ k / n) (e - g - k), m * 2 ^ k % n != 0, 0⟩

/-- The integer square root, bit by bit. -/
def isqrtFrom (n : Nat) : Nat → Nat → Nat
  | 0, r => r
  | k + 1, r => let x := r + 2 ^ k; isqrtFrom n k (if x * x ≤ n then x else r)

def isqrt (n : Nat) : Nat := isqrtFrom n (n.log2 / 2 + 1) 0

/-- √a (R243). -/
def sqrtVal (a : Val) : Exact :=
  match a with
  | .nan _ => exactVal (.nan false)
  | .inf b => if b then invalid else exactVal (.inf false)
  | .fin b m e =>
    if m = 0 then exactVal (.fin b 0 0)
    else if b then invalid
    else
      let k := 160 + (e % 2).toNat
      let n := m * 2 ^ k
      let r := isqrt n
      ⟨.fin false r ((e - k) / 2), r * r != n, 0⟩

/-- 1 ÷ √a (R243). -/
def rsqVal (a : Val) : Exact :=
  match a with
  | .nan _ => exactVal (.nan false)
  | .inf b => if b then invalid else exactVal (.fin false 0 0)
  | .fin b m e =>
    if m = 0 then ⟨.inf b, false, flagDZ⟩
    else if b then invalid
    else
      let m' := m * 2 ^ (e % 2).toNat
      let h := (e - e % 2) / 2
      let k := 100 + m'.log2
      let r := isqrt (2 ^ (2 * k) / m')
      ⟨.fin false r (-h - k), r * r * m' != 2 ^ (2 * k), 0⟩

/-! ## 2^a and log2 a by narrowing bounds -/

/-- Bounds of Σ z^(2k+1)/(2k+1) for 0 ≤ z ≤ 1/3, scaled by 2^p: the partial sums and the powers so far. -/
def atanhSum (p : Nat) (z2lo z2hi : Nat) : Nat → Nat → Nat × Nat → Nat × Nat → Nat × Nat
  | 0, _, (_, thi), (lo, hi) => (lo, hi + 2 * thi + 1)
  | n + 1, k, (tlo, thi), (lo, hi) =>
    atanhSum p z2lo z2hi n (k + 1) (tlo * z2lo / 2 ^ p, thi * z2hi / 2 ^ p + 1)
      (lo + tlo / (2 * k + 1), hi + thi / (2 * k + 1) + 1)

/-- Bounds of atanh z for z = num/den ≤ 1/3. -/
def atanhBounds (p num den : Nat) : Nat × Nat :=
  let lo := num * 2 ^ p / den
  let hi := lo + 1
  atanhSum p (lo * lo / 2 ^ p) (hi * hi / 2 ^ p + 1) (p / 3 + 2) 0 (lo, hi) (0, 0)

/-- Bounds of ln 2 = 2 atanh(1/3), scaled by 2^p. -/
def ln2Bounds (p : Nat) : Nat × Nat := let (a, b) := atanhBounds p 1 3; (2 * a, 2 * b)

/-- Bounds of Σ x^k/k! for 0 ≤ x < 1, scaled by 2^p. -/
def expSum (p : Nat) (xlo xhi : Nat) : Nat → Nat → Nat × Nat → Nat × Nat → Nat × Nat
  | 0, _, (_, thi), (lo, hi) => (lo, hi + 2 * thi + 1)
  | n + 1, k, (tlo, thi), (lo, hi) =>
    expSum p xlo xhi n (k + 1) (tlo * xlo / 2 ^ p / (k + 1), thi * xhi / 2 ^ p / (k + 1) + 1) (lo + tlo, hi + thi)

/-- Bounds of 2^f for f = num/2^s in (0, 1), scaled by 2^p. -/
def exp2Bounds (p num s : Nat) : Nat × Nat :=
  let (l, h) := ln2Bounds p
  expSum p (num * l / 2 ^ s) (num * h / 2 ^ s + 1) (p / 2 + 4) 0 (2 ^ p, 2 ^ p) (0, 0)

/-- Bounds of log2 y for y = num/2^s in (1, 2), scaled by 2^p. -/
def log2Bounds (p num s : Nat) : Nat × Nat :=
  let (a, b) := atanhBounds (p + 8) (num - 2 ^ s) (num + 2 ^ s)
  let (l, h) := ln2Bounds (p + 8)
  (2 * a * 2 ^ p / h, 2 * b * 2 ^ p / l + 1)

/-- The floor of a bounded value at `bits` fraction bits: the precision doubles until both bounds agree. Log entry 13. -/
def settleFloor (bounds : Nat → Nat × Nat) (bits : Nat) : Nat → Nat → Nat
  | 0, p => (bounds p).1 / 2 ^ (p - bits)
  | n + 1, p =>
    let (lo, hi) := bounds p
    if lo / 2 ^ (p - bits) = hi / 2 ^ (p - bits) then lo / 2 ^ (p - bits) else settleFloor bounds bits n (2 * p)

/-- 2^a (R243). Beyond ±2,000 the result overflows or is tiny whatever a is. -/
def exp2Val (a : Val) : Exact :=
  match a with
  | .nan _ => exactVal (.nan false)
  | .inf b => exactVal (if b then .fin false 0 0 else .inf false)
  | .fin neg m e =>
    if m = 0 then exactVal (.fin false 1 0)
    else if cmpMag m e 2000 0 == .gt then exactVal (.fin false 1 (if neg then -2000 else 2000))
    else if e ≥ 0 then exactVal (.fin false 1 ((if neg then -1 else 1) * ((m * 2 ^ e.toNat : Nat) : Int)))
    else
      let s := (-e).toNat
      let x : Int := if neg then -(m : Int) else m
      let i := x / (2 ^ s : Nat)
      let f := (x % (2 ^ s : Nat)).toNat
      if f = 0 then exactVal (.fin false 1 i)
      else ⟨.fin false (settleFloor (fun p => exp2Bounds p f s) 60 6 128) (i - 60), true, 0⟩

/-- log2 a (R243). -/
def log2Val (a : Val) : Exact :=
  match a with
  | .nan _ => exactVal (.nan false)
  | .inf b => if b then invalid else exactVal (.inf false)
  | .fin b m e =>
    if m = 0 then ⟨.inf true, false, flagDZ⟩
    else if b then invalid
    else
      let s := m.log2
      let i : Int := e + s
      if m = 2 ^ s then exactVal (.fin (i < 0) i.natAbs 0)
      else
        let l := settleFloor (fun p => log2Bounds p m s) 100 5 192
        let r : Int := i * (2 ^ 100 : Nat) + l
        if r ≥ 0 then ⟨.fin false r.toNat (-100), true, 0⟩ else ⟨.fin true (-r - 1).toNat (-100), true, 0⟩

/-! ## Minimum, maximum, integers -/

/-- `FMIN` and `FMAX` (R243). -/
def minVal (a b : Val) : Val :=
  match cmpVal a b with
  | none => if a.isNan && b.isNan then .nan false else if a.isNan then b else a
  | some .lt => a
  | some .gt => b
  | some .eq => if a.isNeg then a else b

def maxVal (a b : Val) : Val :=
  match cmpVal a b with
  | none => if a.isNan && b.isNan then .nan false else if a.isNan then b else a
  | some .lt => b
  | some .gt => a
  | some .eq => if a.isNeg then b else a

def intVal (x : Int) : Val := .fin (x < 0) x.natAbs 0

/-- Rounding to an integer in a mode: the integer and whether it differs (R246). -/
def roundInt (rm : Nat) (neg : Bool) (m : Nat) (e : Int) : Int × Bool :=
  let (n, inexact) := roundAt (fun n => n % 2 == 1) rm neg m e false 0
  (if neg then -(n : Int) else n, inexact)

/-- `FCVI` (R246, R247): the w-bit pattern and the flags. The result of an invalid conversion has only bit w−1 set. -/
def floatToInt (td : Nat) (rm : Nat) (sat : Bool) (v : Val) : Int × BitVec 7 :=
  let lo : Int := if isSigned td then -(2 ^ (width td - 1) : Nat) else 0
  let hi : Int := if isSigned td then (2 ^ (width td - 1) : Nat) - 1 else (2 ^ width td : Nat) - 1
  let bad : Int := (2 ^ (width td - 1) : Nat)
  match v with
  | .nan _ => (if sat then 0 else bad, flagNV)
  | .inf b => (if sat then (if b then lo else hi) else bad, flagNV)
  | .fin neg m e =>
    let (r, inexact) := roundInt rm neg m e
    if r < lo then (if sat then lo else bad, flagNV)
    else if r > hi then (if sat then hi else bad, flagNV)
    else (r, if inexact then flagNX else 0)

/-! ## Format images -/

/-- A narrow format with its block size (R223). -/
structure Narrow where
  fmt : Fmt
  bs  : Nat
  deriving DecidableEq, Repr

/-- A valid image (R223, R224). -/
def parseImage (x : W64) : Option Narrow :=
  let n := x.toNat
  let F : Fmt := { sign := bitOf n 6, e := bits n 5 3, m := bits n 2 0, bias := toSigned 8 (bits n 15 8), spec := bits n 17 16,
                   std := false }
  if bits n 63 32 = 0 ∧ bits n 30 19 = 0 ∧ !bitOf n 7 ∧ bitOf n 31 ∧ 2 ≤ F.width ∧ F.width ≤ 8 ∧ F.spec ≠ 3 ∧
      (F.spec ≠ 0 ∨ (2 ≤ F.e ∧ 1 ≤ F.m)) then
    some ⟨F, if bitOf n 18 then 32 else 16⟩
  else none

/-- Codes of a V register of width w (R229). -/
def codesOf (w : Nat) : Nat := 16 * (256 / (16 * w))

/-! ## Quantisation of a block (R237) -/

/-- The scale of a block: the smallest S with amax ≤ Mf · 2^(S−127), 254 if none, 127 for amax 0 or no finite element. -/
def blockScale (F : Fmt) (xs : List Val) : Nat :=
  let amax : Nat × Int := xs.foldl (fun r v =>
    match v with
    | .fin _ m e => if cmpMag m e r.1 r.2 == .gt then (m, e) else r
    | _ => r) (0, 0)
  if amax.1 = 0 then 127
  else ((List.range 255).find? (fun (s : Nat) => cmpMag amax.1 amax.2 F.maxVal.1 (F.maxVal.2 + ((s : Int) - 127)) != .gt)).getD 254

/-- One element under a scale: the code and its flags. -/
def quantElem (F : Fmt) (fzo sat : Bool) (scale : Nat) (x : Val) : Nat × BitVec 7 :=
  match x with
  | .nan _ => (0, 0)
  | .inf neg =>
    if neg && !F.sign then (F.nanCode, flagNV)
    else if F.hasInf then (F.infCode neg, 0)
    else (F.largest neg, flagQSAT)
  | .fin neg m e =>
    let (c, fl) := roundFin F 0 fzo sat neg m (e + (127 - (scale : Int))) false
    (c, if fl &&& flagOF ≠ 0 then fl ||| flagQSAT else fl)

/-- Quantisation of a block: scale, codes, flags. -/
def quantBlock (F : Fmt) (fzo sat : Bool) (xs : List Val) : Nat × List Nat × BitVec 7 :=
  if xs.any Val.isNan then (0xFF, xs.map (fun _ => 0), flagQNAN ||| sigFlags xs)
  else
    let s := blockScale F xs
    let r := xs.map (quantElem F fzo sat s)
    (s, r.map Prod.fst, r.foldl (fun f x => f ||| x.2) 0)

/-- The value of a scaled code (R230). -/
def scaledVal (F : Fmt) (fzi : Bool) (scale code : Nat) : Val :=
  if scale = 0xFF then .nan false
  else
    match decodeVal F fzi code with
    | .fin neg m e => .fin neg m (e + ((scale : Int) - 127))
    | v => v

end Sys2Proof.Machine
end

