-- ==== Sys2Proof/Machine/Held.lean ====
section
/-! DEFINITION. The atomic operations (R104), and the bytes of a page as the writes that its home holds leave them (R280, R304). -/

namespace Sys2Proof.Machine

/-! ## Atomic operations (R104) -/

/-- The new bytes of an atomic, none where it writes nothing; whether it succeeds; flags. `held` is the reservation. -/
def atomNew (op : AtomOp) (ty : BitVec 5) (held : Bool) (old b c : W64) : Option Nat × Bool × BitVec 7 :=
  let t := ty.toNat
  let w := width t
  let o := pattern t old
  let x := pattern t b
  match op with
  | .atom 0 => (some ((o + x) % 2 ^ w), true, 0)
  | .atom 1 => (some (if narrow t old ≤ narrow t b then o else x), true, 0)
  | .atom 2 => (some (if narrow t old ≤ narrow t b then x else o), true, 0)
  | .atom 3 => (some (o &&& x), true, 0)
  | .atom 4 => (some (o ||| x), true, 0)
  | .atom 5 => (some (o ^^^ x), true, 0)
  | .atom 6 => (some x, true, 0)
  | .atom _ => (some (if o ≥ x then 0 else o + 1), true, 0)
  | .atomf k =>
    let F := stdFmt t
    let u := decodeVal F false o
    let v := decodeVal F false x
    let e := if k = 0 then sumVals 0 [u, v] else if k = 1 then exactVal (minVal u v) else exactVal (maxVal u v)
    let (r, fl) := { e with flags := e.flags ||| sigFlags [u, v] }.round F 0 false false
    (some r, true, fl)
  | .cas => if o = x then (some (pattern t c), true, 0) else (none, false, 0)
  | .lres => (none, true, 0)
  | .scond => if held then (some x, true, 0) else (none, false, 0)

/-! ## Held writes (R280, R304) -/

/-- A memory as the held writes of a page leave it, performed one after another. -/
def overlay (s : State) (x : Translated) (m : Memory) : Memory :=
  ((s.port x.port).wbQ.filter (fun y => y.1 == x.key)).foldl (fun m y =>
    let r := y.2.2
    let a := s.phys x.p (homeLoc s.conf.lc x.e (offsetOf r.handle)).lam
    match r.kind with
    | .read => m
    | .write => memWrite m a r.data
    | .atomic =>
      match (atomNew r.op r.ty false (BitVec.ofNat 64 (memNat m a r.size)) r.b r.c).1 with
      | some v => memWrite m a (leBytes r.size v)
      | none => m) m

/-- Bytes read at an address of a page as its held writes leave them. -/
def heldBytes (s : State) (x : Translated) (pa : Nat) (bs : List Byte) : List Byte :=
  if (s.port x.port).wbQ.any (fun y => y.1 == x.key) then memRead (overlay s x (memWrite s.mem pa bs)) pa bs.length else bs

end Sys2Proof.Machine
end

