-- ==== Sys2Proof/Machine/Fetch.lean ====
section
/-! DEFINITION. Fault records (R300, R301), the fetch of the instruction at a thread's pc (R61 steps 1 to 4), the issue group
selector (R20-R22) and the end of a cc (R48). Log entry 10: the fetch reads the bytes at their home in one step. -/

namespace Sys2Proof.Machine

/-! ## Fault records -/

/-- The 32 bytes of a fault record (R300): `acc` 0 read, 1 write, 2 atomic; `who` 0 thread, 1 held write, 2 sequencer, 3 engine,
4 tier migration engine. -/
def recordBytes (core : Nat) (key : PageKey) (h : W64) (npos acc who : Nat) : List Byte :=
  leBytes 8 (0x09 + key.asid * 2 ^ 8 + core * 2 ^ 22 + dieOf core * 2 ^ 32 + who * 2 ^ 36 + acc * 2 ^ 40) ++
    leBytes 8 (npos + key.page * 2 ^ 16) ++ leBytes 8 h.toNat ++ leBytes 8 0

/-- The hub whose fault queue takes records: HD0's, or HD1's while HD0's host port is down (R300). -/
def State.faultHub (s : State) : Nat := if (s.hub 0).up && s.hubUp 0 then 0 else 1

/-- Appending a record to the host fault queue (R278, R300): none where the queue is full or not registered. -/
def State.postBytes (s : State) (bs : List Byte) : Option State :=
  let h := s.hub s.faultHub
  let base := hostByte h.faultBase
  let tail := memNat s.mem base 8
  let head := memNat s.mem (base + 8) 8
  if h.faultLen = 0 ∨ (tail + 2 ^ 64 - head) % 2 ^ 64 ≥ h.faultLen then none
  else
    some { s with mem := memWrite (memWrite s.mem (base + 0x40 + 32 * (tail % h.faultLen)) bs) base (leBytes 8 (tail + 1)) }

/-- The first access that finds a page not present posts a record; later ones post nothing. One that finds the fault queue full is tried again
1,000 ns later by the DTC of the port's die (R301). -/
def State.postRecord (s : State) (core : Nat) (key : PageKey) (h : W64) (npos acc who : Nat) : State :=
  let p := s.port core
  if p.records.contains key then s
  else
    let bs := recordBytes core key h npos acc who
    let p1 := { p with records := p.records ++ [key] }
    match (s.putPort p1).postBytes bs with
    | some s' => s'
    | none => s.putPort { p1 with unposted := p1.unposted ++ [(key, bs, s.dtcOf (dieOf core) + 1000)] }

/-! ## Fetch -/

/-- What a read of code finds: its bytes, a fault code, or an absent page. -/
inductive Found where
  | bytes (bs : List Byte)
  | code (c : Nat)
  | absent (home : Nat) (key : PageKey) (pos : Nat)
  deriving DecidableEq, Repr

/-- The entry with which a read made in place goes on: the executing thread's core may hold it for the thread's own ASID. -/
def entryFor (s : State) (asid idx : Nat) : Option BufEntry :=
  match findDesc (s.core s.th.core).desc asid idx with
  | some x => if s.th.asid = asid then some x else if idx % 4096 = 0 then none else s.tableEntry asid idx
  | none => if idx % 4096 = 0 then none else s.tableEntry asid idx

/-- `size` bytes of a buffer at their home, where its die or hub runs: as the page's held writes leave them (R298, R304), 0x0D where they cannot be read
(R344, R426). -/
def bytesAtHome (s : State) (asid : Nat) (e : BufEntry) (h : W64) (size : Nat) : Found :=
  let l := homeLoc s.conf.lc e (offsetOf h)
  let key : PageKey := ⟨asid, indexOf h, l.page⟩
  if homeDead s e l.home then .code 0x0D
  else
    match s.pageOf l.home key with
    | none => .absent l.home key l.pos
    | some p =>
      let a := s.phys p l.lam
      if !p.rd then .code 0x07
      else if !s.readable p l.lam || s.poisoned a size then .code 0x0D
      else .bytes (heldBytes s ⟨l.home, l.home, l.home, e, key, p, l.lam, none⟩ a (memRead s.mem a size))

/-- The same bytes of the mirror buffer, which are read where those of a REPLICA buffer cannot be (R37, R344). -/
def bytesOfMirror (s : State) (asid : Nat) (e : BufEntry) (h : W64) (size : Nat) : Found :=
  let hm := handleOf (indexOf e.mirror) (offsetOf e.mirror + offsetOf h)
  match (if !e.replica || indexOf hm % 4096 = 0 then none else s.tableEntry asid (indexOf hm)) with
  | none => .code 0x0D
  | some m =>
    match bytesAtHome s asid m hm size with
    | .bytes bs => .bytes bs
    | _ => .code 0x0D

/-- `size` bytes at a handle, none of which crosses a granule, with the checks of a read (R11, R61 step 1). -/
def findBytes (s : State) (asid : Nat) (h : W64) (size : Nat) : Found :=
  match entryFor s asid (indexOf h) with
  | none => .code 0x08
  | some e =>
    if offsetOf h + size > e.length then .code 0x06
    else if !e.rd then .code 0x07
    else
      match bytesAtHome s asid e h size with
      | .code 0x0D => bytesOfMirror s asid e h size
      | x => x

/-- A read made in place, which may fail behind it, leaves its page as the most recently used one of its port, whose own entry of the buffer it reads
(R287, R299); one that its source checks refuse has looked up no page. -/
def State.used (s : State) (asid : Nat) (h : W64) : State :=
  match entryFor s asid (indexOf h) with
  | none => s
  | some e =>
    let l := homeLoc s.conf.lc e (offsetOf h)
    let key : PageKey := ⟨asid, indexOf h, l.page⟩
    if offsetOf h ≥ e.length || !e.rd || homeDead s e l.home then s
    else
      match s.pageOf l.home key with
      | none => s
      | some p => s.touch l.home key ((s.portEntry l.home asid (indexOf h)).getD e) p

/-- What the fetch at the executing thread's pc gives. -/
inductive Fetched where
  | instr (i : Instr)
  | fault (code : Nat) (faddr : W64)
  | absent (home : Nat) (key : PageKey) (pos : Nat)
  deriving DecidableEq, Repr

/-- R39: an instruction of `n` bytes at offset `o` crosses a 32-byte boundary. -/
def crosses (o n : Nat) : Bool := o / 32 != (o + n - 1) / 32

/-- Steps 1 to 4 of R61 (R38, R39, R63, R74). Log entry 133: of the two failures of step 1 the misaligned pc comes first; the read check covers
the first word before LEN is known, and the whole instruction once it is known not to cross its fetch boundary. -/
def fetch (s : State) : Fetched :=
  let pc := s.th.pc
  if offsetOf pc % 4 ≠ 0 then .fault 0x0A pc
  else
    match findBytes s s.th.asid pc 4 with
    | .code c => .fault c pc
    | .absent home key pos => .absent home key pos
    | .bytes b =>
      match lenOf (leNat (b.take 1)) with
      | none => .fault 0x02 0
      | some len =>
        if crosses (offsetOf pc) (lenBytes len) then .fault 0x03 0
        else
          match findBytes s s.th.asid pc (lenBytes len) with
          | .code c => .fault c pc
          | .absent home key pos => .absent home key pos
          | .bytes bs =>
            match decode bs with
            | .ok (i, _) => .instr i
            | .error .invalidLength => .fault 0x02 0
            | .error _ => .fault 0x01 0

/-! ## Issue groups -/

/-- The bin of a pc (R20). -/
def binOf (pc : W64) : Nat :=
  let o := offsetOf pc
  let x (hi lo : Nat) : BitVec 8 := BitVec.ofNat 8 (bits o hi lo)
  (x 9 2 ^^^ x 17 10 ^^^ x 25 18 ^^^ x 33 26 ^^^ x 41 34 ^^^ x 47 42).toNat

/-- The lane of a thread (R15): its index modulo 64. -/
def Thread.lane (t : Thread) : Nat := t.index % 64

/-- The slot number of a resident thread; landing slots stand behind the thread slots (R28). -/
def Thread.slotNo (t : Thread) : Option Nat :=
  match t.place with
  | .slot k => some k
  | .landing k => some (24 + k)
  | _ => none

/-- A resident thread that may issue (R19). -/
def Thread.canIssue (t : Thread) (core : Nat) (now : Nat) : Bool :=
  t.core == core && t.slotNo.isSome && (t.status == .ready || t.status == .handler) && t.since ≤ now

/-- A save notice of a peer's gang that its core has received; it stands there while threads of the gang are there or on their way (R210, log entry 165). -/
def Msg.savesGuests (m : Msg) (core launch gang : Nat) : Bool :=
  m.dst == core && 1024 ≤ m.src && m.body == .saveNotice launch gang && (match m.spot with | .staged _ => true | _ => false)

/-- The gang of a workgroup thread is being saved, and the thread's core knows it (R210): it is one of the gang's own, or one of their
notices has come in. -/
def State.savingAt (s : State) (t : Thread) : Bool :=
  !t.spawned && (s.gs.gangs.any (fun g => g.launch == t.launch && g.gang == t.gang && g.state == .saving &&
    ((g.run ≤ t.core && t.core < g.run + g.width) ||
      (s.net.filter (fun m => m.dst == t.core && m.body == .saveNotice t.launch t.gang)).length < g.width)) ||
    s.net.any (fun m => m.savesGuests t.core t.launch t.gang))

/-- The gang of a workgroup is being saved, or is saved: nothing that its threads form together goes on (R83, R382). -/
def State.suspends (s : State) (w : Workgroup) : Bool :=
  s.gs.gangs.any (fun g => g.launch == w.launch && g.gang == w.gang && (g.state == .saving || g.state == .saved || g.state == .restoring))

/-- The oldest of a list: the earliest entry into READY, then the lower slot number (R21); slot numbers are per lane, and of two threads of two
lanes with both equal the model takes the one that stands first in its list (log entry 134). -/
def oldest (l : List Thread) : Option Thread :=
  l.foldl (fun best t =>
    match best with
    | none => some t
    | some b => if t.since < b.since ∨ (t.since = b.since ∧ t.slotNo.getD 0 < b.slotNo.getD 0) then some t else best) none

/-- The first non-empty bin after `last`, ascending, wrapping from 255 to 0 (R21). -/
def nextBin (l : List Thread) (last : Nat) : Nat → Option Nat
  | 0 => none
  | n + 1 =>
    let b := (last + 256 - n) % 256
    if l.any (fun t => binOf t.pc == b) then some b else nextBin l last n

/-- The group of a cc (R21): its bin, its members by lane, and whether the age override chose it. -/
def selectGroup (s : State) (core : Nat) : Option (Nat × List Thread × Bool) :=
  let x := s.core core
  let now := x.ccnt.toNat
  let l := s.threads.filter (fun t => t.canIssue core now && !s.savingAt t)
  let old := l.filter (fun t => now - t.since ≥ 2048)
  let pick : Option (Nat × Thread × Bool) :=
    match oldest old with
    | some t => some (binOf t.pc, t, true)
    | none =>
      match nextBin l x.lastBin.toNat 256 with
      | none => none
      | some b => (oldest (l.filter (fun t => binOf t.pc == b))).map (fun t => (b, t, false))
  pick.map (fun (b, t, o) =>
    (b, (List.range 64).filterMap (fun lane =>
      oldest (l.filter (fun u => binOf u.pc == b && u.lane == lane && u.asid == t.asid && u.pc == t.pc))), o))

/-- W and F writes take effect at the end of the cc in which they issued at the anchor (R48, R260). -/
def Workgroup.endCc (w : Workgroup) : Workgroup :=
  { w with w := w.wPend.foldl (fun v x => v.set x.1 x.2) w.w, wPend := [],
           f := w.fPend.foldl (fun v x => v.set x.1 x.2) w.f, fPend := [] }

/-- The end of a cc of a core (R84); a thread in `YIELD` is READY on the next one (R110). -/
def endCc (core : Nat) (s : State) : State :=
  let x := s.core core
  let s1 : State := { s.putCore { x with ccnt := x.ccnt + 1 } with
    wgs := s.wgs.map (fun w => if w.anchor = core then w.endCc else w), group := [] }
  s1.mapThreads (fun t =>
    if t.core = core ∧ t.wait = .yield ∧ t.status = .sleeping then { t with status := t.running, wait := .none, since := x.ccnt.toNat + 1 } else t)

/-- No thread of a core would be selected in its next `n` cc (R22): none is READY, or the die does not run. -/
def State.quiet (s : State) (core n : Nat) : Bool :=
  !s.dieUp (dieOf core) ||
    !s.threads.any (fun t => t.core == core && t.slotNo.isSome && !s.savingAt t &&
      (t.wait == .yield || ((t.status == .ready || t.status == .handler) && t.since < (s.core core).ccnt.toNat + n)))

/-- The selector issues a group: the members then execute one after another (R21, R85). The counters count the group before its members
execute, so a `CNTRD` counts its own group (log entry 135). -/
def issueGroup (core : Nat) (s : State) : State :=
  if (s.core core).stopped || !s.dieUp (dieOf core) then s
  else
    match selectGroup s core with
    | none => endCc core s
    | some (b, g, o) =>
      let x := s.core core
      let n := g.length
      let c0 := vset x.ctr 0 (vget x.ctr 0 0 + 1)
      let c1 := vset c0 1 (vget c0 1 0 + BitVec.ofNat 64 n)
      let c2 := if o then vset c1 8 (vget c1 8 0 + 1) else c1
      { s.putCore { x with lastBin := BitVec.ofNat 8 b, ctr := c2 } with
        issuing := g.map Thread.tid, group := g.map Thread.lane, groupCore := core }

/-- A member of the group is taken for execution. -/
def takeThread (tid : Nat) (s : State) : Option State :=
  match s.threads.find? (fun t => t.tid == tid && (t.status == .ready || t.status == .handler)) with
  | none => none
  | some t => some { s with th := t, threads := s.threads.filter (fun u => u.tid != tid), issuing := s.issuing.filter (· != tid) }

/-- After its instruction the thread stands among the others again; a thread that is still READY enters its bin on the next
cc (R21), and an exited thread with no write left is gone. -/
def putBack (s : State) : State :=
  let t := s.th
  let t1 := if t.status == .ready || t.status == .handler then { t with since := (s.core t.core).ccnt.toNat + 1 } else t
  let s1 : State := { s with
    threads := if t.status == .exited && t.writes.isEmpty && t.fwd.isEmpty then s.threads else t1 :: s.threads, th := Thread.blank }
  if s1.issuing.isEmpty then endCc s1.groupCore s1 else s1

/-- An absent code page parks the thread (R11, R35). -/
def parkFetch (home : Nat) (key : PageKey) (pos : Nat) (s : State) : State :=
  (block .parkedFault (.fault home key) (s.countCore s.th.core 7)).postRecord home key s.th.pc pos 0 0

/-- The instruction that the executing thread runs with the state that its fetch leaves, or the state in which its fetch has failed (R61). A thread saved with WCODE ≠ 0 takes
that fault before its first instruction (R213). -/
def fetchStep (s : State) : Except State (Instr × State) :=
  if s.th.wcode ≠ 0 then .error (raise s.th.wcode s.th.wfail (s.onTh (fun t => { t with wcode := 0, wfail := 0 })))
  else
  match fetch s with
  | .instr i => .ok (i, s.used s.th.asid s.th.pc)
  | .fault code faddr => .error (raise code faddr (if offsetOf s.th.pc % 4 = 0 then s.used s.th.asid s.th.pc else s))
  | .absent home key pos => .error (parkFetch home key pos s)

end Sys2Proof.Machine
end

