-- ==== Sys2Proof/Machine/Integer.lean ====
section
/-! DEFINITION. The integer operate, compare, select, predicate and handle instructions (R64-R72). -/

namespace Sys2Proof.Machine

/-! ## Exact results -/

/-- trunc(a ÷ b), −1 for b = 0 (R65). -/
def divInt (a b : Int) : Int := if b = 0 then -1 else a.tdiv b

/-- a − b · trunc(a ÷ b), a for b = 0 (R65). -/
def remInt (a b : Int) : Int := if b = 0 then a else a.tmod b

/-- The upper half of the 2w-bit product (R65). -/
def mulhInt (w : Nat) (a b : Int) : Int := (a * b) / (2 ^ w : Nat)

/-- Leading zeros of u in w bits (R66). -/
def clz (w u : Nat) : Nat := if u = 0 then w else w - 1 - u.log2

/-- Trailing zeros of u, w for 0 (R66). -/
def ctz : Nat → Nat → Nat
  | 0, _ => 0
  | w + 1, u => if u % 2 = 1 then 0 else 1 + ctz w (u / 2)

def popc : Nat → Nat → Nat
  | 0, _ => 0
  | w + 1, u => u % 2 + popc w (u / 2)

/-- Bit k moved to bit w−1−k (R66). -/
def brev : Nat → Nat → Nat
  | 0, _ => 0
  | w + 1, u => u % 2 * 2 ^ w + brev w (u / 2)

/-- Rotation left by n mod w (R66). -/
def rol (w u n : Nat) : Nat := let k := n % w; u * 2 ^ k % 2 ^ w + u / 2 ^ (w - k)

/-- u[n−1:0] sign-extended to w bits (R66). -/
def sextTo (w u n : Nat) : Nat :=
  if n = 0 then 0 else if n ≥ w then u else (toSigned n u % (2 ^ w : Nat)).toNat

def zextTo (w u n : Nat) : Nat := if n ≥ w then u else u % 2 ^ n

/-- BFX: bits u[pos+len−1:pos], sign-extended from bit len−1 for `.s` (R66). -/
def bfx (signed : Bool) (u g : Nat) : Int :=
  let pos := g % 64
  let len := min (bits g 14 8) 64
  let x := u / 2 ^ pos % 2 ^ len
  if len = 0 then 0 else if signed then toSigned len x else (x : Int)

/-- BFI: u with u[pos+k] := b[k] for k below len where pos+k is below w (R66). -/
def bfi (w u b g : Nat) : Nat :=
  let pos := g % 64
  let len := min (bits g 14 8) 64
  let mask := (2 ^ len - 1) * 2 ^ pos % 2 ^ w
  (u &&& ((2 ^ w - 1) ^^^ mask)) ||| (b * 2 ^ pos &&& mask)

/-- Smallest and largest values of an integer TYPE (R68). -/
def loOf (t : Nat) : Int := if isSigned t then -(2 ^ (width t - 1) : Nat) else 0
def hiOf (t : Nat) : Int := if isSigned t then (2 ^ (width t - 1) : Nat) - 1 else (2 ^ width t : Nat) - 1

/-- `value` limited to the range of TYPE. -/
def limit (t : Nat) (r : Int) : Int := max (loOf t) (min r (hiOf t))

/-! ## Class IA -/

/-- Narrowed operands (R64). -/
def opA (op : Nat) (f : Fields) (s : State) : Int := narrow (tyOf f) (src op f 0 s)
def opB (op : Nat) (f : Fields) (s : State) : Int := narrow (tyOf f) (src op f 1 s)
def opC (op : Nat) (f : Fields) (s : State) : Int := narrow (tyOf f) (src op f 2 s)
def patA (op : Nat) (f : Fields) (s : State) : Nat := pattern (tyOf f) (src op f 0 s)
def patB (op : Nat) (f : Fields) (s : State) : Nat := pattern (tyOf f) (src op f 1 s)

/-- Shift and extension counts: bits [7:0] of the full operand (R66). -/
def countB (op : Nat) (f : Fields) (s : State) : Nat := (src op f 1 s).toNat % 256

/-- R64: an exact result reduced to TYPE, extended, written and pushed. -/
def intResult (op : Nat) (f : Fields) (r : State → Int) (s : State) : Host.Outcome State Fault Refusal :=
  runOp op f (fun s => finishQ f (extend (tyOf f) (r s)) s) s

def execAdd (f : Fields) (s : State) := intResult 0x01 f (fun s => opA 0x01 f s + opB 0x01 f s) s
def execSub (f : Fields) (s : State) := intResult 0x02 f (fun s => opA 0x02 f s - opB 0x02 f s) s
def execMul (f : Fields) (s : State) := intResult 0x03 f (fun s => opA 0x03 f s * opB 0x03 f s) s
def execMulh (f : Fields) (s : State) :=
  intResult 0x04 f (fun s => mulhInt (width (tyOf f)) (opA 0x04 f s) (opB 0x04 f s)) s
def execDiv (f : Fields) (s : State) := intResult 0x05 f (fun s => divInt (opA 0x05 f s) (opB 0x05 f s)) s
def execRem (f : Fields) (s : State) := intResult 0x06 f (fun s => remInt (opA 0x06 f s) (opB 0x06 f s)) s
def execMad (f : Fields) (s : State) := intResult 0x07 f (fun s => opA 0x07 f s * opB 0x07 f s + opC 0x07 f s) s
def execNeg (f : Fields) (s : State) := intResult 0x08 f (fun s => -opA 0x08 f s) s
def execAbs (f : Fields) (s : State) := intResult 0x09 f (fun s => (opA 0x09 f s).natAbs) s
def execMin (f : Fields) (s : State) := intResult 0x0A f (fun s => min (opA 0x0A f s) (opB 0x0A f s)) s
def execMax (f : Fields) (s : State) := intResult 0x0B f (fun s => max (opA 0x0B f s) (opB 0x0B f s)) s

def execAnd (f : Fields) (s : State) := intResult 0x10 f (fun s => ((patA 0x10 f s &&& patB 0x10 f s : Nat) : Int)) s
def execOr (f : Fields) (s : State) := intResult 0x11 f (fun s => ((patA 0x11 f s ||| patB 0x11 f s : Nat) : Int)) s
def execXor (f : Fields) (s : State) := intResult 0x12 f (fun s => ((patA 0x12 f s ^^^ patB 0x12 f s : Nat) : Int)) s
def execAndn (f : Fields) (s : State) :=
  intResult 0x13 f (fun s => ((patA 0x13 f s &&& (2 ^ width (tyOf f) - 1 - patB 0x13 f s) : Nat) : Int)) s
def execShl (f : Fields) (s : State) :=
  intResult 0x14 f (fun s =>
    if countB 0x14 f s < width (tyOf f) then ((patA 0x14 f s * 2 ^ countB 0x14 f s : Nat) : Int) else 0) s
def execShr (f : Fields) (s : State) :=
  intResult 0x15 f (fun s =>
    if countB 0x15 f s < width (tyOf f) then ((patA 0x15 f s / 2 ^ countB 0x15 f s : Nat) : Int) else 0) s
/-- Bit w−1 is replicated whatever the signedness of TYPE (R66). -/
def execSra (f : Fields) (s : State) :=
  intResult 0x16 f (fun s => toSigned (width (tyOf f)) (patA 0x16 f s) /
    (2 ^ min (countB 0x16 f s) (width (tyOf f) - 1) : Nat)) s
def execRol (f : Fields) (s : State) :=
  intResult 0x17 f (fun s => (rol (width (tyOf f)) (patA 0x17 f s) (countB 0x17 f s) : Int)) s
def execClz (f : Fields) (s : State) := intResult 0x18 f (fun s => (clz (width (tyOf f)) (patA 0x18 f s) : Int)) s
def execCtz (f : Fields) (s : State) := intResult 0x19 f (fun s => (ctz (width (tyOf f)) (patA 0x19 f s) : Int)) s
def execPopc (f : Fields) (s : State) := intResult 0x1A f (fun s => (popc (width (tyOf f)) (patA 0x1A f s) : Int)) s
def execBrev (f : Fields) (s : State) := intResult 0x1B f (fun s => (brev (width (tyOf f)) (patA 0x1B f s) : Int)) s
/-- The control word is the full operand (R66). -/
def execBfx (f : Fields) (s : State) :=
  intResult 0x1C f (fun s => bfx (isSigned (tyOf f)) (patA 0x1C f s) (src 0x1C f 1 s).toNat) s
def execBfi (f : Fields) (s : State) :=
  intResult 0x1D f (fun s => (bfi (width (tyOf f)) (patA 0x1D f s) (patB 0x1D f s) (src 0x1D f 2 s).toNat : Int)) s
def execSext (f : Fields) (s : State) :=
  intResult 0x1E f (fun s => (sextTo (width (tyOf f)) (patA 0x1E f s) (countB 0x1E f s) : Int)) s
def execZext (f : Fields) (s : State) :=
  intResult 0x1F f (fun s => (zextTo (width (tyOf f)) (patA 0x1F f s) (countB 0x1F f s) : Int)) s

/-! ## Compare, select, move, limit (R67, R68) -/

def execCmp (f : Fields) (s : State) : Host.Outcome State Fault Refusal :=
  runOp 0x20 f (fun s => finishP f (condInt (fbits f.func 8 5) (opA 0x20 f s) (opB 0x20 f s)) s) s

def execSel (f : Fields) (s : State) := intResult 0x21 f (fun s => if predOf s f.a then opB 0x21 f s else opC 0x21 f s) s

def execMov (f : Fields) (s : State) := intResult 0x22 f (fun s => opA 0x22 f s) s

def execLim (f : Fields) (s : State) :=
  intResult 0x23 f (fun s =>
    let a := opA 0x23 f s
    let b := opB 0x23 f s
    match fbits f.func 6 5 with
    | 0 => max b (min a (opC 0x23 f s))
    | 1 => limit (tyOf f) (a + b)
    | _ => limit (tyOf f) (a - b)) s

/-! ## Predicate logic (R70) -/

def execPlog (f : Fields) (s : State) : Host.Outcome State Fault Refusal :=
  runOp 0x24 f (fun s =>
    let k := (if predOf s f.a then 4 else 0) + (if predOf s f.b then 2 else 0) + (if predOf s f.c then 1 else 0)
    finishP f (bitOf (fbits f.func 7 0) k) s) s

/-! ## Handles (R71, R72) -/

def execHmk (f : Fields) (s : State) : Host.Outcome State Fault Refusal :=
  runOp 0x28 f (fun s => finishQ f (handleOf (src 0x28 f 0 s).toNat (src 0x28 f 1 s).toNat) s) s

/-- A sum outside the offset range gives a null handle (R71). -/
def haddValue (a b : W64) : W64 :=
  let x := (offsetOf a : Int) + b.toInt
  if 0 ≤ x ∧ x < 2 ^ 48 then handleOf (indexOf a) x.toNat else handleOf 0 (x % (2 ^ 48 : Int)).toNat

def execHadd (f : Fields) (s : State) : Host.Outcome State Fault Refusal :=
  runOp 0x29 f (fun s => finishQ f (haddValue (src 0x29 f 0 s) (src 0x29 f 1 s)) s) s

def execHidx (f : Fields) (s : State) : Host.Outcome State Fault Refusal :=
  runOp 0x2A f (fun s => finishQ f (BitVec.ofNat 64 (indexOf (src 0x2A f 0 s))) s) s

def execHofs (f : Fields) (s : State) : Host.Outcome State Fault Refusal :=
  runOp 0x2B f (fun s => finishQ f (BitVec.ofNat 64 (offsetOf (src 0x2B f 0 s))) s) s

/-- Validity, owner (R285), length and rights; a miss of the descriptor cache waits, and nothing faults (R72). -/
def execHchk (f : Fields) (s : State) : Host.Outcome State Fault Refusal :=
  runOp 0x2C f (fun s =>
    let a := src 0x2C f 0 s
    let b := src 0x2C f 1 s
    withDesc a (fun e s =>
      finishP f (offsetOf a + b.toNat ≤ e.length && (!bitOf f.func.toNat 0 || e.rd) && (!bitOf f.func.toNat 1 || e.wr) &&
        (!bitOf f.func.toNat 2 || e.at_)) s) (finishP f false) s) s

end Sys2Proof.Machine
end

