-- ==== Sys2Proof/Machine/Control.lean ====
section
/-! DEFINITION. Control transfer, identities and counters (R73-R78, R84, R85). -/

namespace Sys2Proof.Machine

/-- The thread goes on at a target (R73, R74). -/
def jump (target : W64) (s : State) : State :=
  s.onTh (fun t => { t with pc := target, status := t.running, wait := .none, badIndex := none, images := [], got := [] })

/-- PC + 4·off (R73). -/
def relTarget (f : Fields) (s : State) : W64 := pcAdd s.th.pc (4 * disp f)

def execBra (f : Fields) (s : State) : Host.Outcome State Fault Refusal := runOp 0x30 f (fun s => jump (relTarget f s) s) s

def execBrp (f : Fields) (s : State) : Host.Outcome State Fault Refusal :=
  runOp 0x31 f (fun s => jump (pcAdd (src 0x31 f 0 s) (4 * disp f)) s) s

/-- The return address is pushed and written, then the thread goes on at the target (R73). -/
def callTo (f : Fields) (target : W64) (s : State) : State :=
  jump target (finishQ f (pcAdd s.th.pc (lenBytes f.len)) s)

def execCall (f : Fields) (s : State) : Host.Outcome State Fault Refusal :=
  runOp 0x32 f (fun s => callTo f (relTarget f s) s) s

/-- The checks of `CALLX` in their order (R74, R75). -/
def execCallx (f : Fields) (s : State) : Host.Outcome State Fault Refusal :=
  runOp 0x33 f (fun s =>
    let a := src 0x33 f 0 s
    if offsetOf a % 8 ≠ 0 then raise 0x0A a s
    else if offsetOf a < 8 then
      raise (match findBytes s s.th.asid (handleOf (indexOf a) 0) 1 with | .code 0x08 => 0x08 | _ => 0x06) a s
    else
      match findBytes s s.th.asid (handleOf (indexOf a) (offsetOf a - 8)) 8 with
      | .code c => raise c a (s.used s.th.asid (handleOf (indexOf a) (offsetOf a - 8)))
      | .absent home key pos => parkFetch home key pos s
      | .bytes bs =>
        let d := leNat bs
        let s := s.used s.th.asid (handleOf (indexOf a) (offsetOf a - 8))
        if bits d 31 16 ≠ 0xC0DE then raise 0x01 a s
        else if bits d 5 0 > s.th.nbud ∨ bits d 9 6 > s.th.vbud then raise 0x04 a s
        else callTo f a s) s

def execRet (f : Fields) (s : State) : Host.Outcome State Fault Refusal := runOp 0x34 f (fun s => jump (src 0x34 f 0 s) s) s

/-- `EXIT` (R77, R196, R200). -/
def execExit (f : Fields) (s : State) : Host.Outcome State Fault Refusal :=
  runOp 0x35 f (fun s =>
    let t := s.th
    let w := s.wg
    let isIssuer := !t.spawned && t.index == w.issuer
    if t.hnd && isIssuer && w.park.isSome then raise 0x0E 0 s
    else
      let failed := t.writes.findSome? (fun w => match w.state with | .failed c => some c | _ => none)
      let s0 := s.stopThread t
      let s1 := match failed with | some c => s0.recordError t.job t.launch c | none => s0
      if isIssuer then s1.issuerExit w.wid else s1) s

/-- `LOOP` (R73, R76). -/
def execLoop (f : Fields) (s : State) : Host.Outcome State Fault Refusal :=
  runOp 0x37 f (fun s =>
    let a := src 0x37 f 0 s
    let s1 := finishQ f (a - 1) s
    if a.toInt - 1 > 0 then jump (relTarget f s) s1 else s1) s

def execNop (f : Fields) (s : State) : Host.Outcome State Fault Refusal := runOp 0x38 f (finishU f) s

/-- `BKPT` (R78). -/
def execBkpt (f : Fields) (s : State) : Host.Outcome State Fault Refusal :=
  runOp 0x39 f (fun s => raise 0x11 (BitVec.ofNat 64 f.imm11.toNat) s) s

/-! ## Identities and counters -/

/-- The kernel descriptor of a thread's launch, as its image was loaded (R84, R133). -/
def State.kdescOf (s : State) (t : Thread) : Option KDesc :=
  match s.job? t.job with
  | none => none
  | some j =>
    match j.tcbOf t.launch, s.gs.images.find? (fun i => i.asid == j.asid && indexOf i.code == indexOf j.image) with
    | some c, some i => i.kdescs.find? (fun k => k.off == offsetOf c.kdesc)
    | _, _ => none

/-- Compute dies admitted and not fenced (R4, R84). -/
def State.diesUp (s : State) : Nat := ((List.range 8).filter (fun d => s.dieUp d)).length

/-- The lanes of the issue group as a mask (R84). -/
def laneMask (l : List Nat) : Nat := l.foldl (fun m k => m ||| 2 ^ (k % 64)) 0

/-- A field of the kernel of a thread's launch (R84): of its workgroup; of a spawned thread that of the kernel descriptor; of a thread of a peer's job
the one that it brought along. -/
def kernelField (s : State) (own : Workgroup → Nat) (desc : KDesc → Nat) (brought : Nat) : W64 :=
  BitVec.ofNat 64 (if 2 ^ 24 ≤ s.th.job then brought else if s.th.spawned then ((s.kdescOf s.th).map desc).getD 0 else own s.wg)

/-- The value of `RDSP.sel` (R84). The numbers of a peer's job are those that the peer gave it. -/
def rdspValue (s : State) (sel : Nat) : W64 :=
  let t := s.th
  match sel with
  | 0x00 => BitVec.ofNat 64 t.lane
  | 0x01 => BitVec.ofNat 64 t.core
  | 0x02 => BitVec.ofNat 64 t.index
  | 0x03 => BitVec.ofNat 64 t.wgpos
  | 0x04 => kernelField s Workgroup.wgsize KDesc.wgsize t.wgsize
  | 0x05 => kernelField s Workgroup.gangw KDesc.gangw t.gangw
  | 0x06 => BitVec.ofNat 64 t.gang
  | 0x07 => BitVec.ofNat 64 (t.launch % 2 ^ 32)
  | 0x08 => BitVec.ofNat 64 (t.job % 2 ^ 24)
  | 0x09 => BitVec.ofNat 64 (t.anchor % 1024)
  | 0x0A => BitVec.ofNat 64 t.asid
  | 0x0B => kernelField s Workgroup.issuer KDesc.issuer t.issuer
  | 0x0C => s.dtcOf (dieOf t.core)
  | 0x0D => (s.core t.core).ccnt
  | 0x0E => BitVec.ofNat 64 s.group.length
  | 0x0F => BitVec.ofNat 64 (laneMask s.group)
  | 0x10 => BitVec.ofNat 64 s.diesUp
  | 0x11 => BitVec.ofNat 64 (64 * s.diesUp)
  | _ => 0

def execRdsp (f : Fields) (s : State) : Host.Outcome State Fault Refusal :=
  runOp 0x3C f (fun s => finishQ f (rdspValue s (fbits f.func 5 0)) s) s

/-- The counter of an index (R85); an index that the tables do not list gives 0. -/
def counterValue (s : State) (die : Bool) (a : Nat) : W64 :=
  if die then vget (s.die (dieOf s.th.core)).ctr a 0 else vget (s.core s.th.core).ctr a 0

def execCntrd (f : Fields) (s : State) : Host.Outcome State Fault Refusal :=
  runOp 0x3D f (fun s => finishQ f (counterValue s (bitOf f.func.toNat 0) (src 0x3D f 0 s).toNat) s) s

end Sys2Proof.Machine
end

