-- ==== Sys2Proof/Machine/Lanes.lean ====
section
/-! DEFINITION. Joining and the cross-lane instructions (R79-R82). -/

namespace Sys2Proof.Machine

/-- A thread deposits its operands and enters JOINING (R79); a save of its gang keeps the deposits (R83). -/
def deposit (op : JoinOp) (f : Fields) (a b c : W64) (s : State) : State :=
  s.onTh (fun t => { t with depA := a, depB := b, depC := c, status := .joining, wait := .join op f.dst })

def boolWord (b : Bool) : W64 := if b then 1 else 0

def execShfl (f : Fields) (s : State) : Host.Outcome State Fault Refusal :=
  runOp 0x40 f (fun s => deposit (.shfl (fbits f.func 1 0)) f (src 0x40 f 0 s) (src 0x40 f 1 s) (src 0x40 f 2 s) s) s

def execVote (f : Fields) (s : State) : Host.Outcome State Fault Refusal :=
  runOp 0x41 f (fun s => deposit (.vote (fbits f.func 1 0)) f (boolWord (predOf s f.a)) (src 0x41 f 1 s) 0 s) s

def execBallot (f : Fields) (s : State) : Host.Outcome State Fault Refusal :=
  runOp 0x42 f (fun s => deposit .ballot f (boolWord (predOf s f.a)) (src 0x42 f 1 s) 0 s) s

def execGscan (f : Fields) (s : State) : Host.Outcome State Fault Refusal :=
  runOp 0x43 f (fun s =>
    deposit (.gscan (fbits f.func 11 9) (fbits f.func 8 7) (BitVec.ofNat 5 (tyOf f))) f (src 0x43 f 0 s) (src 0x43 f 1 s) 0 s) s

def execRjoin (f : Fields) (s : State) : Host.Outcome State Fault Refusal :=
  runOp 0x36 f (fun s => deposit .rjoin f (src 0x36 f 0 s) (src 0x36 f 1 s) 0 s) s

/-! ## Instances -/

/-- The mask of a cross-lane instruction is its last operand (R80). -/
def Thread.joinMask (t : Thread) : Nat :=
  match t.wait with
  | .join (.shfl _) _ => t.depC.toNat
  | _ => t.depB.toNat

def Thread.isRjoin (t : Thread) : Bool :=
  match t.wait with
  | .join .rjoin _ => true
  | _ => false

def Thread.isJoin (t : Thread) : Bool :=
  match t.wait with
  | .join _ _ => t.status == .joining
  | _ => false

/-- A thread index is absent: at or beyond the workgroup size, or exited (R79). -/
def Workgroup.absent (w : Workgroup) (j : Nat) : Bool := w.wgsize ≤ j || w.exited.contains j

/-- Every lane that every member's mask names is a member or absent (R79). -/
def instanceFull (w : Workgroup) (blk : Nat) (l : List Thread) : Bool :=
  l.all (fun t => (List.range 64).all (fun m =>
    !bitOf t.joinMask m || l.any (fun u => u.index == 64 * blk + m) || w.absent (64 * blk + m)))

/-- The same for `RJOIN`, whose members name indices from their base (R81). -/
def rjoinFull (w : Workgroup) (l : List Thread) : Bool :=
  l.all (fun t =>
    let base := t.depA.toNat / 64 * 64
    (List.range 64).all (fun m => !bitOf t.depB.toNat m || l.any (fun u => u.index == base + m) || w.absent (base + m)))

/-- The lane set of a member: the lanes of its mask whose thread is in the instance, ascending (R80). -/
def laneSet (l : List Thread) (t : Thread) : List Thread :=
  (List.range 64).filterMap (fun m => if bitOf t.joinMask m then l.find? (fun u => u.index % 64 == m) else none)

/-- The fold of `GSCAN` (R80). -/
def scanFold (sop t : Nat) (l : List W64) : Int :=
  match sop with
  | 0 => l.foldl (fun r x => r + narrow t x) 0
  | 1 => l.foldl (fun r x => min r (narrow t x)) (hiOf t)
  | 2 => l.foldl (fun r x => max r (narrow t x)) (loOf t)
  | 3 => ((l.foldl (fun r x => r &&& pattern t x) (2 ^ width t - 1) : Nat) : Int)
  | 4 => ((l.foldl (fun r x => r ||| pattern t x) 0 : Nat) : Int)
  | _ => ((l.foldl (fun r x => r ^^^ pattern t x) 0 : Nat) : Int)

/-- The source lane of `SHFL` (R80). -/
def shflLane (mode lane : Nat) (b : W64) : Int :=
  match mode with
  | 0 => ((b.toNat % 64 : Nat) : Int)
  | 1 => (lane : Int) - b.toInt
  | 2 => (lane : Int) + b.toInt
  | _ => ((lane ^^^ b.toNat % 64 : Nat) : Int)

/-- The result of a member (R80): a value for Q, a truth value for P. -/
def joinResult (op : JoinOp) (l : List Thread) (t : Thread) : W64 × Bool :=
  let set := laneSet l t
  let lane := t.index % 64
  match op with
  | .shfl mode =>
    let x := shflLane mode lane t.depB
    (((set.find? (fun u => ((u.index % 64 : Nat) : Int) == x)).map Thread.depA).getD 0, false)
  | .vote 0 => (0, set.all (fun u => u.depA != 0))
  | .vote 1 => (0, set.any (fun u => u.depA != 0))
  | .vote _ => (0, set.all (fun u => u.depA != 0) || set.all (fun u => u.depA == 0))
  | .ballot => (BitVec.ofNat 64 (laneMask ((set.filter (fun u => u.depA != 0)).map (fun u => u.index % 64))), false)
  | .gscan sop kind ty =>
    let m := set.filter (fun u => if kind = 0 then u.index % 64 ≤ lane else if kind = 1 then u.index % 64 < lane else true)
    (extend ty.toNat (scanFold sop ty.toNat (m.map Thread.depA)), false)
  | .rjoin => (0, false)

/-- A member goes on behind its instruction (R79). -/
def Thread.joined (t : Thread) (now : Nat) (r : W64 × Bool) : Thread :=
  match t.wait with
  | .join .rjoin _ => { t.next 8 with since := now }
  | .join (.vote _) (.p k) => { (t.setP k r.2).next 8 with since := now }
  | .join _ d => { ((t.setDst d r.1).push r.1).next 8 with since := now }
  | _ => t

/-- The instance completes: every member at once (R79). A W destination is written in that cc. -/
def completeJoin (l : List Thread) (s : State) : State :=
  l.foldl (fun s t =>
    let r := match t.wait with | .join op _ => joinResult op l t | _ => (0, false)
    let s1 := match t.wait with
      | .join _ (.w k) => s.putWg { s.wgOf t with w := (s.wgOf t).w.set k r.1 }
      | _ => s
    s1.putThread (t.joined (s.core t.core).ccnt.toNat r)) s

/-- The threads of a workgroup that are JOINING at a pc. -/
def State.joiners (s : State) (w : Workgroup) (pc : W64) : List Thread :=
  s.allThreads.filter (fun t => !t.spawned && w.is t && t.isJoin && t.pc == pc)

/-- The threads in `RJOIN` that complete now: all of them once the instance is full, else those whose mask is 0 or whose base lies at
or above the workgroup size (R81). -/
def rjoinDone (w : Workgroup) (l : List Thread) : List Thread :=
  if rjoinFull w l then l else l.filter (fun t => t.depB = 0 || w.wgsize ≤ t.depA.toNat / 64 * 64)

/-- JOIN_INSTANCE (R79, R81): the instances of a workgroup at a pc that are complete; none while its gang is saved (R83). -/
def execJoinInstance (w : Nat) (pc : Nat) (s : State) : Host.Outcome State Fault Refusal :=
  let g := s.wgBy w
  let l := if s.suspends g then [] else s.joiners g (BitVec.ofNat 64 pc)
  let s1 := completeJoin (rjoinDone g (l.filter Thread.isRjoin)) s
  .next ((List.range 16).foldl (fun s blk =>
    let i := l.filter (fun t => !t.isRjoin && t.index / 64 == blk)
    if !i.isEmpty && instanceFull g blk i then completeJoin i s else s) s1)

end Sys2Proof.Machine
end

