-- ==== Sys2Proof/Machine/Local.lean ====
section
/-! DEFINITION. The local memory of a plaza: banks and their modes (R100, R288-R290), write stamps (R218), soft errors (class S of
R343), and the store-to-load forwarding table (R93, R295). -/

namespace Sys2Proof.Machine

/-- The mode of a bank of a plaza (R100). -/
def PlazaSt.mode (p : PlazaSt) (bank : Nat) : BankMode :=
  ((p.banks.find? (fun x => x.1 == bank)).map (fun x => x.2)).getD .scratch

def PlazaSt.setMode (p : PlazaSt) (bank : Nat) (m : BankMode) : PlazaSt :=
  { p with banks := (p.banks.filter (fun x => x.1 != bank)) ++ (if m = .scratch then [] else [(bank, m)]) }

def PlazaSt.isScratch (p : PlazaSt) (bank : Nat) : Bool := p.mode bank == .scratch

/-- The first bank of a byte range that is not in scratch mode (R93). -/
def PlazaSt.badBank (p : PlazaSt) (x n : Nat) : Option Nat :=
  ((List.range ((x + n - 1) / 0x8000 - x / 0x8000 + 1)).map (· + x / 0x8000)).find? (fun b => !p.isScratch b)

/-- The aligned words that a byte range touches. -/
def wordsOf (x n : Nat) : List Nat := if n = 0 then [] else (List.range ((x + n - 1) / 4 - x / 4 + 1)).map (· + x / 4)

/-- The words that a write of the range covers whole. -/
def wholeWords (x n : Nat) : List Nat := (wordsOf x n).filter (fun w => x ≤ 4 * w && 4 * w + 4 ≤ x + n)

/-- The 512-byte units that a byte range touches (R218). -/
def unitsOf (x n : Nat) : List Nat := if n = 0 then [] else (List.range ((x + n - 1) / 512 - x / 512 + 1)).map (· + x / 512)

/-- Setting the stamps of units. -/
def setStamps (l : List (Nat × Nat)) (units : List Nat) (v : Nat) : List (Nat × Nat) :=
  (l.filter (fun x => !units.contains x.1)) ++ units.map (fun u => (u, v))

/-- The stamp of a unit; a unit never written has stamp 0. -/
def PlazaSt.stamp (p : PlazaSt) (unit : Nat) : Nat := ((p.stamps.find? (fun x => x.1 == unit)).map (fun x => x.2)).getD 0

/-- Unsigned comparison of a chain's COND (R56, R315). -/
def condUnsigned (cond a b : Nat) : Bool :=
  match cond with
  | 0 => a == b
  | 1 => a != b
  | 2 => a < b
  | 3 => a ≤ b
  | 4 => b < a
  | _ => b ≤ a

/-- A COND of an engine job sees the value that a write left in its word (R315). -/
def EngJob.watchWrite (m : Memory) (plaza x n : Nat) (j : EngJob) : EngJob :=
  match j.watch with
  | some (a, k, cond, v) =>
    if x < a + k ∧ a < x + n ∧ condUnsigned cond (memNat m (localAt plaza a) k) v then { j with met := true } else j
  | none => j

/-- A write to the local memory of a plaza (R218, R343): the bytes, the write counter and the stamps; a word covered whole is no
longer in error; the CONDs that watch a word of it are evaluated. -/
def State.localWrite (s : State) (plaza x : Nat) (bs : List Byte) : State :=
  let p := s.plaza plaza
  let n := bs.length
  let m := memWrite s.lmem (localAt plaza x) bs
  let p1 := { p with wctr := (p.wctr + 1) % 2 ^ 64, stamps := setStamps p.stamps (unitsOf x n) ((p.wctr + 1) % 2 ^ 64),
                     soft := p.soft.filter (fun w => !(wholeWords x n).contains w),
                     jobs := p.jobs.map (EngJob.watchWrite m plaza x n) }
  { s.putPlaza p1 with lmem := m }

/-- A read of the local memory of a plaza: none where a word is in error (R343). -/
def State.localRead (s : State) (plaza x n : Nat) : Option (List Byte) :=
  if (wordsOf x n).any (fun w => (s.plaza plaza).soft.contains w) then none
  else some (memRead s.lmem (localAt plaza x) n)

/-- The plaza byte address of a local offset of the executing thread's workgroup (R288). -/
def localAddr (s : State) (o : Nat) : Nat := s.wg.lbase + o

/-- The checks of a local access (R86, R93): alignment at the current core, the return to the plaza, then the allocation and the bank mode. A
spawned thread has no allocation anywhere. -/
def withLocal (o : Int) (size align : Nat) (k : Nat → State → State) (s : State) : State :=
  if o % (align : Int) ≠ 0 then raise 0x0A (ofInt64 o) s
  else
    atPlaza (fun s =>
      if s.th.spawned ∨ o < 0 ∨ o + size > s.th.localLen then raise 0x04 0 s
      else
        let x := localAddr s o.toNat
        match (s.plaza (plazaOf s.th.anchor)).badBank x size with
        | some b => raise 0x0F (BitVec.ofNat 64 b) s
        | none => k x s) s

def LocalWrite.overlaps (w : LocalWrite) (x n : Nat) : Bool := w.addr < x + n && x < w.addr + w.bytes.length

def LocalWrite.covers (w : LocalWrite) (x n : Nat) : Bool := w.addr ≤ x && x + n ≤ w.addr + w.bytes.length

/-- A local read of the executing thread (R93, R295): the bytes of the newest own write that covers it, or the bank's; a part-covered
one waits, and a word in error raises 0x0D. -/
def readLocal (x n : Nat) (faddr : W64) (k : List Byte → State → State) (s : State) : State :=
  match (s.th.fwd.filter (fun w => w.overlaps x n)).getLast? with
  | some w => if w.covers x n then k ((w.bytes.drop (x - w.addr)).take n) s else block .waiting .localWrites s
  | none =>
    match s.localRead (plazaOf s.th.anchor) x n with
    | some bs => k bs s
    | none => raise 0x0D faddr s

/-- A local write of the executing thread enters its forwarding table; a 17th waits for the oldest (R295). -/
def writeLocal (x : Nat) (bs : List Byte) (k : State → State) (s : State) : State :=
  if s.th.fwd.length ≥ 16 then block .waiting .localWrites s
  else
    let s1 : State := { s with nextId := s.nextId + 1 }
    k (s1.onTh (fun t => { t with fwd := t.fwd ++ [⟨s.nextId, x, bs⟩] }))

/-- The oldest local write of a thread is performed at its bank (R88, R295). One whose bank has left scratch mode is dropped with
0x0F (R290, log entry 11). Waiting threads run again. -/
def performLocal (tid : Nat) (s : State) : State :=
  match s.thread? tid with
  | none => s
  | some t =>
    match t.fwd with
    | [] => s
    | w :: rest =>
      let plaza := plazaOf t.anchor
      let t1 := { t with fwd := rest }
      let (s1, t2) : State × Thread :=
        match (s.plaza plaza).badBank w.addr w.bytes.length with
        | none => (s.localWrite plaza w.addr w.bytes, t1)
        | some b => (s, { t1 with writes := t1.writes.filter (fun y => y.id != w.id) ++
            [⟨w.id, .localMem, t.core, t.core, false, BitVec.ofNat 64 b, .failed 0x0F⟩] })
      (s1.putThread t2).wakeWaiting (fun u => u.tid == tid && u.wait == .localWrites)

end Sys2Proof.Machine
end

