-- ==== Sys2Proof/Machine/Port.lean ====
section
/-! DEFINITION. A home memory port (R88-R92, R103-R108, R291-R294, R297-R305, R340-R351): how it takes a request, performs it and
answers. An access of a sequencer, an engine job or a hub is made in place with the same checks. -/

namespace Sys2Proof.Machine

/-! ## After a write -/

/-- The condition of a monitor on the value that its location holds (R56, R108). -/
def condHolds (cond ty : Nat) (v b : W64) : Bool := condInt cond (narrow ty v) (narrow ty b)

/-- Every write to a unit clears its reservations (R107); the monitors of each word written are evaluated again (R108, R377). `cell` is the
address in main memory and `pa` the address at which its bytes stand. -/
def State.afterWrite (s : State) (port cell pa n : Nat) : State :=
  let q := s.port port
  let hit (m : Monitor) : Bool :=
    cell / 8 ≤ m.cell / 8 && m.cell / 8 ≤ (cell + n - 1) / 8 &&
      condHolds m.cond.toNat m.ty.toNat (BitVec.ofNat 64 (memNat s.mem (pa + m.cell - cell) (width m.ty.toNat / 8))) m.value
  let woken := q.monitors.filter hit
  let q1 := { q with resv := q.resv.filter (fun r => !(cell / 64 ≤ r.2 && r.2 ≤ (cell + n - 1) / 64)),
                     monitors := q.monitors.filter (fun m => !hit m) }
  let s1 := woken.foldl (fun s m => s.send port m.core 2 (.wake m.tid 0)) (s.putPort q1)
  if woken.isEmpty then s1 else s1.freeMonitors

/-- Bytes written; a write that covers a poisoned unit whole clears its poison (R344). -/
def State.writeMem (s : State) (pa : Nat) (bs : List Byte) : State :=
  let s1 : State := { s with mem := memWrite s.mem pa bs }
  if bs.length < 64 ∨ pa ≥ 2 ^ 50 then s1
  else
    let q := s1.port (unitPort pa)
    s1.putPort { q with poison := q.poison.filter (fun u => !(pa ≤ 64 * u && 64 * u + 64 ≤ pa + bs.length)) }

/-- The handle `n` bytes further on. -/
def handleAdd (h : W64) (n : Nat) : W64 := handleOf (indexOf h) (offsetOf h + n)

/-- A request with nothing in it. -/
def Request.blank : Request :=
  { who := .cache, asid := 0, handle := 0, size := 1, kind := .read, data := [], op := .lres, ty := 0, b := 0, c := 0, post := false,
    wid := 0, cond := 0, monitor := false, lease := false, trans := none }

/-! ## What stops an access -/

/-- Why an access made in place, or one of a mirror, does not go through: a fault code, a right that its page does not give, a page not present,
something in front of it, a throttled row, a cache index that is in use or whose metadata fails its check, a miss of a lost hub, a peer. -/
inductive Stop where
  | code (c : Nat)
  | right (port : Nat) (key : PageKey) (e : BufEntry) (p : Pme)
  | absent (home : Nat) (key : PageKey) (pos : Nat) (h : W64)
  | busy
  | row (core row : Nat)
  | sector (core index : Nat)
  | poison (core index : Nat)
  | lost (core : Nat)
  | peer (home : Nat) (h : W64) (n : Nat)
  deriving DecidableEq, Repr

/-- Events that the module itself raises happen next. -/
def State.raiseEvent (s : State) (i : Instr) : State := { s with agenda := .event i :: s.agenda }

/-- The layer of a byte of a channel, by its offset (R335). -/
def layerOf (x : Nat) : Nat := x / (96 * 2 ^ 20)

/-- A class A uncorrectable error in a layer of a channel (R345). -/
def PortSt.uncorrectable (q : PortSt) (layer : Nat) : PortSt :=
  { q with ctrs := vset q.ctrs 5 (vget q.ctrs 5 0 + 1), uel := vset q.uel layer (vget q.uel layer 0 + 1) }

/-- A cache index whose metadata fails its CHECK is poisoned; a 65th is a fatal error of the die (R342). -/
def State.poisonIndex (s : State) (core i : Nat) : State :=
  let q := s.port core
  if q.poisonIdx.contains i then s
  else
    let q1 := q.uncorrectable (layerOf (q.sectorAt i 0 % 2 ^ 31))
    if q.poisonIdx.length ≥ 64 then (s.putPort q1).raiseEvent (.dieFatalError (dieOf core) 3)
    else s.putPort { q1 with poisonIdx := i :: q1.poisonIdx }

/-! ## Row protection (R349-R351) -/

/-- A request that waits for a throttled row counts for its ASID (R351). -/
def countThrottled (core asid : Nat) (s : State) : State :=
  let d := s.die (dieOf core)
  let n := ((d.throttle.find? (fun x => x.1 == asid)).map (fun x => x.2)).getD 0
  s.putDie { d with throttle := (asid, n + 1) :: d.throttle.filter (fun x => x.1 != asid) }

/-- The row of a range that is throttled. -/
def PortSt.throttledIn (q : PortSt) (rows : List Nat) : Option Nat := rows.find? q.throttled.contains

/-- A request joins the hold queue of a row, and counts for its ASID; a host access has none (R350, R351). -/
def joinRow (core row src : Nat) (r : Request) (s : State) : State :=
  let q := s.port core
  let s1 := s.putPort { q with rowHold := q.rowHold ++ [(row, src, r)] }
  if r.who = .host then s1 else countThrottled core r.asid s1

/-- An access made in place waits for a throttled row as a request does, one at a time (R350, R351). -/
def State.joinToken (s : State) (core row : Nat) (who : Requester) (asid : Nat) : State :=
  let q := s.port core
  if q.rowHold.any (fun x => x.1 == row && x.2.2.who == who && x.2.2.size == 0) then s
  else joinRow core row core { Request.blank with who := who, asid := asid, size := 0 } s

/-- The counters of a port (R345): 0 hits, 1 misses, 2 write-backs, 6 throttled rows. -/
def PortSt.count (q : PortSt) (k : Nat) : PortSt := { q with ctrs := vset q.ctrs k (vget q.ctrs k 0 + 1) }

/-- What an access that does not go through leaves at its memory, and what then stops it: a lookup has used its page (R299), a miss counts (R345). -/
def Stop.noted (x : Stop) (who : Requester) (asid : Nat) (s : State) : Stop × State :=
  match x with
  | .row core k => (.busy, s.joinToken core k who asid)
  | .sector _ _ => (.busy, s)
  | .poison core k => (.code 0x0D, s.poisonIndex core k)
  | .lost core => (.code 0x0D, s.putPort ((s.port core).count 1))
  | .right port key e p => (.code 0x07, s.touch port key e p)
  | y => (y, s)

/-- An access that will not go through by waiting. -/
def Stop.final (x : Stop) : Bool :=
  match x with
  | .code _ | .right _ _ _ _ | .poison _ _ | .lost _ | .peer _ _ _ => true
  | .absent _ _ _ _ | .busy | .row _ _ | .sector _ _ => false

/-- An access of some bytes of a channel: it counts in their rows, and a throttled row lets it through only when its turn has come. -/
def rowGate (who : Requester) (pa n : Nat) (s : State) : Except Stop State :=
  let core := pa / 2 ^ 31
  let rows := rowsAt pa n
  let q := s.port core
  match rows.find? (fun r => q.throttled.contains r && !q.rowPass.contains (r, who)) with
  | some row => .error (.row core row)
  | none =>
    let s1 := rows.foldl (fun s r => countRow core r s) s
    .ok (if q.rowPass.isEmpty then s1
      else
        let q1 := s1.port core
        s1.putPort { q1 with rowPass := rows.foldl (fun l r => l.erase (r, who)) q1.rowPass })

/-! ## The memory-side cache (R338-R342) -/

/-- The port of the hub that a CAP address lies at. -/
def capHub (a : Nat) : Nat := 0x200 + 64 * (a / 2 ^ 40)

/-- The metadata of a cache index (R339). -/
def PortSt.setLine (q : PortSt) (i : Nat) (valid dirty : Bool) (tag : Nat) : PortSt :=
  { q with msc := (i, metaImage valid dirty (BitVec.ofNat 20 tag)) :: q.msc.filter (fun x => x.1 != i) }

/-- The CAP address of the sector that a cache index holds. -/
def PortSt.victim (q : PortSt) (i : Nat) : Nat := ((q.line i).2.2.1.toNat * q.sectors + i) * 2048

/-- A cached sector goes back to its LPDDR-6 (R340). -/
def writeBack (core i : Nat) (s : State) : State :=
  let q := s.port core
  let m := q.line i
  let s1 := s.copyMem (q.sectorAt i 0) (capAt (q.victim i)) 2048
  s1.putPort (((s1.port core).setLine i m.1 false m.2.2.1.toNat).count 2)

/-- A sector comes into its cache index (R340). -/
def fillSector (core a : Nat) (s : State) : State :=
  let q := s.port core
  let i := a / 2048 % q.sectors
  let s1 := s.copyMem (capAt (a / 2048 * 2048)) (q.sectorAt i 0) 2048
  s1.putPort (((s1.port core).setLine i true false (a / 2048 / q.sectors)).count 1)

/-- The sector of a CAP address in its cache, for an access made in place: it takes its turn behind what waits for the index (R340-R342). -/
def cacheSector (who : Requester) (core a : Nat) (write : Bool) (s : State) : Except Stop State :=
  let q := s.port core
  let i := a / 2048 % q.sectors
  let m := q.line i
  let done (s : State) : State :=
    if write then
      let q := s.port core
      let m := q.line i
      s.putPort (q.setLine i m.1 true m.2.2.1.toNat)
    else s
  if q.poisonIdx.contains i then .error (.code 0x0D)
  else if !m.2.2.2 then .error (.poison core i)
  else if q.mscBusy.any (fun x => x.1 == i) || q.mscWait.any (fun x => x.1 == i && (x.2.2.trans.map Translated.unit) == some core) then .error (.sector core i)
  else if q.caches a then .ok (done (s.putPort (q.count 0)))
  else if !s.capUp a || (m.1 && m.2.1 && !s.capUp (q.victim i)) then .error (.lost core)
  else
    (rowGate who (q.sectorAt i 0) 2048 s).map (fun s1 => done (fillSector core a (if m.1 && m.2.1 then writeBack core i s1 else s1)))

/-- The memory behind a translated address: its address, and the state in which the access may be made (R340, R349); the channel of a moved page may be
on a die that does not run (R426). -/
def State.ready (s : State) (who : Requester) (p : Pme) (lam n : Nat) (write : Bool) : Except Stop (Nat × State) :=
  let a := p.byteAt lam
  match p.tier with
  | 1 =>
    if (s.port p.core).sectors = 0 then (if s.capUp (a - 2 ^ 42) then .ok (a, s) else .error (.code 0x0D))
    else
      match cacheSector who p.core (a - 2 ^ 42) write s with
      | .error x => .error x
      | .ok s1 => (rowGate who (s1.phys p lam) n s1).map (fun s2 => (s1.phys p lam, s2))
  | 2 => .ok (a, s)
  | _ => if s.dieUp (dieOf p.core) then (rowGate who a n s).map (fun s1 => (a, s1)) else .error (.code 0x0D)

/-! ## Poison and mirrors (R344) -/

/-- A unit of the mirror buffer, read at its home as an access of its own (R344): 0x0D where it cannot be read there. -/
def mirrorUnit (who : Requester) (asid : Nat) (hm : W64) (s : State) : Except Stop (List Byte × State) :=
  match (if indexOf hm % 4096 = 0 then none else s.tableEntry asid (indexOf hm)) with
  | none => .error (.code 0x0D)
  | some m =>
    let l := homeLoc s.conf.lc m (offsetOf hm)
    let key : PageKey := ⟨asid, indexOf hm, l.page⟩
    if offsetOf hm ≥ m.length || !m.rd || m.tier == 3 || homeDead s m l.home then .error (.code 0x0D)
    else
      match s.pageOf l.home key with
      | none => .error (.code 0x0D)
      | some p =>
        if !p.rd then .error (.code 0x0D)
        else
          (s.ready who p l.lam 64 false).bind (fun (a, s1) =>
            if s1.poisoned a 64 then .error (.code 0x0D)
            else .ok (heldBytes s1 ⟨l.home, l.home, l.home, m, key, p, l.lam, none⟩ a (memRead s1.mem a 64), s1.touch l.home key m p))

/-- The poisoned units of a range are rewritten from the mirror buffer (R344). -/
def mirrorUnits (who : Requester) (asid : Nat) (e : BufEntry) (h : W64) (pa n : Nat) (s : State) : Except Stop State :=
  ((s.port (pa / 2 ^ 31)).poison.filter (fun u => pa / 64 ≤ u && u ≤ (pa + n - 1) / 64)).foldlM (fun s u =>
    let off : Int := (offsetOf h : Int) + ((64 * u : Nat) : Int) - (pa : Int)
    (mirrorUnit who asid (handleAdd e.mirror off.toNat) s).map (fun (bs, s1) => s1.writeMem (64 * u) bs)) s

/-- Reading bytes of a page, with the mirror in place of poisoned units. -/
def State.readClean (s : State) (who : Requester) (asid : Nat) (e : BufEntry) (h : W64) (pa n : Nat) : Except Stop (List Byte × State) :=
  if !s.poisoned pa n then .ok (memRead s.mem pa n, s)
  else if !e.replica ∨ pa ≥ 2 ^ 42 then .error (.code 0x0D)
  else (mirrorUnits who asid e h pa n s).map (fun s1 => (memRead s1.mem pa n, s1))

/-! ## Leases (R292-R294) -/

/-- The line of 512 bytes that an offset lies in. -/
def lineOf (h : W64) : Nat := offsetOf h / 512 * 512

/-- The latest unexpired lease end of a line at a port. -/
def PortSt.leaseEnd (q : PortSt) (asid buf line : Nat) (now : W64) : Option W64 :=
  ((q.leases.find? (fun x => x.1 == asid && x.2.1 == buf && x.2.2.1 == line && now.toNat < x.2.2.2.toNat)).map
    (fun x => x.2.2.2))

/-- Granting a lease (R293): its end, 0 where none is granted, with every one of the 4,096 entries unexpired. -/
def grantLease (port asid buf line : Nat) (s : State) : W64 × State :=
  let q := s.port port
  let now := s.dtcOf (dieOf port)
  let len := (s.die (dieOf port)).dlease
  let e := now + len.zeroExtend 64
  let live := q.leases.filter (fun x => now.toNat < x.2.2.2.toNat)
  let rest := live.filter (fun x => !(x.1 == asid && x.2.1 == buf && x.2.2.1 == line))
  let e' := match q.leaseEnd asid buf line now with
    | some old => if old.toNat > e.toNat then old else e
    | none => e
  if len = 0 then (0, s)
  else if live.length ≥ 4096 then (0, s)
  else (e, s.putPort { q with leases := rest ++ [(asid, buf, line, e')] })

/-! ## Answers -/

/-- The answer to a read, an arm or an atomic with result, from the unit that performed it. -/
def State.respond (s : State) (unit src : Nat) (r : Request) (bytes : List Byte) (stop : W64) (code : Nat) : State :=
  match r.who with
  | .thread tid => s.send unit src 1 (.data tid r.wid bytes stop code)
  | .peer _ tag => s.send unit src 1 (.data tag 0 bytes stop code)
  | .cache => if r.lease then s.send unit src 1 (.line r.wid bytes (if code = 0 then stop else 0)) else s
  | .sequencer _ _ | .engine _ _ | .row _ _ _ | .sector _ _ | .hub _ | .host => s

def State.respondAtomic (s : State) (unit src : Nat) (r : Request) (old : W64) (ok : Bool) (fl : BitVec 7) (code : Nat) : State :=
  match r.who with
  | .thread tid => s.send unit src 1 (.result tid old ok fl code r.wid)
  | .peer _ tag => s.send unit src 1 (.result tag old ok fl code r.wid)
  | .sequencer _ _ | .engine _ _ | .row _ _ _ | .sector _ _ | .cache | .hub _ | .host => s

/-- A write acknowledgement, to a core of the module or of a peer (R88, R430). -/
def ackBody (src tid wid : Nat) (till : W64) (code : Nat) : Body := if src < 1024 then .ack tid wid till code else .peerAck tid wid code

/-- The thread that an acknowledgement names; a peer's by its number. -/
def Requester.ackTo : Requester → Option Nat
  | .thread tid => some tid
  | .peer _ tag => some tag
  | .sequencer _ _ | .engine _ _ | .row _ _ _ | .sector _ _ | .cache | .hub _ | .host => none

/-- A write made in place is complete but for the leases on its line (R88). -/
def State.owe (s : State) (who : Requester) (port : Nat) (till : W64) : State :=
  let now (d : Nat) : Nat := (s.dtcOf d).toNat
  let live := s.owed.filter (fun x => match x.2 with | .lease d t => now d < t.toNat | .held _ _ => true)
  if now (dieOf port) < till.toNat then { s with owed := live ++ [(who, .lease (dieOf port) till)] } else s

/-- A requester's own writes; those of an engine job include the rows of its SCATTERs. -/
def Requester.includes (a b : Requester) : Bool :=
  a == b || (match a, b with | .engine p j, .row q k _ => p == q && j == k | _, _ => false)

/-- Whether what a write made in place waits for has not come yet. -/
def State.isDue (s : State) (x : Due) : Bool :=
  match x with
  | .lease d t => (s.dtcOf d).toNat < t.toNat
  | .held _ _ => true

/-- Whether writes that a requester made in place are not complete (R88, R304). -/
def State.owes (s : State) (who : Requester) : Bool := s.owed.any (fun x => who.includes x.1 && s.isDue x.2)

/-- A held write made in place has drained: what its leases still ask for stays, and a failure goes to whoever made it (R89), but for an engine of a hub,
which leaves the access out (log entry 143). -/
def State.drained (s : State) (port : Nat) (r : Request) (till : W64) (code : Nat) : State :=
  let s1 : State := { s with owed := s.owed.filter (fun x => x != (r.who, .held port r.wid)) }
  if code = 0 then s1.owe r.who port till
  else
    match r.who with
    | .hub _ => s1
    | _ => s1.send port port 3 (.units { r with trans := none } [] code)

/-- The acknowledgement of a write (R88, R430): at once, or when every lease on the line has expired at its home, if the writer is on another die. The
host's own write is answered on CXL.mem (R373). -/
def State.acknowledge (s : State) (unit src : Nat) (r : Request) (till : W64) (code : Nat) : State :=
  let home := (r.trans.map Translated.port).getD unit
  let held : Bool := till.toNat > (s.dtcOf (dieOf home)).toNat && (dieOf src != dieOf home || r.who == .host)
  let hold (s : State) : State := let q := s.port home; s.putPort { q with ackHold := q.ackHold ++ [(till, src, r)] }
  match r.who.ackTo with
  | some tid => if held then hold s else s.send unit src 2 (ackBody src tid r.wid till code)
  | none =>
    if r.who = .cache then s
    else if r.who = .host then (if held then hold s else { s with host := .writeDone (code != 0) :: s.host })
    else s.drained home r till code

/-- Whether a request wants a result: an atomic that is not POST. -/
def Request.wantsResult (r : Request) : Bool := r.kind == .atomic && !r.post

/-- The right that a request needs: 0 read, 1 write, 2 atomic; 3, none, of the host. -/
def Request.right (r : Request) : Nat :=
  match r.who, r.kind with
  | .host, _ => 3
  | _, .read => 0
  | _, .write => 1
  | _, .atomic => 2

/-- The message that carries a request (R403). -/
def Request.body (r : Request) : Body :=
  match r.kind with
  | .read => if r.monitor then .arm r else if r.lease then .fill r else .read r
  | .write => .store r
  | .atomic => .atomic r

/-- The answer of a request that fails at a unit (R89). -/
def State.refuseAt (s : State) (unit src : Nat) (r : Request) (code : Nat) : State :=
  match r.kind with
  | .read => s.respond unit src r [] 0 code
  | .write => s.acknowledge unit src r 0 code
  | .atomic => if r.post then s.acknowledge unit src r 0 code else s.respondAtomic unit src r 0 false 0 code

/-! ## Performing a request -/

/-- The time that a store to a leased line returns (R294); none for another buffer. -/
def State.returnedTime (s : State) (x : Translated) (r : Request) : Option W64 :=
  if x.e.leased then
    let now := s.dtcOf (dieOf x.port)
    some (((s.port x.port).leaseEnd r.asid (indexOf r.handle) (lineOf r.handle) now).getD now)
  else none

/-- The thread enters PARKED-MONITOR (R108). Its wait keeps the length of its `WAITC`: a woken thread goes on behind the instruction. For the
96-bit form that is PC + 12, where R108 says PC + 8 of both forms: the model's choice (log entry 139). -/
def Thread.parkMonitor (t : Thread) (port : Nat) : Thread :=
  { t with status := .parkedMonitor, wait := .monitor port (match t.wait with | .answer (.monitor len) => len | _ => 8) }

/-- The address of a request's bytes in main memory, wherever they stand now. -/
def Translated.cell (x : Translated) : Nat := x.p.byteAt x.lam

/-- What a read does with its bytes: it arms a monitor, it grants a lease, or it answers (R91, R108, R293). Monitors, reservations and leases are
kept at the home port. -/
def answerRead (x : Translated) (r : Request) (bs : List Byte) (s : State) : State :=
  if r.monitor then
    match r.who with
    | .thread tid =>
      let q := s.port x.port
      if condHolds r.cond.toNat r.ty.toNat (BitVec.ofNat 64 (leNat bs)) r.b then s.send x.unit x.src 2 (.wake tid 0)
      else if q.monitors.length ≥ 4096 then
        s.mapThreads (fun t => if t.tid = tid then { t with status := .waiting, wait := .monitors x.port } else t)
      else
        (s.putPort { q with monitors := q.monitors ++ [⟨tid, x.src, x.cell, x.key, r.ty, r.cond, r.b⟩] }).mapThreads
          (fun t => if t.tid = tid then t.parkMonitor x.port else t)
    | .peer p tag =>
      let q := s.port x.port
      if condHolds r.cond.toNat r.ty.toNat (BitVec.ofNat 64 (leNat bs)) r.b then s.send x.unit x.src 2 (.wake tag 0)
      else if q.monitors.length ≥ 4096 then { s with net := s.net ++ [⟨x.src, x.port, 0, false, .arm { r with trans := none }, .hop 3 0⟩] }
      else (s.putPort { q with monitors := q.monitors ++ [⟨peerThread p tag, x.src, x.cell, x.key, r.ty, r.cond, r.b⟩] })
    | .sequencer _ _ | .engine _ _ | .row _ _ _ | .sector _ _ | .cache | .hub _ | .host => s
  else if r.lease then
    let (stop, s1) := match x.lent with
      | some t => (t, s)
      | none => grantLease x.port r.asid (indexOf r.handle) (lineOf r.handle) s
    s1.respond x.unit x.src r bs stop 0
  else s.respond x.unit x.src r bs 0 0

/-- A request whose mirror cannot be read yet waits where the mirror stands: behind a throttled row, or for its turn at a cache index (R340, R350). -/
def waitMirror (x : Translated) (r : Request) (y : Stop) (s : State) : Option State :=
  match y with
  | .row core row => some (joinRow core row x.src { r with trans := some x } s)
  | .sector core i =>
    let q := s.port core
    some (s.putPort { q with mscWait := q.mscWait ++ [(i, x.src, { r with trans := some x })] })
  | _ => none

/-- A request that reads bytes which stop it: it waits for their mirror, or fails. -/
def State.stopRead (s : State) (x : Translated) (r : Request) (y : Stop) : State :=
  match waitMirror x r y s with
  | some s1 => s1
  | none => (y.noted r.who r.asid s).2.refuseAt x.unit x.src r 0x0D

/-- A read at its memory. -/
def performRead (x : Translated) (r : Request) (pa : Nat) (s : State) : State :=
  match s.readClean r.who r.asid x.e r.handle pa r.size with
  | .error y => s.stopRead x r y
  | .ok (bs, s1) => answerRead x r (heldBytes s1 x pa bs) s1

/-- The number that a reservation stands under: a thread's own, or one for a thread of a peer (R107, R376). -/
def Requester.reserver : Requester → Option Nat
  | .thread tid => some tid
  | .peer p tag => some (peerThread p tag)
  | .sequencer _ _ | .engine _ _ | .row _ _ _ | .sector _ _ | .cache | .hub _ | .host => none

/-- Whether the requester's reservation is held for a unit (R107). -/
def PortSt.holds (q : PortSt) (who : Requester) (unit : Nat) : Bool :=
  match who.reserver with
  | some tid => q.resv.any (fun x => x.1 == tid && x.2 == unit)
  | none => false

/-- Reservations after an atomic: `LRES` records one and replaces the thread's old one, `SCOND` ends it (R107). -/
def State.reserve (s : State) (port : Nat) (r : Request) (unit : Nat) : State :=
  match r.who.reserver with
  | none => s
  | some tid =>
    let s1 : State := { s with ports := s.ports.map (fun (p : PortSt) => { p with resv := p.resv.filter (fun x => x.1 != tid) }) }
    match r.op with
    | .lres =>
      let q := s1.port port
      s1.putPort { q with resv := (if q.resv.length < 2048 then q.resv else q.resv.drop 1) ++ [(tid, unit)] }
    | .scond => s1
    | .atom _ | .atomf _ | .cas => s

/-- A request performed on the bytes at `pa`, indivisibly (R105, R107, R376). -/
def performAt (x : Translated) (r0 : Request) (pa : Nat) (s : State) : State :=
  let r := { r0 with trans := some x }
  match r.kind with
  | .read => performRead x r pa s
  | .write =>
    let till := s.returnedTime x r
    ((s.writeMem pa r.data).afterWrite x.port x.cell pa r.data.length).acknowledge x.unit x.src r (till.getD 0) 0
  | .atomic =>
    match s.readClean r.who r.asid x.e r.handle pa r.size with
    | .error y => s.stopRead x r y
    | .ok (bs, s) =>
      let old := BitVec.ofNat 64 (leNat bs)
      let (new, ok, fl) := atomNew r.op r.ty ((s.port x.port).holds r.who (x.cell / 64)) old r.b r.c
      let till := s.returnedTime x r
      let s1 := s.reserve x.port r (x.cell / 64)
      let s2 := match new with
        | some v => (s1.writeMem pa (leBytes r.size v)).afterWrite x.port x.cell pa r.size
        | none => s1
      if r.post then s2.acknowledge x.unit x.src r (till.getD 0) 0
      else
        let s3 := s2.respondAtomic x.unit x.src r old ok fl 0
        match till with
        | some t => s3.acknowledge x.unit x.src r t 0
        | none => s3

/-! ## Serving -/

/-- An access goes on past some rows of a channel: it counts in each, or joins the hold queue of one that is throttled (R349, R350). -/
def passRows (core : Nat) (rows : List Nat) (src : Nat) (r : Request) (k : State → State) (s : State) : State :=
  match (s.port core).throttledIn rows with
  | some row => joinRow core row src r s
  | none => k (rows.foldl (fun s row => countRow core row s) s)

/-- A translated request is performed on the bytes at `pa`, or waits for a throttled row (R349, R350). -/
def throttle (x : Translated) (r : Request) (pa : Nat) (s : State) : State :=
  passRows (pa / 2 ^ 31) (rowsAt pa r.size) x.src { r with trans := some x } (performAt x r pa) s

/-- A request for tier CAP with no carve-out goes to the hub, which reads for its home or performs it (R340). A line fill takes its lease
first, so that a write behind it finds the lease. -/
def viaHub (x : Translated) (r : Request) (s : State) : State :=
  let a := x.cell - 2 ^ 42
  if !s.capUp a then s.refuseAt x.unit x.src r 0x0D
  else
    let (lent, s1) : Option W64 × State :=
      if r.lease then
        let g := grantLease x.port r.asid (indexOf r.handle) (lineOf r.handle) s
        (some g.1, g.2)
      else (none, s)
    s1.send x.unit (capHub a) 0 ({ r with trans := some { x with lent := lent } } : Request).body

/-- A translated request at the unit that performs it (R92, R340): the host port for tier HOST, the memory-side cache for tier CAP with a
carve-out, else the channel, or the hub. -/
def atMemory (x : Translated) (r : Request) (s : State) : State :=
  match x.p.tier with
  | 2 =>
    let r := { r with trans := some x }
    s.send x.port x.port 3 (if r.kind == .read then .hostRead r x.src x.p.frame (x.lam % 65536) else .hostWrite r x.src x.p.frame (x.lam % 65536))
  | 1 =>
    let q := s.port x.unit
    if q.sectors = 0 then viaHub x r s
    else s.putPort { q with mscWait := q.mscWait ++ [((x.cell - 2 ^ 42) / 2048 % q.sectors, x.src, { r with trans := some x })] }
  | _ => throttle x r x.cell s

/-- A translated request goes to its memory: that of its home, or, for a moved tier-HOST page, by VC0 to the port of DCORE, which performs
it and answers (R280, R305). -/
def place (port src : Nat) (r : Request) (e : BufEntry) (key : PageKey) (p : Pme) (lam : Nat) (s : State) : State :=
  let x : Translated := ⟨port, src, if p.tier = 2 then port else p.core, e, key, p, lam, none⟩
  if x.unit = port then atMemory x r s
  else if !s.dieUp (dieOf x.unit) then s.refuseAt port src r 0x0D
  else s.send port x.unit 0 ({ r with trans := some x } : Request).body

/-- A request from a home without a carve-out, at the hub of its CAP address: a read returns its bytes to the home; a write, an atomic or an arm is
performed here, and the hub answers (R340, log entry 137). -/
def atHub (hub : Nat) (x : Translated) (r : Request) (s : State) : State :=
  if r.kind == .read && !r.monitor then
    match s.readClean r.who r.asid x.e r.handle x.cell r.size with
    | .ok (bs, s1) => s1.send hub x.unit 3 (.units r bs 0)
    | .error _ => s.send hub x.unit 3 (.units r [] 0x0D)
  else performAt { x with unit := hub } r x.cell s

/-- The bytes that a home fetched from its hub are there (R340). -/
def unitsArrive (x : Translated) (r : Request) (bs : List Byte) (code : Nat) (s : State) : State :=
  if code ≠ 0 then s.refuseAt x.unit x.src r code else answerRead x r (heldBytes s x x.cell bs) s

/-- A request whose page is present: the write-hold queue while WB is set, else its memory. None where the queue is full. -/
def serveHit (port src : Nat) (r : Request) (e : BufEntry) (key : PageKey) (p : Pme) (lam : Nat) (s : State) : Option State :=
  let s := s.touch port key e p
  let q := s.port port
  match r.who, p.pin, r.kind with
  | .peer _ _, false, .write | .peer _ _, false, .atomic => some (s.refuseAt port src r 0x07)
  | _, _, .read => some (place port src r e key p lam s)
  | _, _, _ =>
    if p.wb then
      if q.wbQ.length ≥ 64 then none else some (s.putPort { q with wbQ := q.wbQ ++ [(key, src, r)] })
    else some (place port src r e key p lam s)

/-- A write of the page that the port holds (R89). -/
def PortSt.holdsWrite (q : PortSt) (key : PageKey) : Bool := q.holdQ.any (fun x => x.1 == key)

/-- A write of the page that the port has taken and not been able to put into its queue yet (R34, R89, R304). -/
def PortSt.walksWrite (q : PortSt) (key : PageKey) : Bool := q.walking.any (fun x => x.1 == key && x.2.2.kind != .read)

/-- Waiting threads enter PARKED-FAULT (R89), and their cores count it (R85). -/
def State.parkWhere (s : State) (p : Thread → Bool) : State :=
  let l := s.allThreads.filter (fun t => t.status == .waiting && p t)
  (l.foldl (fun s t => s.countCore t.core 7) s).mapThreads (fun t => if t.status == .waiting && p t then { t with status := .parkedFault } else t)

def Wait.isAnswer (w : Wait) : Bool := match w with | .answer _ => true | _ => false

/-- A thread whose request waits for the host to complete a fault (R89). -/
def State.parkRequester (s : State) (who : Requester) : State :=
  match who with
  | .thread tid => s.parkWhere (fun t => t.tid == tid && t.wait.isAnswer)
  | _ => s

/-- A sent write is held at its home, and a thread whose instruction waits for it parks (R89); or it is sent again as its page is translated
anew. -/
def State.holdWrite (s : State) (who : Requester) (wid : Nat) (held : Bool) : State :=
  match who with
  | .thread tid =>
    let has (t : Thread) : Bool := t.tid == tid && t.wait == .writes && t.awaited.contains wid
    let s1 := s.mapThreads (fun t =>
      if t.tid = tid then { t with writes := t.writes.map (fun w => if w.id = wid then { w with state := if held then .held else .sent } else w) } else t)
    if held then s1.parkWhere has
    else
      s1.mapThreads (fun t =>
        if has t ∧ t.status = .parkedFault ∧ t.writes.all (fun w => w.state != .held || !t.awaited.contains w.id) then { t with status := .waiting } else t)
  | _ => s

/-- A write joins the fault-hold queue of its page; none where the queue is full (R89). -/
def joinHold (port src : Nat) (key : PageKey) (r : Request) (s : State) : Option State :=
  let q := s.port port
  if q.holdQ.length ≥ 64 then none
  else some (((s.putPort { q with holdQ := q.holdQ ++ [(key, src, r)] }).parkRequester r.who).holdWrite r.who r.wid true)

/-- A request that its home has yet to translate. What has come before it and waits for the page's walk, or is held, stays in front of it: accesses to
one page are performed in the order in which they arrive (R34, R89, R358, R365). -/
def serveHome (port src : Nat) (r : Request) (s : State) : Option State :=
  match translate s port r.asid r.handle r.right r.size with
  | .code c => some ((s.looked port r.asid r.handle).refuseAt port src r c)
  | .walk key => let q := s.port port; some (s.putPort { q with walking := q.walking ++ [(key, src, r)] })
  | .page e key p lam =>
    let q := s.port port
    if q.walksWrite key then some (s.putPort { q with walking := q.walking ++ [(key, src, r)] })
    else if q.holdsWrite key then
      (if r.kind == .read then some (s.putPort { q with readHold := q.readHold ++ [(key, src, r)] }) else joinHold port src key r s)
    else serveHit port src r e key p lam s

/-- A request at a memory port. None: it stays in the fabric, because the queue it must join is full (R89, R304). -/
def serve (port src : Nat) (r : Request) (s : State) : Option State :=
  match r.trans with
  | none => serveHome port src r s
  | some x => some (if port = x.unit then atMemory x r s else atHub port x r s)

/-- An absent page (R89, R301): the first access posts a record, writes join the fault-hold queue, reads wait. A prefetch ends (R94). The answer says
whether the request has found room. -/
def parkRequest (port src : Nat) (key : PageKey) (r : Request) (s : State) : State × Bool :=
  let npos := match s.portEntry port r.asid (indexOf r.handle) with
    | some e => (homeLoc s.conf.lc e (offsetOf r.handle)).pos
    | none => 0
  let s1 := s.postRecord port key r.handle npos (if r.kind == .read then 0 else if r.kind == .write then 1 else 2) (if r.kind == .read then 0 else 1)
  match r.kind with
  | .read =>
    if r.who = .cache then (s.respond port src r [] 0 0x0D, true)
    else
      let q := s1.port port
      ((s1.putPort { q with readHold := q.readHold ++ [(key, src, r)] }).parkRequester r.who, true)
  | _ =>
    match joinHold port src key r s1 with
    | some s2 => (s2, true)
    | none => (s1, false)

/-! ## The walk (R298) -/

/-- The requests of one page served one after another; one that finds a queue full stays, with everything behind it. -/
def serveAll (port : Nat) (l : List (PageKey × Nat × Request)) (s : State) : State × List (PageKey × Nat × Request) :=
  l.foldl (fun (s, kept) x =>
    if !kept.isEmpty then (s, kept ++ [x])
    else
      match serve port x.2.1 x.2.2 s with
      | some s1 => (s1, kept)
      | none => (s, kept ++ [x])) (s, [])

def parkAll (port : Nat) (l : List (PageKey × Nat × Request)) (s : State) : State × List (PageKey × Nat × Request) :=
  l.foldl (fun (s, kept) x =>
    if !kept.isEmpty then (s, kept ++ [x])
    else
      let (s1, ok) := parkRequest port x.2.1 x.1 x.2.2 s
      (s1, if ok then kept else kept ++ [x])) (s, [])

/-- Whether a thread waits for the walk of a page. -/
def Thread.walks (t : Thread) (core : Nat) (key : PageKey) : Bool :=
  match t.wait with
  | .walk c k _ _ => c == core && k == key
  | _ => false

/-- The threads that wait for the walk of an absent page park there, and the first posts the record (R35, R301). -/
def parkThreads (core : Nat) (key : PageKey) (s : State) : State :=
  let l := s.allThreads.filter (fun t => t.walks core key)
  match l with
  | [] => s
  | t0 :: _ =>
    let (h, acc) := match t0.wait with | .walk _ _ h acc => (h, acc) | _ => (0, 0)
    let npos := match s.portEntry core key.asid key.buf with
      | some e => posOf s.conf.lc e core
      | none => 0
    let s1 := l.foldl (fun s t => s.countCore t.core 7) s
    (s1.mapThreads (fun t => if t.walks core key then { t with status := .parkedFault, wait := .fault core key } else t)).postRecord
      core key h npos acc 0

/-- The threads at a home go on from the walk, unless a write in front of their loads has found no room (R34). -/
def State.wakeWalks (s : State) (core : Nat) (key : PageKey) (kept : List (PageKey × Nat × Request)) : State :=
  if kept.any (fun x => x.2.2.kind != .read) then s else s.wakeWaiting (fun t => t.walks core key)

/-- A walk returns (R298, R301). Where everything that waits for it still finds its queue full, nothing has happened. -/
def walkDone (core : Nat) (key : PageKey) (s : State) : State :=
  let q := s.port core
  let mine := q.walking.filter (fun x => x.1 == key)
  let s0 := s.putPort { q with walking := q.walking.filter (fun x => x.1 != key) }
  let back (s1 : State) (kept : List (PageKey × Nat × Request)) : State :=
    let q1 := s1.port core
    s1.putPort { q1 with walking := if kept.length = mine.length then q.walking else kept ++ q1.walking }
  match s.walkPme core key with
  | some p =>
    let (s2, kept) := serveAll core mine (s0.putPort ((s0.port core).fill key p))
    if !mine.isEmpty ∧ kept.length = mine.length then s else back (s2.wakeWalks core key kept) kept
  | none =>
    let (s2, kept) := parkAll core mine s0
    back (parkThreads core key s2) kept

/-! ## Accesses made in place -/

/-- A write of a page that its home has translated and that has not been performed: on its way to another unit or to the host, at a cache index, or behind
a throttled row. -/
def State.writesOnWay (s : State) (port : Nat) (key : PageKey) : Bool :=
  let is (r : Request) : Bool := r.kind != .read && (match r.trans with | some x => x.port == port && x.key == key | none => false)
  s.net.any (fun m => match m.body with | .store r | .atomic r | .hostWrite r _ _ _ => is r | _ => false) ||
    s.ports.any (fun q => q.mscWait.any (fun x => is x.2.2) || q.rowHold.any (fun x => is x.2.2))

/-- What a home holds or has passed on of the writes of a page stays in front of an access made in place (R280, R358). -/
def State.writesAhead (s : State) (port : Nat) (key : PageKey) : Bool :=
  (s.port port).holdsWrite key || (s.port port).walksWrite key || s.writesOnWay port key

/-- The entry and handle that an access in place uses: the mirror of a home that does not run (R37), for a read. -/
def State.liveEntry (s : State) (asid : Nat) (h : W64) (read : Bool) : Except Nat (BufEntry × W64) :=
  match (if indexOf h % 4096 = 0 then none else s.tableEntry asid (indexOf h)) with
  | none => .error 0x08
  | some e =>
    if !homeDead s e (homeLoc s.conf.lc e (offsetOf h)).home then .ok (e, h)
    else if !(read && e.replica) then .error 0x0D
    else
      let hm := handleAdd e.mirror (offsetOf h)
      match s.tableEntry asid (indexOf hm) with
      | none => .error 0x0D
      | some m => if homeDead s m (homeLoc s.conf.lc m (offsetOf hm)).home then .error 0x0D else .ok (m, hm)

/-- Reading bytes that lie in one granule. -/
def readPiece (who : Requester) (asid : Nat) (h : W64) (n : Nat) (s : State) : Except Stop (List Byte × State) :=
  match s.liveEntry asid h true with
  | .error c => .error (.code c)
  | .ok (e, h) =>
    if offsetOf h + n > e.length then .error (.code 0x06)
    else if !e.rd then .error (.code 0x07)
    else
      let l := homeLoc s.conf.lc e (offsetOf h)
      let key : PageKey := ⟨asid, indexOf h, l.page⟩
      if e.tier = 3 then .error (.peer (peerCore asid e.peer l.home) h n)
      else
        match s.pageOf l.home key with
        | none => .error (.absent l.home key l.pos h)
        | some p =>
          if !p.rd then .error (.right l.home key e p)
          else if s.writesAhead l.home key then .error .busy
          else
            match s.ready who p l.lam n false with
            | .error x => .error x
            | .ok (a, s1) =>
              (s1.readClean who asid e h a n).map (fun (bs, s2) =>
                (heldBytes s2 ⟨l.home, l.home, l.home, e, key, p, l.lam, none⟩ a bs, s2.touch l.home key e p))

/-- Reading bytes granule by granule, from a handle on; the first number is what is left of the pieces. -/
def readPieces (who : Requester) (asid : Nat) (h : W64) (n : Nat) : Nat → List Byte → State → Except Stop (List Byte × State)
  | 0, acc, s => .ok (acc, s)
  | k + 1, acc, s =>
    if n ≤ acc.length then .ok (acc, s)
    else
      let h1 := handleAdd h acc.length
      match readPiece who asid h1 (min (n - acc.length) (512 - offsetOf h1 % 512)) s with
      | .ok (bs, s1) => readPieces who asid h n k (acc ++ bs) s1
      | .error x => .error x

/-- Reading `n` bytes of a buffer in place. -/
def State.readBuf (s : State) (who : Requester) (asid : Nat) (h : W64) (n : Nat) : Except Stop (List Byte × State) :=
  readPieces who asid h n (n / 512 + 2) [] s

/-- A write made in place joins the write-hold queue of a page whose WB is set (R304); it is complete when it drains. -/
def holdInPlace (who : Requester) (home : Nat) (key : PageKey) (h : W64) (bs : List Byte) (s : State) : Except Stop State :=
  let q := s.port home
  if q.wbQ.length ≥ 64 then .error .busy
  else
    let r : Request := { Request.blank with who := who, asid := key.asid, handle := h, size := bs.length, kind := .write, data := bs, wid := s.nextId }
    .ok { s.putPort { q with wbQ := q.wbQ ++ [(key, home, r)] } with nextId := s.nextId + 1, owed := s.owed ++ [(who, .held home s.nextId)] }

/-- Writing bytes that lie in one granule (R92, R304): it waits behind the writes of the page that its home holds. -/
def writePiece (who : Requester) (asid : Nat) (h : W64) (bs : List Byte) (s : State) : Except Stop State :=
  match s.liveEntry asid h false with
  | .error c => .error (.code c)
  | .ok (e, h) =>
    if offsetOf h + bs.length > e.length then .error (.code 0x06)
    else if !e.wr then .error (.code 0x07)
    else
      let l := homeLoc s.conf.lc e (offsetOf h)
      let key : PageKey := ⟨asid, indexOf h, l.page⟩
      if e.tier = 3 then .error (.peer (peerCore asid e.peer l.home) h bs.length)
      else
        match s.pageOf l.home key with
        | none => .error (.absent l.home key l.pos h)
        | some p =>
          let q := s.port l.home
          if !p.wr then .error (.right l.home key e p)
          else if s.writesAhead l.home key then .error .busy
          else if p.wb || q.wbQ.any (fun x => x.1 == key) then holdInPlace who l.home key h bs s
          else
            match s.ready who p l.lam bs.length true with
            | .error x => .error x
            | .ok (a, s1) =>
              let till := s1.returnedTime ⟨l.home, l.home, l.home, e, key, p, l.lam, none⟩ { Request.blank with asid := asid, handle := h }
              .ok ((((s1.writeMem a bs).afterWrite l.home (p.byteAt l.lam) a bs.length).touch l.home key e p).owe who l.home (till.getD 0))

def writePieces (who : Requester) (asid : Nat) (h : W64) : Nat → List Byte → State → Except Stop State
  | 0, _, s => .ok s
  | k + 1, bs, s =>
    if bs.isEmpty then .ok s
    else
      let m := 512 - offsetOf h % 512
      match writePiece who asid h (bs.take m) s with
      | .ok s1 => writePieces who asid (handleAdd h m) k (bs.drop m) s1
      | .error x => .error x

/-- Writing bytes of a buffer in place; nothing is written where a piece fails. -/
def State.writeBuf (s : State) (who : Requester) (asid : Nat) (h : W64) (bs : List Byte) : Except Stop State :=
  writePieces who asid h (bs.length / 512 + 2) bs s

end Sys2Proof.Machine
end

