-- ==== Sys2Proof/Machine/FloatOps.lean ====
section
/-! DEFINITION. Scalar floating and conversion instructions (R239-R247) and the format registers (R240, R260, R261). -/

namespace Sys2Proof.Machine

/-! ## Control bits (R57) -/

def rmOf (f : Fields) : Nat := fbits f.func 6 5
def fziOf (f : Fields) : Bool := bitOf f.func.toNat 7
def fzoOf (f : Fields) : Bool := bitOf f.func.toNat 8
def satOf (f : Fields) : Bool := bitOf f.func.toNat 9

/-- The source type of a conversion (R55). -/
def srcTypeOf (f : Fields) : Nat := ibits f.imm11 4 0

/-! ## Format registers -/

/-- The image of Fk (R240): direct at the anchor, else the thread waits for it and executes again; a spawned thread has none. -/
def withImage (k : Nat) (body : W64 → State → State) (s : State) : State :=
  let t := s.th
  if t.spawned then raise 0x0B 0 s
  else if t.core = t.anchor then body (vget s.wg.f k 0) s
  else
    match t.images.find? (fun x => x.1.val == k) with
    | some x => body x.2 s
    | none =>
      block .waiting (.answer (.image (Fin.ofNat 8 k))) (s.send t.core t.anchor 0 (.imageRead t.tid s.wg.wid (Fin.ofNat 8 k)))

/-- A valid image, or 0x05 (R224). -/
def withNarrow (k : Nat) (body : Narrow → State → State) (s : State) : State :=
  withImage k (fun x s => match parseImage x with | some m => body m s | none => raise 0x05 0 s) s

/-- The format of a float TYPE or of `.xFk`. -/
def withFmt (t : Nat) (body : Fmt → State → State) (s : State) : State :=
  if isNarrow t then withNarrow (t - 16) (fun m => body m.fmt) s else body (stdFmt t) s

/-! ## Scalar sources and results -/

/-- An inline immediate of value n under F (R239): converted exactly. Where F has no code of that value the code is free (log entry 131). -/
def immUnder (F : Fmt) (fzi : Bool) (n : Int) : Val :=
  if F.std then intVal n
  else
    let c := (roundVal F 0 false false (intVal n)).1
    if cmpVal (decodeVal F false c) (intVal n) = some .eq then decodeVal F fzi c
    else decodeVal F fzi ((Config.inexactImmediate [if F.sign then 1 else 0, F.e, F.m, F.bias, F.spec] n).toNat % 2 ^ F.width)

/-- A source of float type F (R43, R239). -/
def floatSrc (op : Nat) (f : Fields) (F : Fmt) (fzi : Bool) (k : Nat) (s : State) : Val :=
  let o := if k = 0 then f.a else if k = 1 then f.b else f.c
  let isRepl : Bool := match form op f.func f.imm11 f.ext f.len with
    | some g => replaced g f.len == k
    | none => false
  match o with
  | .imm j => if isRepl then decodeVal F fzi ((src op f k s).toNat % 2 ^ F.width) else immUnder F fzi ((j : Int) - 16)
  | _ => decodeVal F fzi ((src op f k s).toNat % 2 ^ F.width)

/-- A code in bits [w-1:0], with its flags (R239). -/
def floatEnd (f : Fields) (r : Nat × BitVec 7) (s : State) : State :=
  finishQ f (BitVec.ofNat 64 r.1) (s.onTh (fun t => t.flag r.2))

/-- The `n` sources under TYPE. -/
def floatSrcs (op n : Nat) (f : Fields) (s : State) : List Val :=
  (List.range n).map (fun k => floatSrc op f (stdFmt (tyOf f)) (fziOf f) k s)

/-- R242: the exact result rounded to TYPE; a signalling NaN among the sources sets NV. -/
def floatOp (op n : Nat) (f : Fields) (r : List Val → Exact) (s : State) : Host.Outcome State Fault Refusal :=
  runOp op f (fun s =>
    let l := floatSrcs op n f s
    let x := r l
    floatEnd f ({ x with flags := x.flags ||| sigFlags l }.round (stdFmt (tyOf f)) (rmOf f) (fzoOf f) false) s) s

def arg (l : List Val) (k : Nat) : Val := l.getD k (.fin false 0 0)

def oneVal : Val := .fin false 1 0

def execFadd (f : Fields) (s : State) := floatOp 0x80 2 f (fun l => sumVals (rmOf f) [arg l 0, arg l 1]) s
def execFsub (f : Fields) (s : State) := floatOp 0x81 2 f (fun l => sumVals (rmOf f) [arg l 0, (arg l 1).neg]) s
def execFmul (f : Fields) (s : State) := floatOp 0x82 2 f (fun l => mulVal (arg l 0) (arg l 1)) s
def execFma (f : Fields) (s : State) := floatOp 0x83 3 f (fun l => fmaVal (rmOf f) (arg l 0) (arg l 1) (arg l 2)) s
def execFdiv (f : Fields) (s : State) := floatOp 0x84 2 f (fun l => divVal (arg l 0) (arg l 1)) s
def execFsqrt (f : Fields) (s : State) := floatOp 0x85 1 f (fun l => sqrtVal (arg l 0)) s
def execFrcp (f : Fields) (s : State) := floatOp 0x86 1 f (fun l => divVal oneVal (arg l 0)) s
def execFrsq (f : Fields) (s : State) := floatOp 0x87 1 f (fun l => rsqVal (arg l 0)) s
def execFex2 (f : Fields) (s : State) := floatOp 0x88 1 f (fun l => exp2Val (arg l 0)) s
def execFlg2 (f : Fields) (s : State) := floatOp 0x89 1 f (fun l => log2Val (arg l 0)) s
def execFmin (f : Fields) (s : State) := floatOp 0x8A 2 f (fun l => exactVal (minVal (arg l 0) (arg l 1))) s
def execFmax (f : Fields) (s : State) := floatOp 0x8B 2 f (fun l => exactVal (maxVal (arg l 0) (arg l 1))) s

/-- NV of a compare (R244): a signalling NaN always, a quiet one under LT, LE, GT and GE. -/
def cmpFlags (cond : Nat) (a b : Val) : BitVec 7 :=
  if a.isSig || b.isSig || ((a.isNan || b.isNan) && 2 ≤ cond && cond ≤ 5) then flagNV else 0

def execFcmp (f : Fields) (s : State) : Host.Outcome State Fault Refusal :=
  runOp 0x8C f (fun s =>
    let cond := fbits f.func 8 5
    let l := (List.range 2).map (fun k => floatSrc 0x8C f (stdFmt (tyOf f)) (bitOf f.func.toNat 9) k s)
    finishP f (condFloat cond (cmpVal (arg l 0) (arg l 1)))
      (s.onTh (fun t => t.flag (cmpFlags cond (arg l 0) (arg l 1))))) s

/-- The class bit of R245. -/
def classOf (F : Fmt) (v : Val) : Nat :=
  match v with
  | .nan sig => if sig then 0 else 1
  | .inf neg => if neg then 2 else 9
  | .fin neg m e =>
    if m = 0 then (if neg then 5 else 6)
    else if cmpMag m e 1 (1 - F.bias) == .lt then (if neg then 4 else 7)
    else if neg then 3 else 8

def execFcls (f : Fields) (s : State) : Host.Outcome State Fault Refusal :=
  runOp 0x8D f (fun s =>
    finishQ f (BitVec.ofNat 64 (2 ^ classOf (stdFmt (tyOf f)) (floatSrc 0x8D f (stdFmt (tyOf f)) (fziOf f) 0 s))) s) s

/-! ## Conversions (R246, R247) -/

/-- The rounding of `FCVT`. -/
def convert (td : Fmt) (rm : Nat) (fzo sat : Bool) (v : Val) : Nat × BitVec 7 :=
  let (c, fl) := roundVal td rm fzo sat v
  (c, fl ||| sigFlags [v])

def execFcvt (f : Fields) (s : State) : Host.Outcome State Fault Refusal :=
  runOp 0x8E f (withFmt (srcTypeOf f) (fun ts => withFmt (tyOf f) (fun td s =>
    floatEnd f (convert td (rmOf f) (fzoOf f) (satOf f) (floatSrc 0x8E f ts (fziOf f) 0 s)) s))) s

def execIcvf (f : Fields) (s : State) : Host.Outcome State Fault Refusal :=
  runOp 0x8F f (withFmt (tyOf f) (fun td s =>
    floatEnd f (roundVal td (rmOf f) (fzoOf f) false (intVal (narrow (srcTypeOf f) (src 0x8F f 0 s)))) s)) s

def execFcvi (f : Fields) (s : State) : Host.Outcome State Fault Refusal :=
  runOp 0x90 f (withFmt (srcTypeOf f) (fun ts s =>
    let (r, fl) := floatToInt (tyOf f) (rmOf f) (satOf f) (floatSrc 0x90 f ts (fziOf f) 0 s)
    finishQ f (extend (tyOf f) r) (s.onTh (fun t => t.flag fl)))) s

/-! ## `FMTW` and `FMTR` -/

/-- The write becomes visible at the end of the cc (R48, R260). -/
def execFmtw (f : Fields) (s : State) : Host.Outcome State Fault Refusal :=
  runOp 0xB8 f (fun s =>
    let x := if bitOf f.func.toNat 3 then src 0xB8 f 0 s else f.ext
    finishU f (s.putWg { s.wg with fPend := s.wg.fPend ++ [(Fin.ofNat 8 (fbits f.func 2 0), x)] })) s

def execFmtr (f : Fields) (s : State) : Host.Outcome State Fault Refusal :=
  runOp 0xB9 f (withImage (fbits f.func 2 0) (fun x s => finishQ f x s)) s

end Sys2Proof.Machine
end

