-- ==== Sys2Proof/Machine/Vector.lean ====
section
/-! DEFINITION. Vector arithmetic, moves, compare, conversion and quantisation (R248, R251-R259). -/

namespace Sys2Proof.Machine

/-! ## Elements -/

/-- A vector TYPE with its width, element count and format (R44, R229). -/
structure VTy where
  t   : Nat
  w   : Nat
  n   : Nat
  fmt : Fmt
  deriving DecidableEq, Repr

def withVTy (t : Nat) (body : VTy → State → State) (s : State) : State :=
  if isNarrow t then withNarrow (t - 16) (fun m => body ⟨t, m.fmt.width, codesOf m.fmt.width, m.fmt⟩) s
  else body ⟨t, width t, 256 / width t, stdFmt t⟩ s

/-- Elements 0 to n−1 of w bits. -/
def elems (w n : Nat) (v : W256) : List Nat := (List.range n).map (fun i => v.toNat / 2 ^ (w * i) % 2 ^ w)

/-- Elements laid out from bit 0 upward. -/
def packElems (w : Nat) : List Nat → Nat
  | [] => 0
  | x :: xs => x % 2 ^ w + 2 ^ w * packElems w xs

def packV (w : Nat) (l : List Nat) : W256 := BitVec.ofNat 256 (packElems w l)

/-- `check_tag(reg, TYPE)` (R11, R50). -/
def withTag (o : Opnd) (t : Nat) (body : State → State) (s : State) : State :=
  if (s.th.vtag[vReg o]).toNat = 0x20 + t then body s else raise 0x05 0 s

def VTy.of (T : VTy) (o : Opnd) (s : State) : List Nat := elems T.w T.n s.th.v[vReg o]

def tagOf (t : Nat) : BitVec 6 := BitVec.ofNat 6 (0x20 + t)

/-- The `.z` type of a width (R255). -/
def zType (w : Nat) : Nat := if w = 8 then 4 else if w = 16 then 5 else if w = 32 then 6 else 7

/-- Writing a vector result and its flags. -/
def vectorEnd (f : Fields) (T : VTy) (r : List (Nat × BitVec 7)) (s : State) : State :=
  finishV f (packV T.w (r.map Prod.fst)) (tagOf T.t) (s.onTh (fun t => t.flag (r.foldl (fun x y => x ||| y.2) 0)))

/-! ## Arithmetic -/

/-- An integer element (R64). -/
def intElem (t : Nat) (x : Nat) : Int := narrow t (BitVec.ofNat 64 x)

/-- One element under TYPE (R251): an exact integer, or a float rounded as the scalar instruction rounds it. -/
def element (f : Fields) (T : VTy) (gi : List Int → Int) (gf : List Val → Exact) (l : List Nat) : Nat × BitVec 7 :=
  if isInt T.t then ((gi (l.map (intElem T.t)) % (2 ^ T.w : Nat)).toNat, 0)
  else
    let vs := l.map (decodeVal T.fmt (fziOf f))
    let x := gf vs
    { x with flags := x.flags ||| sigFlags vs }.round T.fmt (rmOf f) (fzoOf f) false

/-- The operands' elements, element by element. -/
def rows (n : Nat) (ls : List (List Nat)) : List (List Nat) := (List.range n).map (fun i => ls.map (fun l => l.getD i 0))

/-- Tags of several sources. -/
def withTags (os : List Opnd) (t : Nat) (body : State → State) (s : State) : State :=
  match os with
  | [] => body s
  | o :: os => withTag o t (withTags os t body) s

def vectorOp (op : Nat) (f : Fields) (os : List Opnd) (gi : List Int → Int) (gf : List Val → Exact) (s : State) :
    Host.Outcome State Fault Refusal :=
  runOp op f (withVTy (tyOf f) (fun T => withTags os (tyOf f) (fun s =>
    vectorEnd f T ((rows T.n (os.map (fun o => T.of o s))).map (element f T gi gf)) s))) s

def iarg (l : List Int) (k : Nat) : Int := l.getD k 0

def execVadd (f : Fields) (s : State) :=
  vectorOp 0xA4 f [f.a, f.b] (fun l => iarg l 0 + iarg l 1) (fun l => sumVals (rmOf f) [arg l 0, arg l 1]) s
def execVsub (f : Fields) (s : State) :=
  vectorOp 0xA5 f [f.a, f.b] (fun l => iarg l 0 - iarg l 1) (fun l => sumVals (rmOf f) [arg l 0, (arg l 1).neg]) s
def execVmul (f : Fields) (s : State) :=
  vectorOp 0xA6 f [f.a, f.b] (fun l => iarg l 0 * iarg l 1) (fun l => mulVal (arg l 0) (arg l 1)) s
def execVfma (f : Fields) (s : State) :=
  vectorOp 0xA7 f [f.a, f.b, f.c] (fun l => iarg l 0 * iarg l 1 + iarg l 2)
    (fun l => fmaVal (rmOf f) (arg l 0) (arg l 1) (arg l 2)) s
def execVmin (f : Fields) (s : State) :=
  vectorOp 0xA8 f [f.a, f.b] (fun l => min (iarg l 0) (iarg l 1)) (fun l => exactVal (minVal (arg l 0) (arg l 1))) s
def execVmax (f : Fields) (s : State) :=
  vectorOp 0xA9 f [f.a, f.b] (fun l => max (iarg l 0) (iarg l 1)) (fun l => exactVal (maxVal (arg l 0) (arg l 1))) s
def execVabs (f : Fields) (s : State) :=
  vectorOp 0xAA f [f.a] (fun l => ((iarg l 0).natAbs : Int)) (fun l => exactVal (arg l 0).abs) s

/-! ## Reductions (R252, R253) -/

/-- The fold of a non-empty list. -/
def fold1 {α : Type} (g : α → α → α) (dflt : α) : List α → α
  | [] => dflt
  | x :: xs => xs.foldl g x

def reduceInt (op : Nat) (l : List Int) : Int :=
  match op with
  | 0 => l.foldl (· + ·) 0
  | 1 => fold1 min 0 l
  | _ => fold1 max 0 l

def reduceFloat (op rm : Nat) (l : List Val) : Exact :=
  match op with
  | 0 => sumVals rm l
  | 1 => exactVal (fold1 minVal (.nan false) l)
  | 2 => exactVal (fold1 maxVal (.nan false) l)
  | _ => exactVal (fold1 maxVal (.nan false) (l.map Val.abs))

def execVred (f : Fields) (s : State) : Host.Outcome State Fault Refusal :=
  runOp 0xAB f (withVTy (tyOf f) (fun T => withTag f.a (tyOf f) (fun s =>
    let l := T.of f.a s
    let o := fbits f.func 11 10
    if isInt T.t then finishQ f (extend T.t (reduceInt o (l.map (intElem T.t)))) s
    else
      let vs := l.map (decodeVal T.fmt (fziOf f))
      let x := reduceFloat o (rmOf f) vs
      floatEnd f ({ x with flags := x.flags ||| sigFlags vs }.round T.fmt (rmOf f) (fzoOf f) false) s))) s

/-- c + Σ a_i·b_i with one rounding (R253). -/
def dotVals (rm : Nat) (c : Val) (ps : List (Val × Val)) : Exact :=
  let l := ps.map (fun p => mulVal p.1 p.2)
  if l.any (fun x => x.flags != 0) then invalid else sumVals rm (c :: l.map Exact.val)

def execVdot (f : Fields) (s : State) : Host.Outcome State Fault Refusal :=
  runOp 0xAC f (withVTy (tyOf f) (fun T => withTags [f.a, f.b] (tyOf f) (fun s =>
    let la := T.of f.a s
    let lb := T.of f.b s
    if isInt T.t then
      let r : Int := (la.zip lb).foldl (fun r p => r + intElem T.t p.1 * intElem T.t p.2) (src 0xAC f 2 s).toInt
      finishQ f (ofInt64 r) s
    else
      let va := la.map (decodeVal T.fmt (fziOf f))
      let vb := lb.map (decodeVal T.fmt (fziOf f))
      let c := floatSrc 0xAC f fmtF32 (fziOf f) 2 s
      let x := dotVals (rmOf f) c (va.zip vb)
      floatEnd f ({ x with flags := x.flags ||| sigFlags (c :: (va ++ vb)) }.round fmtF32 (rmOf f) (fzoOf f) false) s))) s

/-! ## Element moves (R254) -/

/-- A scalar narrowed to an element (R43): an inline immediate of a float TYPE is converted; of `.xFk` it is a code. -/
def scalarElem (op : Nat) (f : Fields) (T : VTy) (k : Nat) (s : State) : Nat :=
  let o := if k = 0 then f.a else if k = 1 then f.b else f.c
  match o with
  | .imm j =>
    if isFloat T.t then (roundVal T.fmt 0 false false (intVal ((j : Int) - 16))).1 else (src op f k s).toNat % 2 ^ T.w
  | _ => (src op f k s).toNat % 2 ^ T.w

def execVbcs (f : Fields) (s : State) : Host.Outcome State Fault Refusal :=
  runOp 0xAD f (withVTy (tyOf f) (fun T s =>
    finishV f (packV T.w (List.replicate T.n (scalarElem 0xAD f T 0 s))) (tagOf T.t) s)) s

/-- `VEXT.z64` and `VINS.z64` do not read the tag (R254). -/
def withTagUnless64 (o : Opnd) (t : Nat) (body : State → State) (s : State) : State :=
  if t = 7 then body s else withTag o t body s

def execVext (f : Fields) (s : State) : Host.Outcome State Fault Refusal :=
  runOp 0xAE f (withVTy (tyOf f) (fun T => withTagUnless64 f.a (tyOf f) (fun s =>
    let b := src 0xAE f 1 s
    if b.toNat ≥ T.n then raise 0x06 0 s
    else
      let x := (T.of f.a s).getD b.toNat 0
      finishQ f (if isInt T.t then extend T.t x else BitVec.ofNat 64 x) s))) s

def execVins (f : Fields) (s : State) : Host.Outcome State Fault Refusal :=
  runOp 0xAF f (withVTy (tyOf f) (fun T => withTagUnless64 f.a (tyOf f) (fun s =>
    let c := src 0xAF f 2 s
    if c.toNat ≥ T.n then raise 0x06 0 s
    else finishV f (packV T.w ((T.of f.a s).set c.toNat (scalarElem 0xAF f T 1 s))) (tagOf T.t) s))) s

def execVprm (f : Fields) (s : State) : Host.Outcome State Fault Refusal :=
  runOp 0xB0 f (withVTy (tyOf f) (fun T s =>
    if isNarrow T.t && T.w != 8 then raise 0x05 0 s
    else withTag f.a (tyOf f) (withTag f.b 4 (fun s =>
      let l := T.of f.a s
      let j := elems 8 32 s.th.v[vReg f.b]
      finishV f (packV T.w ((List.range T.n).map (fun i => l.getD (j.getD i 0) 0))) (tagOf T.t) s)) s)) s

/-! ## Compare and select (R255) -/

def execVcmp (f : Fields) (s : State) : Host.Outcome State Fault Refusal :=
  runOp 0xB5 f (withVTy (tyOf f) (fun T => withTags [f.a, f.b] (tyOf f) (fun s =>
    let cond := fbits f.func 8 5
    let r := ((T.of f.a s).zip (T.of f.b s)).map (fun p =>
      if isInt T.t then (condInt cond (intElem T.t p.1) (intElem T.t p.2), (0 : BitVec 7))
      else
        let a := decodeVal T.fmt (bitOf f.func.toNat 9) p.1
        let b := decodeVal T.fmt (bitOf f.func.toNat 9) p.2
        (condFloat cond (cmpVal a b), cmpFlags cond a b))
    vectorEnd f { T with t := zType T.w } (r.map (fun x => (if x.1 then 2 ^ T.w - 1 else 0, x.2))) s))) s

def execVsel (f : Fields) (s : State) : Host.Outcome State Fault Refusal :=
  runOp 0xB6 f (withVTy (tyOf f) (fun T => withTag f.a (zType T.w) (withTags [f.b, f.c] (tyOf f) (fun s =>
    finishV f (packV T.w ((rows T.n [T.of f.a s, T.of f.b s, T.of f.c s]).map (fun l =>
      if l.getD 0 0 ≠ 0 then l.getD 1 0 else l.getD 2 0))) (tagOf T.t) s)))) s

/-! ## Conversion (R256) -/

/-- One element converted (R246, R247, R256). -/
def convElem (f : Fields) (ts td : VTy) (x : Nat) : Nat × BitVec 7 :=
  if isInt ts.t then
    let a := intElem ts.t x
    if isInt td.t then (((if satOf f then limit td.t a else a) % (2 ^ td.w : Nat)).toNat, 0)
    else roundVal td.fmt (rmOf f) (fzoOf f) (satOf f) (intVal a)
  else
    let v := decodeVal ts.fmt (fziOf f) x
    if isInt td.t then
      let (r, fl) := floatToInt td.t (rmOf f) (satOf f) v
      ((r % (2 ^ td.w : Nat)).toNat, fl)
    else convert td.fmt (rmOf f) (fzoOf f) (satOf f) v

def execVcvt (f : Fields) (s : State) : Host.Outcome State Fault Refusal :=
  runOp 0xB1 f (withVTy (srcTypeOf f) (fun ts => withVTy (tyOf f) (fun td => withTag f.a (srcTypeOf f) (fun s =>
    let b := src 0xB1 f 1 s
    let p := b.toNat
    let parts := (max ts.n td.n + min ts.n td.n - 1) / min ts.n td.n
    let l := ts.of f.a s
    if p ≥ parts then raise 0x06 0 s
    else if td.n ≤ ts.n then
      vectorEnd f td ((List.range td.n).map (fun i =>
        if p * td.n + i < ts.n then convElem f ts td (l.getD (p * td.n + i) 0) else (0, 0))) s
    else
      let d : Opnd := match f.dst with | .v k => .v k | _ => .v 0
      let go (s : State) : State :=
        let old := if p > 0 then td.of d s else List.replicate td.n 0
        vectorEnd f td ((List.range td.n).map (fun i =>
          if p * ts.n ≤ i ∧ i < p * ts.n + ts.n then convElem f ts td (l.getD (i - p * ts.n) 0) else (old.getD i 0, 0))) s
      if p > 0 then withTag d (tyOf f) go s else go s)))) s

/-! ## Quantisation (R257, R258) -/

/-- The register `o + i`. -/
def runReg (o : Opnd) (i : Nat) : Nat := (vReg o).val + i

/-- `VQNT` on a valid F of the width and block size of Fk. Order of the checks: log entry 14. -/
def quantEnd (f : Fields) (T : VTy) (F : Narrow) (s : State) : State :=
  let ts := srcTypeOf f
  let ns := 256 / width ts
  let q := F.bs * width ts / 256
  let scale := fbits f.func 11 10 == 1
  let b := src 0xB2 f 1 s
  let p := b.toNat
  let regs := (List.range q).map (runReg f.a)
  let tagOk := regs.all (fun r => (vget s.th.vtag r 0).toNat == 0x20 + ts)
  let limit := if scale then 32 else T.n / F.bs
  let dT : VTy := if scale then ⟨4, 8, 32, T.fmt⟩ else T
  let d : Opnd := match f.dst with | .v k => .v k | _ => .v 0
  if !tagOk then raise 0x05 0 s
  else if p ≥ limit then raise 0x06 0 s
  else
    let xs := (regs.map (fun r => elems (width ts) ns (vget s.th.v r 0))).flatten.map (decodeVal (stdFmt ts) (fziOf f))
    let (sc, codes, fl) := quantBlock F.fmt (fzoOf f) (satOf f) xs
    let go (s : State) : State :=
      let old := if p > 0 then dT.of d s else List.replicate dT.n 0
      if scale then finishV f (packV 8 (old.set p sc)) (tagOf 4) s
      else
        finishV f (packV T.w ((List.range T.n).map (fun i =>
          if p * F.bs ≤ i ∧ i < p * F.bs + F.bs then codes.getD (i - p * F.bs) 0 else old.getD i 0))) (tagOf T.t)
          (s.onTh (fun t => t.flag fl))
    if p > 0 then withTag d dT.t go s else go s

def execVqnt (f : Fields) (s : State) : Host.Outcome State Fault Refusal :=
  runOp 0xB2 f (fun s =>
    let c := src 0xB2 f 2 s
    let k := tyOf f - 16
    if s.th.spawned then raise 0x0B 0 s
    else if c.toNat ≥ 4 then raise 0x06 0 s
    else
      withNarrow k (fun K => withNarrow ((k + c.toNat) % 8) (fun F s =>
        if F.fmt.width != K.fmt.width || F.bs != K.bs then raise 0x05 0 s
        else if s.th.vbud < (vReg f.a).val + F.bs * width (srcTypeOf f) / 256 then raise 0x04 0 s
        else quantEnd f ⟨tyOf f, K.fmt.width, codesOf K.fmt.width, K.fmt⟩ F s)) s) s

/-- The images that the tags of the blocks select, in block order. -/
def withBlockFmts (k : Nat) (K : Narrow) (tags : List Nat) (acc : List Narrow) (body : List Narrow → State → State) (s : State) :
    State :=
  match tags with
  | [] => body acc s
  | t :: ts =>
    withNarrow ((k + t) % 8) (fun F s =>
      if F.fmt.width != K.fmt.width || F.bs != K.bs then raise 0x05 0 s
      else withBlockFmts k K ts (acc ++ [F]) body s) s

def execVdqn (f : Fields) (s : State) : Host.Outcome State Fault Refusal :=
  runOp 0xB3 f (fun s =>
    let b := src 0xB3 f 1 s
    let c := src 0xB3 f 2 s
    let ts := srcTypeOf f
    let k := ts - 16
    let td := stdFmt (tyOf f)
    let nd := 256 / width (tyOf f)
    let p := bits c.toNat 23 16
    if s.th.spawned then raise 0x0B 0 s
    else if c.toNat ≥ 2 ^ 24 then raise 0x06 0 s
    else
      withNarrow k (fun K s =>
        let n := codesOf K.fmt.width
        let blocks := (n + K.bs - 1) / K.bs
        let tags := (List.range blocks).map (fun j => bits c.toNat (2 * j + 1) (2 * j))
        withBlockFmts k K tags [] (fun Fs => withTag f.a ts (fun s =>
          if p * nd ≥ n then raise 0x06 0 s
          else
            let codes := elems K.fmt.width n s.th.v[vReg f.a]
            vectorEnd f ⟨tyOf f, td.width, nd, td⟩ ((List.range nd).map (fun i =>
              let e := p * nd + i
              if e < n then
                let F := (Fs.getD (e / K.bs) K).fmt
                roundVal td (rmOf f) (fzoOf f) false
                  (scaledVal F (fziOf f) (bits b.toNat (8 * (e / K.bs) + 7) (8 * (e / K.bs))) (codes.getD e 0))
              else (0, 0))) s)) s) s) s

/-! ## Tags (R259) -/

def execVtag (f : Fields) (s : State) : Host.Outcome State Fault Refusal :=
  runOp 0xB4 f (withVTy (tyOf f) (fun T s => finishV f (packV T.w (T.of f.a s)) (tagOf T.t) s)) s

end Sys2Proof.Machine
end

