-- ==== Sys2Proof/Machine/Access.lean ====
section
/-! DEFINITION. Loads, stores, prefetch and fences (R86-R97, R249). -/

namespace Sys2Proof.Machine

/-! ## Requests -/

/-- A request of the executing thread. -/
def ofThread (s : State) (h : W64) (size : Nat) (kind : ReqKind) : Request :=
  { Request.blank with who := .thread s.th.tid, asid := s.th.asid, handle := h, size := size, kind := kind }

/-- A vector store of a thread to its own core's port is still on its way there (R250). -/
def State.ownOnWay (s : State) (core tid : Nat) : Bool :=
  s.net.any (fun m => m.src == core && m.dst == core && (match m.body with | .store r => r.who == .thread tid | _ => false))

/-- The thread waits for its own writes that are on their way to its own core's port. -/
def awaitOwn (core : Nat) (s : State) : State :=
  (block .waiting .writes s).onTh (fun t => { t with awaited := (t.writes.filter (fun w => w.target == core && w.state == .sent)).map SentWrite.id })

/-- The request goes to its home: on VC0, or straight to the port of the current core, but for a vector store, whose words the port performs one by
one (R250). Where the port cannot take it, the thread executes again when it can. -/
def issue (home : Nat) (e : BufEntry) (r : Request) (wrap : Request → Body) (k : State → State) (s : State) : State :=
  let dst := if e.tier = 3 then peerCore s.th.asid e.peer home else home
  if dst ≠ s.th.core ∨ (r.kind = .write ∧ 8 < r.size) then k (s.send s.th.core dst 0 (wrap r))
  else if s.ownOnWay dst s.th.tid then awaitOwn dst s
  else
    match serve dst dst r s with
    | some s1 => k s1
    | none => block .waiting (.drain dst) s

/-- The thread waits for the answer to its access. -/
def awaitAnswer (h : W64) (c : Cont) (s : State) : State := (block .waiting (.answer c) s).onTh (fun t => { t with pendH := h })

/-! ## What an answer does -/

/-- The thread goes on with the bytes that it loaded. -/
def Cont.finish (c : Cont) (bs : List Byte) (t : Thread) : Thread :=
  match c with
  | .load dst ty len => let v := extend ty.toNat (leNat bs); ((t.setDst dst v).push v).next len
  | .vload v ty n len => (t.setV v (BitVec.ofNat 256 (leNat bs % 2 ^ n)) (tagOf ty.toNat)).next len
  | _ => t

/-- Bytes that the access of a wait reads. -/
def Cont.size (c : Cont) : Nat :=
  match c with
  | .load _ ty _ => width ty.toNat / 8
  | .vload _ _ _ _ => 32
  | _ => 0

/-- A W destination of an answer is written as it arrives (R48). -/
def State.writeWOf (s : State) (t : Thread) (d : Dst) (v : W64) : State :=
  match d with
  | .w k => s.putWg { s.wgOf t with w := (s.wgOf t).w.set k v }
  | .queue | .n _ | .v _ | .p _ => s

/-! ## Loads -/

/-- A read at another port, or at the own port when it cannot be done at once: the thread waits for the answer. -/
def readRemote (home : Nat) (e : BufEntry) (h : W64) (c : Cont) (s : State) : State :=
  issue home e (ofThread s h c.size .read) .read (awaitAnswer h c) s

/-- A read of a home that does not run (R37): the mirror, or 0x0D. -/
def readMirror (e : BufEntry) (h : W64) (c : Cont) (s : State) : State :=
  if !e.replica then raise 0x0D h s
  else
    let hm := handleAdd e.mirror (offsetOf h)
    match s.tableEntry s.th.asid (indexOf hm) with
    | none => raise 0x0D h s
    | some m =>
      let l := homeLoc s.conf.lc m (offsetOf hm)
      if homeDead s m l.home then raise 0x0D h s
      else issue l.home m (ofThread s hm c.size .read) .read (awaitAnswer h c) s

/-- Banks of a core that are in cache mode, as ways 0-31 (R291). -/
def State.ways (s : State) (core : Nat) : List Nat :=
  (List.range 32).filter (fun w => (s.plaza (plazaOf core)).mode (32 * (core % 8) + w) == .cache)

/-- The read cache's bytes of an access, if it holds the line under an unexpired lease (R91, R291). -/
def cached (s : State) (asid : Nat) (h : W64) (n : Nat) (core : Nat) : Option (List Byte) :=
  let now := (s.dtcOf (dieOf core)).toNat
  match (s.core core).lines.find? (fun l => l.asid == asid && l.buf == indexOf h && l.line == lineOf h && now < l.stop.toNat) with
  | none => none
  | some l => let o := offsetOf h - lineOf h; if o + n ≤ l.bytes.length then some ((l.bytes.drop o).take n) else none

/-- The fill request of the line of a handle (R293), with the number of its fill. -/
def fillRequest (who : Requester) (fill asid : Nat) (e : BufEntry) (h : W64) : Request :=
  { Request.blank with
    who := who, wid := fill, asid := asid, handle := handleOf (indexOf h) (lineOf h), size := min 512 (e.length - lineOf h), lease := true }

/-- The way that the fill of a line takes: that of the line itself, else the lowest bank with no line of the set, else that of the oldest line
(R291). -/
def State.wayFor (s : State) (core asid buf line : Nat) : Option Nat :=
  let x := s.core core
  let l := x.lines.filter (fun y => y.line / 512 % 64 == line / 512 % 64)
  let coming := x.fills.filter (fun y => y.line / 512 % 64 == line / 512 % 64)
  match coming.find? (fun y => y.asid == asid && y.buf == buf && y.line == line), l.find? (fun y => y.asid == asid && y.buf == buf && y.line == line) with
  | some y, _ => some y.way
  | none, some y => some y.bank
  | none, none =>
    match (s.ways core).find? (fun w => !l.any (fun y => y.bank == w) && !coming.any (fun y => y.way == w)) with
    | some w => some w
    | none =>
      match (l.foldl (fun (b : Option CacheLine) y => match b with | none => some y | some z => if y.order < z.order then some y else some z) none) with
      | some y => some y.bank
      | none => (s.ways core).head?

/-- A line fill leaves with its number and its way; what it brings is discarded if its record has been dropped before it comes back (R290, R303, R358). -/
def State.startFill (s : State) (core asid : Nat) (h : W64) : State :=
  match s.wayFor core asid (indexOf h) (lineOf h) with
  | some w =>
    let x := s.core core
    { s.putCore { x with fills := x.fills ++ [⟨s.nextId, asid, indexOf h, lineOf h, w⟩] } with nextId := s.nextId + 1 }
  | none => s

/-- A load of a LEASED buffer, or `LDK` (R91): it never migrates. -/
def readLeased (home : Nat) (e : BufEntry) (h : W64) (c : Cont) (fin : List Byte → State → State) (s : State) : State :=
  let core := s.th.core
  if homeDead s e home then readMirror e h c s
  else if e.leased && dieOf home == dieOf core && !(s.ways core).isEmpty && (s.die (dieOf core)).dlease != 0 then
    match cached s s.th.asid h c.size core with
    | some bs => fin bs s
    | none => issue home e (fillRequest (.thread s.th.tid) s.nextId s.th.asid e h) .fill (awaitAnswer h c) (s.startFill core s.th.asid h)
  else readRemote home e h c s

/-- A plain load at its home (R91): the bytes at once where nothing stands between the port and its channel. -/
def loadHere (h : W64) (c : Cont) (fin : List Byte → State → State) (s : State) : State :=
  let core := s.th.core
  match translate s core s.th.asid h 0 c.size with
  | .code code => raise code h (s.looked core s.th.asid h)
  | .walk key => block .waiting (.walk core key h 0) s
  | .page e key p lam =>
    let q := s.port core
    let a := p.byteAt lam
    let s := s.touch core key e p
    let rows := rowsAt a c.size
    if s.ownOnWay core s.th.tid then awaitOwn core s
    else if q.walksWrite key then block .waiting (.walk core key h 0) s
    else if q.holdsWrite key then block .parkedFault (.fault core key) (s.countCore core 7)
    else if p.tier = 0 ∧ (q.throttledIn rows).isNone then
      let s := rows.foldl (fun s row => countRow core row s) s
      match s.readClean (.thread s.th.tid) s.th.asid e h a c.size with
      | .ok (bs, s1) => fin (heldBytes s1 ⟨core, core, core, e, key, p, lam, none⟩ a bs) s1
      | .error y => if y.final then raise 0x0D h (y.noted (.thread s.th.tid) s.th.asid s).2 else readRemote core e h c s
    else readRemote core e h c s

/-- `LD`, `VLD` and `LDK` behind their alignment check (R91). -/
def loadFrom (ldk stay : Bool) (h : W64) (c : Cont) (fin : List Byte → State → State) (s : State) : State :=
  withHome h (fun e l s =>
    let checked (k : State → State) : State :=
      match srcCheck e (offsetOf h) c.size 0 with
      | some code => raise code h s
      | none => k s
    if ldk || e.leased then checked (readLeased l.home e h c fin)
    else if e.tier = 2 then checked (fun s => if homeDead s e l.home then raise 0x0D h s else readRemote l.home e h c s)
    else if e.tier ≠ 3 ∧ l.home = s.th.core then loadHere h c fin s
    else if stay then checked (fun s => if homeDead s e l.home then readMirror e h c s else readRemote l.home e h c s)
    else if e.tier = 3 then checked (migrate (peerCore s.th.asid e.peer l.home) h)
    else if homeDead s e l.home && e.replica then readMirror e h c s
    else migrate l.home h s) s

/-- The effective handle of an access, aligned to `align` bytes (R86). -/
def withHandle (op : Nat) (f : Fields) (align : Nat) (k : W64 → State → State) (s : State) : State :=
  let a := src op f 0 s
  match effAddr a (disp f) with
  | none => raise 0x06 a s
  | some h => if offsetOf h % align ≠ 0 then raise 0x0A h s else k h s

/-- The local offset a + d, read as a signed 64-bit value (R93). -/
def localOff (op : Nat) (f : Fields) (s : State) : Int := (src op f 0 s + ofInt64 (disp f)).toInt

/-- What FUNC of class MA holds: ORD [6:5], SCOPE [9:7], STAY [10] (R58, R90). -/
def ordOf (f : Fields) : Nat := fbits f.func 6 5
def scopeOf (f : Fields) : Nat := fbits f.func 9 7
def stayOf (f : Fields) : Bool := bitOf f.func.toNat 10

def ty5 (f : Fields) : BitVec 5 := BitVec.ofNat 5 (tyOf f)

def scalarLoad (op : Nat) (ldk : Bool) (f : Fields) (s : State) : Host.Outcome State Fault Refusal :=
  runOp op f (withHandle op f (width (tyOf f) / 8) (fun h =>
    loadFrom ldk (stayOf f) h (.load f.dst (ty5 f) (lenBytes f.len)) (fun bs => finishQ f (extend (tyOf f) (leNat bs))))) s

def execLd (f : Fields) (s : State) := scalarLoad 0x50 false f s
def execLdk (f : Fields) (s : State) := scalarLoad 0x52 true f s

def execLdl (f : Fields) (s : State) : Host.Outcome State Fault Refusal :=
  runOp 0x53 f (fun s =>
    let n := width (tyOf f) / 8
    withLocal (localOff 0x53 f s) n n (fun x =>
      readLocal x n (ofInt64 (localOff 0x53 f s)) (fun bs => finishQ f (extend (tyOf f) (leNat bs)))) s) s

/-! ## Stores -/

/-- A value operand in the low bits of its TYPE (R43): an inline immediate of a float TYPE is converted. -/
def valueBits (op : Nat) (f : Fields) (t k : Nat) (s : State) : Nat :=
  scalarElem op f ⟨t, width t, 0, stdFmt t⟩ k s

/-- The wait of `.REL.s` (R95). -/
def release (rel : Bool) (scope : Nat) (k : State → State) (s : State) : State := if rel then awaitScope scope k s else k s

/-- The issuing core's own copy of a leased line goes as a write to the line issues, and so does one that is on its way (R358). -/
def State.dropLine (s : State) (h : W64) : State :=
  let x := s.core s.th.core
  s.putCore { x with lines := x.lines.filter (fun l => !(l.asid == s.th.asid && l.buf == indexOf h && l.line == lineOf h)),
                     fills := x.fills.filter (fun l => !(l.asid == s.th.asid && l.buf == indexOf h && l.line == lineOf h)) }

/-- A write leaves for its home; the thread goes on at once (R88, R92). -/
def postWrite (home : Nat) (e : BufEntry) (r : Request) (wrap : Request → Body) (k : State → State) (s : State) : State :=
  let id := s.nextId
  let w : SentWrite := { id := id, kind := .home e.tier, core := s.th.core, target := if e.tier = 3 then peerCore s.th.asid e.peer home else home,
                         leased := e.leased, handle := r.handle, state := .sent }
  let s0 := if e.leased then s.dropLine r.handle else s
  let s1 : State := { s0 with nextId := s.nextId + 1 }
  match issue home e { r with wid := id } wrap k (s1.onTh (fun t => { t with writes := t.writes ++ [w] })) with
  | s2 => if s2.th.wait = .drain s.th.core then block .waiting (.drain s.th.core) s else s2

/-- `ST` and `VST` behind their alignment check (R92). -/
def storeTo (f : Fields) (h : W64) (bs : List Byte) (s : State) : State :=
  withHome h (fun e l s =>
    match srcCheck e (offsetOf h) bs.length 1 with
    | some code => raise code h s
    | none =>
      if homeDead s e l.home then raise 0x0D h s
      else
        release (ordOf f = 2) (scopeOf f)
          (postWrite l.home e { ofThread s h bs.length .write with data := bs } .store (finishU f)) s) s

def execSt (f : Fields) (s : State) : Host.Outcome State Fault Refusal :=
  runOp 0x51 f (fun s =>
    let n := width (tyOf f) / 8
    withHandle 0x51 f n (fun h s => storeTo f h (leBytes n (valueBits 0x51 f (tyOf f) 1 s)) s) s) s

def localStore (op n : Nat) (f : Fields) (bs : List Byte) (s : State) : State :=
  withLocal (localOff op f s) n n (fun x =>
    release (ordOf f = 2) (scopeOf f) (writeLocal x bs (finishU f))) s

def execStl (f : Fields) (s : State) : Host.Outcome State Fault Refusal :=
  runOp 0x54 f (fun s =>
    let n := width (tyOf f) / 8
    localStore 0x54 n f (leBytes n (valueBits 0x54 f (tyOf f) 1 s)) s) s

/-! ## Prefetch -/

/-- `PRF` (R94): a line fill on a LEASED buffer homed on this die, where the core can hold one; the sector on tier CAP; else nothing, and no
fault. -/
def prefetch (h : W64) (n : Nat) (e : BufEntry) (s : State) : State :=
  let l := homeLoc s.conf.lc e (offsetOf h)
  let core := s.th.core
  let r? : Option Request :=
    if (srcCheck e (offsetOf h) n 0).isSome || homeDead s e l.home || offsetOf h % n != 0 then none
    else if e.leased ∧ dieOf l.home = dieOf core ∧ !(s.ways core).isEmpty ∧ (s.die (dieOf core)).dlease ≠ 0 then
      some (fillRequest .cache s.nextId s.th.asid e h)
    else if e.tier = 1 then some { Request.blank with asid := s.th.asid, handle := h }
    else none
  match r? with
  | none => s
  | some r =>
    let s := if r.lease then s.startFill core s.th.asid h else s
    if l.home = core then (serve core core r s).getD s else s.send core l.home 0 r.body

/-- A handle that is null, absent or stale ends the hint; an entry that the core has not read yet is waited for (R87, R287). -/
def execPrf (f : Fields) (s : State) : Host.Outcome State Fault Refusal :=
  runOp 0x55 f (fun s =>
    match effAddr (src 0x55 f 0 s) (disp f) with
    | none => finishU f s
    | some h => withDesc h (fun e s => finishU f (prefetch h (width (tyOf f) / 8) e s)) (finishU f) s) s

/-! ## `FENCE` -/

def execFence (f : Fields) (s : State) : Host.Outcome State Fault Refusal :=
  runOp 0x5A f (awaitScope (scopeOf f) (finishU f)) s

/-! ## Vector memory accesses (R249, R250) -/

/-- The bits that a vector load keeps: n·w of `.xFk`, else 256. -/
def withKept (t : Nat) (k : Nat → State → State) (s : State) : State :=
  if isNarrow t then withNarrow (t - 16) (fun m => k (codesOf m.fmt.width * m.fmt.width)) s else k 256 s

def vDst (f : Fields) : Fin 8 :=
  match f.dst with
  | .v k => k
  | _ => 0

def execVld (f : Fields) (s : State) : Host.Outcome State Fault Refusal :=
  runOp 0xA0 f (withKept (tyOf f) (fun n => withHandle 0xA0 f 32 (fun h =>
    loadFrom false (stayOf f) h (.vload (vDst f) (ty5 f) n (lenBytes f.len))
      (fun bs => finishV f (BitVec.ofNat 256 (leNat bs % 2 ^ n)) (tagOf (tyOf f)))))) s

def execVst (f : Fields) (s : State) : Host.Outcome State Fault Refusal :=
  runOp 0xA1 f (fun s =>
    withHandle 0xA1 f 32 (fun h s => storeTo f h (leBytes 32 s.th.v[vReg f.b].toNat) s) s) s

def execVldl (f : Fields) (s : State) : Host.Outcome State Fault Refusal :=
  runOp 0xA2 f (withKept (tyOf f) (fun n s =>
    withLocal (localOff 0xA2 f s) 32 32 (fun x =>
      readLocal x 32 (ofInt64 (localOff 0xA2 f s))
        (fun bs => finishV f (BitVec.ofNat 256 (leNat bs % 2 ^ n)) (tagOf (tyOf f)))) s)) s

def execVstl (f : Fields) (s : State) : Host.Outcome State Fault Refusal :=
  runOp 0xA3 f (fun s => localStore 0xA3 32 f (leBytes 32 s.th.v[vReg f.b].toNat) s) s

end Sys2Proof.Machine
end

