-- ==== Sys2Proof/Machine/Atomic.lean ====
section
/-! DEFINITION. Atomics and reservations (R59, R104-R107), `WAITC` (R108), `YIELD` (R110), `MIGR`, `SPAWN` and `HOME` (R111-R114). -/

namespace Sys2Proof.Machine

/-! ## Fields of class AT (R59) -/

def modeOf (f : Fields) : Nat := fbits f.func 11 9
def isPost (f : Fields) : Bool := modeOf f == 4 || modeOf f == 6
def hasRel (f : Fields) : Bool := modeOf f == 2 || modeOf f == 3 || modeOf f == 6
def isLocalAtomic (f : Fields) : Bool := bitOf f.func.toNat 8
def atScope (f : Fields) : Nat := ibits f.imm11 2 0

/-- A float operand of `ATOMF`, else the operand's low bits (R43). -/
def atomValue (op : Nat) (f : Fields) (k : Nat) (s : State) : W64 := BitVec.ofNat 64 (valueBits op f (tyOf f) k s)

/-! ## Results -/

/-- The thread goes on with the result of an atomic (R105, R107). -/
def Cont.finishAtomic (c : Cont) (old : W64) (ok : Bool) (fl : BitVec 7) (t : Thread) : Thread :=
  match c with
  | .atomic dst ty len => let v := extend ty.toNat old.toNat; (((t.flag fl).setDst dst v).push v).next len
  | .scond p len => (t.setP p ok).next len
  | _ => t

/-- The end of an atomic performed at once at its bank. -/
def atomEnd (f : Fields) (scond : Bool) (old : W64) (ok : Bool) (fl : BitVec 7) (s : State) : State :=
  if isPost f then finishU f s
  else if scond then finishP f ok s
  else finishQ f (extend (tyOf f) old.toNat) (s.onTh (fun t => t.flag fl))

/-- An atomic on local memory (R104): at its bank, after the thread's own earlier writes to these bytes. -/
def localAtomic (op : Nat) (aop : AtomOp) (f : Fields) (s : State) : State :=
  let n := width (tyOf f) / 8
  let o := localOff op f s
  withLocal o n n (fun x =>
    release (hasRel f) (atScope f) (fun s =>
      let plaza := plazaOf s.th.anchor
      if s.th.fwd.any (fun w => w.overlaps x n) then block .waiting .localWrites s
      else
        match s.localRead plaza x n with
        | none => raise 0x0D (ofInt64 o) s
        | some bs =>
          let old := BitVec.ofNat 64 (leNat bs)
          let (new, ok, fl) := atomNew aop (ty5 f) false old (atomValue op f 1 s) (atomValue op f 2 s)
          let s1 := match new with | some v => s.localWrite plaza x (leBytes n v) | none => s
          atomEnd f false old ok fl s1)) s

/-- An atomic at a home port (R105). -/
def homeAtomic (op : Nat) (aop : AtomOp) (c : Cont) (f : Fields) (s : State) : State :=
  let n := width (tyOf f) / 8
  withHandle op f n (fun h =>
    withHome h (fun e l s =>
      match (if e.tier = 2 then some 0x07 else srcCheck e (offsetOf h) n 2) with
      | some code => raise code h s
      | none =>
        if homeDead s e l.home then raise 0x0D h s
        else
          release (hasRel f) (atScope f) (fun s =>
            let r : Request := { ofThread s h n .atomic with
              op := aop, ty := ty5 f, b := atomValue op f 1 s, c := atomValue op f 2 s, post := isPost f }
            if isPost f then postWrite l.home e r .atomic (finishU f) s
            else if e.leased then postWrite l.home e r .atomic (awaitAnswer h c) s
            else issue l.home e r .atomic (awaitAnswer h c) s) s)) s

def atomic (op : Nat) (aop : AtomOp) (f : Fields) (s : State) : Host.Outcome State Fault Refusal :=
  runOp op f (fun s =>
    if isLocalAtomic f then localAtomic op aop f s
    else homeAtomic op aop (.atomic f.dst (ty5 f) (lenBytes f.len)) f s) s

def execAtom (f : Fields) (s : State) := atomic 0x60 (.atom (fbits f.func 7 5)) f s
def execAtomf (f : Fields) (s : State) := atomic 0x61 (.atomf (fbits f.func 7 5)) f s
def execCas (f : Fields) (s : State) := atomic 0x62 .cas f s

def execLres (f : Fields) (s : State) : Host.Outcome State Fault Refusal :=
  runOp 0x63 f (homeAtomic 0x63 .lres (.atomic f.dst (ty5 f) (lenBytes f.len)) f) s

def pDst (f : Fields) : Fin 7 :=
  match f.dst with
  | .p k => k
  | _ => 0

def execScond (f : Fields) (s : State) : Host.Outcome State Fault Refusal :=
  runOp 0x64 f (homeAtomic 0x64 .scond (.scond (pDst f) (lenBytes f.len)) f) s

/-! ## `WAITC` (R108) -/

def execWaitc (f : Fields) (s : State) : Host.Outcome State Fault Refusal :=
  runOp 0x65 f (fun s =>
    let t := fbits f.func 8 4
    let n := width t / 8
    withHandle 0x65 f n (fun h =>
      withHome h (fun e l s =>
        match (if e.tier = 2 then some 0x07 else srcCheck e (offsetOf h) n 0) with
        | some code => raise code h s
        | none =>
          if homeDead s e l.home then raise 0x0D h s
          else
            let r : Request := { ofThread s h n .read with
              monitor := true, ty := BitVec.ofNat 5 t, cond := BitVec.ofNat 4 (fbits f.func 3 0), b := src 0x65 f 1 s }
            let s1 := awaitAnswer h (.monitor (lenBytes f.len)) s
            match issue l.home e r .arm (fun s => s) s1 with
            | s2 => if s2.th.wait = .drain s.th.core then block .waiting (.drain s.th.core) s else s2)) s) s

/-! ## `YIELD` (R110) -/

def execYield (f : Fields) (s : State) : Host.Outcome State Fault Refusal :=
  runOp 0x67 f (fun s => block .sleeping .yield (finishU f s)) s

/-! ## `MIGR` (R111) -/

/-- The destination of `MIGR.CORE`: 0x06 for a core that no configuration has. -/
def migrCore (f : Fields) (a : W64) (s : State) : State :=
  if a.toNat ≥ 512 then raise 0x06 a s
  else if a.toNat = s.th.core then finishU f s
  else migrate a.toNat a s

def execMigr (f : Fields) (s : State) : Host.Outcome State Fault Refusal :=
  runOp 0x70 f (fun s =>
    let a := src 0x70 f 0 s
    if bitOf f.func.toNat 0 then
      match effAddr a (disp f) with
      | none => raise 0x06 a s
      | some h =>
        withHome h (fun e l s =>
          if e.tier = 2 then raise 0x07 h s
          else if e.tier = 3 then migrate (peerCore s.th.asid e.peer l.home) h s
          else if l.home = s.th.core then finishU f s
          else migrate l.home h s) s
    else migrCore f a s) s

/-! ## `SPAWN` (R112, R113) -/

/-- The spawned thread (R113, R204): every register 0 but N0, N1 and the predicate P0. -/
def spawned (s : State) (entry b c : W64) : Thread :=
  let t := s.th
  { Thread.blank with
    tid := s.nextTid, asid := t.asid, job := t.job, launch := t.launch, gang := t.gang, wgpos := t.wgpos, index := t.index,
    spawned := true, status := .outbound, pc := entry, n := ((Vector.replicate 32 0).set 0 b).set 1 c, nbud := t.snbud,
    vbud := t.svbud, snbud := t.snbud, svbud := t.svbud, trapbase := t.kernTrap, kernTrap := t.kernTrap
    wgsize := t.wgsize, gangw := t.gangw, issuer := t.issuer }

/-- A spawn counts for its launch until the thread has exited (R16, R156). -/
def State.countSpawn (s : State) : State :=
  match s.job? s.th.job with
  | some j => s.putJob (j.mapTcb (fun t => t.launch == s.th.launch) (fun t => { t with spawned := t.spawned + 1 }))
  | none => if s.th.job < 2 ^ 24 then s else s.send s.th.core (1024 * (s.th.job / 2 ^ 24)) 2 (.awaySpawn s.th.job s.th.launch true)

def execSpawn (f : Fields) (s : State) : Host.Outcome State Fault Refusal :=
  runOp 0x71 f (fun s =>
    let t := spawned s (pcAdd s.th.pc (4 * disp f)) (src 0x71 f 1 s) (src 0x71 f 2 s)
    let here := plazaOf s.th.core
    if bitOf f.func.toNat 0 then
      let p := s.plaza here
      if p.spawnQ.length ≥ 1024 then block .waiting (.spawnQueue here) s
      else finishU f ({ s.putPlaza { p with spawnQ := p.spawnQ ++ [t] } with nextTid := s.nextTid + 1 }.countSpawn)
    else
      let a := src 0x71 f 0 s
      withHome a (fun e l s =>
        if offsetOf a ≥ e.length then raise 0x06 a s
        else if e.tier ≥ 2 then raise 0x07 a s
        else if homeDead s e l.home then raise 0x0D a s
        else
          let w : SentWrite := { id := s.nextId, kind := .spawn, core := s.th.core, target := l.home, leased := false, handle := a,
                                 state := .sent }
          let s1 := s.send s.th.core l.home 0 (.spawn t s.nextId s.th.tid)
          finishU f ({ s1 with nextTid := s.nextTid + 1, nextId := s.nextId + 1 }.countSpawn.onTh
            (fun t => { t with writes := t.writes ++ [w] }))) s) s

/-! ## `HOME` (R114) -/

def execHome (f : Fields) (s : State) : Host.Outcome State Fault Refusal :=
  runOp 0x73 f (fun s =>
    withHome (src 0x73 f 0 s) (fun e l =>
      finishQ f (if e.tier = 3 then BitVec.ofNat 64 (2 ^ 63 + e.peer * 65536 + l.home) else BitVec.ofNat 64 l.home)) s) s

end Sys2Proof.Machine
end

