-- ==== Sys2Proof/Machine/Queue.lean ====
section
/-! DEFINITION. Message queues and bank modes (R98-R103, R288-R290, R396-R398): the instructions, and what their messages do. -/

namespace Sys2Proof.Machine

/-! ## Descriptors (R98) -/

structure QDesc where
  core   : Nat
  bank   : Nat
  remote : Bool
  peer   : Nat
  deriving DecidableEq, Repr

def parseDesc (d : W64) : QDesc :=
  { core := bits d.toNat 9 0, bank := bits d.toNat 14 10, remote := bitOf d.toNat 15, peer := bits d.toNat 27 16 }

/-- The queue that a descriptor names: PEER is read only where REMOTE is 1 (R98). -/
def queueKey (d : W64) : W64 := if bitOf d.toNat 15 then d else BitVec.ofNat 64 (d.toNat % 2 ^ 15)

/-- The fault of a descriptor that an instruction reads (R98). -/
def descFault (s : State) (d : W64) : Option Nat :=
  let q := parseDesc d
  if d.toNat ≥ 2 ^ 28 ∨ dieOf q.core ≥ 8 then some 0x06
  else if !q.remote && !s.dieUp (dieOf q.core) then some 0x0D
  else none

def withDescriptor (d : W64) (k : State → State) (s : State) : State :=
  match descFault s d with
  | some code => raise code d s
  | none => k s

/-- Where messages for the core of a descriptor go, for an ASID. -/
def QDesc.dst (asid : Nat) (q : QDesc) : Nat := if q.remote then peerCore asid q.peer q.core else q.core

/-- The ASID of the workgroup that a bank belongs to: the one whose allocation it lies in. -/
def State.bankAsid (s : State) (plaza bank : Nat) : Nat :=
  ((s.wgs.find? (fun w => plazaOf w.anchor == plaza && w.lbase ≤ bank * 0x8000 && bank * 0x8000 + 0x8000 ≤ w.lbase + w.localLen &&
    !s.gs.gangs.any (fun g => g.launch == w.launch && g.gang == w.gang && (g.state == .saved || g.state == .restoring)))).map Workgroup.asid).getD 0

/-- Where messages for the producer of a bank go. -/
def State.producerAt (s : State) (plaza bank : Nat) (pd : W64) : Nat := (parseDesc pd).dst (s.bankAsid plaza bank)

/-- The core of a descriptor is there to answer: it is a peer's, or its die runs. -/
def QDesc.there (q : QDesc) (s : State) : Bool := q.remote || s.dieUp (dieOf q.core)

/-- The descriptor of a bank of this module, as a local producer names it. -/
def bankDesc (plaza bank : Nat) : W64 := BitVec.ofNat 64 (bank % 32 * 1024 + (8 * plaza + bank / 32))

/-- The core that holds a bank of a plaza (R288). -/
def bankCore (plaza bank : Nat) : Nat := 8 * plaza + bank / 32

def entrySize (c : Nat) : Nat := 8 * 2 ^ c

/-! ## The credit table (R296, R396) -/

def CoreSt.credit? (c : CoreSt) (d : W64) : Option CreditEntry := c.credits.find? (fun e => e.desc == d)

/-- An entry of the table as the host reads it, four words from 0x00 (R396). -/
def CreditEntry.words (e : CreditEntry) : List W64 :=
  [e.desc, BitVec.ofNat 64 (e.credits + e.count * 2 ^ 16 + Nat.log2 (e.size / 8) * 2 ^ 28 + 2 ^ 31), e.stalls ++ e.pushed, 0]

/-- The 128 words of a core's credit table; a place that no entry has reads 0 (R396). -/
def CoreSt.creditTable (c : CoreSt) : List W64 :=
  (List.range 32).flatMap (fun k => ((c.credits.find? (fun e => e.place == k)).map CreditEntry.words).getD [0, 0, 0, 0])

def CoreSt.putCredit (c : CoreSt) (e : CreditEntry) : CoreSt :=
  { c with credits := c.credits.map (fun x => if x.desc = e.desc then e else x) }

/-! ## `QPUSH` (R99) -/

/-- The entry leaves, padded to the entry size. -/
def pushEntry (f : Fields) (d : W64) (e : CreditEntry) (bs : List Byte) (s : State) : State :=
  let t := s.th
  let q := parseDesc d
  let x := s.core t.core
  let data := bs ++ List.replicate (e.size - bs.length) 0
  let w : SentWrite := { id := s.nextId, kind := .queue q.remote, core := t.core, target := (q.dst t.asid), leased := false, handle := d,
                         state := .sent }
  let s1 := (s.putCore (x.putCredit { e with credits := e.credits - 1, pushed := e.pushed + 1 })).send t.core (q.dst t.asid) 0
    (.entry (plazaOf q.core) (32 * (q.core % 8) + q.bank) data t.tid s.nextId)
  finishU f ({ s1 with nextId := s.nextId + 1 }.onTh (fun t => { t with writes := t.writes ++ [w], stalled := false }))

/-- An entry of `bs` on the queue of a descriptor: a wait for the grant, the size check, a wait for a credit. -/
def pushOn (f : Fields) (d : W64) (bs : List Byte) (s : State) : State :=
  let x := s.core s.th.core
  match x.credit? (queueKey d) with
  | none => block .waiting (.credit (queueKey d)) s
  | some e =>
    if bs.length > e.size then raise 0x06 d s
    else if e.credits = 0 then
      let s1 := if s.th.stalled then s else s.putCore (x.putCredit { e with stalls := e.stalls + 1 })
      block .waiting (.credit (queueKey d)) (s1.onTh (fun t => { t with stalled := true }))
    else pushEntry f d e bs s

/-- Local bytes of `QPUSH.L` and `QPOP` (R93): no alignment is asked for. -/
def pushBytes (f : Fields) (k : List Byte → State → State) (s : State) : State :=
  let b := src 0x56 f 1 s
  match fbits f.func 1 0 with
  | 0 => k (leBytes 8 b.toNat) s
  | 1 => k (leBytes 32 s.th.v[vReg f.b].toNat) s
  | _ =>
    let n := entrySize (fbits f.func 3 2)
    withLocal b.toInt n 1 (fun x => readLocal x n b k) s

def execQpush (f : Fields) (s : State) : Host.Outcome State Fault Refusal :=
  runOp 0x56 f (fun s =>
    let d := src 0x56 f 0 s
    withDescriptor d (pushBytes f (pushOn f d)) s) s

/-! ## Banks -/

/-- A bank lies wholly inside the workgroup's allocation (R100, R102). -/
def bankInside (s : State) (bank : Nat) : Bool :=
  !s.th.spawned && s.wg.lbase ≤ bank * 0x8000 && bank * 0x8000 + 0x8000 ≤ s.wg.lbase + s.th.localLen

def withBank (a : W64) (k : Nat → State → State) (s : State) : State :=
  let bank := a.toNat % 256
  if bankInside s bank then k bank s else raise 0x04 0 s

/-- A bank clears itself (R100): its 32 KiB read 0. The clearing is one write of its units (R218). -/
def clearBank (plaza bank : Nat) (s : State) : State :=
  let p := s.plaza plaza
  let lo := localAt plaza (bank * 0x8000)
  let v := (p.wctr + 1) % 2 ^ 64
  let p1 := { p with wctr := v, stamps := setStamps p.stamps (unitsOf (bank * 0x8000) 0x8000) v,
                     soft := p.soft.filter (fun w => w / 8192 != bank) }
  { s.putPlaza p1 with lmem := s.lmem.filter (fun c => c.1 < lo || lo + 0x8000 ≤ c.1) }

/-- The lines of a way are dropped (R100), and the fills on their way to it will be discarded (R290). -/
def dropWay (plaza bank : Nat) (s : State) : State :=
  let c := s.core (bankCore plaza bank)
  s.putCore { c with lines := c.lines.filter (fun l => l.bank != bank % 32), fills := c.fills.filter (fun x => x.way != bank % 32) }

def State.setBank (s : State) (plaza bank : Nat) (m : BankMode) : State := s.putPlaza ((s.plaza plaza).setMode bank m)

/-- The `BANKM` that has sent a message for a bank: its thread, 0 none, and where it stands. -/
def PlazaSt.stage? (p : PlazaSt) (bank : Nat) : Option (Nat × BankStage) := (p.stages.find? (fun x => x.1 == bank)).map (fun x => x.2)

def State.setStage (s : State) (plaza bank : Nat) (st : Option (Nat × BankStage)) : State :=
  let p := s.plaza plaza
  s.putPlaza { p with stages := p.stages.filter (fun x => x.1 != bank) ++ (match st with | some x => [(bank, x)] | none => []) }

/-- A bank's mode or stage has changed: what waits for the bank tries again. -/
def State.wakeBank (s : State) (plaza bank : Nat) : State :=
  s.wakeWaiting (fun t => t.wait == .bank plaza bank || t.wait == .entry plaza bank)

/-- A bank that the host of the grant refused: cleared, in its old mode, a FIFO without a producer (R100). -/
def refusedMode (old : BankMode) : BankMode :=
  match old with
  | .fifo z c _ _ _ _ => .fifo z c 0 0 0 none
  | m => m

/-- A bank takes its new mode (R100): FIFO clears it and sends the grant; leaving scratch discards, leaving cache drops the lines. A producer whose die
is lost by then refuses the grant (log entry 114). -/
def changeBank (tid plaza bank : Nat) (next : BankMode) (s : State) : State :=
  let old := (s.plaza plaza).mode bank
  let s1 := if old = .cache then dropWay plaza bank s else s
  match next with
  | .fifo _ count _ _ _ (some pd) =>
    let size := match next with | .fifo z _ _ _ _ _ => z | _ => 8
    let s2 := (clearBank plaza bank s1).setBank plaza bank next
    if !(parseDesc pd).there s then (s2.setBank plaza bank (refusedMode old)).setStage plaza bank (some (tid, .refused))
    else (s2.setStage plaza bank (some (tid, .granting old next))).send (bankCore plaza bank) (s.producerAt plaza bank pd) 2
      (.grant (bankDesc plaza bank) size count count plaza bank true)
  | .fifo _ _ _ _ _ none | .scratch => (s1.setBank plaza bank next).setStage plaza bank (some (tid, .done))
  | .cache => ((clearBank plaza bank s1).setBank plaza bank next).setStage plaza bank (some (tid, .done))

/-! ## `BANKM` (R100, R101) -/

/-- The mode that `BANKM` asks for, or the code and value of its fault. -/
def bankTarget (f : Fields) (s : State) : Except (Nat × W64) BankMode :=
  let b := src 0x59 f 1 s
  let c := src 0x59 f 2 s
  match fbits f.func 1 0 with
  | 0 => .ok .scratch
  | 1 => .ok .cache
  | _ =>
    let size := entrySize (bits b.toNat 1 0)
    let count := bits b.toNat 15 4
    if count = 0 ∨ count > 0x8000 / size then .error (0x06, b)
    else
      match descFault s c with
      | some code => .error (code, c)
      | none => .ok (.fifo size count 0 0 0 (some c))

/-- A `BANKM` that starts: a bank with entries is refused; a FIFO bank revokes its producer first, where that is still there. -/
def startBank (plaza bank : Nat) (next : BankMode) (s : State) : State :=
  match (s.plaza plaza).mode bank with
  | .fifo _ _ _ _ fill producer =>
    if fill > 0 then raise 0x0F (BitVec.ofNat 64 bank) s
    else
      match producer with
      | some pd =>
        if !(parseDesc pd).there s then changeBank s.th.tid plaza bank next s
        else block .waiting (.bank plaza bank) ((s.setStage plaza bank (some (s.th.tid, .revoking next))).send (bankCore plaza bank) (s.producerAt plaza bank pd) 2
          (.revoke (bankDesc plaza bank) plaza bank true))
      | none => changeBank s.th.tid plaza bank next s
  | _ => changeBank s.th.tid plaza bank next s

/-- What a `BANKM` finds when it has nothing left to send; that of another thread for the same bank comes first. -/
def bankStep (f : Fields) (plaza bank : Nat) (s : State) : State :=
  let ended (s : State) : State := (s.setStage plaza bank none).wakeBank plaza bank
  match (s.plaza plaza).stage? bank with
  | some (tid, x) =>
    if tid ≠ s.th.tid then block .waiting (.bank plaza bank) s
    else
      match x with
      | .done => finishU f (ended s)
      | .refused | .arrivedLate => raise 0x0F (BitVec.ofNat 64 bank) (ended s)
      | .revoking _ | .granting _ _ | .releasing | .released => block .waiting (.bank plaza bank) s
  | none => s

def execBankm (f : Fields) (s : State) : Host.Outcome State Fault Refusal :=
  runOp 0x59 f (fun s => withBank (src 0x59 f 0 s) (fun bank s =>
    let plaza := plazaOf s.th.anchor
    if ((s.plaza plaza).stage? bank).isSome then bankStep f plaza bank s
    else
      match bankTarget f s with
      | .error (code, v) => raise code v s
      | .ok next => bankStep f plaza bank (startBank plaza bank next s)) s) s

/-! ## `QPOP` and `QCNT` (R102, R103) -/

/-- One credit goes back to the producer (R102, R398). -/
def returnCredit (plaza bank : Nat) (producer : Option W64) (s : State) : State :=
  match producer with
  | some pd => s.send (bankCore plaza bank) (s.producerAt plaza bank pd) 2 (.credit (bankDesc plaza bank))
  | none => s

/-- A pop, performed in one step (R398). -/
def popEntry (f : Fields) (plaza bank x : Nat) (s : State) : State :=
  match (s.plaza plaza).mode bank with
  | .fifo size count head tail fill producer =>
    match s.localRead plaza (bank * 0x8000 + head * size) size with
    | none => raise 0x0D (src 0x57 f 1 s) s
    | some bs =>
      let s1 := (s.localWrite plaza x bs).setBank plaza bank (.fifo size count ((head + 1) % count) tail (fill - 1) producer)
      finishQ f (BitVec.ofNat 64 size) (returnCredit plaza bank producer s1)
  | _ => s

def execQpop (f : Fields) (s : State) : Host.Outcome State Fault Refusal :=
  runOp 0x57 f (atPlaza (fun s => withBank (src 0x57 f 0 s) (fun bank s =>
    let plaza := plazaOf s.th.anchor
    match (s.plaza plaza).mode bank with
    | .fifo size _ _ _ fill _ =>
      withLocal (src 0x57 f 1 s).toInt size 1 (fun x s =>
        if s.th.fwd.any (fun w => w.overlaps x size) then block .waiting .localWrites s
        else if fill = 0 then
          (if bitOf f.func.toNat 0 then block .waiting (.entry plaza bank) s else finishQ f 0 s)
        else popEntry f plaza bank x s) s
    | _ => raise 0x0F (BitVec.ofNat 64 bank) s) s)) s

/-- What `QCNT` counts at a bank. For a bank that is not in FIFO mode R103 states 0 for `.FILL` only; that `.HEAD` and `.TAIL` push 0 too is the
model's choice (log entry 138). -/
def bankCount (sel : Nat) (m : BankMode) : Nat :=
  match m with
  | .fifo _ _ head tail fill _ => if sel = 0 then fill else if sel = 2 then head else tail
  | _ => 0

def execQcnt (f : Fields) (s : State) : Host.Outcome State Fault Refusal :=
  runOp 0x58 f (fun s =>
    let a := src 0x58 f 0 s
    let sel := fbits f.func 1 0
    if sel = 1 then
      withDescriptor a (fun s =>
        finishQ f (BitVec.ofNat 64 ((((s.core s.th.core).credit? (queueKey a)).map CreditEntry.credits).getD 0)) s) s
    else
      atPlaza (fun s => withBank a (fun bank s =>
        finishQ f (BitVec.ofNat 64 (bankCount sel ((s.plaza (plazaOf s.th.anchor)).mode bank))) s) s) s) s

/-! ## What the messages of queues do -/

/-- A queue entry at its bank (R398): written at the tail, acknowledged, and one waiting `QPOP.W` woken. -/
def entryArrives (core src plaza bank : Nat) (data : List Byte) (tid wid : Nat) (s : State) : State :=
  match (s.plaza plaza).mode bank with
  | .fifo size count head tail fill producer =>
    let s1 := (s.localWrite plaza (bank * 0x8000 + tail * size) (data.take size)).setBank plaza bank
      (.fifo size count head ((tail + 1) % count) (fill + 1) producer)
    let s2 := s1.send core src 2 (ackBody src tid wid 0 0)
    match s2.allThreads.find? (fun t => t.status == .waiting && t.wait == .entry plaza bank) with
    | some t => s2.wakeThread t
    | none => s2
  | _ => s

/-- A grant at the producer (R100, R397): a new entry takes the first place that is free. -/
def grantArrives (core src : Nat) (desc : W64) (size count credits plaza bank : Nat) (fresh : Bool) (s : State) : State :=
  let c := s.core core
  let place := match c.credit? desc with
    | some e => e.place
    | none => ((List.range 32).find? (fun k => !c.credits.any (fun e => e.place == k))).getD 0
  let e : CreditEntry := { place := place, desc := desc, size := size, count := count, credits := credits, stalls := 0, pushed := 0 }
  let known := (c.credit? desc).isSome
  if !known ∧ c.credits.length ≥ 32 then s.send core src 2 (.grantAck plaza bank false)
  else
    let c1 := if known then c.putCredit e else { c with credits := c.credits ++ [e] }
    let s1 := (s.putCore c1).wakeWaiting (fun t => t.wait == .credit desc && t.core == core)
    if fresh then s1.send core src 2 (.grantAck plaza bank true) else s1

/-- The grant's acknowledgement at the bank. -/
def grantAcked (plaza bank : Nat) (ok : Bool) (s : State) : State :=
  match (s.plaza plaza).stage? bank with
  | some (tid, .granting old _) =>
    let s1 := if ok then s.setStage plaza bank (some (tid, .done))
      else ((clearBank plaza bank s).setBank plaza bank (refusedMode old)).setStage plaza bank (some (tid, .refused))
    s1.wakeBank plaza bank
  | _ => s

/-- A credit at the producer (R296). -/
def creditArrives (core : Nat) (desc : W64) (s : State) : State :=
  let c := s.core core
  match c.credit? desc with
  | none => s
  | some e =>
    (s.putCore (c.putCredit { e with credits := e.credits + 1 })).wakeWaiting (fun t => t.wait == .credit desc && t.core == core)

/-- A revoke at the producer (R101): the reply goes behind its earlier entries. -/
def revokeArrives (core src : Nat) (desc : W64) (plaza bank : Nat) (wantReply : Bool) (s : State) : State :=
  let c := s.core core
  let s1 := s.putCore { c with credits := c.credits.filter (fun e => e.desc != desc) }
  if wantReply then s1.send core src 0 (.revokeReply plaza bank) else s1

/-- The revoke reply at the bank (R101): the mode changes, or an entry has come and a new grant restores the credits. -/
def revokeReplied (plaza bank : Nat) (s : State) : State :=
  match (s.plaza plaza).stage? bank, (s.plaza plaza).mode bank with
  | some (tid, .revoking next), .fifo size count _ _ fill producer =>
    if fill > 0 then
      let s1 := s.setStage plaza bank (some (tid, .arrivedLate))
      let s2 := match producer with
        | some pd => s1.send (bankCore plaza bank) (s.producerAt plaza bank pd) 2
            (.grant (bankDesc plaza bank) size count (count - fill) plaza bank false)
        | none => s1
      s2.wakeBank plaza bank
    else (changeBank tid plaza bank next s).wakeBank plaza bank
  | some (tid, .releasing), _ => s.setStage plaza bank (some (tid, .released))
  | _, _ => s

end Sys2Proof.Machine
end

