-- ==== Sys2Proof/Machine/Sync.lean ====
section
/-! DEFINITION. Workgroup, gang and module barriers and notice boards (R378-R393): the instructions, and the synchronisation engine's
handling of their requests. -/

namespace Sys2Proof.Machine

/-! ## Workgroup and gang barriers (R379-R382) -/

def Workgroup.barOf (w : Workgroup) (n : Nat) : Barrier := vget w.bar n Barrier.empty

def execBar (f : Fields) (s : State) : Host.Outcome State Fault Refusal :=
  runOp 0x68 f (fun s =>
    let a := src 0x68 f 0 s
    let b := src 0x68 f 1 s
    let batch := bitOf f.func.toNat 0
    if a.toNat ≥ s.th.bars then raise 0x04 0 s
    else if batch ∧ b.toNat ≥ 4 then raise 0x06 b s
    else
      let w := s.wg
      let x := w.barOf a.toNat
      let x1 : Barrier := { x with arrived := x.arrived + 1, bmask := if batch then x.bmask ||| (1 <<< b.toNat) else x.bmask }
      block .joining (.bar a.toNat (if batch then some b.toNat else none) (fbits f.func 3 1))
        (s.putWg { w with bar := vset w.bar a.toNat x1 })) s

/-- The workgroup of WGPOS 0 of a gang. -/
def State.headOf (s : State) (launch gang : Nat) : Workgroup :=
  (s.wgs.find? (fun w => w.launch == launch && w.gang == gang && w.wgpos == 0)).getD Workgroup.blank

def execGbar (f : Fields) (s : State) : Host.Outcome State Fault Refusal :=
  runOp 0x69 f (fun s =>
    let h := s.headOf s.th.launch s.th.gang
    block .joining .gbar (s.putWg { h with gbarArr := h.gbarArr + 1 })) s

/-- What a released thread's predicate receives (R381). -/
def barResult (q : Sequencer) (t : Thread) : Thread :=
  match t.wait with
  | .bar _ (some b) (k + 1) => t.setP (Fin.ofNat 7 k) ((q.answer b).getD false)
  | _ => t

def Thread.atBar (t : Thread) (n : Nat) : Bool :=
  match t.wait with
  | .bar m _ _ => m == n && t.status == .joining
  | _ => false

/-- A released thread is READY behind its barrier in the same cc (R380). -/
def Thread.released (t : Thread) (now : Nat) : Thread := { t.next 8 with since := now }

/-- BARRIER_PHASE_END of barrier n of a workgroup, or of the gang's barrier for n = 16 (R380, R381); none while the gang is saved, whose joining threads
are counted (R382). -/
def execBarrierPhaseEnd (w n : Nat) (s : State) : Host.Outcome State Fault Refusal :=
  let g := s.wgBy w
  if s.suspends g then .next s
  else if n < 16 then
    let x := g.barOf n
    let batches := (List.range 4).filter (fun b => bitOf x.bmask.toNat b)
    if x.arrived = 0 ∨ x.arrived + g.exited.length < g.wgsize ∨ batches.any (fun b => g.seq.state b == 1) then .next s
    else
      let now := (s.core g.anchor).ccnt.toNat
      let s1 := s.putWg { g with bar := vset g.bar n { x with phase := x.phase + 1, arrived := 0, bmask := 0 } }
      .next (s1.mapThreads (fun t => if g.is t && !t.spawned && t.atBar n then (barResult g.seq t).released now else t))
  else
    let l := s.wgs.filter (fun x => x.launch == g.launch && x.gang == g.gang)
    let size := l.foldl (fun r x => r + x.wgsize) 0
    let gone := l.foldl (fun r x => r + x.exited.length) 0
    if g.wgpos ≠ 0 ∨ g.gbarArr = 0 ∨ g.gbarArr + gone < size then .next s
    else
      let s1 := s.putWg { g with gbarArr := 0, gbarPhase := g.gbarPhase + 1 }
      .next (s1.mapThreads (fun t =>
        if t.launch = g.launch ∧ t.gang = g.gang ∧ t.wait = .gbar ∧ t.status = .joining then
          t.released (s.core t.core).ccnt.toNat
        else t))

/-! ## Ids (R383) -/

def syeIdBad (id : W64) : Bool := id.toNat ≥ 2 ^ 32 || bits id.toNat 27 16 != 0 || bits id.toNat 31 28 ≥ 8
def syeDie (id : W64) : Nat := bits id.toNat 31 28
def syeIndex (id : W64) : Nat := bits id.toNat 15 0

def DieSt.barrier? (d : DieSt) (i : Nat) : Option ModBarrier := d.barriers.find? (fun b => b.index == i)
def DieSt.board? (d : DieSt) (i : Nat) : Option Board := d.boards.find? (fun b => b.index == i)
/-- The number of an object: twice a barrier's index, twice a board's and one more. -/
def barrierObject (i : Nat) : Nat := 2 * i
def boardObject (i : Nat) : Nat := 2 * i + 1

/-- Bytes of the objects and records that a test of object numbers picks (R378). -/
def DieSt.bytesOf (d : DieSt) (p : Nat → Bool) : Nat :=
  (d.barriers.filter (fun b => p (barrierObject b.index))).foldl (fun r b => r + 32 + 16 * b.records.length) 0 +
    (d.boards.filter (fun b => p (boardObject b.index))).foldl (fun r b => r + 64 + 8 * b.slots.length) 0

def sramBytes : Nat := 4 * 2 ^ 20

/-- Bytes that the objects and records of a die's SYE take. -/
def DieSt.syeBytes (d : DieSt) : Nat := d.bytesOf (fun _ => true)

/-- SRAM and overflow area together. -/
def syeRoom : Nat := sramBytes + 32 * 2 ^ 20

/-- Objects used least recently are written out while the SRAM is full (R378). -/
def DieSt.evict (d : DieSt) : List Nat → DieSt
  | [] => d
  | o :: os =>
    if d.bytesOf (fun x => !d.syeFull.contains x) ≤ sramBytes then d
    else DieSt.evict (if d.syeFull.contains o then d else { d with syeFull := d.syeFull ++ [o] }) os

/-- An object of the SYE is used. -/
def DieSt.used (d : DieSt) (o : Nat) : DieSt :=
  let d1 := { d with syeUse := d.syeUse.filter (· != o) ++ [o] }
  d1.evict (d1.syeUse.filter (· != o))

/-- Objects that are freed leave the SYE. -/
def DieSt.tidy (d : DieSt) : DieSt :=
  let live := d.barriers.map (fun b => barrierObject b.index) ++ d.boards.map (fun b => boardObject b.index)
  { d with syeUse := d.syeUse.filter live.contains, syeFull := d.syeFull.filter live.contains }

def State.putBarrier (s : State) (die : Nat) (b : ModBarrier) : State :=
  let d := s.die die
  s.putDie ({ d with barriers := d.barriers.map (fun (x : ModBarrier) => if x.index = b.index then b else x) }.used (barrierObject b.index))
def State.putBoard (s : State) (die : Nat) (b : Board) : State :=
  let d := s.die die
  s.putDie ({ d with boards := d.boards.map (fun (x : Board) => if x.index = b.index then b else x) }.used (boardObject b.index))

/-- A barrier of the thread's ASID, or 0x06 or 0x08. -/
def withBarrier (id : W64) (k : ModBarrier → State → State) (s : State) : State :=
  if syeIdBad id then raise 0x06 id s
  else
    match (s.die (syeDie id)).barrier? (syeIndex id) with
    | some b => if b.asid = s.th.asid then k b s else raise 0x08 id s
    | none => raise 0x08 id s

def withBoard (id : W64) (k : Board → State → State) (s : State) : State :=
  if syeIdBad id then raise 0x06 id s
  else
    match (s.die (syeDie id)).board? (syeIndex id) with
    | some b => if b.asid = s.th.asid then k b s else raise 0x08 id s
    | none => raise 0x08 id s

/-- The thread's die has processed the loss of another die (R386, R393). -/
def State.sawLoss (s : State) (die : Nat) : Bool := (s.die (dieOf s.th.core)).lossSeen.contains die

/-- A thread's identity at a barrier (R385). -/
def Thread.identity (t : Thread) : List Nat := [t.job, t.launch, t.gang, t.wgpos, t.index, t.sser]

/-- The SYE of a die, as a destination of messages. -/
def syeCore (die : Nat) : Nat := 64 * die

/-! ## Module barriers (R384, R385) -/

/-- The lowest index from 1 that is free. -/
def freeIndex (used : List Nat) (limit : Nat) : Option Nat :=
  ((List.range (min limit (used.length + 1))).map (· + 1)).find? (fun i => !used.contains i)

def execPbari (f : Fields) (s : State) : Host.Outcome State Fault Refusal :=
  runOp 0x6A f (fun s =>
    let a := src 0x6A f 0 s
    let die := dieOf s.th.core
    let d := s.die die
    if a.toNat = 0 ∨ a.toNat > 65535 then raise 0x06 a s
    else
      match freeIndex (d.barriers.map ModBarrier.index) 65535 with
      | none => finishQ f 0 s
      | some i =>
        if d.syeBytes + 32 > syeRoom then finishQ f 0 s
        else
        let b : ModBarrier := { index := i, asid := s.th.asid, job := s.th.job, parties := a.toNat, arrivals := 0, phase := 0,
                                broken := false, last := none, records := [], waiters := [] }
        finishQ f (BitVec.ofNat 64 (die * 2 ^ 28 + i)) (s.putDie ({ d with barriers := d.barriers ++ [b] }.used (barrierObject i)))) s

def execPbara (f : Fields) (s : State) : Host.Outcome State Fault Refusal :=
  runOp 0x6B f (fun s =>
    let id := src 0x6B f 0 s
    withBarrier id (fun b s =>
      if s.sawLoss (syeDie id) then finishU f s
      else finishU f (s.send s.th.core (syeCore (syeDie id)) 2 (.barrier 0 b.index b.asid s.th.identity s.th.tid))) s) s

def execPbarw (f : Fields) (s : State) : Host.Outcome State Fault Refusal :=
  runOp 0x6C f (fun s =>
    let id := src 0x6C f 0 s
    withBarrier id (fun b s =>
      if s.sawLoss (syeDie id) then finishP f false s
      else
        awaitAnswer id (.release (pDst f) (lenBytes f.len))
          (s.send s.th.core (syeCore (syeDie id)) 2 (.barrier 1 b.index b.asid s.th.identity s.th.tid))) s) s

/-- A release goes to each waiter of a barrier. -/
def releaseAll (die : Nat) (b : ModBarrier) (whole : Bool) (s : State) : State :=
  b.waiters.foldl (fun s w => s.send (syeCore die) w.2 2 (.release w.1 whole)) s

/-- An arrival at the SYE (R385). -/
def arrive (die : Nat) (b : ModBarrier) (ident : List Nat) (s : State) : State :=
  if b.broken then s
  else if b.arrivals + 1 = b.parties then
    releaseAll die b true (s.putBarrier die
      { b with last := some true, phase := b.phase + 1, arrivals := 0, records := [], waiters := [] })
  else s.putBarrier die { b with arrivals := b.arrivals + 1, records := ident :: b.records }

/-- A wait at the SYE (R385). -/
def waitAt (die core : Nat) (b : ModBarrier) (ident : List Nat) (tid : Nat) (s : State) : State :=
  if b.broken then s.send (syeCore die) core 2 (.release tid false)
  else if b.records.contains ident then s.putBarrier die { b with waiters := b.waiters ++ [(tid, core)] }
  else s.send (syeCore die) core 2 (.release tid (b.last == some true))

/-! ## Notice boards (R387-R393) -/

def viewOf (s : State) (k : Nat) : View := vget s.th.vm k View.empty

def Thread.setView (t : Thread) (k : Nat) (v : View) : Thread := { t with vm := vset t.vm k v }

/-- A lost board (R393). -/
def lostView (id : W64) : View := { View.empty with board := BitVec.ofNat 32 id.toNat, status := 3 }

def boardRequest (id : W64) (op slot : Nat) (value : W64) (gen : BitVec 16) (mask : W64) (c : Cont) (s : State) : State :=
  awaitAnswer id c (s.send s.th.core (syeCore (syeDie id)) 2 (.board op (syeIndex id) s.th.asid slot value s.th.tid gen mask))

def vmOf (f : Fields) : Nat := fbits f.func 1 0

def execNbpost (f : Fields) (s : State) : Host.Outcome State Fault Refusal :=
  runOp 0x78 f (fun s =>
    let id := src 0x78 f 0 s
    let b := src 0x78 f 1 s
    withBoard id (fun x s =>
      if b.toNat ≥ x.n then raise 0x06 b s
      else if s.sawLoss (syeDie id) then finishQ f 0 (s.onTh (fun t => t.setView (vmOf f) (lostView id)))
      else boardRequest id 0 b.toNat (src 0x78 f 2 s) 0 0 (.view (Fin.ofNat 4 (vmOf f)) f.dst (lenBytes f.len)) s) s) s

def execNbview (f : Fields) (s : State) : Host.Outcome State Fault Refusal :=
  runOp 0x7A f (fun s =>
    let id := src 0x7A f 0 s
    withBoard id (fun _ s =>
      if s.sawLoss (syeDie id) then finishQ f 0 (s.onTh (fun t => t.setView (vmOf f) (lostView id)))
      else boardRequest id 1 0 0 0 0 (.view (Fin.ofNat 4 (vmOf f)) f.dst (lenBytes f.len)) s) s) s

def execNbload (f : Fields) (s : State) : Host.Outcome State Fault Refusal :=
  runOp 0x79 f (fun s =>
    let v := viewOf s (vmOf f)
    let id : W64 := v.board.zeroExtend 64
    let a := src 0x79 f 0 s
    if v.board = 0 then raise 0x08 0 s
    else
      withBoard id (fun x s =>
        if a.toNat ≥ x.n then raise 0x06 a s
        else if s.sawLoss (syeDie id) then finishQ f 0 (s.onTh (fun t => t.setView (vmOf f) { v with status := 3 }))
        else boardRequest id 2 a.toNat 0 v.gen v.mask (.slot (Fin.ofNat 4 (vmOf f)) f.dst (lenBytes f.len)) s) s) s

def execNbmask (f : Fields) (s : State) : Host.Outcome State Fault Refusal :=
  runOp 0x7B f (fun s =>
    let v := viewOf s (vmOf f)
    finishQ f (match fbits f.func 3 2 with
      | 0 => v.mask
      | 1 => v.level.zeroExtend 64
      | 2 => v.gen.zeroExtend 64
      | _ => v.status.zeroExtend 64) s) s

def execNbgen (f : Fields) (s : State) : Host.Outcome State Fault Refusal :=
  runOp 0x7C f (fun s =>
    let id := src 0x7C f 0 s
    let b := src 0x7C f 1 s
    let cond := bitOf f.func.toNat 0
    withBoard id (fun x s =>
      if ((s.job? s.th.job).map (fun j => (j.asid, indexOf j.image))) ≠ some (x.asid, indexOf x.image) then raise 0x07 id s
      else if cond ∧ b.toNat ≥ 2 ^ 16 then raise 0x06 b s
      else if s.sawLoss (syeDie id) then finishU f s
      else boardRequest id 3 0 (boolWord cond) (BitVec.ofNat 16 b.toNat) 0 (.gen (lenBytes f.len)) s) s) s

def Board.view (b : Board) (die : Nat) (st : BitVec 2) : View :=
  { board := BitVec.ofNat 32 (die * 2 ^ 28 + b.index), gen := b.gen, status := st, level := BitVec.ofNat 7 b.level, mask := b.mask }

/-- A request to a board at its SYE (R389-R392). -/
def serveBoard (die core op : Nat) (b : Board) (slot : Nat) (value : W64) (tid : Nat) (gen : BitVec 16) (mask : W64) (s : State) :
    State :=
  let reply (s : State) (v : View) (x : W64) (level : Nat) : State := s.send (syeCore die) core 2 (.boardReply tid v x level)
  match op with
  | 0 =>
    if bitOf b.mask.toNat slot then reply s (b.view die 1) 0 b.level
    else
      let b1 := { b with slots := b.slots.set slot value, mask := b.mask ||| (1 <<< slot), level := b.level + 1 }
      reply (s.putBoard die b1) (b1.view die 0) 0 b1.level
  | 1 => reply s (b.view die 0) 0 b.level
  | 2 =>
    if b.gen ≠ gen then reply s { b.view die 2 with gen := gen } 0 0
    else reply s (b.view die 0) (if bitOf mask.toNat slot then b.slots.getD slot 0 else 0) 0
  | _ =>
    if value = 0 ∨ b.gen = gen then
      let b1 := { b with slots := b.slots.map (fun _ => 0), mask := 0, level := 0, gen := b.gen + 1 }
      reply (s.putBoard die b1) (b1.view die 0) 0 0
    else reply s (b.view die 0) 0 0

/-- A board reply at its thread (R389, R390, R392). `NBLOAD` changes the status only for STALE and LOST. -/
def Cont.finishBoard (c : Cont) (v : View) (x : W64) (level : Nat) (t : Thread) : Thread :=
  match c with
  | .view vm dst len => let l := BitVec.ofNat 64 level; (((t.setView vm.val v).setDst dst l).push l).next len
  | .slot vm dst len =>
    let old := vget t.vm vm.val View.empty
    let t1 := if v.status.toNat ≥ 2 then t.setView vm.val { old with status := v.status } else t
    ((t1.setDst dst x).push x).next len
  | .gen len => t.next len
  | _ => t

end Sys2Proof.Machine
end

