-- ==== Sys2Proof/Machine/System.lean ====
section
/-! DEFINITION. Traps, the return from the handler, system registers, `IDLE` and the kick (R201-R208). -/

namespace Sys2Proof.Machine

/-- R201: the entry of Machine/Ops.lean with code 0x10. -/
def execTrap (f : Fields) (s : State) : Host.Outcome State Fault Refusal :=
  runOp 0xF0 f (fun s => raise 0x10 (src 0xF0 f 0 s) s) s

/-- The executing thread is the issuer and an `MPARK` has no matching `MUNPARK` (R194). -/
def parkedIssuer (s : State) : Bool := !s.th.spawned && s.th.index == s.wg.issuer && s.wg.park.isSome

def execRte (f : Fields) (s : State) : Host.Outcome State Fault Refusal :=
  runOp 0xF1 f (fun s => if !s.th.hnd || parkedIssuer s then raise 0x0E 0 s else s.onTh Thread.leaveHandler) s

/-! ## System registers (R203-R205) -/

def budgetWord (t : Thread) : W64 :=
  BitVec.ofNat 64 (t.localLen * 2 ^ 32 + t.tiles * 2 ^ 15 + t.bars * 2 ^ 10 + t.vbud * 2 ^ 6 + t.nbud)

def idWord (t : Thread) : W64 :=
  BitVec.ofNat 64 ((if t.spawned then 2 ^ 35 else 0) + t.wgpos * 2 ^ 32 + t.index * 2 ^ 22 + t.anchor % 2 ^ 10 * 2 ^ 12 + t.core)

/-- The frame predicates in [7:1] (R203). -/
def framePreds (t : Thread) : W64 := t.frameP.zeroExtend 64 &&& 0xFE

/-- A register that `SYSRD` may read: its value. Reserved bits read 0 (R8). -/
def sysValue (r : Nat) (s : State) : Option W64 :=
  let t := s.th
  match r with
  | 0x00 => some t.epc
  | 0x01 => some t.cause
  | 0x02 => some t.faddr
  | 0x03 => some (t.fpflags.zeroExtend 64)
  | 0x04 => some (budgetWord t)
  | 0x05 => some (idWord t)
  | 0x06 => some (BitVec.ofNat 64 t.asid)
  | 0x07 => some t.trapbase
  | 0x08 => some (s.dtcOf (dieOf t.core))
  | 0x20 => if t.hnd then some (framePreds t) else none
  | r => if 0x10 ≤ r ∧ r ≤ 0x1F ∧ t.hnd then some (vget t.frameQ (r - 0x10) 0) else none

def sysNo (f : Fields) : Nat := fbits f.func 7 0

def execSysrd (f : Fields) (s : State) : Host.Outcome State Fault Refusal :=
  runOp 0xF2 f (fun s =>
    if sysNo f = 0x09 then
      if s.th.spawned then raise 0x0B 0 s
      else if s.th.core = s.th.anchor then finishQ f s.wg.kick s
      else
        awaitAnswer 0 (.kick f.dst (lenBytes f.len)) (s.send s.th.core s.th.anchor 0 (.kickRead s.th.tid s.wg.wid))
    else
      match sysValue (sysNo f) s with
      | some v => finishQ f v s
      | none => raise 0x01 0 s) s

/-- A write that `SYSWR` may make to a register of the thread. -/
def sysWrite (r : Nat) (v : W64) (t : Thread) : Option Thread :=
  match r with
  | 0x00 => if t.hnd then some { t with epc := v } else none
  | 0x01 => if t.hnd then some { t with cause := v } else none
  | 0x02 => if t.hnd then some { t with faddr := v } else none
  | 0x03 => some { t with fpflags := v.truncate 7 }
  | 0x07 => some { t with trapbase := v }
  | 0x20 => if t.hnd && v &&& 0xFE == v then some { t with frameP := v.truncate 8 } else none
  | r => if 0x10 ≤ r ∧ r ≤ 0x1F ∧ t.hnd then some { t with frameQ := vset t.frameQ (r - 0x10) v } else none

def execSyswr (f : Fields) (s : State) : Host.Outcome State Fault Refusal :=
  runOp 0xF3 f (fun s =>
    let v := src 0xF3 f 0 s
    if sysNo f = 0x09 then
      if s.th.spawned then raise 0x0B 0 s
      else finishU f (s.send s.th.core s.th.anchor 2 (.kick s.wg.wid true s.th.tid 0))
    else if sysNo f = 0x07 ∧ v.toNat % 4 ≠ 0 then raise 0x0A v s
    else
      match sysWrite (sysNo f) v s.th with
      | some t => finishU f { s with th := t }
      | none => raise 0x01 0 s) s

/-! ## `IDLE` and the kick (R206, R207) -/

/-- A time `a` ns from now; one beyond 64 bits is never reached. -/
def timeAfter (now a : W64) : W64 := if now.toNat + a.toNat < 2 ^ 64 then now + a else BitVec.allOnes 64

/-- R109: `.NS` and `.UNTIL` go on behind the `SLEEP`; `.PROMISE` stays at it, for the missed-promise trap. -/
def execSleep (f : Fields) (s : State) : Host.Outcome State Fault Refusal :=
  runOp 0x66 f (fun s =>
    let a := src 0x66 f 0 s
    let die := dieOf s.th.core
    match fbits f.func 1 0 with
    | 0 => block .sleeping .sleep ((finishU f s).onTh (fun t => { t with smode := 0, wake := timeAfter (s.dtcOf die) a, wdie := die }))
    | 1 => block .sleeping .sleep ((finishU f s).onTh (fun t => { t with smode := 1, wake := a, wdie := die }))
    | _ =>
      let b := src 0x66 f 1 s
      let on := if s.th.spawned then die else dieOf s.th.anchor
      (block .sleeping .sleep s).onTh (fun t =>
        { t with smode := 2, wake := a &&& 0xFFFFFFFFFFFFFF, wdie := on, wjob := b >>> 56 })) s

def execIdle (f : Fields) (s : State) : Host.Outcome State Fault Refusal :=
  runOp 0xF4 f (fun s =>
    let a := src 0xF4 f 0 s
    let t := s.th
    let die := dieOf t.core
    let here := t.core == t.anchor && !t.spawned
    let s0 : State := { s with nextId := s.nextId + 1 }
    let s1 := if here || t.spawned then s0 else s0.send t.core t.anchor 2 (.kick s.wg.wid false t.tid s.nextId)
    let kick := s.wg.kick
    block .sleeping .sleep ((finishU f s1).onTh (fun t =>
      { t with smode := 3, wake := if a = 0 then 0 else timeAfter (s.dtcOf die) a, wdie := die, nap := s.nextId,
               kick0 := if here then some kick else none }))) s

/-- A thread in an `IDLE` whose k0 is recorded: here, or in another module, where its sleep is not known here. -/
def Thread.idles (t : Thread) : Bool := t.smode == 3 && (t.status == .sleeping || (1024 ≤ t.core && t.place == .gone && t.status != .exited))

/-- The IDLE threads of a workgroup whose k0 is recorded and differs wake: at the anchor at once, elsewhere by a message for that `IDLE`. -/
def wakeIdlers (w : Workgroup) (s : State) : State :=
  (s.allThreads.filter (fun t => w.is t && !t.spawned && t.idles && (match t.kick0 with | some k => k != w.kick | none => false))).foldl
    (fun s t =>
      if t.core = w.anchor then s.wakeThread { t with smode := 0, kick0 := none } else s.send w.anchor t.core 2 (.wake t.tid t.nap)) s

/-- A kick cell at the anchor (R206, R207): an increment, or the record request of the `IDLE` of that number; of a thread in another module that number
is not known before. -/
def kickArrives (wid : Nat) (increment : Bool) (tid nap : Nat) (s : State) : State :=
  let w := s.wgBy wid
  if increment then
    let w1 := { w with kick := w.kick + 1 }
    wakeIdlers w1 (s.putWg w1)
  else s.mapThreads (fun t =>
    if t.tid = tid ∧ 1024 ≤ t.core ∧ t.place = .gone then { t with smode := 3, nap := nap, kick0 := some w.kick }
    else if t.tid = tid ∧ t.smode = 3 ∧ t.nap = nap then { t with kick0 := some w.kick }
    else t)

end Sys2Proof.Machine
end

