-- ==== Sys2Proof/Machine/Engine.lean ====
section
/-! DEFINITION. The copy engine and the dedupe gather engine (R308-R331), the plaza task scheduler (R317, R318), promises (R321) and the
waking of sleeping threads (R109). A COPY, one distinct fetch of a GATHER and each COND or SIGNAL is one step; bytes that a job writes to
a buffer travel as engine data (R403). -/

namespace Sys2Proof.Machine

/-! ## Items of the plaza (R317-R319) -/

/-- A job that is not ended: QUEUED, RUNNING, HELD or FAULTED (R319). -/
def EngJob.unfinished (j : EngJob) : Bool := j.state == 1 || j.state == 2 || j.state == 3 || j.state == 5

/-- QUEUED, RUNNING or HELD. -/
def EngJob.live (j : EngJob) : Bool := 1 ≤ j.state && j.state ≤ 3

/-- Two regions overlap and one of them is written (R317). -/
def Region.conflicts (a b : Region) : Bool :=
  (a.write || b.write) && a.isLocal == b.isLocal && a.buf == b.buf && a.lo < b.hi && b.lo < a.hi

def conflict (xs ys : List Region) : Bool := xs.any (fun a => ys.any (fun b => a.conflicts b))

/-- An item waits for every earlier incomplete one with a conflicting region (R317). -/
def PlazaSt.blocked (p : PlazaSt) (serial : Nat) (rs : List Region) : Bool :=
  p.jobs.any (fun j => j.unfinished && j.serial < serial && conflict j.regions rs) ||
    p.items.any (fun i => i.serial < serial && conflict i.regions rs)

/-- A sequencer instruction enters the plaza order (R317). -/
def State.addItem (s : State) (plaza wid : Nat) (rs : List Region) : State :=
  let p := s.plaza plaza
  s.putPlaza { p with items := p.items ++ [⟨p.nextSerial, wid, rs⟩], nextSerial := p.nextSerial + 1 }

def PlazaSt.job? (p : PlazaSt) (key : Nat) : Option EngJob := p.jobs.find? (fun j => j.key == key)

def State.setJob (s : State) (plaza : Nat) (j : EngJob) : State :=
  let p := s.plaza plaza
  s.putPlaza { p with jobs := p.jobs.map (fun x => if x.key = j.key then j else x) }

/-- The outcome of an id in its workgroup (R320). -/
def State.setOutcome (s : State) (wid : Nat) (id : BitVec 8) (o : BitVec 2) : State :=
  let w := s.wgBy wid
  s.putWg { w with outcomes := vset w.outcomes id.toNat o }

def outcomeCode (st : Nat) : BitVec 2 := if st = 4 then 1 else if st = 5 then 2 else 3

/-- A job ends (R318, R320): its outcome, and the waiters of one that ends CANCELLED or TIMEOUT, transitively. The first number bounds
the depth of that chain. -/
def endJob (plaza : Nat) : Nat → EngJob → Nat → Nat → State → State
  | 0, _, _, _, s => s
  | n + 1, j, st, cause, s =>
    let j1 := { j with state := st, cause := if st = 5 then cause else 0, heldKey := none, stopping := 0, watch := none }
    let s1 := ((s.setJob plaza j1).setOutcome j.wid j.id (outcomeCode st)).wakeWaiting (fun t => t.wait == .engine)
    if st = 4 ∨ st = 5 then s1
    else
      let p := s1.plaza plaza
      let hit := p.items.filter (fun i => j.serial < i.serial && conflict j.regions i.regions)
      let s2 := s1.putPlaza { p with doomed := p.doomed ++ hit.map SeqItem.serial }
      (p.jobs.filter (fun k => k.state == 1 && j.serial < k.serial && conflict j.regions k.regions)).foldl
        (fun s k => match (s.plaza plaza).job? k.key with
          | some k1 => if k1.state = 1 then endJob plaza n k1 7 0 s else s
          | none => s) s2

/-- Something that the job sent has not arrived, or an answer to it, or a write of it is not complete (R88). -/
def State.inFlight (s : State) (plaza key : Nat) : Bool :=
  s.net.any (fun m => match m.body with
    | .engine p k _ _ _ _ => p == plaza && k == key
    | .read r => r.who == .engine plaza key
    | .units r _ _ => (Requester.engine plaza key).includes r.who
    | _ => false) || s.owes (.engine plaza key)

/-- Setting bits of the bound CB (R313). -/
def setCb (wid : Nat) (cb : Option (Fin 4)) (ks : List Nat) (s : State) : State :=
  match cb with
  | none => s
  | some k =>
    let w := s.wgBy wid
    s.putWg { w with cb := w.cb.set k (ks.foldl (fun v i => v ||| (1 <<< i)) w.cb[k]) }

/-- Rows of a SCATTER that are complete: those that have come in and whose leases have ended (R88, R313). -/
def State.rowsDone (s : State) (plaza : Nat) (j : EngJob) : List Nat := j.landed.filter (fun k => !s.owes (.row plaza j.key k))

/-- A job some of whose rows are complete. -/
def EngJob.counted (j : EngJob) (ks : List Nat) : EngJob :=
  { j with landed := j.landed.filter (fun k => !ks.contains k), moved := j.moved + bits (j.words.getD 0 0).toNat 31 16 * ks.length }

/-- The bits of complete rows are set. -/
def markRows (j : EngJob) (ks : List Nat) (s : State) : State := if ks.isEmpty then s else setCb j.wid j.cb ks s

def settleRows (plaza : Nat) (j : EngJob) (s : State) : State :=
  let ks := s.rowsDone plaza j
  (markRows j ks s).setJob plaza (j.counted ks)

/-- A job ends, its complete rows counted (R313, R318, R320). -/
def finishJob (plaza : Nat) (j : EngJob) (st cause : Nat) (s : State) : State :=
  let ks := s.rowsDone plaza j
  endJob plaza 65 (j.counted ks) st cause (markRows j ks s)

/-- The job starts no new access and ends once nothing is in flight: 256 CANCELLED, else FAULTED with the code (R325, R329). -/
def stopJob (plaza : Nat) (j : EngJob) (code : Nat) (s : State) : State :=
  if s.inFlight plaza j.key then s.setJob plaza { j with stopping := if j.stopping = 256 then 256 else code }
  else if code = 256 ∨ j.stopping = 256 then finishJob plaza j 7 0 s
  else finishJob plaza j 5 code s

/-! ## Bytes and promises (R321) -/

/-- Bytes that one run of an entry moves, from its word 0x00; a GATHER or SCATTER leaves out the positions of `skip`. -/
def entryBytes (skip : Nat → Bool) (x : Nat) : Nat :=
  match x % 256 with
  | 0x10 => (bits x 31 16 + 1) * (bits x 41 32 + 1) * (bits x 51 42 + 1) * (bits x 61 52 + 1)
  | 0x11 | 0x12 => bits x 31 16 * ((List.range (bits x 15 8 + 1)).filter (fun k => !skip k)).length
  | _ => 0

/-- The first words of a chain from an entry up to its END; what cannot be read ends it. Bytes that a peer has yet to send are asked for, and what
stands behind others is waited for. -/
def scanChain (rd : Nat → State → Except Stop (Nat × State)) : Nat → Nat → State → Except Stop (List (Nat × Nat) × State)
  | 0, _, s => .ok ([], s)
  | n + 1, i, s =>
    match rd i s with
    | .error (.absent _ _ _ _) => .ok ([], s)
    | .error (.peer home h m) => .error (.peer home h m)
    | .error x => if x.final then .ok ([], s) else .error x
    | .ok (x, s1) =>
      if [0x10, 0x11, 0x12, 0x13, 0x20, 0x21, 0x22].contains (x % 256) then (scanChain rd n (i + 1) s1).map (fun r => ((i, x) :: r.1, r.2))
      else .ok ([], s1)

/-- How often an entry is still to run, the present run included: `loops` are those that enclose it, outermost first, as index, BACK and COUNT,
`entry` the entry that the job has reached and `c` the count of each LOOP in progress. -/
def runsLeft (entry : Nat) (c : Nat → Nat) (e : Nat) : List (Nat × Nat × Nat) → Nat
  | [] => if entry ≤ e then 1 else 0
  | (i, back, count) :: rest =>
    let full := rest.foldl (fun n l => n * l.2.2) 1
    if i < entry then 0
    else if entry < back then count * full
    else (count - 1 - c i) * full + runsLeft entry c e rest

/-- The LOOPs of a chain that enclose an entry, outermost first. -/
def loopsAround (l : List (Nat × Nat)) (e : Nat) : List (Nat × Nat × Nat) :=
  (l.filter (fun x => x.2 % 256 == 0x20 && bits x.2 31 16 ≤ e && e < x.1)).reverse.map (fun x => (x.1, bits x.2 31 16, max 1 (bits x.2 63 32)))

/-- Bq of a job alone: the bytes still to be moved (R321). -/
def State.left (s : State) (j : EngJob) : Nat :=
  let w := s.wgBy j.wid
  let skip (on : Bool) (k : Nat) : Bool := on && (match j.cb with | some b => bitOf w.cb[b].toNat k | none => false)
  let c (i : Nat) : Nat := ((j.loops.find? (fun l => l.1 == i)).map (fun l => l.2.2.1)).getD 0
  if !j.unfinished then 0
  else
    j.scan.foldl (fun r e =>
      let n := runsLeft j.entry c e.1 (loopsAround j.scan e.1)
      let each := entryBytes (skip j.keep) e.2
      let now := if j.started then entryBytes (fun _ => false) e.2 - j.moved else entryBytes (skip (j.keep || j.resume || j.state == 5)) e.2
      r + (if e.1 = j.entry then now + (n - 1) * each else n * each)) 0

/-- E(t) of a job (R321). -/
def promise (s : State) (plaza : Nat) (j : EngJob) (t : Nat) : Nat :=
  let ahead := (s.plaza plaza).jobs.filter (fun k => k.key != j.key &&
    (k.state == 2 || k.state == 3 || (k.state == 1 && (j.prio < k.prio || (k.prio == j.prio && k.serial < j.serial)))))
  t + 300 + (s.left j + ahead.foldl (fun r k => r + s.left k) 0 + 99) / 100

def jobWord (id : BitVec 8) (t : Nat) : W64 := BitVec.ofNat 64 (id.toNat * 2 ^ 56 + t % 2 ^ 56)

/-! ## Accesses of a job (R310, R315, R316) -/

/-- A base as the engine adds to it: a signed local offset or a handle. -/
def baseAdd (isLocal : Bool) (b : W64) (d : Int) : W64 :=
  if isLocal then b + ofInt64 d else handleOf (indexOf b) (((offsetOf b : Int) + d) % (2 ^ 48 : Int)).toNat

/-- An access lies in a region of the job card (R310). -/
def inCard (j : EngJob) (w : Workgroup) (isLocal write : Bool) (a : W64) (n : Nat) : Bool :=
  let lo : Int := if isLocal then (w.lbase : Int) + a.toInt else (offsetOf a : Int)
  j.regions.any (fun r => r.isLocal == isLocal && (isLocal || r.buf == indexOf a) && (r.lo : Int) ≤ lo && lo + n ≤ r.hi &&
    (r.write || !write))

/-- The plaza byte address of a local access of an engine, or its fault (R315). -/
def engLocal (s : State) (plaza : Nat) (w : Workgroup) (off : Int) (n : Nat) : Except Stop Nat :=
  if off < 0 ∨ off + n > w.localLen then .error (.code 0x04)
  else if ((s.plaza plaza).badBank (w.lbase + off.toNat) n).isSome then .error (.code 0x0F)
  else .ok (w.lbase + off.toNat)

def engLocalRead (s : State) (plaza : Nat) (w : Workgroup) (off : Int) (n : Nat) : Except Stop (List Byte) :=
  match engLocal s plaza w off n with
  | .error x => .error x
  | .ok x =>
    match s.localRead plaza x n with
    | some bs => .ok bs
    | none => .error (.code 0x0D)

/-- Bytes of a buffer read in place, but for those of a peer, which stand in `got` once it has answered. -/
def readGot (who : Requester) (got : List (W64 × List Byte)) (asid : Nat) (h : W64) (n : Nat) :
    Nat → List Byte → State → Except Stop (List Byte × State)
  | 0, acc, s => .ok (acc, s)
  | k + 1, acc, s =>
    if n ≤ acc.length then .ok (acc, s)
    else
      let h1 := handleAdd h acc.length
      let m := min (n - acc.length) (512 - offsetOf h1 % 512)
      match got.find? (fun g => g.1 == h1 && g.2.length == m) with
      | some g => readGot who got asid h n k (acc ++ g.2) s
      | none =>
        match readPiece who asid h1 m s with
        | .ok (bs, s1) => readGot who got asid h n k (acc ++ bs) s1
        | .error x => .error x

/-- A read by a job, from local memory or a buffer. -/
def engRead (plaza : Nat) (w : Workgroup) (j : EngJob) (isLocal : Bool) (a : W64) (n : Nat) (s : State) :
    Except Stop (List Byte × State) :=
  if isLocal then (engLocalRead s plaza w a.toInt n).map (fun bs => (bs, s)) 
  else readGot (.engine plaza j.key) j.got j.asid a n (n / 512 + 2) [] s

/-- A checked read. -/
def engCardRead (plaza : Nat) (w : Workgroup) (j : EngJob) (isLocal : Bool) (a : W64) (n : Nat) (s : State) :
    Except Stop (List Byte × State) :=
  if inCard j w isLocal false a n then engRead plaza w j isLocal a n s else .error (.code 0x06)

/-- Engine data for a buffer, granule by granule. -/
def sendData (plaza : Nat) (j : EngJob) (core : Nat) (pos : Option Nat) : Nat → W64 → List Byte → State → Except Stop State
  | 0, _, _, s => .ok s
  | k + 1, h, bs, s =>
    if bs.isEmpty then .ok s
    else
      match s.tableEntry j.asid (indexOf h) with
      | none => .error (.code 0x08)
      | some e =>
        let home := (homeLoc s.conf.lc e (offsetOf h)).home
        if homeDead s e home then .error (.code 0x0D)
        else
          let m := 512 - offsetOf h % 512
          sendData plaza j core pos k (handleAdd h m) (bs.drop m)
            (s.send core (if e.tier = 3 then peerCore j.asid e.peer home else home) 3
              (.engine plaza j.key j.asid pos h (bs.take m)))

/-- A checked write: local bytes at once, bytes of a buffer as engine data. -/
def engCardWrite (plaza : Nat) (w : Workgroup) (j : EngJob) (pos : Option Nat) (isLocal : Bool) (a : W64) (bs : List Byte)
    (s : State) : Except Stop State :=
  if !inCard j w isLocal true a bs.length then .error (.code 0x06)
  else if isLocal then (engLocal s plaza w a.toInt bs.length).map (fun x => s.localWrite plaza x bs)
  else sendData plaza j w.anchor pos (bs.length / 512 + 2) a bs s

/-- What an access that does not go through does to its job (R301, R329). `acc` is ACC of the record: 0 read, 1 write. -/
def engStop (plaza : Nat) (j : EngJob) (acc : Nat) (x : Stop) (s : State) : State :=
  match x.noted (.engine plaza j.key) j.asid s with
  | (.code c, s) => stopJob plaza j c s
  | (.absent home key pos h, s) =>
    let s1 := s.postRecord home key h pos acc 3
    if j.fstop then stopJob plaza j 0x09 s1
    else s1.setJob plaza { j with state := 3, cause := 0x09, heldKey := some (home, key) }
  | (.peer home h n, s) =>
    if s.inFlight plaza j.key then s
    else
      s.send (s.wgBy j.wid).anchor home 0
        (.read { Request.blank with who := .engine plaza j.key, asid := j.asid, handle := h, size := n })
  | (_, s) => s

/-! ## Entries (R311-R315) -/

/-- The words of the entry at an index of a chain. -/
def chainAt (plaza : Nat) (w : Workgroup) (j : EngJob) (i : Nat) (s : State) : Except Stop (List Nat × State) :=
  (engRead plaza w j j.isLocal (baseAdd j.isLocal j.chain (32 * i)) 32 s).map
    (fun r => ((List.range 4).map (wordAt r.1), r.2))

/-- A word with the deltas of the LOOPs in progress that enclose an entry (R314). -/
def withDeltas (loops : List (Nat × Nat × Nat × W64)) (i : Nat) (hi : Bool) (x : Nat) : W64 :=
  loops.foldl (fun r l =>
    if l.2.1 ≤ i ∧ i < l.1 then
      let d := l.2.2.2.toNat
      r + ofInt64 ((l.2.2.1 : Int) * toSigned 32 (if hi then d / 2 ^ 32 else d))
    else r) (BitVec.ofNat 64 x)

/-- Where the elements of a COPY start, from their source and destination strides and counts (R312). -/
def copyOffsets (n1 n2 n3 : Nat) (s1 d1 s2 d2 s3 d3 : Int) : List (Int × Int) :=
  (List.range n3).flatMap (fun (c : Nat) => (List.range n2).flatMap (fun (b : Nat) => (List.range n1).map (fun (a : Nat) =>
    ((a : Int) * s1 + (b : Int) * s2 + (c : Int) * s3, (a : Int) * d1 + (b : Int) * d2 + (c : Int) * d3))))

/-- The reserved bits and ranges of a COPY (R311, R312). -/
def copyBad (x w3 : Nat) : Bool :=
  let dims := bits x 9 8
  bits x 63 62 != 0 || bits x 15 12 != 0 || (dims < 3 && bits x 61 52 != 0) || (dims < 2 && bits x 51 42 != 0) ||
    (dims < 1 && bits x 41 32 != 0) || (dims == 0 && w3 != 0)

def i32 (x : Nat) : Int := toSigned 32 x

/-- The rows of a COPY that starts, read before any is written. -/
def copyRows (plaza : Nat) (w : Workgroup) (j : EngJob) (sl : Bool) (src : W64) (n : Nat) (l : List (Int × Int)) (s : State) :
    Except Stop (List (List Byte) × State) :=
  l.foldlM (fun (r : List (List Byte) × State) o =>
    (engCardRead plaza w j sl (baseAdd sl src o.1) n r.2).map (fun x => (r.1 ++ [x.1], x.2))) ([], s)

def copyWrites (plaza : Nat) (w : Workgroup) (j : EngJob) (dl : Bool) (dst : W64) (l : List ((Int × Int) × List Byte)) (s : State) :
    Except Stop State :=
  l.foldlM (fun s o => engCardWrite plaza w j none dl (baseAdd dl dst o.1.2) o.2 s) s

/-- The present entry of a job has started; what follows it is `after`. -/
def EngJob.begin (j : EngJob) (words : List W64) (after : Nat) : EngJob :=
  { j with started := true, words := words, after := after, served := [], landed := [], failed := [], met := false, moved := 0 }

/-- The job reaches an entry: what it has read of the earlier one is forgotten, and a restart is over (R308, R327). -/
def EngJob.goTo (j : EngJob) (entry : Nat) : EngJob :=
  { j with entry := entry, started := false, idxs := [], got := [], resume := false, moved := 0 }

def runCopy (plaza : Nat) (w : Workgroup) (j : EngJob) (ws : List Nat) (a b : W64) (s : State) : State :=
  let x := ws.getD 0 0
  let w3 := ws.getD 3 0
  let dims := bits x 9 8
  let sl := bitOf x 10
  let dl := bitOf x 11
  let stride : Except Stop (List Nat × State) := if dims < 2 then .ok ([0x13, 0, 0, 0], s) else chainAt plaza w j (j.entry + 1) s
  if copyBad x w3 then stopJob plaza j 0x01 s
  else
    match stride with
    | .error e => engStop plaza j 0 e s
    | .ok (t, s0) =>
      if t.getD 0 0 ≠ 0x13 ∨ t.getD 3 0 ≠ 0 then stopJob plaza { j with entry := j.entry + 1 } 0x01 s
      else
        let n := bits x 31 16 + 1
        let w1 := t.getD 1 0
        let w2 := t.getD 2 0
        let l := copyOffsets (bits x 41 32 + 1) (bits x 51 42 + 1) (bits x 61 52 + 1) (i32 w3) (i32 (w3 / 2 ^ 32)) (i32 w1)
          (i32 (w1 / 2 ^ 32)) (i32 w2) (i32 (w2 / 2 ^ 32))
        match copyRows plaza w j sl a n l s0 with
        | .error e => engStop plaza j 0 e s
        | .ok (rows, s1) =>
          match copyWrites plaza w j dl b (l.zip rows) s1 with
          | .error e => engStop plaza j 1 e s
          | .ok s2 =>
            match (s2.plaza plaza).job? j.key with
            | some j2 => s2.setJob plaza { j2.begin [] (j.entry + (if dims < 2 then 1 else 2)) with moved := if dl then n * l.length else 0 }
            | none => s2

/-- The positions of an index list that are not to be served: bits set in the bound CB under KEEP or after `CBRST`, or the rows already
written of a restarted entry without a CB (R309, R327, R328). -/
def skipped (w : Workgroup) (j : EngJob) (n : Nat) : List Nat :=
  match j.cb with
  | some k => if j.keep || j.resume then (List.range n).filter (fun i => bitOf w.cb[k].toNat i) else []
  | none => []

/-- The start of a GATHER or SCATTER: its checks and its index values (R313). -/
def startRows (plaza : Nat) (w : Workgroup) (j : EngJob) (x : Nat) (a b : W64) (table : Nat) (s : State) :
    Except Stop (EngJob × State) :=
  let gather := x % 256 = 0x11
  let idx := if gather then a else b
  let rowb := bits x 31 16
  let n := bits x 15 8 + 1
  if bits x 63 32 % 4 ≠ 0 ∨ rowb % 4 ≠ 0 ∨ rowb = 0 ∨ idx.toNat % 4 ≠ 0 then .error (.code 0x01)
  else
    match engCardRead plaza w j true idx (4 * n) s with
    | .error e => .error e
    | .ok (bs, s1) =>
      .ok ({ j.begin [BitVec.ofNat 64 x, a, b, BitVec.ofNat 64 table] (j.entry + 1) with
             idxs := (List.range n).map (fun k => leNat ((bs.drop (4 * k)).take 4)), served := skipped w j n, moved := rowb * (skipped w j n).length,
             resume := false }, s1)

/-- The rows of a SCATTER leave in ascending order of their positions (R313). -/
def scatterRows (plaza : Nat) (w : Workgroup) (j : EngJob) (todo : List Nat) (s : State) : Except Stop State :=
  let x := (j.words.getD 0 0).toNat
  let rowb := bits x 31 16
  todo.foldlM (fun s k =>
    match engCardRead plaza w j true (j.words.getD 1 0 + ofInt64 ((k * rowb : Nat) : Int)) rowb s with
    | .error e => .error e
    | .ok (bs, s1) =>
      engCardWrite plaza w j (some k) false (baseAdd false (j.words.getD 3 0) ((j.idxs.getD k 0 * bits x 63 32 : Nat) : Int)) bs s1) s

/-- The positions of a started GATHER or SCATTER still to be served. -/
def EngJob.todo (j : EngJob) : List Nat := (List.range j.idxs.length).filter (fun k => !j.served.contains k)

def runRows (plaza : Nat) (w : Workgroup) (j : EngJob) (x : Nat) (a b : W64) (table : Nat) (s : State) : State :=
  match startRows plaza w j x a b table s with
  | .error e => engStop plaza j 0 e s
  | .ok (j1, s1) =>
    if x % 256 = 0x11 then s1.setJob plaza j1
    else
      match scatterRows plaza w j1 j1.todo s1 with
      | .error e => engStop plaza { j1 with started := false } 0 e s1
      | .ok s2 => s2.setJob plaza { j1 with served := List.range j1.idxs.length }

/-- A LOOP (R314). -/
def runLoop (plaza : Nat) (j : EngJob) (ws : List Nat) (s : State) : State :=
  let x := ws.getD 0 0
  let back := bits x 31 16
  let count := bits x 63 32
  let i := j.entry
  if bits x 15 8 ≠ 0 ∨ ws.getD 2 0 ≠ 0 ∨ ws.getD 3 0 ≠ 0 ∨ count = 0 ∨ back < j.first ∨ back ≥ i then stopJob plaza j 0x01 s
  else
    let c := ((j.loops.find? (fun l => l.1 == i)).map (fun l => l.2.2.1)).getD 0 + 1
    let others := j.loops.filter (fun l => l.1 != i)
    if c ≥ count then s.setJob plaza { j.goTo (i + 1) with loops := others }
    else if c = 1 ∧ (others.length ≥ 4 ∨
        others.any (fun l => !((l.2.1 ≤ back && i ≤ l.1) || (back ≤ l.2.1 && l.1 ≤ i) || l.1 < back || i < l.2.1))) then
      stopJob plaza j 0x01 s
    else s.setJob plaza { j.goTo back with loops := (i, back, c, BitVec.ofNat 64 (ws.getD 1 0)) :: others }

/-- The value of the word of a COND, or a stop of its job. -/
def condValue (plaza : Nat) (w : Workgroup) (j : EngJob) (off : W64) (n : Nat) (s : State) : Except Stop (Nat × Nat) :=
  match engLocal s plaza w off.toInt n with
  | .error e => .error e
  | .ok x =>
    if !inCard j w true false off n then .error (.code 0x06)
    else
      match s.localRead plaza x n with
      | some bs => .ok (x, leNat bs)
      | none => .error (.code 0x0D)

/-- A COND is reached (R315). -/
def runCond (plaza : Nat) (w : Workgroup) (j : EngJob) (x : Nat) (off value : W64) (w3 : Nat) (s : State) : State :=
  let n := if bitOf x 12 then 8 else 4
  if bits x 11 8 > 5 ∨ bits x 31 13 ≠ 0 ∨ bits x 63 32 = 0 ∨ w3 ≠ 0 then stopJob plaza j 0x01 s
  else if off.toNat % n ≠ 0 then stopJob plaza j 0x0A s
  else
    match condValue plaza w j off n s with
    | .error e => engStop plaza j 0 e s
    | .ok (a, v) =>
      let b := value.toNat % 2 ^ (8 * n)
      if condUnsigned (bits x 11 8) v b then s.setJob plaza (j.goTo (j.entry + 1))
      else
        s.setJob plaza { j.begin [] (j.entry + 1) with
          watch := some (a, n, bits x 11 8, b), deadline := timeAfter (s.dtcOf (plaza / 8)) (BitVec.ofNat 64 (bits x 63 32)) }

/-- A SIGNAL (R315); the job's earlier writes are complete when it starts. -/
def runSignal (plaza : Nat) (w : Workgroup) (j : EngJob) (x : Nat) (off value : W64) (w3 : Nat) (s : State) : State :=
  let next := j.goTo (j.entry + 1)
  if bits x 63 10 ≠ 0 ∨ w3 ≠ 0 then stopJob plaza j 0x01 s
  else
    match bits x 9 8 with
    | 2 => if j.cb.isNone then stopJob plaza j 0x01 s else (setCb j.wid j.cb [value.toNat % 256] s).setJob plaza next
    | 3 => (kickArrives j.wid true 0 0 s).setJob plaza next
    | act =>
      if off.toNat % 8 ≠ 0 then stopJob plaza j 0x0A s
      else
        match engLocal s plaza w off.toInt 8 with
        | .error e => engStop plaza j 1 e s
        | .ok y =>
          if !inCard j w true true off 8 then stopJob plaza j 0x06 s
          else
            match (if act = 1 then s.localRead plaza y 8 else some []) with
            | none => stopJob plaza j 0x0D s
            | some bs =>
              (s.setJob plaza next).localWrite plaza y (leBytes 8 ((if act = 1 then leNat bs + value.toNat else value.toNat) % 2 ^ 64))

/-- The entry that the job has reached starts (R311, R316). Word 0x10 of a COND or SIGNAL is a value, which no delta changes (R315). -/
def startEntry (plaza : Nat) (w : Workgroup) (j : EngJob) (s : State) : State :=
  if j.entry ≥ 65536 then stopJob plaza j 0x01 s
  else
    match chainAt plaza w j j.entry s with
    | .error e => engStop plaza j 0 e s
    | .ok (ws, s1) =>
      let x := ws.getD 0 0
      let a := withDeltas j.loops j.entry false (ws.getD 1 0)
      let b := withDeltas j.loops j.entry true (ws.getD 2 0)
      let v := BitVec.ofNat 64 (ws.getD 2 0)
      match x % 256 with
      | 0x00 => if ws.all (· == 0) then finishJob plaza j 4 0 s1 else stopJob plaza j 0x01 s1
      | 0x10 => runCopy plaza w j ws a b s1
      | 0x11 | 0x12 => runRows plaza w j x a b (ws.getD 3 0) s1
      | 0x20 => runLoop plaza j ws s1
      | 0x21 => runCond plaza w j x a v (ws.getD 3 0) s1
      | 0x22 => runSignal plaza w j x a v (ws.getD 3 0) s1
      | _ => stopJob plaza j 0x01 s1

/-- A started entry has nothing left to serve and nothing in flight. -/
def entryOver (j : EngJob) : Bool := j.started && j.todo.isEmpty && j.landed.isEmpty && j.watch.isNone

/-- What `CHAIN_ENTRY` does with a job of which nothing is in flight (R316). -/
def chainStep (plaza : Nat) (j : EngJob) (s : State) : State :=
  if j.stopping ≠ 0 then stopJob plaza j j.stopping s
  else if entryOver j then s.setJob plaza (j.goTo j.after)
  else if j.started then s
  else startEntry plaza (s.wgBy j.wid) j s

/-- Whether a job can go on: it runs, waits for no page, and nothing that it sent is in flight. -/
def State.canWalk (s : State) (plaza : Nat) (j : EngJob) : Bool :=
  (j.state == 2 || j.state == 3) && j.heldKey.isNone && !s.inFlight plaza j.key

def execChainEntry (plaza job : Nat) (s : State) : Host.Outcome State Fault Refusal :=
  .next (match (s.plaza plaza).job? job with
    | some j =>
      if !(s.rowsDone plaza j).isEmpty then settleRows plaza j s
      else if s.canWalk plaza j then chainStep plaza { j with state := 2, cause := 0 } s
      else s
    | none => s)

/-- R315: the COND that waits has held after a write, or its bank has left scratch mode or its word is in error. -/
def execCondEvaluate (plaza job : Nat) (s : State) : Host.Outcome State Fault Refusal :=
  .next (match (s.plaza plaza).job? job with
    | some j =>
      match j.watch with
      | none => s
      | some (a, n, _, _) =>
        if j.state ≠ 2 then s
        else if j.met then s.setJob plaza { j with watch := none }
        else if ((s.plaza plaza).badBank a n).isSome then finishJob plaza j 5 0x0F s
        else if (s.localRead plaza a n).isNone then finishJob plaza j 5 0x0D s
        else s
    | none => s)

/-- R315. -/
def execCondTimeout (plaza job : Nat) (s : State) : Host.Outcome State Fault Refusal :=
  .next (match (s.plaza plaza).job? job with
    | some j =>
      if j.state = 2 ∧ j.watch.isSome ∧ !j.met ∧ j.deadline.toNat ≤ (s.dtcOf (plaza / 8)).toNat then finishJob plaza j 6 0 s else s
    | none => s)

/-- A die counter raised by `n` (R85). -/
def State.addDie (s : State) (d k n : Nat) : State :=
  let x := s.die d
  s.putDie { x with ctr := vset x.ctr k (vget x.ctr k 0 + BitVec.ofNat 64 n) }

/-- The row of an index is fetched and written to every position that names it (R328). -/
def gatherRow (plaza : Nat) (j : EngJob) (k : Nat) (s : State) : State :=
  let w := s.wgBy j.wid
  let x := (j.words.getD 0 0).toNat
  let rowb := bits x 31 16
  let i := j.idxs.getD k 0
  let ks := j.todo.filter (fun m => j.idxs.getD m 0 == i)
  match engCardRead plaza w j false (baseAdd false (j.words.getD 3 0) ((i * bits x 63 32 : Nat) : Int)) rowb s with
  | .error e => engStop plaza j 0 e s
  | .ok (bs, s1) =>
    let s2 := s1.addDie (plaza / 8) 6 1
    match ks.foldlM (fun s m => engCardWrite plaza w j none true (j.words.getD 2 0 + ofInt64 ((m * rowb : Nat) : Int)) bs s) s2 with
    | .error e => engStop plaza j 1 e s2
    | .ok s3 =>
      let s4 := setCb j.wid j.cb ks (s3.addDie (plaza / 8) 7 (ks.length - 1))
      match (s4.plaza plaza).job? j.key with
      | some j1 => s4.setJob plaza { j1 with served := j.served ++ ks, moved := j.moved + rowb * ks.length }
      | none => s4

def execDedupeFetch (plaza job position : Nat) (s : State) : Host.Outcome State Fault Refusal :=
  .next (match (s.plaza plaza).job? job with
    | some j =>
      if s.canWalk plaza j && j.started && j.stopping == 0 && (j.words.getD 0 0).toNat % 256 == 0x11 && j.todo.contains position then
        gatherRow plaza { j with state := 2, cause := 0 } position s
      else s
    | none => s)

/-- Bytes of a job have come in at their home; a row of a SCATTER is complete once all of it has, and no part of it failed (R313, R329). -/
def pieceLanded (plaza : Nat) (j : EngJob) (pos : Option Nat) (n : Nat) (s : State) : State :=
  match pos with
  | none => s.setJob plaza { j with moved := j.moved + n }
  | some k =>
    let more := s.net.any (fun m => match m.body with
      | .engine p key _ (some q) _ _ => p == plaza && key == j.key && q == k
      | _ => false)
    if more ∨ j.failed.contains k then s
    else settleRows plaza { j with landed := j.landed ++ [k] } s

/-- A part of a row is not written. -/
def EngJob.lose (j : EngJob) (pos : Option Nat) : EngJob := { j with failed := pos.toList ++ j.failed }

/-- Who writes the bytes of a piece of engine data. -/
def engWho (plaza key : Nat) (pos : Option Nat) : Requester := match pos with | some k => .row plaza key k | none => .engine plaza key

/-- ENGINE_JOB_START (R317, R319): of the jobs whose waits are over the one with the highest PRIO, then the earliest. -/
def execEngineJobStart (plaza : Nat) (s : State) : Host.Outcome State Fault Refusal :=
  let p := s.plaza plaza
  let ready := p.jobs.filter (fun j => j.state == 1 && !p.blocked j.serial j.regions)
  let best := ready.foldl (fun (b : Option EngJob) j =>
    match b with
    | none => some j
    | some x => if x.prio < j.prio ∨ (x.prio = j.prio ∧ j.serial < x.serial) then some j else some x) none
  .next (if (p.jobs.filter (fun j => j.state == 2 || j.state == 3)).length ≥ 4 then s
    else
      match best with
      | some j => s.setJob plaza { j with state := 2 }
      | none => s)

/-! ## The engine instructions (R322-R327) -/

/-- Where an engine instruction executes (R322): as `LDL` does; a spawned thread raises 0x0B. -/
def atEngine (k : State → State) (s : State) : State := if s.th.spawned then raise 0x0B 0 s else atPlaza k s

/-- The 16 current jobs of a workgroup by id; the newest of an id (R320). -/
def findJob (s : State) (wid : Nat) (id : BitVec 8) : Option EngJob :=
  (s.plaza (plazaOf (s.wgBy wid).anchor)).jobs.reverse.find? (fun j => j.wid == wid && j.id == id)

/-- A header entry that R309 refuses with 0x06. -/
def cardBad (ws : List Nat) : Bool :=
  let x := ws.getD 0 0
  bits x 63 28 != 0 || bits x 26 24 > 5 || bits x 15 14 != 0 || bits x 13 11 > 4 || bits x 10 8 > 4 || x % 256 != 1 ||
    (bitOf x 27 && !bitOf x 18) || ws.getD 1 0 != 0 || ws.getD 2 0 != 0 || ws.getD 3 0 != 0

/-- The regions of a job card in their order, or the code that R310 gives. -/
def cardRegions (w : Workgroup) (nrd n : Nat) : Nat → List (Nat × Nat) → Except Nat (List Region)
  | _, [] => .ok []
  | k, (base, len) :: rest =>
    if k ≥ n then (if base = 0 ∧ len = 0 then cardRegions w nrd n (k + 1) rest else .error 0x06)
    else
      let b := bits len 47 0
      let loc := bitOf len 63
      if bits len 62 48 ≠ 0 ∨ b = 0 then .error 0x06
      else if loc ∧ base + b > w.localLen then .error 0x04
      else
        let lo := if loc then w.lbase + base else base % 2 ^ 48
        match cardRegions w nrd n (k + 1) rest with
        | .ok l => .ok ({ isLocal := loc, buf := if loc then 0 else base / 2 ^ 48, lo := lo, hi := lo + b, write := nrd ≤ k } :: l)
        | .error c => .error c

/-- Bytes of a buffer that the executing thread's instruction reads before its effect (R115, R322): a page not present parks the
thread, and a peer's bytes come by message. -/
def readHandle (a : W64) (n : Nat) (k : List Byte → State → State) (s : State) : State :=
  withHome a (fun e _ s =>
    match srcCheck e (offsetOf a) n 0 with
    | some code => raise code a s
    | none =>
      match readGot (.thread s.th.tid) s.th.got s.th.asid a n (n / 512 + 2) [] s with
      | .ok (bs, s1) => k bs s1
      | .error x =>
        match x.noted (.thread s.th.tid) s.th.asid s with
        | (.code code, s) => raise code a s
        | (.peer home h m, s) => awaitAnswer h .bytes (s.send s.th.core home 0 (.read (ofThread s h m .read)))
        | (.absent home key pos _, s) =>
          (block .parkedFault (.fault home key) (s.countCore s.th.core 7)).postRecord home key a pos 0 0
        | (_, s) => block .sleeping .yield s) s

/-- Bytes of a job card: by the bank for `.L`, else with the read right (R322). -/
def readCard (h : Bool) (c : W64) (i n : Nat) (k : List Byte → State → State) (s : State) : State :=
  if h then readHandle (handleAdd c (32 * i)) n k s
  else withLocal (c + BitVec.ofNat 64 (32 * i)).toInt n 1 (fun x => readLocal x n c k) s

/-- The chain's words as `CPYGO` finds them, for the promise. -/
def cardWord (h : Bool) (c : W64) (i : Nat) (s : State) : Except Stop (Nat × State) :=
  if h then (readGot (.thread s.th.tid) s.th.got s.th.asid (handleAdd c (32 * i)) 8 2 [] s).map (fun r => (leNat r.1, r.2))
  else (engLocalRead s (plazaOf s.th.anchor) s.wg (c + BitVec.ofNat 64 (32 * i)).toInt 8).map (fun bs => (leNat bs, s))

/-- The job records that stay: the oldest finished ones of a workgroup leave beyond 16 (R320). -/
def trimJobs (wid : Nat) (l : List EngJob) : List EngJob :=
  let mine := l.filter (fun j => j.wid == wid)
  if mine.length ≤ 16 then l
  else
    match mine.find? (fun j => !j.unfinished) with
    | some old => l.filter (fun j => j.key != old.key)
    | none => l

/-- `CPYGO` with its checked job card, behind the fence, and the chain that its promise counts (R321, R322). -/
def enterJob (f : Fields) (h : Bool) (c : W64) (x first : Nat) (rs : List Region) (scan : List (Nat × Nat)) (s : State) : State :=
  let w := s.wg
  let plaza := plazaOf s.th.anchor
  let p := s.plaza plaza
  let cb : Option (Fin 4) := if bitOf x 18 then some (Fin.ofNat 4 (bits x 17 16)) else none
  let mine := p.jobs.filter (fun j => j.wid == w.wid)
  if (mine.filter EngJob.unfinished).length ≥ 16 ∨ (p.jobs.filter EngJob.unfinished).length ≥ 64 then block .waiting .engine s
  else if cb.isSome ∧ mine.any (fun j => j.cb == cb && j.live) then block .waiting .engine s
  else
    let j : EngJob := {
      key := s.nextId, wid := w.wid, id := w.nextJob, asid := s.th.asid, isLocal := !h, chain := c, first := first, regions := rs,
      prio := bits x 23 20, scope := bits x 26 24, fstop := bitOf x 19, cb := cb, restartable := cb.isSome, keep := bitOf x 27,
      state := 1, entry := first, cause := 0, serial := p.nextSerial, loops := [], started := false, after := first, words := [],
      idxs := [], served := [], landed := [], failed := [], watch := none, met := false, deadline := 0, stopping := 0, heldKey := none,
      resume := false, got := [], scan := scan, moved := 0 }
    let jobs := p.jobs.map (fun k => if k.wid == w.wid && cb.isSome && k.cb == cb then { k with restartable := false } else k)
    let p1 := { p with jobs := trimJobs w.wid (jobs ++ [j]), nextSerial := p.nextSerial + 1 }
    let w1 := { w with nextJob := w.nextJob + 1, outcomes := vset w.outcomes w.nextJob.toNat 0,
                       cb := match cb with | some k => if bitOf x 27 then w.cb else w.cb.set k 0 | none => w.cb }
    let now := (s.dtcOf (dieOf s.th.anchor)).toNat
    let s1 : State := { (s.putPlaza p1).putWg w1 with nextId := s.nextId + 1 }
    finishQ f (jobWord j.id (promise s1 plaza j now)) s1

/-- The entries behind the job card are looked at for the promise; those of a peer are read by message. -/
def withScan (h : Bool) (c : W64) (first : Nat) (k : List (Nat × Nat) → State → State) (s : State) : State :=
  match scanChain (cardWord h c) 65536 first s with
  | .ok (l, s1) => k l s1
  | .error (.peer home a m) => awaitAnswer a .bytes (s.send s.th.core home 0 (.read (ofThread s a m .read)))
  | .error x => block .sleeping .yield (x.noted (.thread s.th.tid) s.th.asid s).2

/-- The job card of a `CPYGO`, read whole and then checked (R309, R310, R322). -/
def withCard (f : Fields) (h : Bool) (c : W64) (s : State) : State :=
  readCard h c 0 32 (fun bs s =>
    let ws := (List.range 4).map (wordAt bs)
    let x := ws.getD 0 0
    let nrd := bits x 10 8
    let n := nrd + bits x 13 11
    let ents := (n + 1) / 2
    let go (rest : List Byte) (s : State) : State :=
      let ds := (List.range (2 * ents)).map (fun k => (wordAt rest (2 * k), wordAt rest (2 * k + 1)))
      if cardBad ws then raise 0x06 c s
      else
        match cardRegions s.wg nrd n 0 ds with
        | .error code => raise code c s
        | .ok rs => awaitScope (bits x 26 24) (withScan h c (1 + ents) (enterJob f h c x (1 + ents) rs)) s
    if ents = 0 then go [] s else readCard h c 1 (32 * ents) go s) s

def execCpygo (f : Fields) (s : State) : Host.Outcome State Fault Refusal :=
  runOp 0xE0 f (atEngine (fun s =>
    let a := src 0xE0 f 0 s
    if a.toNat % 32 ≠ 0 then raise 0x0A a s else withCard f (bitOf f.func.toNat 0) a s)) s

/-- The id in a job operand (R322). -/
def jobId (a : W64) : BitVec 8 := (a >>> 56).truncate 8

def execEngwait (f : Fields) (s : State) : Host.Outcome State Fault Refusal :=
  runOp 0xE1 f (atEngine (fun s =>
    let id := jobId (src 0xE1 f 0 s)
    match findJob s s.wg.wid id with
    | some j => if j.live then block .waiting .engine s else finishP f (j.state == 4) s
    | none => finishP f (vget s.wg.outcomes id.toNat 0 == 1) s)) s

/-- The status word of R324. -/
def EngJob.status (j : EngJob) : W64 :=
  BitVec.ofNat 64 (j.entry % 65536 * 2 ^ 16 + (if j.state = 3 ∨ j.state = 5 then j.cause else 0) * 256 + j.state)

/-- The state that an outcome shows as (R320, R324). -/
def outcomeState (o : BitVec 2) : Nat := if o = 1 then 4 else if o = 2 then 5 else if o = 3 then 7 else 0

def execEngstat (f : Fields) (s : State) : Host.Outcome State Fault Refusal :=
  runOp 0xE2 f (atEngine (fun s =>
    let id := jobId (src 0xE2 f 0 s)
    let plaza := plazaOf s.th.anchor
    let now := (s.dtcOf (plaza / 8)).toNat
    let j? := findJob s s.wg.wid id
    finishQ f (match fbits f.func 1 0, j? with
      | 0, some j => j.status
      | 0, none => BitVec.ofNat 64 (outcomeState (vget s.wg.outcomes id.toNat 0))
      | 1, some j => jobWord id (if j.unfinished then promise s plaza j now else now)
      | 1, none => jobWord id now
      | _, some j => BitVec.ofNat 64 (s.left j)
      | _, none => 0) s)) s

/-- `ENGCAN` returns once the job has ended (R325). -/
def execEngcan (f : Fields) (s : State) : Host.Outcome State Fault Refusal :=
  runOp 0xE3 f (atEngine (fun s =>
    let plaza := plazaOf s.th.anchor
    match findJob s s.wg.wid (jobId (src 0xE3 f 0 s)) with
    | none => finishU f s
    | some j =>
      if !j.unfinished then finishU f s
      else if j.live ∧ s.inFlight plaza j.key then block .waiting .engine (s.setJob plaza { j with stopping := 256 })
      else finishU f (finishJob plaza j 7 0 s))) s

/-- Bits set in a value. -/
def countBits (n x : Nat) : Nat := ((List.range n).filter (fun k => bitOf x k)).length

def execCbrd (f : Fields) (s : State) : Host.Outcome State Fault Refusal :=
  runOp 0xE4 f (atEngine (fun s =>
    let v := vget s.wg.cb (fbits f.func 1 0) 0
    let a := src 0xE4 f 0 s
    if bitOf f.func.toNat 2 then finishQ f (BitVec.ofNat 64 (countBits 256 v.toNat)) s
    else if a.toNat ≥ 4 then raise 0x06 a s
    else finishQ f (BitVec.ofNat 64 (v.toNat / 2 ^ (64 * a.toNat))) s)) s

/-- A restarted job runs again; with four jobs running it is taken when a place frees (R319, R327, log entry 140). -/
def restartJob (plaza : Nat) (j : EngJob) (s : State) : State :=
  let running := ((s.plaza plaza).jobs.filter (fun k => k.state == 2 || k.state == 3)).length
  s.setJob plaza { j with state := if running ≥ 4 then 1 else 2, cause := 0, started := false, idxs := [], got := [], resume := true, moved := 0 }

def execCbrst (f : Fields) (s : State) : Host.Outcome State Fault Refusal :=
  runOp 0xE5 f (atEngine (fun s =>
    let plaza := plazaOf s.th.anchor
    match findJob s s.wg.wid (jobId (src 0xE5 f 0 s)) with
    | none => finishU f s
    | some j =>
      if j.state = 5 ∧ j.cb.isSome ∧ j.restartable then
        awaitScope j.scope (fun s => finishU f (restartJob plaza j s)) s
      else finishU f s)) s

/-! ## Waking (R109, R206) -/

/-- A promise of 56 bits is reached: of the times that it can name, the nearest has come. -/
def promiseReached (now a : W64) : Bool := (now.toNat + 2 ^ 64 - a.toNat) % 2 ^ 56 < 2 ^ 55

/-- A sleeping thread whose job and promise have been looked at. -/
def wakePromise (t : Thread) (s : State) : State :=
  let plaza := plazaOf t.anchor
  let now := s.dtcOf t.wdie
  match (if t.spawned then none else findJob s (s.wgOf t).wid (t.wjob.truncate 8)) with
  | none => s.wakeThread { t with pc := pcAdd t.pc 8 }
  | some j =>
    if !j.live then s.wakeThread { t with pc := pcAdd t.pc 8 }
    else if promiseReached now t.wake then
      s.raiseAt { t with status := t.running, since := (s.core t.core).ccnt.toNat + 1 } 0x0C
        (promise s plaza j now.toNat % 2 ^ 56) 0
    else s

/-- SLEEP_WAKE: a time has been reached, or the job of a `.PROMISE` has ended. -/
def execSleepWake (tid : Nat) (s : State) : Host.Outcome State Fault Refusal :=
  .next (match s.thread? tid with
    | none => s
    | some t =>
      if t.status ≠ .sleeping ∨ t.wait ≠ .sleep then s
      else if t.smode = 2 then wakePromise t s
      else if t.smode = 3 ∧ !t.spawned ∧ t.core = t.anchor ∧ ((t.kick0.map (fun k => k != (s.wgOf t).kick)).getD false) then
        s.wakeThread { t with smode := 0, kick0 := none }
      else if t.smode = 3 ∧ t.wake = 0 then s
      else if t.wake.toNat ≤ (s.dtcOf t.wdie).toNat then s.wakeThread { t with smode := 0, kick0 := none }
      else s)

end Sys2Proof.Machine
end

