-- ==== Sys2Proof/Machine/Work.lean ====
section
/-! DEFINITION. Launches from threads: `LAUNCH`, `CANCEL` and `CWAIT` (R115-R118), and the tables of the graph scheduler that they and
its events share (R156, R161-R163). -/

namespace Sys2Proof.Machine

/-! ## Objects and outcomes (R156) -/

/-- The image of a job. -/
def State.imageOf (s : State) (j : Job) : Option Image :=
  s.gs.images.find? (fun i => i.asid == j.asid && indexOf i.code == indexOf j.image)

def Image.kdesc? (i : Image) (h : W64) : Option KDesc :=
  if indexOf h = indexOf i.code then i.kdescs.find? (fun k => k.off == offsetOf h) else none

/-- A launch that is cancelled or ended with an error. -/
def Tcb.failed (t : Tcb) : Bool := t.state == 4 || t.state == 5

/-- Outcome of a graph from its launches (R156): 2 error, 1 cancelled, 0 complete. -/
def Job.graphOutcome (j : Job) : Nat :=
  if j.tcbs.any (fun t => t.state == 5) then 2 else if j.cancelGraph || j.cancelJob then 1 else 0

/-! ## Footprints and edges (R161-R163) -/

/-- The region of a template (R161): buffer, lo, hi, write; none where it contributes none. -/
def printRegion (words : List W64) (wcnt gangs : Nat) (t : Bool × Nat × Int × Nat × Int) : Option (Nat × Nat × Nat × Bool) :=
  let (wr, reg, off, len, stride) := t
  let h := words.getD reg 0
  if reg ≥ wcnt ∨ indexOf h = 0 then none
  else
    let o : Int := offsetOf h
    let span : Int := ((gangs : Int) - 1) * stride
    some (indexOf h, (max 0 (o + off + min 0 span)).toNat, (o + off + max 0 span + len).toNat, wr)

def regionsOf (k : KDesc) (words : List W64) (wcnt gangs : Nat) : List (Nat × Nat × Nat × Bool) :=
  k.prints.filterMap (printRegion words wcnt gangs)

def regionsMeet (a b : List (Nat × Nat × Nat × Bool)) : Bool :=
  a.any (fun r => b.any (fun q => (r.2.2.2 || q.2.2.2) && r.1 == q.1 && r.2.1 < q.2.2.1 && q.2.1 < r.2.2.1))

/-- The counter of a launch reaches 0 (R162). -/
def Tcb.settle (t : Tcb) (now : W64) : Tcb :=
  if t.built ∧ t.counter = 0 ∧ t.state = 0 then { t with state := 1, rdy := now } else t

/-! ## `LAUNCH` (R115, R163) -/

/-- Indices that a graph may use (R163). -/
def Job.nextIndex (j : Job) : Nat := j.tcbs.length

def Tcb.blank : Tcb :=
  { index := 0, kdesc := 0, args := 0, gangs := 0, prio := 0, wcnt := 0, diemask := 0, state := 0, err := 0, counter := 0, rdy := 0,
    launch := 0, gleft := 0, spawned := 0, handed := 0, child := false, built := true, parent := 0, pred := [], words := [],
    regions := [], complete := false, cancel := false, early := false }

/-- The child enters the graph; its request travels to the hub, which builds its TCB. -/
def enterLaunch (f : Fields) (k : KDesc) (a b : W64) (gangs : Nat) (words : List W64) (j : Job) (s : State) : State :=
  let t : Tcb := { Tcb.blank with
    index := j.nextIndex, kdesc := a, args := b, gangs := gangs, gleft := gangs, prio := bits f.ext.toNat 11 8,
    wcnt := bits f.ext.toNat 4 0, launch := s.gs.nextLaunch, child := true, built := false,
    parent := ((j.tcbOf s.th.launch).map Tcb.index).getD 0, words := words,
    regions := regionsOf k words (bits f.ext.toNat 4 0) gangs, cancel := j.cancelGraph }
  let s1 : State := { s.putJob { j with tcbs := j.tcbs ++ [t] } with gs := { (s.putJob { j with tcbs := j.tcbs ++ [t] }).gs with
    nextLaunch := s.gs.nextLaunch + 1 } }
  finishQ f (BitVec.ofNat 64 t.launch) (s1.send s.th.core (0x200 + 64 * s.activeHub) 0 (.hub 0 j.num t.index))

/-- Behind the fence and the reads of `LAUNCH`. -/
def launchChild (f : Fields) (k : KDesc) (a b : W64) (gangs : Nat) (words : List W64) (s : State) : State :=
  match s.job? s.th.job with
  | none => raise 0x08 a s
  | some j =>
    if (j.tcbs.filter (fun t => !t.complete)).length ≥ 4096 then block .waiting .object s
    else if j.nextIndex ≥ 65536 then raise 0x06 0 s
    else enterLaunch f k a b gangs words j s

/-- `LAUNCH` (R115). For a thread of a peer's job the spec names no graph here: the model finds no job of its number, and raises 0x08 (log entry 154). -/
def execLaunch (f : Fields) (s : State) : Host.Outcome State Fault Refusal :=
  runOp 0x72 f (fun s =>
    let a := src 0x72 f 0 s
    let b := src 0x72 f 1 s
    let c := src 0x72 f 2 s
    match (match s.job? s.th.job with | none => none | some j => (s.imageOf j).bind (fun i => i.kdesc? a)) with
    | none => raise 0x08 a s
    | some k =>
      if c.toNat ≥ 2 ^ 32 then raise 0x06 c s
      else
        let n := bits f.ext.toNat 4 0
        awaitScope 5 (fun s =>
          if n = 0 then launchChild f k a b c.toNat [] s
          else if offsetOf b % 8 ≠ 0 then raise 0x0A b s
          else readHandle b (8 * n) (fun bs => launchChild f k a b c.toNat ((List.range n).map (fun i => BitVec.ofNat 64 (wordAt bs i)))) s)
          s) s

/-! ## `CANCEL` (R117) -/

/-- FUNC [1:0] of `CANCEL` and `CWAIT`. -/
def levelOf (f : Fields) : Nat := fbits f.func 1 0

def execCancel (f : Fields) (s : State) : Host.Outcome State Fault Refusal :=
  runOp 0x74 f (fun s =>
    let a := src 0x74 f 0 s
    match s.job? s.th.job with
    | none => finishU f s
    | some j => finishU f (s.putJob (j.cancelAt (levelOf f) (a.toNat % 2 ^ 32)))) s

/-! ## `CWAIT` (R118) -/

/-- What a wait finds: not complete yet, an answer, or a fault. -/
inductive Found3 where
  | wait
  | answer (b : Bool)
  | fault (code : Nat)
  deriving DecidableEq, Repr

/-- A launch of the current phase (R118). -/
def findLaunch (s : State) (n : Nat) : Found3 :=
  match s.job? s.th.job with
  | none => .fault 0x08
  | some j =>
    if n = s.th.launch then .fault 0x08
    else
      match j.tcbOf n with
      | some t => if t.complete then .answer (t.state == 3) else .wait
      | none => .fault 0x08

/-- Jobs of an ASID that completed later than a given one. -/
def State.laterDone (s : State) (j : Job) : Nat :=
  (s.gs.jobs.filter (fun k => k.asid == j.asid && k.stage == 4 && j.doneOrder < k.doneOrder)).length

/-- A job of the thread's ASID that a wait may name (R118). -/
def findJobObj (s : State) (num : Nat) : Option Job :=
  match s.job? num with
  | none => none
  | some j => if j.asid ≠ s.th.asid then none else if j.stage = 4 ∧ s.laterDone j ≥ 256 then none else some j

/-- A graph, a phase or a job (R118): `level` 1, 2, 3. -/
def findObject (s : State) (level : Nat) (a : Nat) : Found3 :=
  match findJobObj s (a % 2 ^ 24) with
  | none => .fault 0x08
  | some j =>
    if level = 3 then
      (if j.num = s.th.job then .fault 0x08 else if j.stage = 4 then .answer (j.outcome == 0) else .wait)
    else
      let ph := bits a 39 24
      if ph ≥ j.nphase then .fault 0x08
      else if j.num = s.th.job ∧ ph = j.phase ∧ j.stage ≠ 4 then .fault 0x08
      else if ph < j.phases.length then .answer (j.phases.getD ph 2 == 0)
      else if j.stage = 4 then .answer false
      else .wait

/-- `CWAIT` (R118); it waits for the thread's writes and delivers a failed one (R89). -/
def execCwait (f : Fields) (s : State) : Host.Outcome State Fault Refusal :=
  runOp 0x75 f (fun s =>
    let a := src 0x75 f 0 s
    let lv := levelOf f
    let top := if lv = 0 then 32 else if lv = 3 then 24 else 40
    if a.toNat ≥ 2 ^ top then raise 0x06 a s
    else
      awaitScope 5 (fun s =>
        match (if lv = 0 then findLaunch s a.toNat else findObject s lv a.toNat) with
        | .wait => block .waiting .object s
        | .answer b => finishP f b s
        | .fault code => raise code a s) s) s

end Sys2Proof.Machine
end

