-- ==== Sys2Proof/Machine/Tile.lean ====
section
/-! DEFINITION. Tile registers (R171), the regions that a sequencer reads and writes (R180, R181), the issue of sequencer instructions
(R172-R175, R232) and the tile instructions (R189-R191). -/

namespace Sys2Proof.Machine

/-! ## Tile registers -/

/-- A cell of register `t` of a workgroup: row-major, 128 cells a row. -/
def cellAt (w : Workgroup) (t r c : Nat) : Nat := tileAt w.anchor (w.tbase + 65536 * t + 512 * r + 4 * c)

/-- Words of tile memory of a core that are in error. -/
def State.tileBad (s : State) (w : Workgroup) (t r c n : Nat) : Bool :=
  (s.plaza (plazaOf w.anchor)).softTile.any (fun x =>
    let lo := (w.tbase + 65536 * t + 512 * r + 4 * c) / 4
    x.1 == w.anchor && lo ≤ x.2 && x.2 < lo + n)

/-- The cells of a row of a register; none where one is in error (R183, R343). -/
def readRow (s : State) (w : Workgroup) (t r n : Nat) : Option (List Nat) :=
  if s.tileBad w t r 0 n then none else some ((List.range n).map (fun c => memNat s.tmem (cellAt w t r c) 4))

/-- Rows of a register. -/
def readTile (s : State) (w : Workgroup) (t : Nat) (rs : List Nat) (n : Nat) : Option (List (List Nat)) := rs.mapM (fun r => readRow s w t r n)

/-- Cells of a row written; they are no longer in error. -/
def writeRow (w : Workgroup) (t r c0 : Nat) (cells : List Nat) (s : State) : State :=
  let p := s.plaza (plazaOf w.anchor)
  let lo := (w.tbase + 65536 * t + 512 * r + 4 * c0) / 4
  let bad := p.softTile.filter (fun x => !(x.1 == w.anchor && lo ≤ x.2 && x.2 < lo + cells.length))
  { s.putPlaza { p with softTile := bad } with tmem := memWrite s.tmem (cellAt w t r c0) (cells.map (leBytes 4)).flatten }

def writeTile (w : Workgroup) (t : Nat) (rows : List (Nat × List Nat)) (s : State) : State :=
  rows.foldl (fun s x => writeRow w t x.1 0 x.2 s) s

/-- Accumulator tags (R171). -/
def tagF32 : BitVec 6 := 0x28
def tagS32 : BitVec 6 := 0x22

def accTag (t : Nat) : BitVec 6 := if isInt t then tagS32 else tagF32

/-! ## Regions (R180, R181) -/

/-- A stored region: base as a plaza byte address, rows, pitch, elements of a row, TYPE and, for `.xFk`, its format. -/
structure Stored where
  base  : Nat
  rows  : Nat
  pitch : Nat
  len   : Nat
  t     : Nat
  K     : Narrow
  deriving DecidableEq, Repr

def Narrow.std : Narrow := ⟨fmtF32, 16⟩

/-- The width of a TYPE under its format. -/
def Stored.w (g : Stored) : Nat := if isNarrow g.t then g.K.fmt.width else width g.t

/-- Blocks of a stored row. -/
def Stored.blocks (g : Stored) : Nat := (g.len + g.K.bs - 1) / g.K.bs

/-- Bytes of a stored row. -/
def Stored.rowBytes (g : Stored) : Nat := (g.len * g.w + 7) / 8

/-- Base of the scale bytes and of the block tags. -/
def Stored.scales (g : Stored) : Nat := g.base + g.rows * g.pitch
def Stored.tags (g : Stored) : Nat := g.scales + g.rows * g.blocks

/-- The byte after the last stored byte, scale and tag areas included. -/
def Stored.stop (g : Stored) : Nat :=
  if isNarrow g.t then g.tags + (g.rows * g.blocks + 3) / 4 else g.base + (g.rows - 1) * g.pitch + g.rowBytes

/-- The issue checks of a region, in the order of R431 step 5. -/
def Stored.check (g : Stored) (s : State) (w : Workgroup) : Option Nat :=
  if isNarrow g.t && g.len % g.K.bs != 0 then some 0x06
  else if g.pitch < g.rowBytes then some 0x06
  else if g.stop > w.lbase + w.localLen then some 0x04
  else if ((s.plaza (plazaOf w.anchor)).badBank g.base (g.stop - g.base)).isSome then some 0x0F
  else none

def Stored.region (g : Stored) (write : Bool) : Region := { isLocal := true, buf := 0, lo := g.base, hi := g.stop, write := write }

/-- Bytes of local memory that a sequencer fetches (R183). -/
def fetchLocal (s : State) (plaza x n : Nat) : Except Nat (List Byte) :=
  if ((s.plaza plaza).badBank x n).isSome then .error 0x0F
  else match s.localRead plaza x n with
    | some bs => .ok bs
    | none => .error 0x0D

/-- The format that a block's tag selects (R181, R230). -/
def blockFmt (g : Stored) (imgs : Vector W64 8) (tag : Nat) : Except Nat Fmt :=
  match parseImage (vget imgs ((g.t - 16 + tag) % 8) 0) with
  | none => .error 0x05
  | some F => if F.fmt.width ≠ g.K.fmt.width ∨ F.bs ≠ g.K.bs then .error 0x05 else .ok F.fmt

/-- The tag of block `q` of a region; `rd` reads bytes. -/
def blockTag (rd : Nat → Nat → Except Nat (List Byte)) (g : Stored) (q : Nat) : Except Nat Nat :=
  (rd (g.tags + q / 4) 1).map (fun bs => leNat bs / 4 ^ (q % 4) % 4)

/-- Elements [c0, c1) of stored row `r` as values (R181, R184, R230); integers are exact. -/
def rowFrom (rd : Nat → Nat → Except Nat (List Byte)) (g : Stored) (imgs : Vector W64 8) (fzi : Bool) (r c0 c1 : Nat) :
    Except Nat (List Val) := do
  let lo := c0 * g.w / 8
  let hi := (c1 * g.w + 7) / 8
  let x := leNat (← rd (g.base + r * g.pitch + lo) (hi - lo))
  let code (c : Nat) : Nat := x / 2 ^ (c * g.w - 8 * lo) % 2 ^ g.w
  if isNarrow g.t then
    let bl ← ((List.range (g.blocks)).filter (fun b => c0 / g.K.bs ≤ b && b * g.K.bs < c1)).mapM (fun b => do
      let q := r * g.blocks + b
      let sc := leNat (← rd (g.scales + q) 1)
      let F ← blockFmt g imgs (← blockTag rd g q)
      pure (b, sc, F))
    pure ((List.range (c1 - c0)).map (fun i =>
      match bl.find? (fun b => b.1 == (c0 + i) / g.K.bs) with
      | some b => scaledVal b.2.2 fzi b.2.1 (code (c0 + i))
      | none => .fin false 0 0))
  else
    pure ((List.range (c1 - c0)).map (fun i =>
      if isInt g.t then intVal (narrow g.t (BitVec.ofNat 64 (code (c0 + i)))) else decodeVal (stdFmt g.t) fzi (code (c0 + i))))

/-- Elements of a stored row in local memory. -/
def fetchRow (s : State) (plaza : Nat) (g : Stored) (imgs : Vector W64 8) (fzi : Bool) (r c0 c1 : Nat) : Except Nat (List Val) :=
  rowFrom (fetchLocal s plaza) g imgs fzi r c0 c1

/-! ## Issue of a sequencer instruction (R172-R175) -/

/-- Format images at issue (R232): every register as it stands. -/
def withType (t : Nat) (k : Narrow → State → State) (s : State) : State :=
  if isNarrow t then (match parseImage (vget s.wg.f (t - 16) 0) with | some K => k K s | none => raise 0x05 0 s) else k Narrow.std s

/-- A register index below TILES (R171). -/
def withTile (t : Nat) (k : State → State) (s : State) : State := if s.th.tiles ≤ t then raise 0x04 0 s else k s

/-- The queue limit (R175), and the issuer's earlier local writes, which the instruction must see (R177). -/
def withQueue (k : State → State) (s : State) : State :=
  let q := s.wg.seq
  if q.queue.length ≥ 64 then (if q.stopped then raise 0x12 0 s else block .waiting .sequencer s)
  else if !s.th.fwd.isEmpty then block .waiting .localWrites s
  else k s

/-- The instruction enters the open batch and the plaza order (R174, R317); `view` changes the issue view. -/
def enterSeq (op : Nat) (f : Fields) (parts : Nat) (rs : List Region) (view : Sequencer → Sequencer) (s : State) : State :=
  let w := s.wg
  let plaza := plazaOf w.anchor
  let q := w.seq
  let i : SeqInstr := {
    word := BitVec.ofNat 64 (baseWord op f), op := BitVec.ofNat 8 op, func := f.func, imm11 := f.imm11, ext := f.ext, a := src op f 0 s, b := src op f 1 s, c := src op f 2 s,
    imgs := w.f, pc := s.th.pc, batch := none, pos := q.openLen, serial := (s.plaza plaza).nextSerial, parts := parts, partsDone := 0 }
  finishU f ((s.putWg { w with seq := view { q with queue := q.queue ++ [i], openLen := q.openLen + 1 } }).addItem plaza w.wid rs)

def Sequencer.setView (q : Sequencer) (t : Nat) (x : Shape) : Sequencer := { q with view := vset q.view t x }
def Sequencer.viewOf (q : Sequencer) (t : Nat) : Shape := vget q.view t Shape.undef
def Sequencer.shapeOf (q : Sequencer) (t : Nat) : Shape := vget q.shape t Shape.undef

/-! ## Fields of the tile instructions (R189, R190) -/

def tileReg (imm : BitVec 11) : Nat := ibits imm 2 0
def tileSrc (imm : BitVec 11) : Nat := ibits imm 5 3
def tdefRows (ext : W64) : Nat := bits ext.toNat 6 0 + 1
def tdefCols (ext : W64) : Nat := bits ext.toNat 13 7 + 1
def tileCols (ext : W64) : Nat := bits ext.toNat 52 46 + 1
def tileRows (ext : W64) : Nat := bits ext.toNat 45 39 + 1
def tilePitch (ext : W64) : Nat := bits ext.toNat 38 23
def tileOff (ext : W64) : Nat := bits ext.toNat 22 0
def typeOf (func : BitVec 12) : Nat := fbits func 4 0
def resultTag (func : BitVec 12) : BitVec 6 := BitVec.ofNat 6 (0x20 + typeOf func)

/-- The region of `TLD` and `TST`. -/
def tileStored (w : Workgroup) (func : BitVec 12) (ext : W64) (K : Narrow) : Stored :=
  { base := w.lbase + tileOff ext, rows := tileRows ext, pitch := tilePitch ext, len := tileCols ext, t := typeOf func, K := K }

def execTdef (f : Fields) (s : State) : Host.Outcome State Fault Refusal :=
  runOp 0xC0 f (withQueue (withTile (tileReg f.imm11)
    (enterSeq 0xC0 f 1 [] (fun q => q.setView (tileReg f.imm11) ⟨tdefRows f.ext, tdefCols f.ext, resultTag f.func⟩)))) s

def execTzero (f : Fields) (s : State) : Host.Outcome State Fault Refusal :=
  runOp 0xC1 f (withQueue (withTile (tileReg f.imm11) (fun s =>
    if (s.wg.seq.viewOf (tileReg f.imm11)).tag = 0 then raise 0x05 0 s else enterSeq 0xC1 f 1 [] (fun q => q) s))) s

/-- The alignment and region checks of `TLD` and `TST` (R190). -/
def withTileRegion (f : Fields) (k : Stored → State → State) (s : State) : State :=
  if tileOff f.ext % 4 ≠ 0 ∨ tilePitch f.ext % 4 ≠ 0 then raise 0x0A (BitVec.ofNat 64 (tileOff f.ext)) s
  else
    withType (typeOf f.func) (fun K s =>
      let g := tileStored s.wg f.func f.ext K
      match g.check s s.wg with
      | some c => raise c 0 s
      | none => k g s) s

def execTld (f : Fields) (s : State) : Host.Outcome State Fault Refusal :=
  runOp 0xC2 f (withQueue (withTile (tileReg f.imm11) (withTileRegion f (fun g =>
    enterSeq 0xC2 f 1 [g.region false]
      (fun q => q.setView (tileReg f.imm11) ⟨tileRows f.ext, tileCols f.ext, accTag (typeOf f.func)⟩))))) s

def execTst (f : Fields) (s : State) : Host.Outcome State Fault Refusal :=
  runOp 0xC3 f (withQueue (withTile (tileReg f.imm11) (fun s =>
    let v := s.wg.seq.viewOf (tileReg f.imm11)
    if v.tag ≠ accTag (typeOf f.func) then raise 0x05 0 s
    else if tileRows f.ext > v.rows ∨ tileCols f.ext > v.cols then raise 0x06 0 s
    else withTileRegion f (fun g => enterSeq 0xC3 f 1 [g.region true] (fun q => q)) s))) s

/-- SRCF of `TCVT` as a tag. -/
def tcvtSrcTag (func : BitVec 12) : BitVec 6 := if fbits func 10 10 = 1 then tagF32 else tagS32

def execTcvt (f : Fields) (s : State) : Host.Outcome State Fault Refusal :=
  runOp 0xC4 f (withQueue (withTile (tileReg f.imm11) (withTile (tileSrc f.imm11) (fun s =>
    let v := s.wg.seq.viewOf (tileSrc f.imm11)
    if v.tag ≠ tcvtSrcTag f.func then raise 0x05 0 s
    else enterSeq 0xC4 f 1 [] (fun q => q.setView (tileReg f.imm11) { v with tag := resultTag f.func }) s)))) s

/-! ## Direct access (R176, R191) -/

/-- Registers that a queued instruction names. -/
def SeqInstr.names (i : SeqInstr) (t : Nat) : Bool :=
  let op := i.op.toNat
  if op = 0xC4 then tileReg i.imm11 == t || tileSrc i.imm11 == t
  else if op = 0xC7 ∨ op ≥ 0xD0 then false
  else if op ≥ 0xC8 then tileReg i.imm11 == t || (ibits i.imm11 6 6 == 1 && tileSrc i.imm11 == t)
  else tileReg i.imm11 == t

/-- The wait of R176, then the checks of R191. A part of WGPOS 0's instruction that has begun is waited for too, though it has stopped: cells that mix the
two are forbidden (R185). -/
def withCell (op : Nat) (f : Fields) (k : Shape → Nat → Nat → State → State) (s : State) : State :=
  let t := tileReg f.imm11
  withTile t (fun s =>
    let q := s.wg.seq
    let a := src op f 0 s
    let b := src op f 1 s
    let x := q.shapeOf t
    if (!q.stopped && q.queue.any (fun i => i.names t)) || (s.wg.park.isNone && q.parts.any (fun p => p.begun && p.instr.names t)) then
      block .waiting .sequencer s
    else if x.tag = 0 then raise 0x05 0 s
    else if a.toNat ≥ x.rows then raise 0x06 0 s
    else if b.toNat ≥ x.cols then raise 0x06 0 s
    else k x a.toNat b.toNat s) s

def execTget (f : Fields) (s : State) : Host.Outcome State Fault Refusal :=
  runOp 0xC5 f (withCell 0xC5 f (fun x r c s =>
    let t := tileReg f.imm11
    if s.tileBad s.wg t r c 1 then raise 0x0D 0 s
    else
      let v := memNat s.tmem (cellAt s.wg t r c) 4
      finishQ f (if x.tag = tagS32 then sext64 32 v else zext64 32 v) s)) s

def execTset (f : Fields) (s : State) : Host.Outcome State Fault Refusal :=
  runOp 0xC6 f (withCell 0xC6 f (fun _ r c s =>
    finishU f (writeRow s.wg (tileReg f.imm11) r c [(src 0xC6 f 2 s).toNat % 2 ^ 32] s))) s

/-! ## What the tile instructions do when the sequencer runs them (R191) -/

def Workgroup.setShape (w : Workgroup) (t : Nat) (x : Shape) : Workgroup :=
  { w with seq := { w.seq with shape := vset w.seq.shape t x } }

/-- Flags of sequencer arithmetic (R192). -/
def State.orMflags (s : State) (wid : Nat) (fl : BitVec 8) : State :=
  let w := s.wgBy wid
  s.putWg { w with seq := { w.seq with mflags := w.seq.mflags ||| fl } }

def flags8 (f : BitVec 7) : BitVec 8 := f.zeroExtend 8

def orAll (l : List (BitVec 7)) : BitVec 7 := l.foldl (fun a b => a ||| b) 0

def ctlRm (func : BitVec 12) : Nat := fbits func 6 5
def ctlBit (func : BitVec 12) (k : Nat) : Bool := fbits func k k == 1

/-- A loaded element as a cell (R191). -/
def loadCell (func : BitVec 12) (v : Val) : Nat × BitVec 7 :=
  if isInt (typeOf func) then
    match v with
    | .fin neg m e => (((if neg then -((m * 2 ^ e.toNat : Nat) : Int) else (m * 2 ^ e.toNat : Nat)) % (2 ^ 32 : Int)).toNat, 0)
    | _ => (0, 0)
  else convert fmtF32 (ctlRm func) false false v

/-- An `.f32` cell copied, with FZI a subnormal as zero of its sign. -/
def copyCell (fzi : Bool) (x : Nat) : Nat := if fzi ∧ x / 2 ^ 23 % 256 = 0 then x / 2 ^ 31 * 2 ^ 31 else x

def runTld (w : Workgroup) (i : SeqInstr) (s : State) : Except Nat State := do
  let plaza := plazaOf w.anchor
  let K := (parseImage (vget i.imgs (typeOf i.func - 16) 0)).getD Narrow.std
  let g := tileStored w i.func i.ext K
  let t := tileReg i.imm11
  let rows ← (List.range g.rows).mapM (fun r =>
    if g.t = 8 then
      (fetchLocal s plaza (g.base + r * g.pitch) (4 * g.len)).map (fun bs =>
        (List.range g.len).map (fun c => (copyCell (ctlBit i.func 7) (leNat ((bs.drop (4 * c)).take 4)), (0 : BitVec 7))))
    else (fetchRow s plaza g i.imgs (ctlBit i.func 7) r 0 g.len).map (fun vs => vs.map (loadCell i.func)))
  let s1 := writeTile w t ((List.range g.rows).zip (rows.map (fun r => r.map Prod.fst))) s
  let w1 := s1.wgBy w.wid
  pure ((s1.putWg (w1.setShape t ⟨g.rows, g.len, accTag g.t⟩)).orMflags w.wid (flags8 (orAll (rows.flatten.map Prod.snd))))

/-- A stored cell of a TYPE without block scales (R191). An .f32 cell is copied, whatever FZI, FZO and RM say: R191 does not say that such bits are
refused, nor that a copy flushes (log entry 159). -/
def storeCell (func : BitVec 12) (x : Nat) : Nat × BitVec 7 :=
  let t := typeOf func
  if t = 8 ∨ t = 2 then (x, 0)
  else if isInt t then
    let v := toSigned 32 x
    (((if ctlBit func 9 then limit t v else v) % (2 ^ width t : Nat)).toNat, 0)
  else convert (stdFmt t) (ctlRm func) (ctlBit func 8) (ctlBit func 9) (decodeVal fmtF32 (ctlBit func 7) x)

/-- Writes of a `TST` of one row: addresses and bytes, and its flags. -/
def storeRow (s : State) (plaza : Nat) (g : Stored) (i : SeqInstr) (r : Nat) (cells : List Nat) :
    Except Nat (List (Nat × List Byte) × BitVec 7) :=
  if isNarrow g.t then do
    let bl ← (List.range g.blocks).mapM (fun b => do
      let q := r * g.blocks + b
      let F ← blockFmt g i.imgs (← blockTag (fetchLocal s plaza) g q)
      let xs := ((cells.drop (b * g.K.bs)).take g.K.bs).map (decodeVal fmtF32 (ctlBit i.func 7))
      pure (q, quantBlock F (ctlBit i.func 8) (ctlBit i.func 9) xs))
    let codes := (bl.map (fun b => b.2.2.1)).flatten
    pure ((g.base + r * g.pitch, leBytes g.rowBytes (packElems g.w codes)) :: bl.map (fun b => (g.scales + b.1, leBytes 1 b.2.1)),
      orAll (bl.map (fun b => b.2.2.2)))
  else
    let l := cells.map (storeCell i.func)
    .ok ([(g.base + r * g.pitch, leBytes g.rowBytes (packElems g.w (l.map Prod.fst)))], orAll (l.map Prod.snd))

def runTst (w : Workgroup) (i : SeqInstr) (s : State) : Except Nat State := do
  let plaza := plazaOf w.anchor
  let K := (parseImage (vget i.imgs (typeOf i.func - 16) 0)).getD Narrow.std
  let g := tileStored w i.func i.ext K
  match readTile s w (tileReg i.imm11) (List.range g.rows) g.len with
  | none => .error 0x0D
  | some cells =>
    let out ← ((List.range g.rows).zip cells).mapM (fun x => storeRow s plaza g i x.1 x.2)
    let writes := (out.map Prod.fst).flatten
    if writes.any (fun x => ((s.plaza plaza).badBank x.1 x.2.length).isSome) then .error 0x0F
    else
      let s1 := writes.foldl (fun s x => s.localWrite plaza x.1 x.2) s
      pure (s1.orMflags w.wid (flags8 (orAll (out.map Prod.snd))))

/-- A converted cell (R191); to .f32 it is a copy, as in `storeCell` (log entry 159). -/
def convertCell (func : BitVec 12) (x : Nat) : Nat × BitVec 7 :=
  let toF := typeOf func = 8
  let fromF := ctlBit func 10
  if toF = fromF then (x, 0)
  else if fromF then
    let (r, fl) := floatToInt 2 (ctlRm func) (ctlBit func 9) (decodeVal fmtF32 (ctlBit func 7) x)
    ((r % (2 ^ 32 : Int)).toNat, fl)
  else roundVal fmtF32 (ctlRm func) (ctlBit func 8) (ctlBit func 9) (intVal (toSigned 32 x))

def runTcvt (w : Workgroup) (i : SeqInstr) (s : State) : Except Nat State :=
  let x := w.seq.shapeOf (tileSrc i.imm11)
  match readTile s w (tileSrc i.imm11) (List.range x.rows) x.cols with
  | none => .error 0x0D
  | some cells =>
    let out := cells.map (fun r => r.map (convertCell i.func))
    let s1 := writeTile w (tileReg i.imm11) ((List.range x.rows).zip (out.map (fun r => r.map Prod.fst))) s
    let w1 := s1.wgBy w.wid
    .ok ((s1.putWg (w1.setShape (tileReg i.imm11) { x with tag := resultTag i.func })).orMflags w.wid
      (flags8 (orAll (out.flatten.map Prod.snd))))

/-- The one step of a tile instruction. -/
def runTileStep (w : Workgroup) (i : SeqInstr) (s : State) : Except Nat State :=
  let t := tileReg i.imm11
  match i.op.toNat with
  | 0xC0 => .ok (s.putWg (w.setShape t ⟨tdefRows i.ext, tdefCols i.ext, resultTag i.func⟩))
  | 0xC1 =>
    let x := w.seq.shapeOf t
    .ok (writeTile w t ((List.range x.rows).map (fun r => (r, List.replicate x.cols 0))) s)
  | 0xC2 => runTld w i s
  | 0xC3 => runTst w i s
  | _ => runTcvt w i s

end Sys2Proof.Machine
end

