-- ==== Sys2Proof/Machine/Matrix.lean ====
section
/-! DEFINITION. The multiply group (R178-R188, R431): issue checks and one k-step on one core. -/

namespace Sys2Proof.Machine

/-! ## Fields (R178-R180) -/

def mulTA (func : BitVec 12) : Nat := fbits func 4 0
def mulTB (func : BitVec 12) : Nat := if fbits func 10 10 = 1 then fbits func 9 5 else fbits func 4 0
def mulM (imm : BitVec 11) : Nat := 16 * 2 ^ ibits imm 9 8
def mulBT (imm : BitVec 11) : Bool := ibits imm 7 7 == 1
def mulCV (imm : BitVec 11) : Bool := ibits imm 6 6 == 1
def mulC (imm : BitVec 11) : Nat := ibits imm 5 3
def mulD (imm : BitVec 11) : Nat := ibits imm 2 0
def mulN (ext : W64) : Nat := 16 * (bits ext.toNat 5 0 + 1)
def mulSteps (ext : W64) : Nat := bits ext.toNat 15 6 + 1
def mulAoff (ext : W64) : Nat := 512 * bits ext.toNat 29 16
def mulBoff (ext : W64) : Nat := 512 * bits ext.toNat 43 30
def mulPA (ext : W64) : Nat := 32 * bits ext.toNat 53 44
def mulPB (ext : W64) : Nat := 32 * bits ext.toNat 63 54

/-- Width class (R178): 0 for 2-4 bits, 1 for 5-8, 2 for 16, 3 for 32. -/
def widthClass (w : Nat) : Nat := if w ≤ 4 then 0 else if w ≤ 8 then 1 else if w ≤ 16 then 2 else 3

/-- The k-step and the group size of a class. -/
def kStepOf (c : Nat) : Nat := if c = 0 then 128 else if c = 1 then 64 else if c = 2 then 32 else 8
def groupOf (c : Nat) : Nat := if c = 0 then 64 else if c = 1 then 32 else if c = 2 then 16 else 4

/-- The width of a type whose format is known. -/
def typeWidth (t : Nat) (K : Narrow) : Nat := if isNarrow t then K.fmt.width else width t

/-- A multiply-group instruction with its formats: op, FUNC, IMM11, EXT64, formats of TA and TB. -/
structure Mul where
  op   : Nat
  func : BitVec 12
  imm  : BitVec 11
  ext  : W64
  KA   : Narrow
  KB   : Narrow
  deriving DecidableEq, Repr

def Mul.cls (m : Mul) : Nat := widthClass (typeWidth (mulTA m.func) m.KA)
def Mul.ks (m : Mul) : Nat := kStepOf m.cls
def Mul.K (m : Mul) : Nat := m.ks * mulSteps m.ext

/-- The A region, or the index vector of `MPERM` (R180). -/
def Mul.regA (m : Mul) (lbase : Nat) : Stored :=
  let g : Stored := { base := lbase + mulAoff m.ext, rows := mulM m.imm, pitch := mulPA m.ext, len := m.K, t := mulTA m.func, K := m.KA }
  match m.op with
  | 0xCB => { g with rows := mulN m.ext, len := mulM m.imm }
  | 0xCC => { g with rows := 1, len := mulM m.imm, pitch := 4 * mulM m.imm, t := 6, K := Narrow.std }
  | 0xCE => { g with len := mulN m.ext }
  | _ => g

/-- The B region, the source of `MPERM` (K × N of type TA), or the vector of `MSCALE`, dense (R180). -/
def Mul.regB (m : Mul) (lbase : Nat) : Stored :=
  let n := mulN m.ext
  let g : Stored := { base := lbase + mulBoff m.ext, rows := m.K, pitch := mulPB m.ext, len := n, t := mulTB m.func, K := m.KB }
  match m.op with
  | 0xCC => { g with t := mulTA m.func, K := m.KA }
  | 0xCE => let v := { g with rows := 1 }; { v with pitch := v.rowBytes }
  | _ => if mulBT m.imm then { g with rows := n, len := m.K } else g

def Mul.hasA (m : Mul) : Bool := m.op != 0xC9
def Mul.hasB (m : Mul) : Bool := m.op != 0xCB && m.op != 0xCD
/-- Instructions that a gang may split (R185). -/
def Mul.splits (m : Mul) : Bool := m.op == 0xC8 || m.op == 0xC9 || m.op == 0xCA

/-! ## The unfold descriptor (R187) -/

structure Unfold where
  t    : Nat
  base : Nat
  W    : Nat
  H    : Nat
  CH   : Nat
  N    : Nat
  KH   : Nat
  KW   : Nat
  SH   : Nat
  SW   : Nat
  DH   : Nat
  DW   : Nat
  PT   : Nat
  PB   : Nat
  PL   : Nat
  PR   : Nat
  ord  : Bool
  deriving DecidableEq, Repr

def parseUnfold (u : BitVec 5 × W64 × W64 × W64) : Unfold :=
  let b := u.2.2.1.toNat
  let e := u.2.2.2.toNat
  { t := u.1.toNat, base := u.2.1.toNat, W := bits b 15 0, H := bits b 31 16, CH := bits b 47 32, N := bits b 63 48,
    KH := bits e 3 0 + 1, KW := bits e 7 4 + 1, SH := bits e 10 8 + 1, SW := bits e 13 11 + 1, DH := bits e 16 14 + 1,
    DW := bits e 19 17 + 1, PT := bits e 23 20, PB := bits e 27 24, PL := bits e 31 28, PR := bits e 35 32, ord := bitOf e 36 }

def Unfold.outH (u : Unfold) : Int := ((u.H + u.PT + u.PB : Nat) - (u.DH * (u.KH - 1) : Nat) - 1 : Int) / (u.SH : Int) + 1
def Unfold.outW (u : Unfold) : Int := ((u.W + u.PL + u.PR : Nat) - (u.DW * (u.KW - 1) : Nat) - 1 : Int) / (u.SW : Int) + 1

/-- Bytes of the tensor. -/
def Unfold.bytes (u : Unfold) : Nat := u.N * u.H * u.W * u.CH * (width u.t / 8)

/-- The offset in the tensor of element (r, k) of the virtual matrix, none where it reads as zero. -/
def Unfold.elem (u : Unfold) (r k : Nat) : Option Nat :=
  let OH := u.outH.toNat
  let OW := u.outW.toNat
  if r ≥ u.N * OH * OW ∨ k ≥ u.KH * u.KW * u.CH then none
  else
    let n := r / (OH * OW)
    let oh := if u.ord then r % OH else r / OW % OH
    let ow := if u.ord then r / OH % OW else r % OW
    let h : Int := ((oh * u.SH + k / (u.KW * u.CH) * u.DH : Nat) : Int) - u.PT
    let w : Int := ((ow * u.SW + k / u.CH % u.KW * u.DW : Nat) : Int) - u.PL
    if h < 0 ∨ w < 0 ∨ h ≥ u.H ∨ w ≥ u.W then none
    else some ((((n * u.H + h.toNat) * u.W + w.toNat) * u.CH + k % u.CH) * (width u.t / 8))

/-- An element of the virtual matrix. -/
def fetchUnfold (s : State) (plaza lbase : Nat) (u : Unfold) (r k : Nat) : Except Nat Val :=
  match u.elem r k with
  | none => .ok (.fin false 0 0)
  | some o =>
    (fetchLocal s plaza (lbase + u.base + o) (width u.t / 8)).map (fun bs =>
      if isInt u.t then intVal (narrow u.t (BitVec.ofNat 64 (leNat bs))) else decodeVal (stdFmt u.t) false (leNat bs))

def execUfdef (f : Fields) (s : State) : Host.Outcome State Fault Refusal :=
  runOp 0xC7 f (withQueue (fun s =>
    let a := src 0xC7 f 0 s
    let b := src 0xC7 f 1 s
    let d := (BitVec.ofNat 5 (typeOf f.func), a, b, f.ext)
    let u := parseUnfold d
    let w := s.wg
    if u.W = 0 ∨ u.H = 0 ∨ u.CH = 0 ∨ u.N = 0 ∨ u.outH < 1 ∨ u.outW < 1 then raise 0x06 0 s
    else if u.base + u.bytes > w.localLen then raise 0x04 a s
    else if ((s.plaza (plazaOf w.anchor)).badBank (w.lbase + u.base) u.bytes).isSome then raise 0x0F a s
    else enterSeq 0xC7 f 1 [] (fun q => { q with issueUf := some d }) s)) s

/-! ## Issue checks (R431) -/

/-- Steps 1 and 2: types and register indices. -/
def withMul (op : Nat) (f : Fields) (k : Mul → State → State) (s : State) : State :=
  withType (mulTA f.func) (fun KA => withType (mulTB f.func) (fun KB s =>
    let m : Mul := ⟨op, f.func, f.imm11, f.ext, KA, KB⟩
    if m.cls ≠ widthClass (typeWidth (mulTB f.func) KB) then raise 0x05 0 s
    else if s.th.tiles ≤ mulD f.imm11 ∨ (mulCV f.imm11 ∧ s.th.tiles ≤ mulC f.imm11) then raise 0x04 0 s
    else k m s)) s

/-- Step 3: the scalar operand of `MMAU` and `MMAS`. -/
def mulScalar (m : Mul) (a : W64) (q : Sequencer) : Option Nat :=
  match m.op with
  | 0xC9 =>
    if bits a.toNat 63 32 % m.ks ≠ 0 then some 0x06
    else match q.issueUf with
      | some u => if u.1.toNat = mulTA m.func then none else some 0x05
      | none => some 0x05
  | 0xCA => if a.toNat ≥ 2 ^ 16 ∨ (mulCV m.imm ∧ mulC m.imm = mulD m.imm) then some 0x06 else none
  | _ => none

/-- Step 4: the gang split (R185); the constant-matrix instructions have at most 128 columns. -/
def mulSplit (m : Mul) (w : Workgroup) : Option Nat :=
  if mulN m.ext ≤ 128 then none
  else if !m.splits then some 0x06
  else if w.wgpos ≠ 0 then some 0x0B
  else if mulN m.ext > 128 * w.gangw then some 0x04
  else none

/-- Step 5: the regions. -/
def mulRegions (m : Mul) (s : State) (w : Workgroup) : Option Nat :=
  match (if m.hasA then (m.regA w.lbase).check s w else none) with
  | some c => some c
  | none => if m.hasB then (m.regB w.lbase).check s w else none

/-- Step 6: C of a single part; a gang-split part checks its own at fetch (R185). -/
def mulCheckC (m : Mul) (q : Sequencer) : Option Nat :=
  if !mulCV m.imm ∨ mulN m.ext > 128 then none
  else
    let c := q.viewOf (mulC m.imm)
    if c.tag ≠ accTag (mulTA m.func) then some 0x05
    else if c.rows ≠ mulM m.imm ∨ c.cols ≠ min (mulN m.ext) 128 then some 0x06
    else none

/-- The footprint of an instruction (R317). -/
def mulFootprint (m : Mul) (w : Workgroup) : List Region :=
  (if m.hasA then [(m.regA w.lbase).region false]
   else match w.seq.issueUf with
     | some u => let x := parseUnfold u
                 [{ isLocal := true, buf := 0, lo := w.lbase + x.base, hi := w.lbase + x.base + x.bytes, write := false }]
     | none => []) ++ (if m.hasB then [(m.regB w.lbase).region false] else [])

def mulParts (m : Mul) : Nat := (mulN m.ext + 127) / 128

/-- The issue of a multiply-group instruction. -/
def issueMul (op : Nat) (f : Fields) (s : State) : Host.Outcome State Fault Refusal :=
  runOp op f (withQueue (withMul op f (fun m s =>
    let w := s.wg
    let a := src op f 0 s
    let bad := match mulScalar m a w.seq with
      | some c => some c
      | none => match mulSplit m w with
        | some c => some c
        | none => match mulRegions m s w with
          | some c => some c
          | none => mulCheckC m w.seq
    match bad with
    | some c => raise c 0 s
    | none =>
      enterSeq op f (mulParts m) (mulFootprint m w)
        (fun q => q.setView (mulD m.imm) ⟨mulM m.imm, min (mulN m.ext) 128, accTag (mulTA m.func)⟩) s))) s

def execMma (f : Fields) (s : State) := issueMul 0xC8 f s
def execMmau (f : Fields) (s : State) := issueMul 0xC9 f s
def execMmas (f : Fields) (s : State) := issueMul 0xCA f s
def execMtrans (f : Fields) (s : State) := issueMul 0xCB f s
def execMperm (f : Fields) (s : State) := issueMul 0xCC f s
def execMrsum (f : Fields) (s : State) := issueMul 0xCD f s
def execMscale (f : Fields) (s : State) := issueMul 0xCE f s

/-! ## One step (R184, R188) -/

/-- The instruction as it was captured. -/
def SeqInstr.mul (i : SeqInstr) : Mul :=
  let img (t : Nat) : Narrow := if isNarrow t then (parseImage (vget i.imgs (t - 16) 0)).getD Narrow.std else Narrow.std
  ⟨i.op.toNat, i.func, i.imm11, i.ext, img (mulTA i.func), img (mulTB i.func)⟩

def valInt (v : Val) : Int :=
  match v with
  | .fin neg m e => (if neg then -1 else 1) * ((m * 2 ^ e.toNat : Nat) : Int)
  | _ => 0

def iovf : BitVec 8 := 0x80

/-- A group added to an integer accumulator. -/
def groupInt (d : Nat) (ps : List (Val × Val)) : Nat × BitVec 8 :=
  let x := toSigned 32 d + ps.foldl (fun r p => r + valInt p.1 * valInt p.2) 0
  ((x % (2 ^ 32 : Int)).toNat, if x < -(2 ^ 31 : Int) ∨ x ≥ 2 ^ 31 then iovf else 0)

/-- A group added to a float accumulator with one rounding (R184, R236). -/
def groupFloat (d : Nat) (ps : List (Val × Val)) : Nat × BitVec 8 :=
  let l := ps.map (fun p => mulVal p.1 p.2)
  let infs := l.filter (fun x => x.val.isInf)
  let bad := ps.any (fun p => p.1.isNan || p.2.isNan) || l.any (fun x => x.flags != 0) ||
    (infs.any (fun x => x.val.isNeg) && infs.any (fun x => !x.val.isNeg))
  let c := decodeVal fmtF32 false d
  if bad then (fmtF32.nanCode, flags8 flagNV)
  else
    let x := sumVals 0 (c :: l.map Exact.val)
    let (r, fl) := { x with flags := x.flags ||| sigFlags [c] }.round fmtF32 0 false false
    (r, flags8 fl)

def addGroup (int : Bool) (d : Nat) (ps : List (Val × Val)) : Nat × BitVec 8 := if int then groupInt d ps else groupFloat d ps

/-- A list cut into groups of g; the number bounds how many. -/
def chunks {α : Type} (g : Nat) : Nat → List α → List (List α)
  | 0, _ => []
  | n + 1, l => if l.isEmpty then [] else l.take g :: chunks g n (l.drop g)

/-- A cell after its groups in ascending k. -/
def foldGroups (int : Bool) (g : Nat) (d : Nat) (ps : List (Val × Val)) : Nat × BitVec 8 :=
  (chunks g ps.length ps).foldl (fun r c => let (x, fl) := addGroup int r.1 c; (x, r.2 ||| fl)) (d, 0)

/-- Rows of A of a step. -/
def rowsOfA (s : State) (m : Mul) (i : SeqInstr) (home : Workgroup) (rs : List Nat) (k0 k1 : Nat) : Except Nat (List (List Val)) :=
  let plaza := plazaOf home.anchor
  if m.op = 0xC9 then
    match home.seq.unfold with
    | none => .error 0x05
    | some u =>
      let x := parseUnfold u
      rs.mapM (fun r => (List.range (k1 - k0)).mapM (fun k =>
        fetchUnfold s plaza home.lbase x (bits i.a.toNat 31 0 + r) (bits i.a.toNat 63 32 + k0 + k)))
  else rs.mapM (fun r => fetchRow s plaza (m.regA home.lbase) i.imgs false r k0 k1)

/-- Columns [c0, c1) of B of a step; ones for `MRSUM`. -/
def colsOfB (s : State) (m : Mul) (i : SeqInstr) (home : Workgroup) (c0 c1 k0 k1 : Nat) : Except Nat (List (List Val)) :=
  let plaza := plazaOf home.anchor
  if m.op = 0xCD then .ok (List.replicate (c1 - c0) (List.replicate (k1 - k0) oneVal))
  else if mulBT m.imm then
    ((List.range (c1 - c0)).map (· + c0)).mapM (fun c => fetchRow s plaza (m.regB home.lbase) i.imgs false c k0 k1)
  else
    (((List.range (k1 - k0)).map (· + k0)).mapM (fun k => fetchRow s plaza (m.regB home.lbase) i.imgs false k c0 c1)).map (fun rows =>
      (List.range (c1 - c0)).map (fun c => rows.map (fun r => r.getD c (.fin false 0 0))))

/-- Contributions of a step to the cells of the rows `rs`: for each row its columns' products; `MPERM` rows that take none have none. -/
def contributions (s : State) (m : Mul) (i : SeqInstr) (home : Workgroup) (rs : List Nat) (c0 c1 step : Nat) :
    Except Nat (List (List (List (Val × Val)))) := do
  let plaza := plazaOf home.anchor
  let k0 := step * m.ks
  let k1 := k0 + m.ks
  match m.op with
  | 0xCB =>
    let cols ← ((List.range (c1 - c0)).map (· + c0)).mapM (fun j =>
      fetchRow s plaza (m.regA home.lbase) i.imgs false j 0 (mulM m.imm))
    pure (rs.map (fun r => cols.map (fun c => [(c.getD r (.fin false 0 0), oneVal)])))
  | 0xCC =>
    let idx := (← fetchRow s plaza (m.regA home.lbase) i.imgs false 0 0 (mulM m.imm)).map (fun v => (valInt v).toNat)
    if idx.any (fun x => x ≥ m.K && x != 0xFFFFFFFF) then .error 0x06
    else
      rs.mapM (fun r => do
        let x := idx.getD r 0
        if k0 ≤ x ∧ x < k1 then
          let row ← fetchRow s plaza (m.regB home.lbase) i.imgs false x c0 c1
          pure (row.map (fun v => [(v, oneVal)]))
        else pure (List.replicate (c1 - c0) []))
  | 0xCE =>
    let v ← fetchRow s plaza (m.regB home.lbase) i.imgs false 0 c0 c1
    rs.mapM (fun r => do
      let row ← fetchRow s plaza (m.regA home.lbase) i.imgs false r c0 c1
      pure ((row.zip v).map (fun p => [p])))
  | _ =>
    let a ← rowsOfA s m i home rs k0 k1
    let b ← colsOfB s m i home c0 c1 k0 k1
    pure (a.map (fun row => b.map (fun col => row.zip col)))

/-- Columns of part p. -/
def partCols (m : Mul) (p : Nat) : Nat × Nat := (128 * p, min (mulN m.ext) (128 * p + 128))

/-- A queued instruction that sets the shape and tag of register `t` (R173). -/
def SeqInstr.defines (i : SeqInstr) (t : Nat) : Bool :=
  let op := i.op.toNat
  (op == 0xC0 || op == 0xC2 || op == 0xC4 || (0xC8 ≤ op && op ≤ 0xCE)) && tileReg i.imm11 == t

/-- The issue view of a register after a part has set it: the part runs ahead of the workgroup's queued instructions, the last of which
that sets the register decides (R173, R185). -/
def Sequencer.partView (q : Sequencer) (t : Nat) (x : Shape) : Sequencer :=
  if q.queue.any (fun i => i.defines t) then q else q.setView t x

/-- D := C, or zero, as part `p` starts on workgroup `w` (R184, R185): a gang-split part's checks of its C, the shape and tag of its D. -/
def beginMul (m : Mul) (w : Workgroup) (p : Nat) (s : State) : Except Nat State :=
  let (c0, c1) := partCols m p
  let n := c1 - c0
  let rs := List.range (mulM m.imm)
  let useC := mulCV m.imm
  let c := w.seq.shapeOf (mulC m.imm)
  if p ≠ 0 ∧ (w.tiles ≤ mulD m.imm ∨ (useC ∧ w.tiles ≤ mulC m.imm)) then .error 0x04
  else if mulN m.ext > 128 ∧ useC ∧ c.tag ≠ accTag (mulTA m.func) then .error 0x05
  else if mulN m.ext > 128 ∧ useC ∧ (c.rows ≠ mulM m.imm ∨ c.cols ≠ n) then .error 0x06
  else
    match (if useC ∧ m.op ≠ 0xCA then readTile s w (mulC m.imm) rs n else some (rs.map (fun _ => List.replicate n 0))) with
    | none => .error 0x0D
    | some cells =>
      let s1 := writeTile w (mulD m.imm) (rs.zip cells) s
      let w1 := (s1.wgBy w.wid).setShape (mulD m.imm) ⟨mulM m.imm, n, accTag (mulTA m.func)⟩
      let x : Shape := ⟨mulM m.imm, n, accTag (mulTA m.func)⟩
      .ok (s1.putWg (if p = 0 then w1 else { w1 with seq := w1.seq.partView (mulD m.imm) x }))

/-- One step of part `p` on workgroup `w`, of the rows `rs` (R184): D and MFLAGS. -/
def stepMul (m : Mul) (i : SeqInstr) (home w : Workgroup) (p step : Nat) (rs : List Nat) (s : State) : Except Nat State :=
  let (c0, c1) := partCols m p
  if rs.isEmpty then .ok s
  else
    match readTile s w (mulD m.imm) rs (c1 - c0) with
    | none => .error 0x0D
    | some old => do
      let cs ← contributions s m i home rs c0 c1 step
      let out := (old.zip cs).map (fun x => (x.1.zip x.2).map (fun y => foldGroups (isInt (mulTA m.func)) (groupOf m.cls) y.1 y.2))
      let s1 := writeTile w (mulD m.imm) (rs.zip (out.map (fun r => r.map Prod.fst))) s
      pure (s1.orMflags w.wid ((out.flatten.map Prod.snd).foldl (fun a b => a ||| b) 0))

end Sys2Proof.Machine
end

