-- ==== Sys2Proof/Machine/StepCache.lean ====
section
/-! DEFINITION. The step cache (R215-R219, R263-R273): its instructions, the probe of an `MMAS`, the replay of hits and the entries that
misses write. One step probes all tiles; the entries are then written phase by phase. -/

namespace Sys2Proof.Machine

/-! ## Configuration (R267, R268) -/

/-- A configured cache. -/
structure CacheConf where
  h     : W64
  nslot : Nat
  sb    : Nat
  dist  : Nat
  tau   : Nat
  deriving DecidableEq, Repr

def cfgSlots (ext : Nat) : Nat := 2 ^ bits ext 12 8
def cfgSize (ext : Nat) : Nat := 1024 * 2 ^ bits ext 2 0

def StepCache.conf (c : StepCache) : Option CacheConf :=
  if c.sch = 0 then none
  else some ⟨c.sch, cfgSlots c.cfg.toNat, cfgSize c.cfg.toNat, bits c.cfg.toNat 19 16, c.tau.toNat⟩

/-- τ of `SCCFG`: not a NaN and not negative, but −0.0 is accepted. -/
def tauOk (b : W64) : Bool :=
  bits b.toNat 63 32 == 0 && !(decodeVal fmtF32 false b.toNat).isNan && (b.toNat < 2 ^ 31 || b.toNat == 2 ^ 31)

def execSccfg (f : Fields) (s : State) : Host.Outcome State Fault Refusal :=
  runOp 0xD8 f (withQueue (fun s =>
    let a := src 0xD8 f 0 s
    let b := src 0xD8 f 1 s
    let enter (s : State) : State := if !tauOk b then raise 0x06 0 s else enterSeq 0xD8 f 1 [] (fun q => q) s
    if a = 0 then enter s
    else
      withHome a (fun e _ s =>
        match srcCheck e (offsetOf a) 1 0 with
        | some c => raise c a s
        | none =>
          if !e.wr then raise 0x07 a s
          else if offsetOf a % cfgSize f.ext.toNat ≠ 0 then raise 0x0A a s
          else if offsetOf a + cfgSlots f.ext.toNat * cfgSize f.ext.toNat > e.length then raise 0x06 a s
          else enter s) s)) s

def execSctag (f : Fields) (s : State) : Host.Outcome State Fault Refusal :=
  runOp 0xD9 f (withQueue (fun s =>
    if (src 0xD9 f 0 s).toNat ≥ 2 ^ 32 then raise 0x06 0 s else enterSeq 0xD9 f 1 [] (fun q => q) s)) s

def execScinv (f : Fields) (s : State) : Host.Outcome State Fault Refusal :=
  runOp 0xDA f (withQueue (fun s =>
    if fbits f.func 1 0 = 1 ∧ (src 0xDA f 0 s).toNat ≥ 2 ^ 16 then raise 0x06 0 s else enterSeq 0xDA f 1 [] (fun q => q) s)) s

/-- SEL of `SCSTAT` (R270). -/
def StepCache.sel (c : StepCache) (k : Nat) : BitVec 32 :=
  match k with
  | 0 => c.hit
  | 1 => c.mthr
  | 2 => c.mtag
  | 3 => c.mwgt
  | 4 => c.mabs
  | 5 => c.byp
  | _ => c.stag

def execScstat (f : Fields) (s : State) : Host.Outcome State Fault Refusal :=
  runOp 0xDB f (fun s =>
    let q := s.wg.seq
    if !q.stopped && !q.queue.isEmpty then block .waiting .sequencer s
    else finishQ f ((s.wg.sc.sel (fbits f.func 2 0)).zeroExtend 64) s) s

/-! ## Accesses of a sequencer (R272) -/

/-- A requester is a workgroup's sequencer. -/
def Requester.isSeq (wid : Nat) (r : Requester) : Bool := match r with | .sequencer w _ => w == wid | _ => false

/-- Something that a sequencer has sent has not been answered, or a write of it is not complete (R88). -/
def State.seqFlight (s : State) (wid : Nat) : Bool :=
  s.net.any (fun m => match m.body with
    | .read r | .store r | .units r _ _ => r.who.isSeq wid
    | _ => false) || s.owed.any (fun x => x.1.isSeq wid && s.isDue x.2)

/-- Bytes that an instruction of a sequencer reads; those of a peer stand in its probe once the peer has answered. -/
def seqRead (w : Workgroup) (serial : Nat) (pr : Probe) (h : W64) (n : Nat) (s : State) : Except Stop (List Byte × State) :=
  readGot (.sequencer w.wid serial) pr.got w.asid h n (n / 512 + 2) [] s

/-- The same bytes read once more: a peer's second answer to that handle (R271). -/
def seqReadAgain (w : Workgroup) (serial : Nat) (pr : Probe) (h : W64) (n : Nat) (s : State) : Except Stop (List Byte × State) :=
  seqRead w serial { pr with got := pr.got.eraseP (fun g => g.1 == h) } h n s

/-- Bytes cut where the interleave granules end. -/
def granules : Nat → W64 → List Byte → List (W64 × List Byte)
  | 0, _, _ => []
  | k + 1, h, bs =>
    if bs.isEmpty then []
    else
      let m := 512 - offsetOf h % 512
      (h, bs.take m) :: granules k (handleAdd h m) (bs.drop m)

def granulesOf (h : W64) (bs : List Byte) : List (W64 × List Byte) := granules (bs.length / 512 + 2) h bs

/-- One piece written; bytes of a peer travel to it. -/
def seqWritePiece (w : Workgroup) (serial : Nat) (h : W64) (bs : List Byte) (s : State) : Except Stop State :=
  match writePiece (.sequencer w.wid serial) w.asid h bs s with
  | .error (.peer home h1 _) =>
    .ok (s.send w.anchor home 0 (.store { Request.blank with
      who := .sequencer w.wid serial, asid := w.asid, handle := h1, size := bs.length, kind := .write, data := bs }))
  | r => r

def seqWrite (w : Workgroup) (serial : Nat) (h : W64) (bs : List Byte) (s : State) : Except Stop State :=
  (granulesOf h bs).foldlM (fun s x => seqWritePiece w serial x.1 x.2 s) s

/-! ## Entries (R264, R265) -/

/-- The slot of a tile (R216). -/
def CacheConf.slot (c : CacheConf) (site tile : Nat) : W64 := handleAdd c.h (((0x9E3 * site + tile) % c.nslot) * c.sb)

/-- The A copy of output tile `b` as its bytes stand: rows, scales, tags. -/
def tileCopy (s : State) (plaza : Nat) (g : Stored) (b : Nat) : Except Nat (List Byte) := do
  let rows ← (List.range 16).mapM (fun r => fetchLocal s plaza (g.base + (16 * b + r) * g.pitch) g.rowBytes)
  if isNarrow g.t then
    let sc ← fetchLocal s plaza (g.scales + 16 * b * g.blocks) (16 * g.blocks)
    let tg ← fetchLocal s plaza (g.tags + 4 * b * g.blocks) (4 * g.blocks)
    pure (rows.flatten ++ sc ++ tg)
  else pure rows.flatten

/-- The region that an A copy is laid out as. -/
def copyRegion (g : Stored) : Stored := let d := { g with base := 0, rows := 16 }; { d with pitch := d.rowBytes }

/-- The elements of an A copy. -/
def copyVals (g : Stored) (imgs : Vector W64 8) (bs : List Byte) : Except Nat (List Val) :=
  ((List.range 16).mapM (fun r =>
    rowFrom (fun x n => .ok ((bs.drop x).take n)) (copyRegion g) imgs false r 0 g.len)).map List.flatten

/-- The B fingerprint (R218, R265). -/
def fingerprint (s : State) (m : Mul) (home : Workgroup) : W64 :=
  let p := s.plaza (plazaOf home.anchor)
  let g := m.regB home.lbase
  let top := (unitsOf g.base (g.stop - g.base)).foldl (fun r u => max r (p.stamp u)) 0
  let e := m.ext.toNat
  let w := bits e 43 30 + bits e 63 54 * 2 ^ 14 + bits e 5 0 * 2 ^ 24 + bits e 15 6 * 2 ^ 30 + fbits m.func 9 5 * 2 ^ 40 +
    ibits m.imm 7 7 * 2 ^ 45 + fbits m.func 10 10 * 2 ^ 46
  BitVec.ofNat 64 ((w % 65536 ^^^ w / 2 ^ 16 % 65536 ^^^ w / 2 ^ 32 % 65536) * 2 ^ 48 + top % 2 ^ 48)

/-- The format images in an entry's header. -/
def entryImages (m : Mul) (i : SeqInstr) : List Nat :=
  let t := mulTA m.func
  (List.range 4).map (fun k => if isNarrow t then (vget i.imgs ((t - 16 + k) % 8) 0).toNat else 0)

/-- Word 0x10 of a header. -/
def entryWord (m : Mul) (cols : Nat) (valid : Bool) : Nat :=
  (if valid then 1 else 0) + mulTA m.func * 2 ^ 9 + mulTB m.func * 2 ^ 14 + (cols - 1) * 2 ^ 24 + m.K * 2 ^ 32

/-- The 64 bytes of a header. -/
def entryHeader (m : Mul) (i : SeqInstr) (tile cols : Nat) (tag : BitVec 32) (fp : W64) (ab : Nat) (valid : Bool) : List Byte :=
  ([i.a.toNat % 65536 + tile * 65536 + tag.toNat * 2 ^ 32, fp.toNat, entryWord m cols valid] ++ entryImages m i ++ [ab]).flatMap (leBytes 8)

/-- The fields that must match for an entry to be one of the tile (R264). -/
def entryMatches (m : Mul) (i : SeqInstr) (tile cols ab : Nat) (bs : List Byte) : Bool :=
  let w2 := wordAt bs 2
  wordAt bs 0 % 2 ^ 32 == i.a.toNat % 65536 + tile * 65536 && bitOf w2 0 && bits w2 13 9 == mulTA m.func && bits w2 18 14 == mulTB m.func &&
    bits w2 31 24 == cols - 1 && bits w2 63 32 == m.K && wordAt bs 7 % 2 ^ 32 == ab &&
    (!isNarrow (mulTA m.func) || (List.range 4).map (fun k => wordAt bs (3 + k)) == entryImages m i)

/-- Check 4 of R217: some |a − a′| is above τ, or cannot be compared. -/
def drifted (tau : Nat) (xs ys : List Val) : Bool :=
  let f32 (v : Val) : Val := decodeVal fmtF32 false (convert fmtF32 0 false false v).1
  (xs.zip ys).any (fun p =>
    let a := f32 p.1
    let b := f32 p.2
    let d := decodeVal fmtF32 false ((sumVals 0 [a, b.neg]).round fmtF32 0 false false).1
    a.isNan || b.isNan || d.isNan || cmpVal d.abs (decodeVal fmtF32 false tau) == some .gt)

/-! ## The probe (R217, R269) -/

/-- What the probe of one tile found: the outcome (0 hit, 1 miss-threshold, 2 miss-tag, 3 miss-weights, 4 miss-absent, 5 bypass), the
stored tile of a hit, and the A rows that a miss keeps. -/
structure TileOut where
  out   : Nat
  cells : List (List Nat)
  acopy : List Byte
  deriving DecidableEq, Repr

/-- The tile of an entry, row by row. -/
def entryCells (bs : List Byte) (ab cols : Nat) : List (List Nat) :=
  (List.range 16).map (fun r => (List.range cols).map (fun c => leNat ((bs.drop (64 + ab + 4 * (r * cols + c))).take 4)))

/-- The probe of output tile `b` (R217, R271): word 0x10 of the entry's header, the entry, and word 0x10 again. -/
def probeTile (m : Mul) (i : SeqInstr) (home w : Workgroup) (p b cols : Nat) (pr : Probe) (s : State) : Except Stop (TileOut × State) :=
  let g := m.regA home.lbase
  let ab := (copyRegion g).stop
  let size := 64 + ab + 64 * cols
  match home.sc.conf with
  | none => .ok (⟨5, [], []⟩, s)
  | some c =>
    if size > c.sb then .ok (⟨5, [], []⟩, s)
    else do
      let cp ← (tileCopy s (plazaOf home.anchor) g b).mapError Stop.code
      let h := c.slot (i.a.toNat % 65536) (8 * p + b)
      let (w1, s1) ← seqRead w i.serial pr (handleAdd h 16) 8 s
      let (bs, w2, s1) ←
        if bitOf (leNat w1) 0 then do
          let (bs, s2) ← seqRead w i.serial pr h size s1
          let (w2, s3) ← seqReadAgain w i.serial pr (handleAdd h 16) 8 s2
          pure (bs, w2, s3)
        else pure ([], w1, s1)
      let dist := ((home.sc.stag.toNat : Int) - (wordAt bs 0 / 2 ^ 32 : Nat)) % (2 ^ 32 : Int)
      if w2 ≠ w1 ∨ !entryMatches m i (8 * p + b) cols ab bs then pure (⟨4, [], cp⟩, s1)
      else if wordAt bs 1 ≠ (fingerprint s m home).toNat then pure (⟨3, [], cp⟩, s1)
      else if dist > c.dist then pure (⟨2, [], cp⟩, s1)
      else do
        let xs ← (copyVals g i.imgs cp).mapError Stop.code
        let ys ← (copyVals g i.imgs ((bs.drop 64).take ab)).mapError Stop.code
        pure (if drifted c.tau xs ys then ⟨1, [], cp⟩ else ⟨0, entryCells bs ab cols, []⟩, s1)

def probeTiles (m : Mul) (i : SeqInstr) (home w : Workgroup) (p cols : Nat) (pr : Probe) (s : State) : Except Stop (List TileOut × State) :=
  (List.range (mulM m.imm / 16)).foldlM (fun (r : List TileOut × State) b =>
    (probeTile m i home w p b cols pr r.2).map (fun x => (r.1 ++ [x.1], x.2))) ([], s)

/-- C added to a row of cells, each with one rounding; a signalling NaN sets invalid (R222, R235). -/
def addRow (xs ys : List Nat) : List (Nat × BitVec 7) :=
  (xs.zip ys).map (fun p =>
    let vs := [decodeVal fmtF32 false p.1, decodeVal fmtF32 false p.2]
    let x := sumVals 0 vs
    { x with flags := x.flags ||| sigFlags vs }.round fmtF32 0 false false)

/-- Rows of D written with cells, and with C added where there is one; flags go to MFLAGS. -/
def putRows (m : Mul) (w : Workgroup) (l : List (Nat × List Nat)) (s : State) : Except Stop State :=
  if !mulCV m.imm then .ok (writeTile w (mulD m.imm) l s)
  else
    match readTile s w (mulC m.imm) (l.map Prod.fst) ((l.headD (0, [])).2.length) with
    | none => .error (.code 0x0D)
    | some cs =>
      let out := (l.zip cs).map (fun x => (x.1.1, addRow x.2 x.1.2))
      .ok ((writeTile w (mulD m.imm) (out.map (fun x => (x.1, x.2.map Prod.fst))) s).orMflags w.wid
        (flags8 (orAll (out.flatMap (fun x => x.2.map Prod.snd)))))

/-- Rows of the tiles that an outcome satisfies. -/
def tileRowsOf (n : Nat) (sel : Nat → Bool) : List Nat := ((List.range n).filter sel).flatMap (fun b => (List.range 16).map (· + 16 * b))

/-- Outcomes added to a workgroup's counters (R219). -/
def StepCache.count (c : StepCache) (outs : List Nat) : StepCache :=
  let n (k : Nat) : BitVec 32 := BitVec.ofNat 32 (outs.count k)
  { c with hit := c.hit + n 0, mthr := c.mthr + n 1, mtag := c.mtag + n 2, mwgt := c.mwgt + n 3, mabs := c.mabs + n 4, byp := c.byp + n 5 }

/-- Step 0 of an `MMAS` with its probe; nothing is changed where it does not go through. -/
def stepZero (m : Mul) (i : SeqInstr) (home w : Workgroup) (p : Nat) (pr : Probe) (s : State) : Except Stop (State × Probe) := do
  let cols := (partCols m p).2 - (partCols m p).1
  let n := mulM m.imm / 16
  let s0 ← (beginMul m w p s).mapError Stop.code
  let (outs, s1) ← probeTiles m i home w p cols pr s0
  let hit (b : Nat) : Bool := ((outs[b]?).map TileOut.out).getD 5 == 0
  let cells := (outs.zipIdx).flatMap (fun x => x.1.cells.zipIdx.map (fun y => (16 * x.2 + y.2, y.1)))
  let s2 ← if cells.isEmpty then pure s1 else putRows m w cells s1
  let s3 ← (stepMul m i home (s2.wgBy w.wid) p 0 (tileRowsOf n (fun b => !hit b)) s2).mapError Stop.code
  let h := s3.wgBy home.wid
  let s4 := s3.putWg { h with sc := h.sc.count (outs.map TileOut.out) }
  let s5 := outs.foldl (fun s o => s.countDie (dieOf w.anchor) o.out) s4
  let hits := ((List.range n).filter hit).foldl (fun r b => r + 2 ^ b) 0
  pure (s5, ⟨true, hits, fingerprint s m home, outs.map TileOut.acopy, [], []⟩)

/-! ## Entry writes (R271) -/

/-- The three phases of an entry: VALID = 0, everything else, VALID = 1. -/
def entryPhases (h : W64) (hdr0 hdr1 body : List Byte) : List (List (W64 × List Byte)) :=
  [granulesOf (handleAdd h 16) ((hdr0.drop 16).take 8),
   granulesOf h (hdr0.take 16) ++ granulesOf (handleAdd h 24) (hdr0.drop 24 ++ body),
   granulesOf (handleAdd h 16) ((hdr1.drop 16).take 8)]

/-- The pieces of a phase in turn; those that are left where one does not go through. -/
def writePhase (w : Workgroup) (serial : Nat) : List (W64 × List Byte) → State → List (W64 × List Byte) × State × Option Stop
  | [], s => ([], s, none)
  | x :: xs, s =>
    match seqWritePiece w serial x.1 x.2 s with
    | .ok s1 => writePhase w serial xs s1
    | .error y => (x :: xs, s, some y)

/-- The entry under way is given up: its later writes are left out (R271). -/
def Probe.dropEntry (pr : Probe) : Probe := { pr with writes := match pr.writes with | _ :: l => [] :: l | [] => [] }

/-- The end of an `MMAS` (R269): C is added to the computed tiles, and the entries of the tiles that missed are to be written, with the
rows of D as they stood before. -/
def endMmas (m : Mul) (i : SeqInstr) (home w : Workgroup) (p : Nat) (pr : Probe) (s : State) : Except Stop (State × Probe) := do
  let cols := (partCols m p).2 - (partCols m p).1
  let n := mulM m.imm / 16
  let missed (b : Nat) : Bool := !bitOf pr.hits b
  let rows := tileRowsOf n missed
  match readTile s w (mulD m.imm) rows cols with
  | none => .error (.code 0x0D)
  | some cells =>
    let tiles := (List.range n).filter missed
    let entries := (tiles.zipIdx).filterMap (fun x =>
      let cp := pr.acopy.getD x.1 []
      let hdr (v : Bool) := entryHeader m i (8 * p + x.1) cols home.sc.stag pr.fp cp.length v
      if cp.isEmpty then none
      else home.sc.conf.map (fun c =>
        entryPhases (c.slot (i.a.toNat % 65536) (8 * p + x.1)) (hdr false) (hdr true)
          (cp ++ ((cells.drop (16 * x.2)).take 16).flatten.flatMap (leBytes 4))))
    let s1 ← if mulCV m.imm && !rows.isEmpty then putRows m w (rows.zip cells) s else pure s
    pure (s1, { pr with writes := entries })

/-- One step of an `MMAS`; the probe's record goes with it. -/
def stepMmas (m : Mul) (i : SeqInstr) (home w : Workgroup) (p step : Nat) (pr : Probe) (s : State) : Except Stop (State × Probe) := do
  let n := mulM m.imm / 16
  let (s1, pr1) ←
    if pr.probed then
      (stepMul m i home w p step (tileRowsOf n (fun b => !bitOf pr.hits b)) s).mapError Stop.code |>.map (fun s => (s, pr))
    else stepZero m i home w p pr s
  if step + 1 < mulSteps m.ext then pure (s1, pr1) else endMmas m i home (s1.wgBy w.wid) p pr1 s1

/-! ## The other sequencer instructions (R268) -/

/-- `SCINV` clears VALID in one slot. -/
def clearSlot (w : Workgroup) (serial : Nat) (pr : Probe) (h : W64) (site : Option Nat) (s : State) : Except Stop State := do
  let (bs, s1) ← seqRead w serial pr h 64 s
  if (site.map (· == wordAt bs 0 % 65536)).getD true then seqWrite w serial (handleAdd h 16) (leBytes 8 (wordAt bs 2 / 2 * 2)) s1 else pure s1

def runScinv (w : Workgroup) (i : SeqInstr) (pr : Probe) (s : State) : Except Stop State :=
  match w.sc.conf with
  | none => .ok s
  | some c =>
    (List.range c.nslot).foldlM (fun s k =>
      clearSlot w i.serial pr (handleAdd c.h (k * c.sb)) (if fbits i.func 1 0 = 1 then some (i.a.toNat % 65536) else none) s) s

/-- The one step of `SCCFG`, `SCTAG` and `SCINV`. -/
def runCacheStep (w : Workgroup) (i : SeqInstr) (pr : Probe) (s : State) : Except Stop State :=
  match i.op.toNat with
  | 0xD8 =>
    .ok (s.putWg { w with sc := { w.sc with sch := i.a, cfg := if i.a = 0 then 0 else i.ext.truncate 20,
                                            tau := if i.a = 0 then 0 else i.b.truncate 32 } })
  | 0xD9 => .ok (s.putWg { w with sc := { w.sc with stag := i.a.truncate 32 } })
  | _ => runScinv w i pr s

end Sys2Proof.Machine
end

