-- ==== Sys2Proof/Machine/Save.lean ====
section
/-! DEFINITION. The save area of a gang (R209, R212): where it lies in its die's save pool, and the gang header, the workgroup records, the
images and the step-cache words (R273) that are written into it. -/

namespace Sys2Proof.Machine

/-! ## Gangs -/

/-- A workgroup's gang. -/
def State.gangOf (s : State) (w : Workgroup) : Option Gang := s.gs.gangs.find? (fun g => g.launch == w.launch && g.gang == w.gang)

def State.putGang (s : State) (g : Gang) : State :=
  { s with gs := { s.gs with gangs := s.gs.gangs.map (fun x => if x.launch = g.launch ∧ x.gang = g.gang then g else x) } }

/-- WGPOS `p` of a workgroup's gang. -/
def State.peerWg (s : State) (w : Workgroup) (p : Nat) : Option Workgroup :=
  s.wgs.find? (fun x => x.launch == w.launch && x.gang == w.gang && x.wgpos == p)

/-- WGPOS 0 of a workgroup's gang. -/
def State.homeWg (s : State) (w : Workgroup) : Workgroup := (s.peerWg w 0).getD w

/-- Bytes of a gang save area (R212). -/
def saveBytes (w : Workgroup) : Nat :=
  0x5000 + w.gangw * (0x400 * w.wgsize + w.localLen + 0x10000 * w.tiles + (0x800 + 0x10000 * w.tiles) + w.localLen / 64)

/-- The save pool of a die that gang save areas use (R209). -/
def savePool : Nat := 480 * 2 ^ 20

/-- The save areas of a die: where each starts in the pool, and its bytes. -/
def State.areasUsed (s : State) (die : Nat) : List (Nat × Nat) :=
  s.gs.gangs.filterMap (fun g =>
    if g.saveArea ∧ g.die = die then (s.wgs.find? (fun w => w.launch == g.launch && w.gang == g.gang)).map (fun w => (g.base, saveBytes w))
    else none)

/-- A place for `n` bytes in a pool: the lowest multiple of 4 KiB at its start or behind an area in use (log entry 132). -/
def poolFit (used : List (Nat × Nat)) (n : Nat) : Option Nat :=
  ((0 :: used.map (fun u => (u.1 + u.2 + 4095) / 4096 * 4096)).filter (fun a =>
    a + n ≤ savePool && used.all (fun u => a + n ≤ u.1 || u.1 + u.2 ≤ a))).min?

/-- The gang of a workgroup holds a save area (R209): none where the pool has no room. -/
def State.takeArea (s : State) (w : Workgroup) : Option State :=
  match s.gangOf w with
  | none => some s
  | some g =>
    if g.saveArea then some s
    else
      (poolFit (s.areasUsed g.die) (saveBytes w)).map (fun base =>
        let d := s.die g.die
        (s.putDie { d with saveUsed := d.saveUsed + saveBytes w }).putGang { g with saveArea := true, base := base })

/-- The tile memory of a workgroup's registers. -/
def tileSlice (w : Workgroup) : Nat := tileAt w.anchor w.tbase

/-! ## Workgroup records (R212) -/

/-- A barrier as it is saved (R382). -/
def Barrier.words (b : Barrier) : List W64 := [BitVec.ofNat 64 (b.arrived % 2 ^ 11 + b.bmask.toNat * 2 ^ 16), b.phase.zeroExtend 64]

/-- The shape and tag of a register as they are saved. -/
def Shape.word (x : Shape) : W64 :=
  BitVec.ofNat 64 ((x.rows - 1) % 2 ^ 7 + (x.cols - 1) % 2 ^ 7 * 2 ^ 7 + x.tag.toNat * 2 ^ 16)

/-- The record words 0x240-0x6FF of a workgroup with a sequencer (R212, R320, R382): the one that runs, or the one that `MPARK` puts away. -/
def Workgroup.seqWords (w : Workgroup) (q : Sequencer) : List W64 :=
  let u := (q.unfold.map (fun u => [u.2.1, u.2.2.1, u.2.2.2])).getD [0, 0, 0]
  let gbar := if w.wgpos = 0 then w.gbarArr % 2 ^ 14 * 2 ^ 16 + w.gbarPhase.toNat * 2 ^ 32 else 0
  let ids (k : Nat) : Nat := ((List.range 32).map (fun n => (vget w.outcomes (32 * k + n) 0).toNat * 4 ^ n)).sum
  [q.statusWord, q.mflags.zeroExtend 64] ++ u ++
    [BitVec.ofNat 64 (q.step % 2 ^ 10 + q.queue.length % 2 ^ 7 * 2 ^ 10 + (if w.park.isSome then 2 ^ 17 else 0) +
      (if q.openLen = 0 then 0 else 2 ^ 18))] ++
    q.shape.toList.map Shape.word ++ [w.kick, BitVec.ofNat 64 (w.nextJob.toNat + gbar)] ++
    (List.range 8).map (fun k => BitVec.ofNat 64 (ids k)) ++
    (List.range 64).flatMap (fun k => match q.queue[k]? with | some i => [i.word, i.ext] | none => [0, 0])

/-- The scalar operand of the current `MMAU` or `MMAS` (R273). -/
def Sequencer.operand (q : Sequencer) : W64 :=
  match q.queue with
  | i :: _ => if i.op = 0xC9 ∨ i.op = 0xCA then i.a else 0
  | [] => 0

/-- Two 32-bit fields of a word. -/
def pairWord (hi lo : BitVec 32) : W64 := hi ++ lo

/-- The step-cache words 0x700-0x7F8 of a record (R273). -/
def StepCache.words (c : StepCache) (q : Sequencer) : List W64 :=
  [pairWord c.tau (c.cfg.zeroExtend 32),
   BitVec.ofNat 64 (c.stag.toNat + (if q.probe.probed then 2 ^ 32 else 0) + q.probe.hits % 2 ^ 8 * 2 ^ 33),
   q.operand, c.hit.zeroExtend 64, pairWord c.mthr c.mtag, pairWord c.mwgt c.mabs, c.byp.zeroExtend 64, c.sch] ++ List.replicate 24 0

/-- A workgroup record (R212). -/
def Workgroup.recordWords (w : Workgroup) : List W64 :=
  w.w.toList ++ w.f.toList ++ w.cb.toList.flatMap vWords ++ w.bar.toList.flatMap Barrier.words ++ w.seqWords w.seq ++ w.sc.words w.seq

/-! ## Images (R212) -/

/-- The banks that lie wholly inside a workgroup's allocation (R288). -/
def Workgroup.banks (w : Workgroup) : List Nat :=
  (List.range 256).filter (fun b => w.lbase ≤ b * 0x8000 && b * 0x8000 + 0x8000 ≤ w.lbase + w.localLen)

/-- Place and mode of the banks that a save keeps, with the bytes of a FIFO. -/
def State.bankImages (s : State) (w : Workgroup) : List (Nat × BankMode × List Byte) :=
  let plaza := plazaOf w.anchor
  w.banks.zipIdx.filterMap (fun x =>
    match (s.plaza plaza).mode x.1 with
    | .scratch => none
    | .cache => some (x.2, .cache, [])
    | m => some (x.2, m, memRead s.lmem (localAt plaza (x.1 * 0x8000)) 0x8000))

/-- Serial numbers of the sequencer instructions that a workgroup holds. -/
def Workgroup.serials (w : Workgroup) : List Nat :=
  (w.seq.queue ++ ((w.park.map Sequencer.queue).getD [])).map SeqInstr.serial

/-- The images of a workgroup as its gang is saved (R212). -/
def State.imageOfWg (s : State) (w : Workgroup) : GangImage :=
  let p := s.plaza (plazaOf w.anchor)
  let (a, n) := (w.lbase / 512, w.localLen / 512)
  let (t0, tn) := (w.tbase / 4, 16384 * w.tiles)
  { wgpos := w.wgpos, bytes := memCut s.lmem (localAt (plazaOf w.anchor) w.lbase) w.localLen,
    stamps := (p.stamps.filter (fun x => a ≤ x.1 && x.1 < a + n)).map (fun x => (x.1 - a, x.2)),
    tiles := memCut s.tmem (tileSlice w) (65536 * w.tiles), banks := s.bankImages w,
    items := p.items.filter (fun i => w.serials.contains i.serial), doomed := p.doomed.filter w.serials.contains,
    soft := (p.soft.filter (fun x => w.lbase ≤ 4 * x && 4 * x < w.lbase + w.localLen)).map (fun x => x - w.lbase / 4),
    softTile := (p.softTile.filter (fun x => x.1 == w.anchor && t0 ≤ x.2 && x.2 < t0 + tn)).map (fun x => x.2 - t0) }

/-- The workgroups of a gang, by position. -/
def State.gangWgs (s : State) (g : Gang) : List Workgroup :=
  (List.range g.width).filterMap (fun p => s.wgs.find? (fun w => w.launch == g.launch && w.gang == g.gang && w.wgpos == p))

/-! ## Writing the area (R212) -/

/-- Where the local images, the tile images, the park images and the stamp images of a workgroup's gang start in its area. -/
def Workgroup.localAt (w : Workgroup) : Nat := 0x5000 + 0x400 * w.wgsize * w.gangw
def Workgroup.tilesAt (w : Workgroup) : Nat := w.localAt + w.localLen * w.gangw
def Workgroup.parkAt (w : Workgroup) : Nat := w.tilesAt + 0x10000 * w.tiles * w.gangw
def Workgroup.stampAt (w : Workgroup) : Nat := w.parkAt + (0x800 + 0x10000 * w.tiles) * w.gangw

/-- The gang header (R212). -/
def Gang.headerWords (g : Gang) (w : Workgroup) : List W64 :=
  [BitVec.ofNat 64 (g.job % 2 ^ 24 + g.asid % 2 ^ 12 * 2 ^ 48 + g.width % 2 ^ 4 * 2 ^ 60),
   BitVec.ofNat 64 (g.gang % 2 ^ 32 + g.launch % 2 ^ 32 * 2 ^ 32),
   BitVec.ofNat 64 (g.savedN % 2 ^ 14 + g.live % 2 ^ 14 * 2 ^ 32), w.kdesc, BitVec.ofNat 64 (g.reason % 4), 0, 0, 0]

/-- The threads of a gang that have not exited, as the anchor of WGPOS 0 knows them (R210). -/
def State.liveOf (s : State) (g : Gang) : Nat := ((s.gangWgs g).map (fun w => w.wgsize - w.exited.length)).sum

/-- The gang header written, with LIVE as it stands. -/
def State.writeHeader (s : State) (g : Gang) : State :=
  match s.gangWgs g with
  | w :: _ => s.writePool g.die g.base ({ g with live := s.liveOf g }.headerWords w)
  | [] => s

/-- The record and the images of a workgroup written. -/
def State.writeImages (s : State) (g : Gang) (w : Workgroup) (img : GangImage) : State :=
  let s1 := s.writePool g.die (g.base + 0x1000 + 0x800 * w.wgpos) w.recordWords
  let s2 := s1.pastePool g.die (g.base + w.localAt + w.localLen * w.wgpos) w.localLen img.bytes
  let s3 := s2.pastePool g.die (g.base + w.tilesAt + 0x10000 * w.tiles * w.wgpos) (0x10000 * w.tiles) img.tiles
  s3.pastePool g.die (g.base + w.stampAt + w.localLen / 64 * w.wgpos) (w.localLen / 64)
    (img.stamps.foldl (fun m x => memWrite m (8 * x.1) (leBytes 8 x.2)) [])

/-- The park image of a workgroup, as `MPARK` writes it: the record words, and the tile images behind 2 KiB (log entry 132). -/
def State.writePark (s : State) (w : Workgroup) (tiles : Memory) : State :=
  match s.gangOf w with
  | none => s
  | some g =>
    let a := g.base + w.parkAt + (0x800 + 0x10000 * w.tiles) * w.wgpos
    (s.writePool g.die a (w.seqWords w.seq)).pastePool g.die (a + 0x800) (0x10000 * w.tiles) tiles

end Sys2Proof.Machine
end

