-- ==== Sys2Proof/Machine/Steps.lean ====
section
/-! DEFINITION. The sequencer control instructions (R192, R194), the steps of a matrix sequencer (R183-R185) and the commit after the
issuer's exit (R196). -/

namespace Sys2Proof.Machine

/-! ## Sequencer control -/

def execMcommit (f : Fields) (s : State) : Host.Outcome State Fault Refusal :=
  runOp 0xD0 f (fun s =>
    let q := s.wg.seq
    if q.holds q.nextNo then block .waiting .sequencer s
    else finishQ f (BitVec.ofNat 64 q.nextNo) (s.putSeq s.wg q.commit)) s

def execMwait (f : Fields) (s : State) : Host.Outcome State Fault Refusal :=
  runOp 0xD1 f (fun s =>
    match s.wg.seq.answer ((src 0xD1 f 0 s).toNat % 4) with
    | none => block .waiting .sequencer s
    | some r => finishP f r s) s

def execMstat (f : Fields) (s : State) : Host.Outcome State Fault Refusal :=
  runOp 0xD2 f (fun s =>
    let w := s.wg
    match fbits f.func 1 0 with
    | 0 => finishQ f w.seq.statusWord s
    | 1 => finishQ f w.seq.spc s
    | 2 => finishQ f (w.seq.mflags.zeroExtend 64) s
    | _ => finishQ f (w.seq.mflags.zeroExtend 64) (s.putWg { w with seq := { w.seq with mflags := 0 } })) s

def execMclear (f : Fields) (s : State) : Host.Outcome State Fault Refusal :=
  runOp 0xD3 f (fun s => finishU f (if s.wg.seq.stopped then s.clearSeq s.wg.wid else s)) s

/-- The stopped batch returns to RUN. -/
def Sequencer.resume (q : Sequencer) : Sequencer :=
  { q with cause := 0, sbatch := 0, sstep := 0, sidx := 0, spos := 0, spc := 0, held := false,
           batches := match q.queue with
             | i :: _ => (match i.batch with | some n => vset q.batches n 1 | none => q.batches)
             | [] => q.batches }

/-- The stopped parts of an instruction run again. -/
def State.resumeParts (s : State) (w : Workgroup) (serial : Nat) : State :=
  { s with wgs := s.wgs.map (fun x =>
      if x.launch = w.launch ∧ x.gang = w.gang then
        { x with seq := { x.seq with parts := x.seq.parts.map (fun p => if p.instr.serial = serial then { p with stop := 0 } else p) } }
      else x) }

def execMresume (f : Fields) (s : State) : Host.Outcome State Fault Refusal :=
  runOp 0xD4 f (fun s =>
    let w := s.wg
    match w.seq.stopped, w.seq.queue with
    | true, i :: _ =>
      let s1 := s.resumeParts w i.serial
      let w1 := s1.wg
      finishU f (s1.putSeq w1 w1.seq.resume)
    | _, _ => raise 0x12 0 s) s

/-- `MPARK` (R194): parts of other workgroups' instructions stay with the running sequencer (R185). -/
def execMpark (f : Fields) (s : State) : Host.Outcome State Fault Refusal :=
  runOp 0xD5 f (fun s =>
    let w := s.wg
    if !s.th.hnd then raise 0x0E 0 s
    else if w.park.isSome then raise 0x12 0 s
    else if s.seqFlight w.wid then block .waiting .sequencer s
    else
      match s.takeArea w with
      | none => block .waiting .savePool s
      | some s1 =>
        let tiles := memCut s.tmem (tileSlice w) (65536 * w.tiles)
        finishU f ((s1.writePark w tiles).putWg
          { w with park := some { w.seq with parts := [] }, parkTiles := tiles, seq := { Sequencer.idle with parts := w.seq.parts } })) s

/-- `MUNPARK` (R194). -/
def execMunpark (f : Fields) (s : State) : Host.Outcome State Fault Refusal :=
  runOp 0xD6 f (fun s =>
    let w := s.wg
    match s.th.hnd, w.park with
    | true, some p =>
      if w.seq.batches.any (· == 1) then block .waiting .sequencer s
      else
        let s1 := s.dropQueue w w.seq
        let w1 := s1.wg
        let s2 := s1.putWg { w1 with seq := { p with parts := w1.seq.parts }, park := none, parkTiles := [] }
        finishU f { s2 with tmem := memPaste s2.tmem (tileSlice w) (65536 * w.tiles) w.parkTiles }
    | _, _ => raise 0x0E 0 s) s

/-! ## One step (R183, R184) -/

/-- What a step leaves: the state, whether the instruction has begun, its probe, and why the step did not go through. -/
structure Ran where
  s     : State
  begun : Bool
  probe : Probe
  stop  : Option Stop
  deriving DecidableEq, Repr

def SeqInstr.steps (i : SeqInstr) : Nat := if 0xC8 ≤ i.op.toNat ∧ i.op.toNat ≤ 0xCE then mulSteps i.ext else 1

/-- A step of a one-step instruction. -/
def ranOf (s : State) (begun : Bool) (pr : Probe) (r : Except Stop State) : Ran :=
  match r with
  | .ok s1 => ⟨s1, true, pr, none⟩
  | .error x => ⟨s, begun, pr, some x⟩

/-- One step of part `p` of an instruction on workgroup `w`; an instruction that has not begun begins first (R184). -/
def runStep (i : SeqInstr) (home w : Workgroup) (p step : Nat) (begun : Bool) (pr : Probe) (s : State) : Ran :=
  let op := i.op.toNat
  if op ≤ 0xC4 then ranOf s false pr ((runTileStep w i s).mapError Stop.code)
  else if op = 0xC7 then
    ranOf s false pr (.ok (s.putWg { w with seq := { w.seq with unfold := some (BitVec.ofNat 5 (typeOf i.func), i.a, i.b, i.ext) } }))
  else if op = 0xCA then
    match stepMmas i.mul i home w p step pr s with
    | .ok (s1, pr1) => ⟨s1, true, pr1, none⟩
    | .error x => ⟨s, begun, pr, some x⟩
  else if op ≤ 0xCE then
    let go (s : State) : Ran :=
      ranOf s true pr ((stepMul i.mul i home (s.wgBy w.wid) p step (List.range (mulM i.imm11)) s).mapError Stop.code)
    if begun then go s
    else
      match beginMul i.mul w p s with
      | .ok s1 => go s1
      | .error c => ⟨s, false, pr, some (.code c)⟩
  else ranOf s false pr (runCacheStep w i pr s)

/-- A step of a part of WGPOS 0's instruction on a workgroup whose issuer has parked: it acts on the registers that `MPARK` saved
(R185, R194; log entry 141). -/
def underPark (wid : Nat) (run : State → Ran) (s : State) : Ran :=
  let w := s.wgBy wid
  match w.park with
  | none => run s
  | some q =>
    let n := 65536 * w.tiles
    let r := run { s.putWg { w with seq := { q with parts := w.seq.parts } } with tmem := memPaste s.tmem (tileSlice w) n w.parkTiles }
    let w1 := r.s.wgBy wid
    let back := { w1 with park := some { w1.seq with parts := [] }, parkTiles := memCut r.s.tmem (tileSlice w) n,
                          seq := { w.seq with parts := w1.seq.parts } }
    { r with s := { r.s.putWg back with tmem := memPaste r.s.tmem (tileSlice w) n (memCut s.tmem (tileSlice w) n) } }

/-- What a step that could not be made leaves: a page that is not present holds the sequencer (R272), a throttled row too, a peer is asked;
or a fault code, 0 where the step waits. -/
def waitFor (w : Workgroup) (serial : Nat) (write : Bool) (x : Stop) (s : State) : State × Nat :=
  match x.noted (.sequencer w.wid serial) w.asid s with
  | (.code c, s1) => (s1, c)
  | (.absent home key pos h, s1) => (s1.postRecord home key h pos (if write then 1 else 0) 2, 0)
  | (.peer home h n, s1) =>
    (if s1.seqFlight w.wid then s1
     else s1.send w.anchor home 0 (.read { Request.blank with who := .sequencer w.wid serial, asid := w.asid, handle := h, size := n }), 0)
  | (_, s1) => (s1, 0)

/-- The page that holds a sequencer until the host completes its fault (R272, R301). -/
def Stop.page? (x : Stop) : Option (Nat × PageKey) := match x with | .absent home key _ _ => some (home, key) | _ => none

/-- The entry writes of an `MMAS` go on, phase by phase (R271); one that fails leaves the entry's later ones out, without a fault. With them goes the page
that one waits for. -/
def runWrites (w : Workgroup) (serial : Nat) (pr : Probe) (s : State) : Probe × Option (Nat × PageKey) × State :=
  match pr.writes with
  | [] => (pr, none, s)
  | [] :: rest => ({ pr with writes := rest }, none, s)
  | (ph :: phs) :: rest =>
    let (left, s1, stop) := writePhase w serial ph s
    match stop with
    | none => ({ pr with writes := phs :: rest }, none, s1)
    | some x =>
      let (s2, code) := waitFor w serial true x s1
      (if code = 0 then { pr with writes := (left :: phs) :: rest } else pr.dropEntry, x.page?, s2)

/-! ## Parts (R185) -/

/-- WGPOS 0 of a workgroup's gang, with the sequencer, running or parked, that holds an instruction. -/
def State.homeFor (s : State) (w : Workgroup) (serial : Nat) : Workgroup :=
  let h := s.homeWg w
  if h.seq.queue.any (fun i => i.serial == serial) then h
  else
    match h.park with
    | some q => { h with seq := q }
    | none => h

/-- WGPOS 0's sequencer that holds an instruction, parked or not, changed. -/
def State.onHome (s : State) (home : Workgroup) (serial : Nat) (g : Sequencer → Sequencer) : State :=
  let h := s.wgBy home.wid
  if h.seq.queue.any (fun i => i.serial == serial) then s.putSeq h (g h.seq)
  else
    match h.park with
    | some q => if q.queue.any (fun i => i.serial == serial) then s.putWg { h with park := some (g q) } else s
    | none => s

/-- One more part of an instruction is done. -/
def Sequencer.partDone (serial : Nat) (q : Sequencer) : Sequencer :=
  { q with queue := q.queue.map (fun i => if i.serial = serial then { i with partsDone := i.partsDone + 1 } else i) }

/-- The other parts of an instruction have entered the sequencers of their workgroups: some are there, or are done. -/
def State.partsIn (s : State) (w : Workgroup) (i : SeqInstr) : Bool :=
  i.partsDone != 0 || s.wgs.any (fun x => x.launch == w.launch && x.gang == w.gang && x.seq.parts.any (fun p => p.instr.serial == i.serial))

/-- As an instruction comes to its first step, its other parts enter the sequencers of their workgroups. -/
def State.startParts (s : State) (w : Workgroup) (i : SeqInstr) : State :=
  { s with wgs := s.wgs.map (fun x =>
      if x.launch = w.launch ∧ x.gang = w.gang ∧ 1 ≤ x.wgpos ∧ x.wgpos < i.parts then
        { x with seq := { x.seq with parts := x.seq.parts ++ [⟨i, 0, false, 0, Probe.none, none⟩] } }
      else x) }

/-- A part of a workgroup's sequencer replaced, or taken out. -/
def State.putPart (s : State) (wid serial : Nat) (p : Option SeqPart) : State :=
  let w := s.wgBy wid
  s.putSeq w { w.seq with parts := w.seq.parts.filterMap (fun x => if x.instr.serial = serial then p else some x) }

/-- A part stops (R185, R272): WGPOS 0 reports it, unless its instruction is stopped already. -/
def stopPart (w : Workgroup) (x : SeqPart) (code : Nat) (s : State) : State :=
  let serial := x.instr.serial
  let home := s.homeWg w
  let s1 := s.putPart w.wid serial (some { x with stop := code, probe := { x.probe with got := [] } })
  if (s1.wgBy home.wid).seq.queue.any (fun i => i.serial == serial) then
    (if (s1.wgBy home.wid).seq.stopped then s1 else s1.stopSeq home.wid code x.step w.wgpos)
  else s1.onHome home serial (fun q => if q.stopped then q else q.stop code x.step w.wgpos)

/-- One step of a part; its last one is followed by its entry writes. -/
def stepPart (w : Workgroup) (x : SeqPart) (s : State) : State :=
  let serial := x.instr.serial
  if x.fault.isSome then s
  else if x.step ≥ x.instr.steps then
    if s.seqFlight w.wid then s
    else if x.probe.writes.isEmpty then (s.putPart w.wid serial none).onHome (s.homeWg w) serial (Sequencer.partDone serial)
    else
      let (pr, page, s1) := runWrites w serial x.probe s
      s1.putPart w.wid serial (some { x with probe := pr, fault := page })
  else
    let r := underPark w.wid (fun s => runStep x.instr (s.homeFor w serial) (s.wgBy w.wid) w.wgpos x.step x.begun x.probe s) s
    match r.stop with
    | none => r.s.putPart w.wid serial (some { x with step := x.step + 1, begun := r.begun, probe := r.probe })
    | some y =>
      let (s1, code) := waitFor w serial false y r.s
      if code = 0 then s1.putPart w.wid serial (some { x with begun := r.begun, fault := y.page? }) else stopPart w { x with begun := r.begun } code s1

/-- An instruction in progress names a register of a part. -/
def Sequencer.clashes (q : Sequencer) (p : SeqPart) : Bool :=
  q.begun && (match q.queue with
    | i :: _ => i.names (mulD p.instr.imm11) || (mulCV p.instr.imm11 && i.names (mulC p.instr.imm11))
    | [] => false)

/-- A part that may run now: at an instruction boundary, and not while an instruction in progress, stopped or parked, names its registers. -/
def nextPart (w : Workgroup) : Option SeqPart :=
  let q := w.seq
  if q.begun && !q.held then none
  else q.parts.find? (fun p => p.stop == 0 && !(match w.park with | some k => k.clashes p | none => q.clashes p))

/-! ## The head instruction -/

/-- The head instruction has finished, with all its parts. -/
def finishInstr (w : Workgroup) (i : SeqInstr) (s : State) : State :=
  let s1 := s.dropItem (plazaOf w.anchor) i.serial
  let w1 := s1.wgBy w.wid
  s1.putSeq w1 w1.seq.finishHead

/-- A stop of the head's own steps. What peers have answered is read again when it resumes. -/
def stopHead (w : Workgroup) (code step : Nat) (s : State) : State :=
  let w1 := s.wgBy w.wid
  let s1 := s.putWg { w1 with seq := { w1.seq with held := true, ownDone := false, probe := { w1.seq.probe with got := [] } } }
  if w1.seq.stopped then s1 else s1.stopSeq w.wid code step 0

/-- A part that has begun and not finished, be it stopped, names a register of an instruction that has not begun (R185). -/
def Workgroup.mixes (w : Workgroup) (i : SeqInstr) : Bool :=
  w.park.isNone && w.seq.parts.any (fun p => p.begun && (List.range 8).any (fun t => p.instr.names t && i.names t))

/-- A step of the head instruction. -/
def stepHead (w : Workgroup) (i : SeqInstr) (s : State) : State :=
  let q := w.seq
  let p := s.plaza (plazaOf w.anchor)
  let rs := ((p.items.find? (fun x => x.serial == i.serial)).map SeqItem.regions).getD []
  if q.held || q.fault.isSome then s
  else if q.ownDone then
    if s.seqFlight w.wid then s
    else if !q.probe.writes.isEmpty then
      let (pr, page, s1) := runWrites w i.serial q.probe s
      let w1 := s1.wgBy w.wid
      s1.putSeq w1 { w1.seq with probe := pr, fault := page }
    else if i.partsDone + 1 ≥ i.parts then finishInstr w i s
    else s
  else if !q.begun && p.doomed.contains i.serial then
    stopHead w 0x12 0 (s.putPlaza { p with doomed := p.doomed.filter (· != i.serial) })
  else if !q.begun && (p.blocked i.serial rs || w.mixes i) then s
  else
    let r := runStep i w w 0 q.step q.begun q.probe (if i.parts > 1 && !s.partsIn w i then s.startParts w i else s)
    let s1 := r.s
    let w1 := s1.wgBy w.wid
    match r.stop with
    | none =>
      let fin := q.step + 1 ≥ i.steps
      let s2 := s1.putSeq w1 { w1.seq with step := q.step + 1, begun := true, probe := r.probe, ownDone := fin }
      if fin && i.partsDone + 1 ≥ i.parts && r.probe.writes.isEmpty && !s2.seqFlight w.wid then finishInstr w i s2 else s2
    | some y =>
      let (s2, code) := waitFor w i.serial false y (s1.putWg { w1 with seq := { w1.seq with begun := r.begun, fault := y.page? } })
      if code = 0 then s2 else stopHead w code q.step s2

/-! ## The end of a save (R209-R213, R331) -/

/-- A completion of the privileged queue (R302). -/
def complete (hub : Nat) (tag : W64) (status : Nat) (s : State) : State := { s with host := .completion hub tag status :: s.host }

/-- SUSPENDs whose gangs are all saved, with their completions (R302). -/
def State.suspendsDone (s : State) : State :=
  let busy (x : Nat × Nat × W64) : Bool := s.gs.gangs.any (fun g => g.job == x.2.1 && (g.state == .running || g.state == .saving))
  (s.gs.suspends.filter (fun x => !busy x)).foldl (fun s x => complete x.1 x.2.2 0 s)
    { s with gs := { s.gs with suspends := s.gs.suspends.filter busy } }

/-- FIFO banks of an allocation whose producer, at a core that runs or at a peer, has not answered a revoke yet (R101, R289). -/
def State.unrevoked (s : State) (w : Workgroup) : List (Nat × W64) :=
  let p := s.plaza (plazaOf w.anchor)
  w.banks.filterMap (fun b =>
    match p.mode b with
    | .fifo _ _ _ _ _ (some pd) =>
      let q := parseDesc pd
      if (p.stage? b).map (fun x => x.2) = some .released ∨ !q.there s then none else some (b, pd)
    | _ => none)

/-- The producers of a workgroup that leaves its plaza are revoked, each once; their replies come behind the entries that they have sent. A `BANKM` that
has sent its revoke needs no second one, and the thread of one that waits for its grant waits for it no more. -/
def State.revokeBanks (s : State) (w : Workgroup) : State :=
  let plaza := plazaOf w.anchor
  (s.unrevoked w).foldl (fun s x =>
    match (s.plaza plaza).stage? x.1 with
    | some (_, .releasing) | some (_, .released) => s
    | some (_, .revoking _) => s.setStage plaza x.1 (some (0, .releasing))
    | some (_, .granting _ _) | some (_, .arrivedLate) | some (_, .refused) | some (_, .done) | none =>
      (s.setStage plaza x.1 (some (0, .releasing))).send (bankCore plaza x.1) ((parseDesc x.2).dst w.asid) 2
        (.revoke (bankDesc plaza x.1) plaza x.1 true)) s

/-- Every bank of an allocation returns to scratch mode (R289): cached lines are dropped, entries discarded. -/
def State.releaseBanks (s : State) (w : Workgroup) : State :=
  let plaza := plazaOf w.anchor
  w.banks.foldl (fun s b =>
    let s1 : State := if (s.plaza plaza).mode b = .cache then dropWay plaza b s else s
    (s1.setBank plaza b .scratch).setStage plaza b none) s

/-- A workgroup thread of a gang. -/
def Gang.owns (g : Gang) (t : Thread) : Bool := !t.spawned && t.launch == g.launch && t.gang == g.gang

/-- Jobs of some workgroups that do not go on by themselves: FAULTED, or QUEUED behind one of those or behind an instruction of a stopped
sequencer (R318, R331; log entry 142). Their plaza order. -/
def State.stuckJobs (s : State) (plaza : Nat) (wids : List Nat) : List Nat :=
  let p := s.plaza plaza
  let mine := p.jobs.filter (fun j => wids.contains j.wid)
  let dead := p.items.filter (fun i => wids.contains i.wid && (s.wgBy i.wid).seq.stopped)
  mine.foldl (fun l j =>
    if j.state == 5 || (j.state == 1 &&
        (mine.any (fun k => k.serial < j.serial && l.contains k.serial && conflict k.regions j.regions) ||
          dead.any (fun i => i.serial < j.serial && conflict i.regions j.regions))) then j.serial :: l
    else l) []

/-- Jobs of some workgroups that a save or a retirement waits for (R331). -/
def State.liveJobs (s : State) (plaza : Nat) (wids : List Nat) : List EngJob :=
  let stuck := s.stuckJobs plaza wids
  (s.plaza plaza).jobs.filter (fun j => wids.contains j.wid && (j.live || s.inFlight plaza j.key) && !(j.state == 1 && stuck.contains j.serial))

/-- The jobs of a gang that do not go on end CANCELLED (R331). -/
def State.cancelFaulted (s : State) (g : Gang) : State :=
  let plaza := plazaOf g.run
  let wids := (s.gangWgs g).map Workgroup.wid
  let stuck := s.stuckJobs plaza wids
  ((s.plaza plaza).jobs.filter (fun j => stuck.contains j.serial)).foldl (fun s j =>
    match (s.plaza plaza).job? j.key with
    | some k => if k.unfinished then finishJob plaza k 7 0 s else s
    | none => s) s

/-- A sequencer that goes on although its gang is being saved: it has entries of a finished step to write (R195, R271), or a job of the
gang waits behind one of its instructions (R331). -/
def State.mustStep (s : State) (g : Gang) (w : Workgroup) : Bool :=
  let plaza := plazaOf g.run
  !w.seq.probe.writes.isEmpty || w.seq.parts.any (fun p => !p.probe.writes.isEmpty) ||
    (!w.seq.stopped && (s.liveJobs plaza ((s.gangWgs g).map Workgroup.wid)).any (fun j => j.state == 1 &&
      (s.plaza plaza).items.any (fun i => i.wid == w.wid && i.serial < j.serial && conflict i.regions j.regions)))

/-- The plaza lets go of a gang: its banks, its items, its engine jobs. -/
def State.leavePlaza (s : State) (g : Gang) : State :=
  let ws := s.gangWgs g
  let s1 := ws.foldl State.releaseBanks s
  let p := s1.plaza (plazaOf g.run)
  s1.putPlaza { p with items := p.items.filter (fun i => !ws.any (fun w => w.serials.contains i.serial)),
                       doomed := p.doomed.filter (fun x => !ws.any (fun w => w.serials.contains x)),
                       jobs := p.jobs.filter (fun j => !ws.any (fun w => w.wid == j.wid)) }

/-- A gang being saved is saved (R210): every thread that has not exited has been saved and its notice has come in, and its engine jobs
have ended. Its resources are then released. -/
def State.finishSave (s : State) (g : Gang) : State :=
  let ws := s.gangWgs g
  let wids := ws.map Workgroup.wid
  let plaza := plazaOf g.run
  let live := s.liveOf g
  let moving := s.net.any (fun m => match m.body with | .exitNotice w _ => wids.contains w | _ => false)
  if g.state ≠ .saving ∨ g.savedN < live ∨ moving ∨ s.allThreads.any (fun t => g.owns t && t.status != .saved && t.status != .exited) ∨
      !(s.liveJobs plaza wids).isEmpty ∨ ws.any (fun w => s.seqFlight w.wid || s.mustStep g w) then s
  else if ws.any (fun w => !(s.unrevoked w).isEmpty) then ws.foldl State.revokeBanks s
  else
    let s1 := s.cancelFaulted g
    let images := (s1.gangWgs g).map s1.imageOfWg
    let s2 := (s1.gangWgs g).zip images |>.foldl (fun s x => s.writeImages g x.1 x.2) (s1.writeHeader g)
    ((s2.leavePlaza g).putGang { g with state := .saved, live := live, images := images }).suspendsDone

/-- One step of a pending part, else of the head of the queue. -/
def stepSequencer (w : Workgroup) (s : State) : State :=
  match nextPart w with
  | some p => stepPart w p s
  | none =>
    match w.seq.queue with
    | i :: _ => stepHead w i s
    | [] => s

/-- `K_STEP` (R183, R184). The sequencers of a gang that is being saved stop after their step; theirs is then the end of the save
(R195, R210). -/
def execKStep (w : Nat) (s : State) : Host.Outcome State Fault Refusal :=
  .next (
    let x := s.wgBy w
    match s.gangOf x with
    | none => stepSequencer x s
    | some g =>
      if g.state = .saving then (if s.mustStep g x then stepSequencer x s else s.finishSave g)
      else if g.state ≠ .running then s
      else stepSequencer x s)

/-- `ISSUER_EXIT_COMMIT` (R196): the open batch takes the next number once that number is free. -/
def execIssuerExitCommit (w : Nat) (s : State) : Host.Outcome State Fault Refusal :=
  .next (
    let x := s.wgBy w
    if x.seq.pendingCommit && !x.seq.holds x.seq.nextNo then s.putSeq x x.seq.commit else s)

end Sys2Proof.Machine
end

