-- ==== Sys2Proof/Machine/Travel.lean ====
section
/-! DEFINITION. Landing, holds and the landing overflow area (R28-R33), spawn messages (R112, R113), and threads whose gang is being saved
or whose launch is cancelled as they are accepted (R166, R210). -/

namespace Sys2Proof.Machine

/-! ## Slots -/

/-- A slot of a lane as one number. -/
def slotCode (lane no : Nat) : Nat := 32 * lane + no

/-- A slot is taken by a thread, or held for one whose acceptance is on its way (R29). -/
def State.slotTaken (s : State) (core lane no : Nat) : Bool :=
  s.allThreads.any (fun t => t.core == core && t.lane == lane && t.slotNo == some no) ||
    (s.core core).leaving.any (fun x => x.2 == slotCode lane no)

/-- The first free landing slot of a list of slot numbers. -/
def State.freeLanding (s : State) (core lane : Nat) (l : List Nat) : Option Nat :=
  l.find? (fun k => !s.slotTaken core lane (24 + k))

/-- A workgroup thread at, or bound for, its own anchor (R33). -/
def Thread.isReturn (t : Thread) : Bool := !t.spawned && t.anchor == t.core

/-- A context that waits for a landing slot: held, or in the overflow area (R31). -/
def Thread.waitsLanding (t : Thread) (core lane : Nat) : Bool :=
  t.core == core && t.lane == lane &&
    (match t.place with
     | .staged _ _ => true
     | .spawnStaged _ _ _ _ => true
     | .area _ _ => t.status == .overflow
     | _ => false)

/-- Cells of a core's context staging that later messages of held sources use (R30). -/
def State.stagedBehind (s : State) (core : Nat) : Nat :=
  ((s.net.filter (fun m => m.dst == core && m.vc == 0 && (match m.spot with | .staged _ => true | _ => false))).map (fun m => m.cells s)).sum

/-- Cells of a core's context staging in use (R30). -/
def State.staging (s : State) (core : Nat) : Nat :=
  s.stagedBehind core +
  s.allThreads.foldl (fun n t =>
    if t.core = core then
      (match t.place with
       | .staged _ _ => n + t.cells
       | .spawnStaged _ _ _ _ => n + 1
       | _ => n)
    else n) 0

/-- Whether a source has a context held at a core. -/
def State.holdsFrom (s : State) (core src : Nat) : Bool :=
  s.allThreads.any (fun t => t.core == core &&
    (match t.place with
     | .staged x _ => x == src
     | .spawnStaged x _ _ _ => x == src
     | _ => false))

/-- Entries of a core's overflow area in use, reserved ones or general ones (R32). -/
def State.areaUsed (s : State) (core : Nat) (reserved : Bool) : List Nat :=
  s.allThreads.filterMap (fun t =>
    match t.place with
    | .area r e => if t.core = core ∧ r = reserved then some e else none
    | _ => none)

/-- A general entry is free (R32). -/
def State.areaRoom (s : State) (core : Nat) : Bool := (s.areaUsed core false).length < 24576

/-- The entry that a context takes: the lowest free one of its kind; the 8,192 reserved ones stand before the general ones (log entry 132). -/
def State.areaEntry (s : State) (core : Nat) (reserved : Bool) : Nat :=
  let used := s.areaUsed core reserved
  let first := if reserved then 0 else 8192
  (((List.range (used.length + 1)).map (· + first)).find? (fun e => !used.contains e)).getD first

/-- A context written into the overflow area of its core, with the status that it has there; counted (R32, R85). -/
def State.intoArea (s : State) (t : Thread) (reserved : Bool) (st : Status) : State :=
  let e := s.areaEntry t.core reserved
  ((s.putThread { t with place := .area reserved e, status := st, stalled := false, trapbase := t.kernTrap }).writeArea t st e).countCore t.core 5

/-! ## Threads whose launch is cancelled or whose gang is being saved -/

/-- The cancellation of a thread's launch has been started (R166). -/
def State.launchCancelled (s : State) (t : Thread) : Bool :=
  match s.job? t.job with
  | some j => (match j.tcbOf t.launch with | some c => c.cancel | none => false)
  | none => false

/-- Its outstanding responses on VC1 and its writes have come in, so that the thread can be saved. -/
def Thread.savable (t : Thread) (now : W64) : Bool :=
  t.fwd.isEmpty && t.late.isNone && t.place != .saveArea && t.status != .exited &&
    t.writes.all (fun w => match w.state with | .failed _ => true | .until u => u.toNat ≤ now.toNat | _ => false) &&
    (match t.wait with
     | .answer (.monitor _) => true
     | .answer (.release _ _) => true
     | .answer _ => false
     | _ => true)

/-- A failed write of a thread: its code and handle, 0 where none failed. -/
def Thread.firstFailure (t : Thread) : Nat × W64 :=
  t.writes.foldl (fun r w => match w.state with | .failed c => if r.1 = 0 then (c, w.handle) else r | _ => r) (0, 0)

/-- A wake, a release or a barrier wait of a thread: it executes the waiting instruction again after its restore (R213, R385). -/
def Msg.waits (m : Msg) (tid : Nat) : Bool :=
  match m.body with
  | .wake t _ => t == tid
  | .release t _ => t == tid
  | .barrier op _ _ _ t => op == 1 && t == tid
  | _ => false

/-- Where the record of a workgroup thread lies in its gang's save area (R212). -/
def recordAt (w : Workgroup) (t : Thread) : Nat := 0x5000 + 0x400 * (w.wgsize * t.wgpos + t.index)

/-- The record of a thread written into its gang's save area (R211). -/
def State.writeRecord (s : State) (t : Thread) (wcode : Nat) (wfail : W64) : State :=
  let w := s.wgOf t
  match s.gangOf w with
  | some g => s.writePool g.die (g.base + recordAt w t) (t.recordWords wcode wfail)
  | none => s

/-- A thread saved into its gang's save area (R210): its monitor and reservation go, its record is written, its slot frees, and a saved notice
goes to the anchor of WGPOS 0. -/
def State.saveThread (s : State) (t : Thread) : State :=
  let s1 : State := { s with
    ports := s.ports.map (fun (p : PortSt) =>
      { p with resv := p.resv.filter (fun r => r.1 != t.tid), monitors := p.monitors.filter (fun m => m.tid != t.tid) }),
    dies := s.dies.map (fun (d : DieSt) =>
      { d with barriers := d.barriers.map (fun b => { b with waiters := b.waiters.filter (fun x => x.1 != t.tid) }) }),
    net := s.net.filter (fun m => !m.waits t.tid) }
  let f := t.firstFailure
  let s2 := (s1.writeRecord t f.1 f.2).putThread { t with place := .saveArea, status := .saved, writes := [], wcode := f.1, wfail := f.2 }
  (s2.freeMonitors).send t.core (s.homeWg (s.wgOf t)).anchor 2 (.savedNotice t.launch t.gang)

/-- A thread of a peer's gang leaves without an exit. -/
def State.removeGuest (s : State) (t : Thread) : State :=
  (({ s with
    ports := s.ports.map (fun (p : PortSt) =>
      { p with resv := p.resv.filter (fun r => r.1 != t.tid), monitors := p.monitors.filter (fun m => m.tid != t.tid) })
    threads := s.threads.filter (fun u => u.tid != t.tid) } : State).freeMonitors)

/-- A thread of a peer's gang saved here (R210): it goes, with its slot, and its record goes with the saved notice to the anchor of WGPOS 0 there. -/
def State.saveGuest (s : State) (t : Thread) : State :=
  let f := t.firstFailure
  (s.removeGuest t).send t.core (t.anchor - t.wgpos) 2 (.awaySaved t.tid (t.recordWords f.1 f.2))

/-- A thread is saved by its core: one of this module's gangs, or of a peer's. -/
def State.save (s : State) (t : Thread) : State := if 1024 ≤ t.anchor then s.saveGuest t else s.saveThread t

/-- Whether a thread of a gang is at a core, or on its way there. -/
def State.bound (s : State) (core launch gang : Nat) : Bool :=
  s.threads.any (fun t => !t.spawned && t.launch == launch && t.gang == gang && t.status != .exited &&
    (t.core == core || s.net.any (fun m => m.dst == core && (match m.body with | .context tid => tid == t.tid | _ => false))))

/-- A peer's save notice that has no more to do goes. -/
def State.dropNotices (s : State) : State :=
  { s with net := s.net.filter (fun m =>
    match m.body with
    | .saveNotice launch gang => !(m.savesGuests m.dst launch gang) || s.bound m.dst launch gang
    | _ => true) }

/-- Every thread that a core is saving and that can be saved now is saved. -/
def State.saveSweep (s : State) : State :=
  if s.gs.gangs.any (fun g => g.state == .saving) || s.net.any (fun m => match m.body with | .saveNotice l g => m.savesGuests m.dst l g | _ => false) then
    ((s.threads.filter (fun t => t.status != .outbound && s.savingAt t && t.savable (s.dtcOf (dieOf t.core)))).foldl
      (fun s t => s.save t) s).dropNotices
  else s

/-- The end of an event that may complete a wait. -/
def settled (s : State) : Host.Outcome State Fault Refusal := .next s.saveSweep

/-! ## Acceptance (R29, R30) -/

/-- What follows a placed context: the acceptance of a migration, or the acknowledgement of a spawn message (R88). -/
def State.accept (s : State) (t : Thread) (src : Nat) (spawn : Option (Nat × Nat)) : State :=
  match spawn with
  | some (wid, parent) => s.send t.core src 2 (.ack parent wid 0 0)
  | none => s.send t.core src 2 (.accepted t.tid)

/-- A spawned thread is first placed (R113): its anchor and its serial. -/
def firstPlace (t : Thread) (s : State) : Thread × State :=
  let x := s.core t.core
  ({ t with anchor := t.core, sser := t.core * 2 ^ 19 + x.placedSpawns.toNat }, s.putCore { x with placedSpawns := x.placedSpawns + 1 })

/-- A thread enters a landing slot (R28, R204). -/
def State.land (s : State) (t : Thread) (k : Nat) : State :=
  (s.putThread { t with place := .landing k, status := t.running, wait := .none, stalled := false, trapbase := t.kernTrap,
                        since := (s.core t.core).ccnt.toNat + 1 }).countCore t.core 2

/-- A context is accepted: discarded where its launch is cancelled, saved as it came, OUTBOUND, where its gang is being saved (R210, R211), else put where
`put` says. -/
def acceptContext (t : Thread) (src : Nat) (spawn : Option (Nat × Nat)) (put : Thread → State → State) (s : State) : State :=
  let (t1, s1) := if spawn.isSome then firstPlace t s else (t, s)
  if s.launchCancelled t then
    let s2 := put t1 s1
    ((s2.stopThread (((s2.thread? t.tid)).getD t1)).accept t1 src spawn).saveSweep
  else if spawn.isNone && s.savingAt t && t.savable (s.dtcOf (dieOf t.core)) then
    (((s1.putThread { t1 with status := .outbound }).save { t1 with status := .outbound }).accept t1 src spawn).saveSweep
  else ((put t1 s1).accept t1 src spawn).saveSweep

/-- A message that has not come in yet. -/
def Msg.isMoving (m : Msg) : Bool := match m.spot with | .moving | .hop _ _ => true | .staged _ | .link _ => false

/-- A message that the staging has no room for (R30). -/
def Msg.inLink (m : Msg) : Bool := match m.spot with | .link _ => true | _ => false

/-- The cc of its core at which the first cell of a message arrived. -/
def Msg.arrived (m : Msg) (now : Nat) : Nat := match m.spot with | .moving | .hop _ _ => now | .staged t | .link t => t

/-- A message takes another spot; a context is counted as held once (R30, R85). -/
def State.setSpot (s : State) (k : Nat) (m : Msg) (x : Spot) : State :=
  let s1 : State := { s with net := s.net.set k { m with spot := x } }
  match m.body with
  | .context _ | .spawn _ _ _ => if m.isMoving then s1.countCore m.dst 3 else s1
  | _ => s1

/-- The context in a message, as it stands at its destination, with the length of the message and what a spawn answers to. -/
def Msg.contextOf (m : Msg) (s : State) : Option (Thread × Nat × Option (Nat × Nat)) :=
  match m.body with
  | .context tid => (s.thread? tid).map (fun t => ({ t with core := m.dst, place := .gone }, t.cells, none))
  | .spawn t wid parent => some ({ t with core := m.dst, place := .gone }, 1, some (wid, parent))
  | _ => none

/-- The request that a message brings to a memory port. -/
def Body.portRequest? (b : Body) : Option Request :=
  match b with
  | .read r | .store r | .atomic r | .fill r | .arm r => some r
  | _ => none

/-- The page that a request names at its port. -/
def State.pageNamed (s : State) (port : Nat) (r : Request) : Option PageKey :=
  (s.portEntry port r.asid (indexOf r.handle)).map (fun e => ⟨r.asid, indexOf r.handle, (homeLoc s.conf.lc e (offsetOf r.handle)).page⟩)

/-- A request passes earlier ones of its stream that the port holds back because the queue of their page is full; they are for other pages
(R89, R304). -/
def Msg.passes (s : State) (m x : Msg) : Bool :=
  match m.body.portRequest?, x.body.portRequest? with
  | some r, some r' => s.pageNamed m.dst r != s.pageNamed x.dst r' && (serve x.dst x.src r' s).isNone
  | _, _ => false

/-- A general VC0 message to a core (R30). -/
def Msg.general (m : Msg) : Bool := m.vc == 0 && !m.aret && m.dst < 512

/-- A general message goes behind a held context of its source, or behind what is behind it (R30). -/
def State.follows (s : State) (k : Nat) (m : Msg) : Bool :=
  m.general && (s.holdsFrom m.dst m.src || (s.net.take k).any (fun x => !x.isMoving && x.sameStream m && !m.passes s x))

/-- A context that waits for a landing slot of a lane (R31): held, in the overflow area, or come in behind a held one of its source and the first of
its source by now. An anchor return waits for other anchor returns only (R33). -/
def State.landingWaits (s : State) (core lane : Nat) (aret : Bool) : Bool :=
  s.allThreads.any (fun u => u.waitsLanding core lane && (!aret || u.isReturn)) ||
    (!aret && s.net.zipIdx.any (fun (m, k) => m.dst == core && !m.isMoving && ((m.contextOf s).map (fun x => x.1.lane)) == some lane && !s.follows k m))

/-- A context or spawn message comes in at its core: `cells` long. None: the staging has no room for it, and it stays in the link. -/
def arriveContext (t : Thread) (m : Msg) (cells : Nat) (spawn : Option (Nat × Nat)) (s : State) : Option State :=
  let core := t.core
  let slot := if s.landingWaits core t.lane m.aret then none else s.freeLanding core t.lane (if m.aret then [0, 1, 2, 3] else [0, 1, 2])
  let since := m.arrived (s.core core).ccnt.toNat
  match slot with
  | some k => some (acceptContext t m.src spawn (fun t s => s.land t k) s)
  | none =>
    if m.aret then some (acceptContext t m.src spawn (fun t s => s.intoArea { t with since := since } true .overflow) s)
    else if s.staging core + cells > 256 then none
    else
      let p := match spawn with | some (wid, parent) => Place.spawnStaged m.src since wid parent | none => .staged m.src since
      let s1 := s.putThread { t with place := p, status := .outbound, since := since }
      some (if m.isMoving then s1.countCore core 3 else s1)

/-- The links that cells from one die to another cross (R407): along the column, then along the row; a hub has a link to every compute die. -/
def dieHops (a b : Nat) : List (Nat × Nat) :=
  if a = b then []
  else if 8 ≤ a ∨ 8 ≤ b then [(a, b)]
  else
    let turn := if a % 2 = b % 2 then a else a / 2 * 2 + b % 2
    let n := if turn < b then (b - turn) / 2 else (turn - b) / 2
    (if turn = a then [] else [(a, turn)]) ++
      (List.range n).map (fun k => if turn < b then (turn + 2 * k, turn + 2 * k + 2) else (turn - 2 * k, turn - 2 * k - 2))

def Link.joins (l : Link) (x : Nat × Nat) : Bool := (l.endA == x.1 && l.endB == x.2) || (l.endA == x.2 && l.endB == x.1)

/-- The links that a message crosses, end by end; one for or from a peer goes as far as the hub of its port (R412). -/
def Msg.path (m : Msg) : List (Nat × Nat) :=
  dieHops (if m.src < 1024 then dieOf m.src else 8 + dieOf (m.src % 1024) % 2) (if m.dst < 1024 then dieOf m.dst else 8 + dieOf m.src % 2)

/-- The link that stands between two dies, where it is up. The spec gives no way round a link that is down: a cell whose way leads over one goes on
without it (log entry 129). -/
def State.linkOf (s : State) (x : Nat × Nat) : Option Link := s.links.find? (fun l => l.up && l.joins x)

/-- How far a message has come on its path: the links behind it, and its cells across the next one. -/
def Msg.gone (m : Msg) : Nat × Nat :=
  match m.spot with
  | .moving => (0, 0)
  | .hop n c => (n, c)
  | .staged _ | .link _ => (m.path.length, 0)

/-- The place on its path of the next link that a message crosses; none where it has crossed the last (R405, R407). -/
def State.nextHop (s : State) (m : Msg) : Option Nat :=
  (List.range m.path.length).find? (fun k => m.gone.1 ≤ k && ((m.path[k]?).bind s.linkOf).isSome)

/-- A message that no link is in front of any more. -/
def State.across (s : State) (m : Msg) : Bool := (s.nextHop m).isNone

/-- A unit of the module that a message can reach runs. -/
def State.reachable (s : State) (dst : Nat) : Bool := if dst < 512 then s.dieUp (dieOf dst) else if dst < 1024 then s.hubUp (dieOf dst - 8) else false

/-- The requests that take effect in the order in which one thread issued them, wherever it sent them from: its kicks, and its requests to
one synchronisation engine (R206, R207, R378). -/
def Msg.threadOrder (m : Msg) : Option (Nat × Nat) :=
  match m.body with
  | .kick _ _ tid _ => if tid = 0 then none else some (tid, 0)
  | .barrier _ _ _ _ tid | .board _ _ _ _ _ tid _ _ => some (tid, m.dst + 1)
  | _ => none

/-- A message comes in: it has crossed its links, it is the first of its stream that has not come in (R407), no earlier request of its thread is before
it, and no general VC0 cell for its core waits in the link (R30). -/
def State.comesIn (s : State) (k : Nat) (m : Msg) : Bool :=
  let before := s.net.take k
  !before.any (fun x => (x.isMoving && x.sameStream m && !m.passes s x) || (m.threadOrder.isSome && x.threadOrder == m.threadOrder)) &&
    s.across m && !(m.general && s.net.any (fun x => x.general && x.dst == m.dst && x.inLink))

/-- The message at place `k` may be performed now. -/
def State.deliverable (s : State) (k : Nat) (m : Msg) : Bool := !s.follows k m && (!m.isMoving || s.comesIn k m)

/-- The message at place `k`, taken out, if it may be delivered. -/
def State.take (s : State) (k : Nat) : Option (Msg × State) :=
  match s.net[k]? with
  | some m => if s.deliverable k m && s.reachable m.dst then some (m, { s with net := s.net.eraseIdx k }) else none
  | none => none

/-- A message that cannot be performed yet, because it follows a held context: it goes into the staging, or stays in the link where the
staging has no room for it (R30). -/
def State.stageAt (s : State) (k : Nat) : State :=
  match s.net[k]? with
  | none => s
  | some m =>
    if !s.reachable m.dst || !s.follows k m || !(m.inLink || (m.isMoving && s.comesIn k m)) then s
    else
      let since := m.arrived (s.core m.dst).ccnt.toNat
      if s.staging m.dst + m.cells s ≤ 256 then s.setSpot k m (.staged since)
      else if m.isMoving then s.setSpot k m (.link since) else s

/-- A context that must be held and finds no room stays in the link (R30). -/
def State.linkAt (s : State) (k : Nat) : State :=
  match s.net[k]? with
  | some m => if m.isMoving then s.setSpot k m (.link (s.core m.dst).ccnt.toNat) else s
  | none => s

def execIssueGroupSelect (core : Nat) (s : State) : Host.Outcome State Fault Refusal :=
  .next (if s.issuing.isEmpty then issueGroup core s else s)

/-- The source slot is held until the acceptance returns (R29). -/
def holdSlot (t : Thread) (s : State) : State :=
  match t.slotNo with
  | some no => let x := s.core t.core; s.putCore { x with leaving := x.leaving ++ [(t.tid, slotCode t.lane no)] }
  | none => s

def execContextArrival (k : Nat) (s : State) : Host.Outcome State Fault Refusal :=
  .next (
    match s.take k with
    | none => s.stageAt k
    | some (m, s1) =>
      match m.body, m.contextOf s1 with
      | .context tid, some (t, n, sp) =>
        let old := (s1.thread? tid).getD t
        (arriveContext t m n sp (if m.src < 512 then holdSlot old s1 else s1)).getD (s.linkAt k)
      | _, _ => s)

def execSpawnMessage (k : Nat) (s : State) : Host.Outcome State Fault Refusal :=
  .next (
    match s.take k with
    | none => s.stageAt k
    | some (m, s1) =>
      match m.body, m.contextOf s1 with
      | .spawn _ _ _, some (t, n, sp) => (arriveContext t m n sp s1).getD (s.linkAt k)
      | _, _ => s)

/-- What a held context waits with: its source and, for a spawn, its write. -/
def Place.held : Place → Option (Nat × Nat × Option (Nat × Nat))
  | .staged src since => some (src, since, none)
  | .spawnStaged src since wid parent => some (src, since, some (wid, parent))
  | _ => none

/-- A held context: the thread as it stands at its core, its source, the cc at which it arrived, what a spawn answers to, and the state
without the place that it takes in the staging or in the link. -/
structure Held where
  t     : Thread
  src   : Nat
  since : Nat
  spawn : Option (Nat × Nat)
  rest  : State

/-- A context that is held in a core's staging, first of its source. -/
def State.heldPlaced (s : State) (core tid : Nat) : Option Held :=
  match s.thread? tid with
  | none => none
  | some t => if t.core = core then t.place.held.map (fun (src, since, sp) => ⟨t, src, since, sp, s⟩) else none

/-- A context that is held in the link for a core, and follows none (R30, R32). -/
def State.heldInLink (s : State) (core : Nat) : Option (Nat × Held) :=
  s.net.zipIdx.findSome? (fun (m, k) =>
    if m.dst = core ∧ m.inLink ∧ !s.follows k m then
      (m.contextOf s).map (fun (t, _, sp) =>
        let s1 : State := { s with net := s.net.eraseIdx k }
        let s2 := match m.body, s.thread? t.tid with | .context _, some u => holdSlot u s1 | _, _ => s1
        (k, ⟨{ t with since := m.arrived 0 }, m.src, m.arrived 0, sp, s2⟩))
    else none)

/-- A held context goes to a general entry, and is accepted (R30, R32). -/
def Held.toArea (h : Held) : State := acceptContext h.t h.src h.spawn (fun t s => s.intoArea t false .overflow) h.rest

/-- A context in the link is marked as counted. -/
def State.markFull (s : State) (k : Nat) : State :=
  match s.net[k]? with
  | none => s
  | some m =>
    match m.body with
    | .context tid => s.mapThreads (fun t => if t.tid = tid then { t with stalled := true } else t)
    | .spawn t wid parent => { s with net := s.net.set k { m with body := .spawn { t with stalled := true } wid parent } }
    | _ => s

/-- The earliest of the contexts that a test picks; of two that arrived in the same cc the one that stands first in the model's list (log
entry 134). -/
def firstArrived (s : State) (p : Thread → Bool) : Option Thread :=
  (s.allThreads.filter p).foldl (fun b t => match b with | none => some t | some x => if t.since < x.since then some t else some x) none

/-- A context held 4,096 cc goes to a general entry, the earliest of those first, or is counted once as LANDING-FULL (R30, R32); one that is in the link
arrived after those in the staging. -/
def execHoldTimeout (core tid : Nat) (s : State) : Host.Outcome State Fault Refusal :=
  .next (
    let due (since : Nat) : Bool := since + 4096 ≤ (s.core core).ccnt.toNat
    let first := firstArrived s (fun t => t.core == core && t.place.held.isSome && due t.since)
    match s.heldPlaced core tid, s.heldInLink core with
    | some h, _ =>
      if !due h.since then s
      else if s.areaRoom core then (if first.map Thread.tid = some tid then h.toArea else s)
      else if h.t.stalled then s
      else (s.putThread { h.t with stalled := true }).countCore core 4
    | none, some (k, h) =>
      if h.t.tid ≠ tid ∨ !due h.since then s
      else if s.areaRoom core then (if first.isNone then h.toArea else s)
      else if h.t.stalled then s
      else (s.markFull k).countCore core 4
    | none, none => s)

/-- A general entry that has freed takes the earliest context held past its 4,096 cc; one that is in the link arrived after those in the
staging (R32). -/
def execOverflowEntryFree (core : Nat) (s : State) : Host.Outcome State Fault Refusal :=
  .next (
    if !s.areaRoom core then s
    else
      match firstArrived s (fun t => t.core == core && t.stalled && t.place.held.isSome), s.heldInLink core with
      | some t, _ => ((s.heldPlaced core t.tid).map Held.toArea).getD s
      | none, some (_, h) => if h.t.stalled then h.toArea else s
      | none, none => s)

/-- A context that has come in behind a held one of its source, and that nothing of its source is before any more: it is the next to be held. -/
def State.nextHeld (s : State) (core : Nat) : Bool :=
  s.net.zipIdx.any (fun (m, k) => m.dst == core && !m.isMoving && !m.inLink && (m.contextOf s).isSome && !s.follows k m)

/-- A free landing slot takes the first waiting context of its lane, anchor returns before others (R31, R33); a context that has become the
first of its source counts among those held before the slot is given. -/
def execLandingSlotRefill (core lane slot : Nat) (s : State) : Host.Outcome State Fault Refusal :=
  .next (
    if 3 < slot ∨ s.slotTaken core lane (24 + slot) ∨ s.nextHeld core then s
    else
      let pick := match firstArrived s (fun t => t.waitsLanding core lane && t.isReturn) with
        | some t => some t
        | none => if slot = 3 then none else firstArrived s (fun t => t.waitsLanding core lane)
      match pick with
      | none => s
      | some t =>
        match t.place.held with
        | some (src, _, sp) => acceptContext t src sp (fun t s => s.land t slot) s
        | none => (s.land t slot).saveSweep)

/-- A free thread slot takes the oldest landed thread of its lane (R28): the one that entered READY earliest, by R21's age (log entry 134). A landed
thread that is already OUTBOUND keeps its landing slot: R28 does not say whether it still counts as landed, and the model lets the next one move (log
entry 150). -/
def execLandedThreadMove (core lane : Nat) (s : State) : Host.Outcome State Fault Refusal :=
  .next (
    match (List.range 24).find? (fun k => !s.slotTaken core lane k),
      firstArrived s (fun t => t.core == core && t.lane == lane && t.status != .outbound &&
        (match t.place with | .landing _ => true | _ => false)) with
    | some k, some t => s.putThread { t with place := .slot k }
    | _, _ => s)

def execContextAcceptance (k : Nat) (s : State) : Host.Outcome State Fault Refusal :=
  .next (
    match s.take k with
    | some (⟨_, dst, _, _, .accepted tid, _⟩, s1) =>
      let x := s1.core dst
      s1.putCore { x with leaving := x.leaving.eraseP (fun y => y.1 == tid) }
    | _ => s)

/-- The earliest entry of a lane in a plaza's spawn queue goes to the first core with a free general landing slot (R112). -/
def execSpawnQueuePlace (plaza lane : Nat) (s : State) : Host.Outcome State Fault Refusal :=
  .next (
    let p := s.plaza plaza
    match p.spawnQ.find? (fun t => t.lane == lane),
      (List.range 8).find? (fun c => (s.freeLanding (8 * plaza + c) lane [0, 1, 2]).isSome &&
        !s.landingWaits (8 * plaza + c) lane false) with
    | some t, some c =>
      let core := 8 * plaza + c
      let s1 := (s.putPlaza { p with spawnQ := p.spawnQ.eraseP (fun x => x.tid == t.tid) }).wakeWaiting (fun u => u.wait == .spawnQueue plaza)
      let (t1, s2) := firstPlace { t with core := core } s1
      let s3 := s2.land t1 ((s.freeLanding core lane [0, 1, 2]).getD 0)
      if s.launchCancelled t then s3.stopThread t1 else s3
    | _, _ => s)

/-- The core swaps a thread in PARKED-MONITOR out to a general entry, where one is free (R33, R108). -/
def execParkedThreadSwapOut (tid : Nat) (s : State) : Host.Outcome State Fault Refusal :=
  .next (
    match s.thread? tid with
    | none => s
    | some t =>
      if t.status = .parkedMonitor ∧ t.slotNo.isSome ∧ s.areaRoom t.core then s.intoArea t false t.status else s)

/-- A thread whose awaited writes have come in, or one of which has failed, executes its instruction again (R89, R96, R97). -/
def State.retryWrites (s : State) (tid : Nat) : State :=
  match s.thread? tid with
  | none => s
  | some t =>
    let l := t.writes.filter (fun w => t.awaited.contains w.id && w.pending (s.dtcOf (dieOf t.core)))
    let failed := l.any (fun w => match w.state with | .failed _ => true | _ => false)
    if t.wait = .writes ∧ (t.status = .waiting ∨ t.status = .parkedFault) ∧ (l.isEmpty ∨ failed) then s.wakeThread t else s

def execWriteDrainInterlock (tid : Nat) (s : State) : Host.Outcome State Fault Refusal := .next (s.retryWrites tid)

end Sys2Proof.Machine
end

