-- ==== Sys2Proof/Machine/Deliver.lean ====
section
/-! DEFINITION. What arrives at a home port, at a bank, at a synchronisation engine and at a waiting thread (R88-R92, R105, R108, R293,
R380-R398, R403). -/

namespace Sys2Proof.Machine

/-! ## Requests at a home port -/

/-- A request at the port; it stays in the fabric where the queue that it must join is full. -/
def atPort (s : State) (m : Msg) (r : Request) (s1 : State) : State := (serve m.dst m.src r s1).getD s

/-- An F register as it stands at the anchor (R240). -/
def imageAt (s : State) (wid : Nat) (k : Fin 8) : W64 := (s.wgBy wid).f[k]

def execRemoteReadRequest (k : Nat) (s : State) : Host.Outcome State Fault Refusal :=
  settled (
    match s.take k with
    | none => s.stageAt k
    | some (m, s1) =>
      match m.body with
      | .read r => atPort s m r s1
      | .imageRead tid wid j => s1.send m.dst m.src 1 (.image tid j (imageAt s1 wid j))
      | .kickRead tid wid => s1.send m.dst m.src 1 (.kickValue tid (s1.wgBy wid).kick)
      | _ => s)

def execStoreRequest (k : Nat) (s : State) : Host.Outcome State Fault Refusal :=
  settled (
    match s.take k with
    | some (m, s1) => (match m.body with | .store r => atPort s m r s1 | _ => s)
    | none => s.stageAt k)

def execAtomicRequest (k : Nat) (s : State) : Host.Outcome State Fault Refusal :=
  settled (
    match s.take k with
    | some (m, s1) => (match m.body with | .atomic r => atPort s m r s1 | _ => s)
    | none => s.stageAt k)

def execLeaseFillRequest (k : Nat) (s : State) : Host.Outcome State Fault Refusal :=
  settled (
    match s.take k with
    | some (m, s1) => (match m.body with | .fill r => atPort s m r s1 | _ => s)
    | none => s.stageAt k)

/-- A thread still waits for the arming of its monitor. -/
def State.armWanted (s : State) (who : Requester) : Bool :=
  match who with
  | .thread tid =>
    (match s.thread? tid with
     | some t => (match t.wait with | .answer (.monitor _) => t.status == .waiting || t.status == .parkedFault | _ => false)
     | none => false)
  | _ => true

def execMonitorArm (k : Nat) (s : State) : Host.Outcome State Fault Refusal :=
  settled (
    match s.take k with
    | some (m, s1) => (match m.body with | .arm r => if s.armWanted r.who then atPort s m r s1 else s1 | _ => s)
    | none => s.stageAt k)

/-! ## Answers at a thread -/

/-- A thread that waits for an answer at a core. -/
def State.waiter (s : State) (tid core : Nat) : Option (Thread × Cont) :=
  match s.thread? tid with
  | none => none
  | some t =>
    match t.wait with
    | .answer c => if t.core = core ∧ (t.status = .waiting ∨ t.status = .parkedFault) then some (t, c) else none
    | _ => none

/-- A thread that goes on is READY on the next cc. -/
def State.resume (s : State) (t : Thread) : State := s.putThread { t with since := (s.core t.core).ccnt.toNat + 1 }

/-- A line fill ends (R290-R293): the line enters the way that the fill took, with its lease; it is discarded where the fill's record has been dropped
meanwhile, or where no line has come or it was not leased. -/
def fillLine (core fill : Nat) (bytes : List Byte) (stop : W64) (s : State) : State :=
  let x := s.core core
  match x.fills.find? (fun y => y.id == fill) with
  | none => s
  | some y =>
    let kept := if stop = 0 then x.lines
      else x.lines.filter (fun l => !(l.bank == y.way && l.line / 512 % 64 == y.line / 512 % 64)) ++
        [⟨y.asid, y.buf, y.line, stop, y.way, x.lines.foldl (fun r l => max r (l.order + 1)) 0, bytes⟩]
    s.putCore { x with fills := x.fills.filter (fun z => z.id != fill), lines := kept }

/-- The bytes of an access in what came back: a whole line, or the bytes themselves. -/
def accessBytes (h : W64) (n : Nat) (bytes : List Byte) : List Byte :=
  if bytes.length > n then (bytes.drop (offsetOf h - lineOf h)).take n else bytes

/-- The destination of a load. -/
def Cont.dst : Cont → Dst
  | .load d _ _ | .atomic d _ _ | .kick d _ | .view _ d _ | .slot _ d _ => d
  | _ => .queue

/-- The value that a load extends (R43). -/
def Cont.value (c : Cont) (bs : List Byte) : W64 := match c with | .load _ ty _ => extend ty.toNat (leNat bs) | _ => 0

/-- Read data at its thread. -/
def dataArrives (t : Thread) (c : Cont) (bytes : List Byte) (code : Nat) (s : State) : State :=
  if code ≠ 0 then s.raiseAt t code 0 t.pendH
  else
    match c with
    | .bytes => s.wakeThread { t with got := t.got ++ [(t.pendH, bytes)] }
    | .load _ _ _ | .vload _ _ _ _ =>
      let bs := accessBytes t.pendH c.size bytes
      (s.writeWOf t c.dst (c.value bs)).resume (c.finish bs t)
    | _ => s

/-- A thread of a core whose load is outstanding while it has gone on (R360). -/
def State.lateAt (s : State) (tid core : Nat) : Option (Thread × Late) :=
  match s.thread? tid with
  | some t => if t.core = core then t.late.map (fun l => (t, l)) else none
  | none => none

/-- A thread as it stood at the load that it has run ahead of (R360). -/
def Thread.atLoad (t : Thread) : Thread :=
  match t.late with
  | some l => { t with pc := l.pc, q := l.q, n := l.n, v := l.v, vtag := l.vtag, p := l.p, fpflags := l.fpflags, pendH := l.h, late := none }
  | none => t

/-- The bytes of such a load take their place: in the position of the queue that its push has by now, and in its register. -/
def Late.fill (l : Late) (bs : List Byte) (t : Thread) : Thread :=
  match l.cont with
  | .vload v ty n _ => t.setV v (BitVec.ofNat 256 (leNat bs % 2 ^ n)) (tagOf ty.toNat)
  | c => { t.setDst c.dst (c.value bs) with q := vset t.q l.depth (c.value bs) }

/-- They arrive, or the load fails: then the thread takes the fault at the load, as it stood there (log entry 30). -/
def lateArrives (t : Thread) (l : Late) (bytes : List Byte) (code : Nat) (s : State) : State :=
  if code ≠ 0 then s.raiseAt t.atLoad code 0 l.h
  else
    let t1 := { l.fill (accessBytes l.h l.cont.size bytes) t with late := none }
    if t.wait = .late then s.wakeThread t1 else s.putThread t1

/-- What a thread's load brings. -/
def loadArrives (tid core : Nat) (bytes : List Byte) (code : Nat) (s : State) : State :=
  match s.lateAt tid core, s.waiter tid core with
  | some (t, l), _ => lateArrives t l bytes code s
  | none, some (t, c) => dataArrives t c bytes code s
  | none, none => s

/-- A format image at the thread that has asked for it (R240). -/
def imageReturns (tid core : Nat) (k : Fin 8) (img : W64) (s : State) : State :=
  match s.waiter tid core with
  | some (t, .image _) => s.wakeThread { t with images := t.images ++ [(k, img)] }
  | _ => s

/-- SY_KICK at the thread that reads it (R207). -/
def kickReturns (tid core : Nat) (v : W64) (s : State) : State :=
  match s.waiter tid core with
  | some (t, .kick d len) => (s.writeWOf t d v).resume (((t.setDst d v).push v).next len)
  | _ => s

def execReadData (k : Nat) (s : State) : Host.Outcome State Fault Refusal :=
  settled (
    match s.take k with
    | none => s
    | some (m, s1) =>
      match m.body with
      | .line fill bytes stop => fillLine m.dst fill bytes stop s1
      | .data tid fill bytes stop code =>
        loadArrives tid m.dst bytes code (fillLine m.dst fill bytes (if code = 0 then stop else 0) s1)
      | .image tid j img => imageReturns tid m.dst j img s1
      | .kickValue tid v => kickReturns tid m.dst v s1
      | _ => s)

/-- The result of an atomic at its thread (R105); the failed write of a leased line is dropped with it. -/
def resultArrives (t : Thread) (c : Cont) (old : W64) (ok : Bool) (fl : BitVec 7) (code wid : Nat) (s : State) : State :=
  if code ≠ 0 then s.raiseAt { t with writes := t.writes.filter (fun w => w.id != wid) } code 0 t.pendH
  else
    let v := match c with | .atomic _ ty _ => extend ty.toNat old.toNat | _ => 0
    (s.writeWOf t c.dst v).resume (c.finishAtomic old ok fl t)

def execAtomicResult (k : Nat) (s : State) : Host.Outcome State Fault Refusal :=
  settled (
    match s.take k with
    | some (m, s1) =>
      (match m.body with
       | .result tid old ok fl code wid =>
         (match s1.waiter tid m.dst with
          | some (t, c) => resultArrives t c old ok fl code wid s1
          | none => s1)
       | _ => s)
    | none => s)

/-! ## Writes (R88, R89) -/

/-- An exited thread none of whose writes is outstanding is gone. -/
def State.reap (s : State) (tid : Nat) : State :=
  { s with threads := s.threads.filter (fun t => !(t.tid == tid && t.status == .exited && t.writes.isEmpty && t.fwd.isEmpty)) }

/-- A thread that stops on its way: its context goes no further, and the slot that it left is free. -/
def State.dropContext (s : State) (tid : Nat) : State :=
  { s with net := s.net.filter (fun m => match m.body with | .context t => t != tid | _ => true),
           cores := s.cores.map (fun (c : CoreSt) => { c with leaving := c.leaving.filter (fun x => x.1 != tid) }) }

/-- An acknowledgement at the issuing core. A failure whose thread has left that core or has exited is a launch error. -/
def ackArrives (core tid wid : Nat) (till : W64) (code : Nat) (s : State) : State :=
  match s.thread? tid with
  | none => s
  | some t =>
    match t.writes.find? (fun w => w.id == wid) with
    | none => s
    | some w =>
      let rest := t.writes.filter (fun x => x.id != wid)
      let put (st : WriteState) : List SentWrite := t.writes.map (fun x => if x.id = wid then { x with state := st } else x)
      if code = 0 then
        let wait := w.leased && dieOf w.target == dieOf core && (s.dtcOf (dieOf core)).toNat < till.toNat
        ((s.putThread { t with writes := if wait then put (.until till) else rest }).retryWrites tid).reap tid
      else if t.status = .exited then ((s.putThread { t with writes := rest }).recordError t.job t.launch code).reap tid
      else if t.core ≠ w.core ∨ t.status = .outbound then ((s.dropContext tid).putThread { t with writes := rest }).launchErrorOf { t with writes := rest } code
      else (s.putThread { t with writes := put (.failed code) }).retryWrites tid

def execWriteAcknowledgement (k : Nat) (s : State) : Host.Outcome State Fault Refusal :=
  settled (
    match s.take k with
    | some (m, s1) => (match m.body with | .ack tid wid till code => ackArrives m.dst tid wid till code s1 | _ => s)
    | none => s)

/-- Acknowledged writes to leased lines whose time has come are complete (R88). -/
def execLeasedWriteComplete (tid : Nat) (s : State) : Host.Outcome State Fault Refusal :=
  settled (
    match s.thread? tid with
    | none => s
    | some t =>
      let live := t.writes.filter (fun w => match w.state with | .until u => (s.dtcOf (dieOf w.core)).toNat < u.toNat | _ => true)
      ((s.putThread { t with writes := live }).retryWrites tid).reap tid)

/-- Lease-table entries that have ended free, and the acknowledgements held for them leave (R88, R293); the host's are answered (R373). -/
def execLeaseExpiry (core : Nat) (s : State) : Host.Outcome State Fault Refusal :=
  .next (
    let q := s.port core
    let now := (s.dtcOf (dieOf core)).toNat
    let due := q.ackHold.filter (fun x => x.1.toNat ≤ now)
    due.foldl (fun s x => match x.2.2.who.ackTo with
      | some tid => s.send core x.2.1 2 (ackBody x.2.1 tid x.2.2.wid x.1 0)
      | none => { s with host := .writeDone false :: s.host })
      (s.putPort { q with leases := q.leases.filter (fun x => now < x.2.2.2.toNat),
                          ackHold := q.ackHold.filter (fun x => now < x.1.toNat) }))

/-! ## Engine data (R403) -/

/-- ENGINE_DATA: message `k` is performed at its home (R304, R316); on an absent page the job holds, or stops with FSTOP. -/
def execEngineData (k : Nat) (s : State) : Host.Outcome State Fault Refusal :=
  .next (match s.take k with
    | some (m, gone) =>
      match m.body with
      | .engine plaza key asid pos h bs =>
          match (s.plaza plaza).job? key with
          | none => gone
          | some j =>
            if j.heldKey.isSome then s
            else
              match writePiece (engWho plaza key pos) asid h bs s with
              | .ok s1 => pieceLanded plaza ((s1.plaza plaza).job? key |>.getD j) pos bs.length { s1 with net := s1.net.eraseIdx k }
              | .error x =>
                match x.noted (engWho plaza key pos) asid s with
                | (.absent home pk npos h, _) =>
                  if j.fstop then engStop plaza (j.lose pos) 1 (.absent home pk npos h) gone else engStop plaza j 1 (.absent home pk npos h) s
                | (.code c, s1) => stopJob plaza (j.lose pos) c { s1 with net := s1.net.eraseIdx k }
                | (_, s1) => s1
      | _ => s
    | none => s)

/-! ## Queues (R100, R101, R296, R398) -/

def execQueueEntry (k : Nat) (s : State) : Host.Outcome State Fault Refusal :=
  settled (
    match s.take k with
    | some (m, s1) =>
      (match m.body with
       | .entry plaza bank bytes tid wid => entryArrives m.dst m.src plaza bank bytes tid wid s1
       | _ => s)
    | none => s.stageAt k)

def execGrant (k : Nat) (s : State) : Host.Outcome State Fault Refusal :=
  settled (
    match s.take k with
    | some (m, s1) =>
      (match m.body with
       | .grant d size count credits plaza bank fresh => grantArrives m.dst m.src d size count credits plaza bank fresh s1
       | .grantAck plaza bank ok => grantAcked plaza bank ok s1
       | _ => s)
    | none => s)

def execCredit (k : Nat) (s : State) : Host.Outcome State Fault Refusal :=
  settled (
    match s.take k with
    | some (m, s1) => (match m.body with | .credit d => creditArrives m.dst d s1 | _ => s)
    | none => s)

def execRevoke (k : Nat) (s : State) : Host.Outcome State Fault Refusal :=
  settled (
    match s.take k with
    | some (m, s1) => (match m.body with | .revoke d plaza bank want => revokeArrives m.dst m.src d plaza bank want s1 | _ => s)
    | none => s)

def execRevokeReply (k : Nat) (s : State) : Host.Outcome State Fault Refusal :=
  settled (
    match s.take k with
    | some (m, s1) => (match m.body with | .revokeReply plaza bank => revokeReplied plaza bank s1 | _ => s)
    | none => s.stageAt k)

/-! ## Barriers and boards (R385, R389) -/

/-- A barrier request waits while its barrier is written out, and an arrival while there is no room for its record (R378, R385). -/
def barrierWaits (d : DieSt) (b : ModBarrier) (op : Nat) : Bool :=
  d.syeFull.contains (barrierObject b.index) ||
    (op == 0 && !b.broken && b.arrivals + 1 != b.parties && d.syeBytes + 16 > syeRoom)

/-- A request that an SYE holds: it has arrived and is not performed yet. -/
def Msg.heldAtSye (m : Msg) : Bool := m.vc == 2 && !m.isMoving

/-- The object of an SYE that a request is for (R378). -/
def Msg.syeObject (m : Msg) : Option Nat :=
  match m.body with
  | .barrier _ index _ _ _ => some (barrierObject index)
  | .board _ index _ _ _ _ _ _ => some (boardObject index)
  | _ => none

/-- A request waits behind one that its SYE holds, for the same object or of the same thread (R353, R378). -/
def State.syeBehind (s : State) (k : Nat) (m : Msg) : Bool :=
  (if m.isMoving then s.net else s.net.take k).any (fun x => x.heldAtSye && x.dst == m.dst &&
    (x.syeObject == m.syeObject || (m.threadOrder.isSome && x.threadOrder == m.threadOrder)))

/-- A request is held at its SYE, in arrival order (R378). -/
def State.holdAtSye (s : State) (k : Nat) (m : Msg) : State :=
  if m.isMoving then { s with net := s.net.eraseIdx k ++ [{ m with spot := .staged 0 }] } else s

def execBarrierRequest (k : Nat) (s : State) : Host.Outcome State Fault Refusal :=
  settled (
    match s.take k with
    | none => s
    | some (m, s1) =>
      match m.body with
      | .barrier op index asid ident tid =>
        let die := dieOf m.dst
        let d := s1.die die
        if s.syeBehind k m then s.holdAtSye k m
        else
        (match d.barriers.find? (fun b => b.index == index && b.asid == asid) with
         | none => if op = 1 then s1.send m.dst m.src 2 (.release tid false) else s1
         | some b =>
           if barrierWaits d b op then s.holdAtSye k m
           else if op = 0 then arrive die b ident s1
           else waitAt die m.src b ident tid s1)
      | _ => s)

/-- An object in the overflow area is brought back before its requests (R378). -/
def execSyeOverflow (die object : Nat) (s : State) : Host.Outcome State Fault Refusal :=
  .next (
    let d := s.die die
    if d.syeFull.contains object then s.putDie ({ d with syeFull := d.syeFull.filter (· != object) }.used object) else s)

def execBarrierRelease (k : Nat) (s : State) : Host.Outcome State Fault Refusal :=
  settled (
    match s.take k with
    | some (m, s1) =>
      (match m.body with
       | .release tid whole =>
         (match s1.waiter tid m.dst with
          | some (t, .release p len) => s1.resume ((t.setP p whole).next len)
          | _ => s1)
       | _ => s)
    | none => s)

def execBoardRequest (k : Nat) (s : State) : Host.Outcome State Fault Refusal :=
  settled (
    match s.take k with
    | none => s
    | some (m, s1) =>
      match m.body with
      | .board op index asid slot value tid gen mask =>
        let die := dieOf m.dst
        let d := s1.die die
        if s.syeBehind k m then s.holdAtSye k m
        else
        (match d.boards.find? (fun b => b.index == index && b.asid == asid) with
         | none => s1.send m.dst m.src 2 (.boardReply tid (lostView (BitVec.ofNat 64 (die * 2 ^ 28 + index))) 0 0)
         | some b =>
           if d.syeFull.contains (boardObject index) then s.holdAtSye k m else serveBoard die m.src op b slot value tid gen mask s1)
      | _ => s)

def execBoardReply (k : Nat) (s : State) : Host.Outcome State Fault Refusal :=
  settled (
    match s.take k with
    | some (m, s1) =>
      (match m.body with
       | .boardReply tid v x level =>
         (match s1.waiter tid m.dst with
          | some (t, c) => (s1.writeWOf t c.dst (match c with | .slot _ _ _ => x | _ => BitVec.ofNat 64 level)).resume (c.finishBoard v x level t)
          | none => s1)
       | _ => s)
    | none => s)

/-! ## Wakes, kicks and notices (R108, R206, R207, R210) -/

/-- A monitored thread goes on behind its `WAITC`; one that was swapped out waits for a landing slot (R108). R31 gives no place to a context that never
arrived by a first cell: the model orders it by the cc of its wake, and serves it as an anchor return, slot 3 among its slots, where it is at its own
anchor (log entry 151). -/
def wakeMonitor (t : Thread) (len : Nat) (s : State) : State :=
  match t.place with
  | .area _ _ => s.putThread { t.next len with status := .overflow, since := (s.core t.core).ccnt.toNat }
  | _ => s.resume (t.next len)

/-- The monitor that a hub's tier migration engine holds on the TAIL of an ASID's ring has fired (R279). -/
def ringWakes (hub asid : Nat) (s : State) : State := s.putHub hub { s.hub hub with armed := (s.hub hub).armed.filter (· != asid) }

/-- A wake at a thread: of its monitor, or of the `IDLE` that it names (R108, R206, R208); or at a hub's engine (R279). -/
def wakeArrives (core tid nap : Nat) (s : State) : State :=
  if 512 ≤ core ∧ 2 ^ 64 ≤ tid then ringWakes (dieOf core - 8) (tid - 2 ^ 64) s
  else
  match s.thread? tid with
  | none => s
  | some t =>
    if t.core ≠ core ∨ t.status = .saved ∨ t.status = .exited then s
    else
      match t.wait with
      | .answer (.monitor len) => wakeMonitor t len s
      | .monitor _ len => wakeMonitor t len s
      | .sleep => if t.smode = 3 ∧ t.nap = nap then s.wakeThread { t with smode := 0, kick0 := none } else s
      | _ => s

def execWake (k : Nat) (s : State) : Host.Outcome State Fault Refusal :=
  settled (
    match s.take k with
    | some (m, s1) => (match m.body with | .wake tid nap => wakeArrives m.dst tid nap s1 | _ => s)
    | none => s)

def execKick (k : Nat) (s : State) : Host.Outcome State Fault Refusal :=
  settled (
    match s.take k with
    | some (m, s1) => (match m.body with | .kick wid inc tid nap => kickArrives wid inc tid nap s1 | _ => s)
    | none => s)

/-- A thread of a launch of this module that another module runs, as a peer's message names its launch: spawned there, or exited (R16). -/
def State.countAway (s : State) (job launch : Nat) (up : Bool) : State :=
  match s.job? job with
  | some j => if up then s.putJob (j.mapTcb (fun t => t.launch == launch) (fun t => { t with spawned := t.spawned + 1 })) else s.spawnedExit job launch
  | none => s

/-- A thread of this module that is in another module. -/
def Thread.away (t : Thread) : Bool := 1024 ≤ t.core && t.place == .gone && t.status != .exited

/-- An exit notice at the anchor; the thread has been absent since its `EXIT` issued (R77). Of a thread that was in another module its exit is known by
it (R412). -/
def execExitNotice (k : Nat) (s : State) : Host.Outcome State Fault Refusal :=
  settled (
    match s.take k with
    | some (m, s1) =>
      (match m.body with
       | .exitNotice wid index =>
         let w := s1.wgBy wid
         if w.wid = 0 ∨ w.exited.contains index then s1 else s1.putWg { w with exited := index :: w.exited }
       | .awayExit tid => (match (s1.thread? tid).filter Thread.away with | some t => s1.stopThread { t with core := t.anchor } | none => s1)
       | .awaySpawn job launch up => s1.countAway job launch up
       | _ => s)
    | none => s)

/-! ## Answers that a peer gives, or a memory to what was made in place (R89, R430) -/

/-- The answer to a thread's request: bytes of a read; of an atomic the old value, its success and its flags. -/
def answerThread (src tid : Nat) (r : Request) (code : Nat) (bs : List Byte) (s : State) : State :=
  match r.kind, r.post with
  | .write, _ | .atomic, true => ackArrives src tid r.wid 0 code s
  | .read, _ => loadArrives tid src bs code s
  | .atomic, false =>
    (match s.waiter tid src with
     | some (t, c) =>
       resultArrives t c (BitVec.ofNat 64 (leNat (bs.take 8))) (leNat ((bs.drop 8).take 1) != 0) (BitVec.ofNat 7 (leNat ((bs.drop 9).take 1))) code
         r.wid s
     | none => s)

/-- The answer to a sequencer's instruction: bytes that its step waits for, or a stop; a write of an entry that fails raises no fault (R271, R272). -/
def answerSequencer (wid serial : Nat) (r : Request) (code : Nat) (bs : List Byte) (s : State) : State :=
  let w := s.wgBy wid
  let take (pr : Probe) : Probe := if r.kind == .read then { pr with got := pr.got ++ [(r.handle, bs)] } else pr
  let s := s.wakeWaiting (fun t => t.wait == .sequencer && w.is t)
  match w.seq.parts.find? (fun x => x.instr.serial == serial) with
  | some x =>
    if code = 0 then s.putPart wid serial (some { x with probe := take x.probe })
    else if x.probe.writes.isEmpty then stopPart w x code s
    else s.putPart wid serial (some { x with probe := x.probe.dropEntry })
  | none =>
    if !(w.seq.queue.head?.map (fun i => i.serial == serial)).getD false then s
    else if code = 0 then s.putWg { w with seq := { w.seq with probe := take w.seq.probe } }
    else if w.seq.probe.writes.isEmpty then stopHead w code w.seq.step s
    else s.putWg { w with seq := { w.seq with probe := w.seq.probe.dropEntry } }

/-- The answer to an engine job. -/
def answerEngine (plaza key : Nat) (r : Request) (code : Nat) (bs : List Byte) (s : State) : State :=
  match (s.plaza plaza).job? key with
  | none => s
  | some j => if code ≠ 0 then stopJob plaza j code s else s.setJob plaza { j with got := j.got ++ [(r.handle, bs)] }

/-- What comes back to a requester at core `src`. -/
def answerRequest (src : Nat) (r : Request) (code : Nat) (bs : List Byte) (s : State) : State :=
  match r.who with
  | .thread tid => answerThread src tid r code bs s
  | .sequencer wid serial => answerSequencer wid serial r code bs s
  | .engine plaza key => answerEngine plaza key r code bs s
  | .row plaza key pos =>
    (match (s.plaza plaza).job? key with
     | some j => if code ≠ 0 then stopJob plaza (j.lose (some pos)) code s else s
     | none => s)
  | .hub _ => { s with gs := { s.gs with got := s.gs.got ++ [(r.wid, r.handle, code, bs)] } }
  | .peer _ _ | .sector _ _ | .cache | .host => s

end Sys2Proof.Machine
end

