-- ==== Sys2Proof/Machine/Pages.lean ====
section
/-! DEFINITION. Translation and page movement (R277-R280, R287, R298-R306), the memory-side cache (R340-R342), layers (R346-R348), row
protection (R349, R350) and the completions of a host port (R411). -/

namespace Sys2Proof.Machine

/-! ## Misses and records (R287, R298, R301) -/

/-- The table entry comes in: every thread of the core that waits for it goes on. -/
def execDescriptorCacheFill (tid : Nat) (s : State) : Host.Outcome State Fault Refusal :=
  .next (
    match s.thread? tid with
    | none => s
    | some t =>
      match t.wait with
      | .descriptor asid slot =>
        let x := s.core t.core
        let mine (u : Thread) : Bool := u.core == t.core && u.wait == .descriptor asid slot
        (match s.tableEntry asid slot with
         | some e => (s.putCore { x with desc := fillDesc x.desc asid slot e }).wakeWaiting mine
         | none => (s.mapThreads (fun u => if mine u then { u with badIndex := some slot } else u)).wakeWaiting mine)
      | _ => s)

def execPageMapWalk (core : Nat) (key : PageKey) (s : State) : Host.Outcome State Fault Refusal := settled (walkDone core key s)

/-- A record that found the queue full is posted again, every 1,000 ns of the die's DTC (R301). -/
def execFaultPostRetry (core : Nat) (s : State) : Host.Outcome State Fault Refusal :=
  .next (
    let q := s.port core
    let now := s.dtcOf (dieOf core)
    match q.unposted.find? (fun x => x.2.2.toNat ≤ now.toNat) with
    | none => s
    | some x =>
      match s.postBytes x.2.1 with
      | some s1 => let q1 := s1.port core; s1.putPort { q1 with unposted := q1.unposted.filter (fun y => y.1 != x.1) }
      | none => s.putPort { q with unposted := q.unposted.map (fun y => if y.1 = x.1 then (y.1, y.2.1, now + 1000) else y) })

/-! ## Requests that were translated and wait -/

/-- A request that its home has translated under a page of a test, at a port of a test. -/
def Request.heldOf (p : PageKey → Bool) (at_ : Nat → Bool) (r : Request) : Bool :=
  match r.trans with
  | some x => p x.key && at_ x.port
  | none => false

/-- Requests for a page that were translated at a port and have not been performed and answered: behind a throttled row or a sector, at the
host, on their way to another unit, or with their acknowledgement held (R303). -/
def State.heldFor (s : State) (p : PageKey → Bool) (at_ : Nat → Bool) : Bool :=
  s.ports.any (fun q => q.rowHold.any (fun x => x.2.2.heldOf p at_) || q.mscWait.any (fun x => x.2.2.heldOf p at_) ||
    q.ackHold.any (fun x => x.2.2.heldOf p at_)) ||
  s.net.any (fun m => match m.body with
    | .read r | .store r | .atomic r | .fill r | .arm r | .units r _ _ | .hostRead r _ _ _ | .hostWrite r _ _ _ => r.heldOf p at_
    | _ => false)

/-! ## The sectors of a memory-side cache (R339-R342) -/

/-- An index whose metadata may be used. -/
def PortSt.sound (q : PortSt) (i : Nat) : Bool := (q.line i).2.2.2 && !q.poisonIdx.contains i

/-- A sector leaves its cache; an index in error is left as it is (R341, R342). -/
def dropSector (core i : Nat) (s : State) : State :=
  let q := s.port core
  if !(q.line i).1 || !q.sound i then s else s.putPort (q.setLine i false false 0)

/-- A sector leaves its cache, written back first where it is dirty, once its rows let it through (R341, R349, R350). One whose hub is lost stays cached
and dirty; an index whose CHECK fails is poisoned (R342). -/
def flushSector (who : Requester) (core i : Nat) (s : State) : Except Stop State :=
  let q := s.port core
  let m := q.line i
  if q.poisonIdx.contains i then .ok s
  else if !m.2.2.2 then .ok (s.poisonIndex core i)
  else if m.1 && m.2.1 && s.capUp (q.victim i) then
    (rowGate who (q.sectorAt i 0) 2048 s).map (fun s1 => dropSector core i (writeBack core i s1))
  else .ok (if m.1 && m.2.1 then s else dropSector core i s)

/-- The sectors of a tier-CAP page leave their cache, and are not written back. -/
def dropSectors (p : Pme) (s : State) : State :=
  let a := p.byteAt 0 - 2 ^ 42
  (List.range 32).foldl (fun s k =>
    let q := s.port p.core
    let x := a + 2048 * k
    if p.tier ≠ 1 ∨ !q.caches x then s else dropSector p.core (x / 2048 % q.sectors) s) s

/-! ## Pages (R297, R298) -/

/-- The handle of a page from its position in the home set. -/
def pageHandle (e : BufEntry) (size buf page pos : Nat) : W64 :=
  let g := granule e.gran
  handleOf buf ((page * 65536 / g * size + pos) * g)

/-- Every present page of a registered ASID: its key, its handle, its home, the address of its PME, its PME. -/
def State.presentPages (s : State) : List (PageKey × W64 × Nat × Nat × Pme) :=
  s.gs.asids.flatMap (fun x => (List.range 4096).flatMap (fun slot =>
    match parseEntry x.1 (memRead s.mem (x.2.1 + 64 * slot) 64) with
    | none => []
    | some e =>
      let size := setSize s.conf.lc e
      let buf := e.gen * 4096 + slot
      if slot = 0 ∨ size = 0 then []
      else
        (List.range (memNat s.mem (x.2.2 + 16 * slot + 8) 4)).filterMap (fun n =>
          let h := pageHandle e size buf (n / size) (n % size)
          let home := (homeLoc s.conf.lc e (offsetOf h)).home
          let key : PageKey := ⟨x.1, buf, n / size⟩
          let a := memNat s.mem (x.2.2 + 16 * slot) 8 + 8 * n
          (parsePme (s.frameCore home key) (memNat s.mem a 8)).map (fun p => (key, h, home, a, p)))))

/-! ## Invalidation (R303, R306, R341) -/

/-- Whether a byte of [a, a + n) of a buffer lies in a home-local page. -/
def pageMeets (e : BufEntry) (size pos page a n : Nat) : Bool :=
  let g := granule e.gran
  (List.range (65536 / g)).any (fun k =>
    let o := ((page * 65536 / g + k) * size + pos) * g
    o < a + n && a < o + g)

/-- Whether an invalidation covers a page of a port. -/
def covers (s : State) (port asid level : Nat) (h : W64) (n : Nat) (key : PageKey) : Bool :=
  key.asid == asid && (level == 2 || (key.buf == indexOf h &&
    (match s.portEntry port asid key.buf with
     | some e => pageMeets e (setSize s.conf.lc e) (posOf s.conf.lc e port) key.page (offsetOf h) n
     | none => true)))

/-- The sectors that an invalidation covers, at the unit that caches them: those of the pages that it covers, and those of no page that is present
any more (R341, log entry 148). -/
def flushCovered (who : Requester) (unit : Nat) (hit : PageKey → Bool) (s : State) : Except Stop State :=
  let q := s.port unit
  if q.msc.isEmpty then .ok s
  else
    let stay := s.presentPages.filter (fun x => x.2.2.2.2.tier == 1 && x.2.2.2.2.core == unit && !hit x.1)
    q.msc.foldlM (fun s x =>
      let a := capAt ((s.port unit).victim x.1)
      if stay.any (fun y => y.2.2.2.2.byteAt 0 ≤ a && a < y.2.2.2.2.byteAt 0 + 65536) then .ok s else flushSector who unit x.1 s) s

/-- The tracker of a hub counts an unpinned page anew (R306): one that it has counted, or that an INVAL has found, while PIN was set, or that its port holds
with PIN set. -/
def resetTrackers (hub : Nat) (hit : PageKey → Bool) (s : State) : State :=
  let x := s.hub hub
  let port := 0x200 + 64 * hub
  s.putHub hub { x with trackers := x.trackers.map (fun t =>
    let key (y : Nat × Nat) : PageKey := ⟨t.asid, y.1, y.2⟩
    let was (y : Nat × Nat) : Bool := t.pins.contains y || (((s.port port).lookup (key y)).map Pme.pin).getD false
    let pinned (y : Nat × Nat) : Bool := ((s.walkPme port (key y)).map Pme.pin).getD false
    let free (y : Nat × Nat) : Bool := hit (key y) && was y && !pinned y
    let found := (t.counts.map (fun c => (c.1, c.2.1))).filter (fun y => hit (key y) && pinned y && !t.pins.contains y)
    { t with quiet := t.quiet.filter (fun y => !free y), pins := t.pins.filter (fun y => !free y) ++ found,
             counts := t.counts.filter (fun c => !free (c.1, c.2.1)) }) }

/-- The read cache of a core drops its lines of a range, and discards those that are on their way to it (R303). -/
def CoreSt.dropRange (c : CoreSt) (asid level : Nat) (h : W64) (n : Nat) : CoreSt :=
  let old (a b line : Nat) : Bool := a == asid && (level == 2 || (b == indexOf h && line < offsetOf h + n && offsetOf h < line + 512))
  { c with lines := c.lines.filter (fun l => !old l.asid l.buf l.line), fills := c.fills.filter (fun f => !old f.asid f.buf f.line) }

/-- A unit drops what an invalidation covers (R303, R341). With a home go the lines that it has granted to the cores of its die since they answered. -/
def applyInval (hub unit asid level : Nat) (h : W64) (n : Nat) (s : State) : Except Stop State :=
  let hit := covers s unit asid level h n
  let keepDesc (x : Nat × Nat × BufEntry) : Bool := !(x.1 == asid && (level == 2 || (level == 1 && x.2.1 % 4096 == indexOf h % 4096)))
  let forget (s : State) : State := let q := s.port unit; s.putPort { q with mtlb := q.mtlb.filter (fun x => !hit x.1), desc := q.desc.filter keepDesc }
  if unit < 512 then
    (flushCovered (.hub hub) unit hit s).map (fun s1 =>
      let s2 := forget s1
      let c := s2.core unit
      let s3 := s2.putCore { c with desc := c.desc.filter keepDesc }
      { s3 with cores := s3.cores.map (fun c => if dieOf c.id = dieOf unit then c.dropRange asid level h n else c) })
  else .ok (forget (resetTrackers (dieOf unit - 8) hit s))

/-- A sector on its way back from the cache of a unit (R340, R341). -/
def PortSt.writingBack (q : PortSt) : Bool := q.mscBusy.any (fun x => x.2.2 == 0)

/-- A unit answers once nothing that it translated before is outstanding; until then the notice waits. -/
def execInvalidation (k : Nat) (s : State) : Host.Outcome State Fault Refusal :=
  .next (
    match s.take k with
    | some (m, s1) =>
      (match m.body with
       | .inval hub asid level h n =>
         if s1.heldFor (covers s1 m.dst asid level h n) (· == m.dst) || (s1.port m.dst).writingBack then s
         else
           match applyInval hub m.dst asid level h n s1 with
           | .ok s2 => s2.send m.dst (0x200 + 64 * hub) 2 (.invalAnswer hub asid)
           | .error y => (y.noted (.hub hub) asid s).2
       | _ => s)
    | none => s)

/-- Every unit that the module holds a state of. -/
def State.unitIds (s : State) : List Nat := (s.ports.map PortSt.id ++ s.cores.map CoreSt.id).eraseDups

/-- An ASID's bases, replacing earlier ones (R302). -/
def setBases (asid bt l1 : Nat) (s : State) : State :=
  { s with gs := { s.gs with asids := (asid, bt, l1) :: s.gs.asids.filter (fun x => x.1 != asid) } }

/-- One answer less that an INVAL waits for (R303); the last one completes the command. The bases of a REGASID change with it: no unit keeps what
it may have read under the old ones since its answer (R287, R302). -/
def State.answered (s : State) (hub : Nat) : Except Stop State :=
  let x := s.hub hub
  match x.inval with
  | none => .ok s
  | some p =>
    if 1 < p.left then .ok (s.putHub hub { x with inval := some { p with left := p.left - 1 } })
    else
      let s1 := complete hub p.tag 0 (s.putHub hub { x with inval := none })
      match p.bases with
      | none => .ok s1
      | some b => (s1.unitIds.foldlM (fun s u => applyInval hub u p.asid 2 0 0 s) s1).map (setBases p.asid b.1 b.2)

/-- Something translated under bases that the last outstanding answer would replace is not over. -/
def State.basesHeld (s : State) (hub : Nat) : Bool :=
  match (s.hub hub).inval with
  | some p => p.left ≤ 1 && p.bases.isSome && s.heldFor (fun key => key.asid == p.asid) (fun _ => true)
  | none => false

def execInvalidationAnswer (k : Nat) (s : State) : Host.Outcome State Fault Refusal :=
  .next (
    match s.take k with
    | some (m, s1) =>
      (match m.body with
       | .invalAnswer hub asid =>
         if s1.basesHeld hub then s
         else
           match s1.answered hub with
           | .ok s2 => s2
           | .error y => (y.noted (.hub hub) asid s).2
       | _ => s)
    | none => s)

/-! ## The memory-side cache (R340-R342) -/

/-- The first access that waits for an index: its source, the request, what was translated. -/
def PortSt.sectorFirst (q : PortSt) (index : Nat) : Option (Nat × Request × Translated) :=
  match q.mscWait.find? (fun x => x.1 == index) with
  | some (_, src, r) => r.trans.map (fun x => (src, r, x))
  | none => none

/-- The first access that waits for an index is taken out. -/
def PortSt.sectorNext (q : PortSt) (index : Nat) : PortSt := { q with mscWait := q.mscWait.eraseP (fun x => x.1 == index) }

/-- The first access that waits for an index is performed on its cached sector; while it waits for a throttled row it keeps the index (R340,
R350). -/
def performSector (core index : Nat) (s : State) : State :=
  match (s.port core).sectorFirst index with
  | none => s
  | some (src, r, x) =>
    let q := s.port core
    let m := q.line index
    let q1 := (q.setLine index m.1 (m.2.1 || r.kind != .read) m.2.2.1.toNat).sectorNext index
    let s1 := s.putPort q1
    let pa := s1.phys x.p x.lam
    let rows := rowsAt pa r.size
    match q1.throttledIn rows with
    | some row => joinRow core row src r (s1.putPort { q1 with mscBusy := (index, (x.cell - 2 ^ 42) / 2048, 2) :: q1.mscBusy })
    | none => performAt x r pa (rows.foldl (fun s row => countRow core row s) s1)

/-- The first access that waits for an index fails. -/
def refuseSector (core index code : Nat) (s : State) : State :=
  match (s.port core).sectorFirst index with
  | none => s
  | some (src, r, x) => (s.putPort ((s.port core).sectorNext index)).refuseAt x.unit src r code

/-- A fill request leaves for the hub. -/
def askSector (core index a : Nat) (s : State) : State :=
  let q := (s.port core).count 1
  (s.putPort { q with mscBusy := (index, a / 2048, 1) :: q.mscBusy.filter (fun x => x.1 != index) }).send core (capHub a) 0
    (.sectorFill index (a / 2048))

/-- A miss: a dirty sector is written back first, then the fill is asked for; the sector's rows let them through (R340, R349). A miss of a lost hub counts
and fails (R341, R345). What waits for a throttled row waits for the request's ASID (R351). -/
def missSector (core index a asid : Nat) (s : State) : State :=
  let q := s.port core
  let m := q.line index
  let dirty := m.1 && m.2.1
  let who := Requester.sector core index
  if !s.capUp a || (dirty && !s.capUp (q.victim index)) then refuseSector core index 0x0D (s.putPort (q.count 1))
  else
    match rowGate who (q.sectorAt index 0) 2048 s with
    | .error x => (x.noted who asid s).2
    | .ok s1 =>
      if dirty then
        let q1 := s1.port core
        (s1.putPort { q1 with mscBusy := (index, a / 2048, 0) :: q1.mscBusy }).send core (capHub (q.victim index)) 3
          (.writeBack index (q.victim index / 2048) (memRead s1.mem (q.sectorAt index 0) 2048))
      else askSector core index a s1

/-- What waits for an index is next: a request of another unit, or for another index, which waits for its mirror, tries again (R344). -/
def execMemorySideCacheAccess (core index : Nat) (s : State) : Host.Outcome State Fault Refusal :=
  settled (
    let q := s.port core
    match q.sectorFirst index with
    | none => s
    | some (_, r, x) =>
      let a := x.cell - 2 ^ 42
      if x.unit ≠ core ∨ x.p.tier ≠ 1 ∨ a / 2048 % q.sectors ≠ index then
        (if q.mscBusy.any (fun x => x.1 == index) then s else atMemory x r (s.putPort (q.sectorNext index)))
      else if q.poisonIdx.contains index then refuseSector core index 0x0D s
      else if !(q.line index).2.2.2 then refuseSector core index 0x0D (s.poisonIndex core index)
      else if q.mscBusy.any (fun x => x.1 == index) then s
      else if q.caches a then performSector core index (s.putPort (q.count 0))
      else missSector core index a r.asid s)

/-- A fill has come in: the access that it is for is performed, if it is still the first that waits and the index is sound (R340, R342). -/
def sectorFilled (core index sector : Nat) (s : State) : State :=
  let q := s.port core
  match q.sectorFirst index with
  | some (_, _, x) => if x.unit = core ∧ x.p.tier = 1 ∧ (x.cell - 2 ^ 42) / 2048 = sector ∧ q.sound index then performSector core index s else s
  | none => s

/-- Data of a sector, or of the units that a home has fetched from its hub; or the failure of what was made in place (R340, R89). -/
def execSectorData (k : Nat) (s : State) : Host.Outcome State Fault Refusal :=
  settled (
    match s.take k with
    | some (m, s1) =>
      (match m.body with
       | .sector index sector bytes =>
         let q := s1.port m.dst
         let s2 := s1.copyMem (capAt (2048 * sector)) (q.sectorAt index 0) 2048
         let s3 : State := { s2 with mem := memWrite s2.mem (q.sectorAt index 0) bytes }
         let q1 := (s3.port m.dst).setLine index true false (sector / q.sectors)
         sectorFilled m.dst index sector (s3.putPort { q1 with mscBusy := q1.mscBusy.filter (fun x => x.1 != index) })
       | .units r bytes code =>
         (match r.trans with
          | some x => unitsArrive x r bytes code s1
          | none => answerRequest m.dst r code bytes s1)
       | _ => s)
    | none => s)

def execSectorWriteBackAck (k : Nat) (s : State) : Host.Outcome State Fault Refusal :=
  settled (
    match s.take k with
    | some (m, s1) =>
      (match m.body with
       | .writeBackAck index =>
         let q := s1.port m.dst
         let x := q.line index
         let q1 := (q.setLine index x.1 false x.2.2.1.toNat).count 2
         (match q.mscBusy.find? (fun y => y.1 == index) with
          | some (_, sector, _) =>
            if s1.capUp (2048 * sector) then askSector m.dst index (2048 * sector) (s1.putPort q1)
            else refuseSector m.dst index 0x0D (s1.putPort { q1.count 1 with mscBusy := q1.mscBusy.filter (fun y => y.1 != index) })
          | none => s1.putPort q1)
       | _ => s)
    | none => s)

/-! ## Row protection (R349, R350) -/

/-- The page under WB, at the port that holds its entry, in whose frame a byte of a channel lies (R304). -/
def State.heldPage (s : State) (a : Nat) : Option Translated :=
  s.ports.findSome? (fun q => q.mtlb.findSome? (fun y =>
    if y.2.wb && y.2.tier == 0 && y.2.byteAt 0 ≤ a && a < y.2.byteAt 0 + 65536 then
      (s.portEntry q.id y.1.asid y.1.buf).map (fun e => ⟨q.id, q.id, y.2.core, e, y.1, y.2, y.1.page * 65536 + a % 65536, none⟩)
    else none))

/-- The handle of a byte of a page by its home-local offset, the converse of R286. -/
def State.handleAt (s : State) (x : Translated) : W64 :=
  let g := granule x.e.gran
  handleAdd (pageHandle x.e (setSize s.conf.lc x.e) x.key.buf x.key.page (posOf s.conf.lc x.e x.port))
    (x.lam % 65536 / g * setSize s.conf.lc x.e * g + x.lam % g)

/-- The end of the latest lease that a byte of a channel is under (R293). -/
def State.leaseOver (s : State) (core a n : Nat) : W64 :=
  (s.port core).leases.foldl (fun t x =>
    match s.portEntry core x.1 x.2.1 with
    | none => t
    | some e =>
      let l := homeLoc s.conf.lc e x.2.2.1
      match s.pageOf core ⟨x.1, x.2.1, l.page⟩ with
      | some p => if p.tier = 0 ∧ p.byteAt l.lam < a + n ∧ a < p.byteAt l.lam + 512 ∧ t.toNat < x.2.2.2.toNat then x.2.2.2 else t
      | none => t) 0

/-- The bytes that a host write changes, in runs; with `post` set the mask in `c` says which of them (R411). -/
def Request.runs (r : Request) : List (Nat × List Byte) :=
  let on (k : Nat) : Bool := !r.post || bitOf r.c.toNat k
  (r.data.zipIdx.foldl (fun (l : List (Nat × List Byte)) x =>
    if !on x.2 then l
    else
      match l with
      | (o, bs) :: rest => if o + bs.length = x.2 then (o, bs ++ [x.1]) :: rest else (x.2, [x.1]) :: l
      | [] => [(x.2, [x.1])]) []).reverse

/-- The runs of a host write to a page under WB join its write-hold queue as requests, or wait for room in it; the last one is answered (R304, R373). -/
def holdHost (x : Translated) (r : Request) (s : State) : State :=
  let q := s.port x.port
  let runs := r.runs
  let l : List (PageKey × Nat × Request) := runs.zipIdx.map (fun y =>
    (x.key, x.unit, { Request.blank with
      who := if y.2 + 1 = runs.length then .host else .cache, asid := x.key.asid, handle := handleAdd (s.handleAt x) y.1.1, size := y.1.2.length,
      kind := .write, data := y.1.2 }))
  s.putPort (if q.walksWrite x.key ∨ q.wbQ.length + l.length > 64 then { q with walking := q.walking ++ l } else { q with wbQ := q.wbQ ++ l })

/-- A host access is performed on the bytes at its MPA, as a STAY access of a thread is (R373, R411): it sees the writes that a page under WB holds, a write
to such a page is held, and one to a leased line is complete when the leases have ended. -/
def performHost (r : Request) (s : State) : State :=
  let a := r.handle.toNat
  let core := a / 2 ^ 31
  match r.kind, s.heldPage a with
  | .read, x =>
    let bs := memRead s.mem a r.size
    { s with host := .data (match x with | some x => heldBytes s x a bs | none => bs) (s.poisoned a r.size) :: s.host }
  | _, some x => if r.runs.isEmpty then { s with host := .writeDone false :: s.host } else holdHost x r s
  | _, none =>
    let s1 := r.runs.foldl (fun s y => [core, 0x200, 0x240].foldl (fun (s : State) port => s.afterWrite port (a + y.1) (a + y.1) y.2.length)
      (s.writeMem (a + y.1) y.2)) s
    s1.acknowledge core core r (s1.leaseOver core a r.data.length) 0

/-- A host access counts in the rows of its channel, and waits for a throttled one (R349-R351). -/
def hostAccess (r : Request) (s : State) : State :=
  let a := r.handle.toNat
  passRows (a / 2 ^ 31) (rowsAt a r.size) (a / 2 ^ 31) r (performHost r) s

/-- A row that a request has waited for lets it go on: it passes the rows that are left. -/
def passLater (core row : Nat) (fresh : Bool) (rows : List Nat) (src : Nat) (r : Request) (k : State → State) (s : State) : State :=
  if fresh then passRows core rows src r k s
  else passRows core ((rows.dropWhile (· != row)).drop 1) src r k (countRow core row s)

/-- What waited for a row goes on: a request is performed, once its other rows let it through; what is made in place may make its access, and what waits
for its mirror tries again. With `fresh` a new window has begun, in which all of its rows count. -/
def performRow (core : Nat) (fresh : Bool) (x : Nat × Nat × Request) (s : State) : State :=
  let r := x.2.2
  let let_ (s : State) : State := let q := s.port core; s.putPort { q with rowPass := q.rowPass ++ [(x.1, r.who)] }
  match r.trans with
  | none => if r.size = 0 then let_ s else passLater core x.1 fresh (rowsAt r.handle.toNat r.size) x.2.1 r (performHost r) s
  | some y =>
    let pa := s.phys y.p y.lam
    let rows := rowsAt pa r.size
    if y.unit ≠ core ∨ !rows.contains x.1 then atMemory y r (let_ s)
    else
      passLater core x.1 fresh rows x.2.1 r (fun s =>
        let q := s.port core
        let i := (y.cell - 2 ^ 42) / 2048 % q.sectors
        performAt y r pa (if y.p.tier = 1 then s.putPort { q with mscBusy := q.mscBusy.filter (fun z => !(z.1 == i && z.2.2 == 2)) } else s)) s

/-- Held requests of a port go on in arrival order. -/
def performAll (core : Nat) (fresh : Bool) (l : List (Nat × Nat × Request)) (s : State) : State :=
  l.foldl (fun s x => performRow core fresh x s) s

/-- The window that a die's DTC is in. -/
def State.rowWindow (s : State) (die : Nat) : Nat := (s.dtcOf die).toNat / 32000

/-- The end of a window: counts and throttles of every port of the die are gone, and the held requests go on (R349, R350). -/
def endWindow (die : Nat) (s : State) : State :=
  let d := s.die die
  if s.rowWindow die = d.window then s
  else
    (s.ports.filter (fun q => dieOf q.id == die && q.id < 512)).foldl (fun s q0 =>
      let q := s.port q0.id
      performAll q.id true (q.rowHold.filter (fun x => x.2.2.size != 0))
        (s.putPort { q with rows := [], throttled := [], rowNext := [], rowHold := [], rowPass := [] }))
      (s.putDie { d with window := s.rowWindow die })

def execRowWindow (die : Nat) (s : State) : Host.Outcome State Fault Refusal := settled (endWindow die s)

def execThrottledActivation (core row : Nat) (s : State) : Host.Outcome State Fault Refusal :=
  settled (
    let q := s.port core
    let now := s.dtcOf (dieOf core)
    match q.rowNext.find? (fun x => x.1 == row) with
    | none => s
    | some (_, t) =>
      let mine := (q.rowHold.filter (fun x => x.1 == row)).take 16
      if now.toNat < t.toNat ∨ mine.isEmpty then s
      else
        let rest := q.rowHold.filter (fun x => x.1 != row) ++ (q.rowHold.filter (fun x => x.1 == row)).drop 16
        performAll core false mine (s.putPort { q with rowHold := rest, rowNext := (row, now + 1000) :: q.rowNext.filter (fun x => x.1 != row) }))

/-! ## The tracker and the host port (R277, R278, R411) -/

/-- A tracker's access to its queue that does not go through: the notice waits, and posts a record of a page that is not present (log entry 162); or it is
given up where the queue cannot be reached (log entry 143). -/
def noticeStop (hub : Nat) (v : Notice) (rest : List Notice) (write : Bool) (x : Stop) (s : State) : State :=
  if x.final then s.putHub hub { s.hub hub with notices := rest }
  else
    match x.noted (.hub (2 + hub)) v.asid s with
    | (.absent home key pos h, s1) => s1.postRecord home key h pos (if write then 1 else 0) 4
    | (_, s1) => s1

/-- The counter of a page as its notice is posted: halved, or 0 and silent for a pinned page (R277). -/
def Tracker.posted (t : Tracker) (v : Notice) (n : Nat) : Tracker :=
  { t with counts := (v.buf, v.page, if v.pin then 0 else n / 2) :: t.counts.filter (fun c => !(c.1 == v.buf && c.2.1 == v.page)),
           quiet := if v.pin then (v.buf, v.page) :: t.quiet else t.quiet }

/-- The count of a page. -/
def Tracker.count (t : Tracker) (buf page : Nat) : Nat := ((t.counts.find? (fun c => c.1 == buf && c.2.1 == page)).map (fun c => c.2.2)).getD 0

/-- The oldest notice of a tracker goes on (R277, R278): its entry, unless the queue is full, and, once that is complete, TAIL. -/
def noticeStep (hub : Nat) (s : State) : State :=
  let x := s.hub hub
  let who := Requester.hub (2 + hub)
  match x.notices with
  | [] => s
  | v :: rest =>
    let free (s : State) : State := s.putHub hub { s.hub hub with notices := rest }
    match v.written with
    | some tail =>
      if s.owes who then s
      else
        match s.writeBuf who v.asid v.queue (leBytes 8 (tail + 1)) with
        | .ok s1 => free s1
        | .error y => noticeStop hub v rest true y s
    | none =>
      match s.readBuf who v.asid v.queue 16, x.trackers.find? (fun t => t.asid == v.asid) with
      | _, none => free s
      | .error y, _ => noticeStop hub v rest false y s
      | .ok (hd, s0), some t =>
        let tail := wordAt hd 0
        let n := t.count v.buf v.page
        if (tail + 2 ^ 64 - wordAt hd 1) % 2 ^ 64 ≥ v.entries then free s
        else
          let e := leBytes 8 (handleOf v.buf (v.page * 65536)).toNat ++ leBytes 8 (n + (if v.pin then 2 else 1) * 2 ^ 32) ++ leBytes 8 v.asid ++
            leBytes 8 0
          match s0.writeBuf who v.asid (handleAdd v.queue (0x40 + 32 * (tail % v.entries))) e with
          | .error y => noticeStop hub v rest true y s
          | .ok s1 =>
            let y := s1.hub hub
            s1.putHub hub { y with notices := { v with written := some tail } :: rest,
                                   trackers := y.trackers.map (fun z => if z.asid = t.asid then t.posted v n else z) }

/-- One counted read of a page at a hub (R277). -/
def trackRead (hub : Nat) (key : PageKey) (pin : Bool) (s : State) : State :=
  let x := s.hub hub
  match x.trackers.find? (fun t => t.asid == key.asid) with
  | none => s
  | some t =>
    let me := (key.buf, key.page)
    let n := min 65535 (t.count key.buf key.page + 1)
    if t.threshold = 0 then s
    else
      let t1 := { t with counts := (key.buf, key.page, n) :: t.counts.filter (fun c => !(c.1 == key.buf && c.2.1 == key.page)),
                         pins := if pin && !t.pins.contains me then me :: t.pins else t.pins }
      let due := t.threshold ≤ n && !t.quiet.contains me && !x.notices.any (fun v => v.asid == key.asid && v.buf == key.buf && v.page == key.page)
      let v : Notice := { asid := key.asid, queue := t.queue, entries := t.entries, buf := key.buf, page := key.page, pin := pin, written := none }
      let s1 := s.putHub hub { x with trackers := x.trackers.map (fun z => if z.asid = t.asid then t1 else z),
                                      notices := if due then x.notices ++ [v] else x.notices }
      if due then noticeStep hub (noticeStep hub s1) else s1

/-- A load of a thread, of this module or of a peer: what a tracker counts (R277). -/
def Request.counted (r : Request) : Bool :=
  r.kind == .read && !r.monitor && (match r.who with | .thread _ | .peer _ _ => true | _ => false)

/-- The host traffic of a hub goes through a port: its own, or the other hub's, which carries it (R414). -/
def State.portCarries (s : State) (hub : Nat) : Bool :=
  s.hubUp hub && ((s.hub hub).up || ((s.hub hub).fwd && s.hubUp (1 - hub) && (s.hub (1 - hub)).up))

/-- `CXL_CACHE_COMPLETION` (R411, R414): the host has completed an access, at the port that carries the traffic of its hub: it is performed in host
memory, and a read is counted. -/
def execCxlCacheCompletion (k : Nat) (s : State) : Host.Outcome State Fault Refusal :=
  settled (
    match s.take k with
    | none => s
    | some (m, s1) =>
      match m.body with
      | .hostRead r _ page off | .hostWrite r _ page off =>
        if !s.portCarries (dieOf m.dst - 8) then s
        else
        (match r.trans with
         | none => s1
         | some x =>
           let pin := (((s1.port m.dst).lookup x.key).getD x.p).pin
           let s2 := performAt x r (hostAt page off) s1
           if r.counted then trackRead (dieOf m.dst - 8) x.key pin s2 else s2)
      | _ => s)

/-! ## Moving a page (R279, R304, R305) -/

/-- An access of a tier migration engine that does not go through: a record with SRC 4 for an absent page, for which the engine then holds
(R279, R347). -/
def engineHold (hub asid : Nat) (write : Bool) (x : Stop) (s : State) : State :=
  match x.noted (.hub hub) asid s with
  | (.absent home key pos h, s1) =>
    let s2 := s1.postRecord home key h pos (if write then 1 else 0) 4
    s2.putHub hub { s2.hub hub with moveHold := some (home, key) }
  | (_, s1) => s1

/-- STATE and FRAME of a request (R279). -/
def moveState (hub asid : Nat) (ring : W64) (index frame state : Nat) (s : State) : Except Stop State :=
  s.writeBuf (.hub hub) asid (handleAdd ring (0x50 + 32 * (index % 16))) (leBytes 8 (frame * 256 + state))

/-- The end of a request: STATE, then DONE. -/
def finishMove (hub asid : Nat) (ring : W64) (index frame state : Nat) (s : State) : Except Stop State :=
  (moveState hub asid ring index frame state s).bind (fun s => s.writeBuf (.hub hub) asid (handleAdd ring 8) (leBytes 8 (index + 1)))

/-- WB has been acknowledged (R279 step 2, R304): STATE and FRAME are written, unless the move is one of a layer map-out. An access of the
ring that cannot be made for another reason than an absent page is left out (log entry 143). -/
def startCopy (hub : Nat) (v : Move) (s : State) : State :=
  let put (st : Nat) (s : State) : State := s.putHub hub { s.hub hub with move := some { v with stage := st } }
  if v.mapOut then put 1 s
  else
    match moveState hub v.asid v.ring v.index (v.new.frame % 2 ^ 31) 1 s with
    | .ok s1 => put 1 s1
    | .error x => if x.final then put 1 s else engineHold hub v.asid true x (put 2 s)

def execWbNotice (k : Nat) (s : State) : Host.Outcome State Fault Refusal :=
  .next (
    match s.take k with
    | some (m, s1) =>
      (match m.body with
       | .wbNotice hub key =>
         let s2 := match s1.pageOf m.dst key with
           | some p => s1.putPort ((s1.port m.dst).fill key { p with wb := true })
           | none => s1
         s2.send m.dst (0x200 + 64 * hub) 2 (.wbAck hub)
       | .wbAck hub => (match (s1.hub hub).move with | some v => startCopy hub v s1 | none => s1)
       | _ => s)
    | none => s)

/-- A pool without a frame that was taken. -/
def takeFrame (pools : List (Nat × List Nat)) (asid f : Nat) : List (Nat × List Nat) :=
  pools.map (fun p => if p.1 = asid then (asid, p.2.filter (· != f)) else p)

def lowest (l : List Nat) : Option Nat := l.foldl (fun b x => match b with | none => some x | some y => some (min x y)) none

def poolOf (pools : List (Nat × List Nat)) (asid : Nat) : List Nat := ((pools.find? (fun p => p.1 == asid)).map (fun p => p.2)).getD []

/-- The stack register: CAPMIB and LMASK. -/
def Mgmt.stack (m : Mgmt) (k : Nat) : BitVec 32 × BitVec 16 :=
  ((m.stackRegs.find? (fun x => x.1 == k)).map (fun x => x.2)).getD (49152, 0xFFFF)

/-- A frame of a channel in a layer that is neither out nor going (R347). -/
def State.frameOk (s : State) (core f : Nat) : Bool :=
  (s.mgmt.stack (core / 32)).2.getLsbD (f / 1536) &&
    (match s.mgmt.mapOut with | some (stack, layer, _) => !(stack == core / 32 && layer == f / 1536) | none => true)

/-- The frame that a move takes: where it comes from (a core, or a hub from 0x200), its number, and the new entry (R305). -/
def pickFrame (s : State) (asid dcore dtier : Nat) (old : Pme) (host : Bool) : Option (Nat × Nat × Pme) :=
  if dtier = 1 then
    let hub := s.hubOf (dieOf dcore)
    (lowest (poolOf (s.hub hub).capPools asid)).map (fun f =>
      (0x200 + 64 * hub, f, { old with tier := 1, frame := hub * 2 ^ 31 + f, core := dcore, wb := false }))
  else
    let core := if host then dcore else old.core
    (lowest ((poolOf (s.port core).pools asid).filter (s.frameOk core))).map (fun f =>
      (core, f, { old with tier := 0, frame := f, core := core, wb := false }))

/-- The frame leaves its pool. -/
def State.takeFrom (s : State) (from_ asid f : Nat) : State :=
  if from_ < 512 then
    let q := s.port from_
    s.putPort { q with pools := takeFrame q.pools asid f }
  else
    let h := dieOf from_ - 8
    let x := s.hub h
    s.putHub h { x with capPools := takeFrame x.capPools asid f }

/-- A page is to move: its frame leaves its pool, WB is set in its PME, and a notice goes to the port that holds its entry (R304). -/
def beginMove (hub : Nat) (v : Move) (from_ f : Nat) (s : State) : State :=
  let s1 := s.takeFrom from_ v.asid f
  let s2 : State := { s1 with mem := memWrite s1.mem v.pmeAt (leBytes 8 (memNat s1.mem v.pmeAt 8 ||| 32)) }
  (s2.putHub hub { s2.hub hub with move := some v, request := none }).send (0x200 + 64 * hub) v.port 2 (.wbNotice hub v.key)

/-- The engine works on a request that it has read (R279): its checks, then WB. A page that is not present holds it until the host has
completed the fault. -/
def takeMove (hub : Nat) (rq : MoveRequest) (s0 : State) : State :=
  let s := s0.putHub hub { s0.hub hub with request := some rq }
  let (asid, h, w1) := (rq.asid, rq.h, rq.w1)
  let fail (st : Nat) : State :=
    match finishMove hub asid rq.ring rq.index (bits rq.w2 39 8) st s with
    | .ok s1 => s1.putHub hub { s1.hub hub with request := none }
    | .error x => if x.final then s.putHub hub { s.hub hub with request := none } else engineHold hub asid true x s
  let dcore := bits w1 9 0
  let dtier := bits w1 11 10
  match s.tableEntry asid (indexOf h) with
  | none => fail 0x81
  | some e =>
    let host := e.tier == 2
    if offsetOf h ≥ e.length ∨ (e.tier ≠ 1 ∧ e.tier ≠ 2) ∨ w1 / 2 ^ 12 ≠ 0 ∨ dtier ≥ 2 then fail 0x81
    else if host ∧ !(dcore < 512 ∧ s.dieUp (dieOf dcore)) then fail 0x81
    else
      let l := homeLoc s.conf.lc e (offsetOf h)
      let key : PageKey := ⟨asid, indexOf h, l.page⟩
      match s.pageOf l.home key, s.pmeAt asid (key.buf % 4096) (key.page * setSize s.conf.lc e + posOf s.conf.lc e l.home) with
      | some p, some a =>
        if p.pin then fail 0x82
        else if !host ∧ dtier = 1 then fail 0x02
        else
          (match pickFrame s asid dcore dtier p host with
           | none => fail 0x80
           | some (from_, f, new) => beginMove hub ⟨asid, rq.ring, rq.index, l.home, key, a, p, new, 0, false, h⟩ from_ f s)
      | _, _ => engineHold hub asid false (.absent l.home key l.pos h) s

/-- The port, the page and the address of a word of a buffer that a hub watches. -/
def State.watchPlace (s : State) (asid : Nat) (h : W64) : Option (Nat × PageKey × Nat) :=
  match s.liveEntry asid h true with
  | .error _ => none
  | .ok (e, h) =>
    let l := homeLoc s.conf.lc e (offsetOf h)
    let key : PageKey := ⟨asid, indexOf h, l.page⟩
    if e.tier = 3 then none else (s.pageOf l.home key).map (fun p => (l.home, key, p.byteAt l.lam))

/-- The number that a monitor of a tier migration engine stands under, for the ring of an ASID. -/
def ringMonitor (asid : Nat) : Nat := 2 ^ 64 + asid

/-- The engine holds a condition monitor on the TAIL of a ring: that it is no longer `done` (R279). -/
def armRing (hub asid : Nat) (ring : W64) (done : Nat) (s : State) : State :=
  match s.watchPlace asid ring with
  | none => s
  | some (port, key, cell) =>
    let q := s.port port
    if q.monitors.length ≥ 4096 then s
    else
      let s1 := s.putPort { q with monitors := q.monitors ++ [⟨ringMonitor asid, 0x200 + 64 * hub, cell, key, 3, 1, BitVec.ofNat 64 done⟩] }
      s1.putHub hub { s1.hub hub with armed := asid :: (s1.hub hub).armed }

/-- The engine takes a request: the one that it holds, or the next one of a ring whose TAIL it does not watch (R279). While an access of its own waits for
the host it does nothing else. -/
def execMoveRequestTake (hub asid : Nat) (s : State) : Host.Outcome State Fault Refusal :=
  .next (
    let x := s.hub hub
    if x.moveHold.isSome then s
    else
      match x.move, x.request, x.rings.find? (fun r => r.1 == asid) with
      | some _, _, _ => s
      | none, some rq, _ => if rq.asid = asid then takeMove hub rq s else s
      | none, none, none => s
      | none, none, some (_, ring) =>
        if x.armed.contains asid then s
        else
        (match s.readBuf (.hub hub) asid ring 16 with
         | .error y => engineHold hub asid false y s
         | .ok (hd, s1) =>
           let index := wordAt hd 1
           if wordAt hd 0 = index then armRing hub asid ring index s1
           else
             match s1.readBuf (.hub hub) asid (handleAdd ring (0x40 + 32 * (index % 16))) 32 with
             | .error y => engineHold hub asid false y s1
             | .ok (bs, s2) => takeMove hub ⟨asid, ring, index, BitVec.ofNat 64 (wordAt bs 0), wordAt bs 1, wordAt bs 2⟩ s2))

/-- Units that hold no good data (R344). -/
def State.poisonUnits (s : State) (a n : Nat) : State :=
  if a ≥ 2 ^ 50 then s
  else
    let q := s.port (unitPort a)
    let us := (List.range (n / 64)).map (· + a / 64)
    s.putPort { q with poison := q.poison.filter (fun u => !us.contains u) ++ us }

/-- The cache index of a sector of a page is poisoned where its CHECK fails (R342). -/
def State.checkSector (s : State) (p : Pme) (lam : Nat) : State :=
  let q := s.port p.core
  let i := (p.byteAt lam - 2 ^ 42) / 2048 % q.sectors
  if p.tier ≠ 1 ∨ q.sectors = 0 ∨ (q.line i).2.2.2 then s else s.poisonIndex p.core i

/-- A sector of a page copied through the caches, once its rows let it through (R347, R349, R350). One that cannot be read where it stands leaves its units
poisoned at the destination (log entry 164). -/
def copySector (who : Requester) (old new : Pme) (s : State) (k : Nat) : Except Stop State :=
  let x := 2048 * k
  let dst := new.byteAt x
  if s.readable old x then
    (rowGate who (s.phys old x) 2048 s).bind (fun s1 => (rowGate who dst 2048 s1).map (fun s2 => s2.copyMem (s2.phys old x) dst 2048))
  else (rowGate who dst 2048 (s.checkSector old x)).map (fun s1 => s1.poisonUnits dst 2048)

/-- The bytes of a page copied sector by sector. -/
def copyPage (who : Requester) (old new : Pme) (s : State) : Except Stop State :=
  (List.range 32).foldlM (copySector who old new) (dropSectors new s)

/-- Monitors and reservations of a moved page follow its bytes. -/
def PortSt.rekey (q : PortSt) (old new : Nat) : PortSt :=
  let inOld (a : Nat) : Bool := old ≤ a && a < old + 65536
  { q with monitors := q.monitors.map (fun m => if inOld m.cell then { m with cell := m.cell - old + new } else m),
           resv := q.resv.map (fun r => if inOld (64 * r.2) then (r.1, (64 * r.2 - old + new) / 64) else r) }

/-- The held writes of a page are served in arrival order, in front of what has come in behind them (R280, R304). -/
def drainHeld (port : Nat) (key : PageKey) (s : State) : State :=
  let q := s.port port
  walkDone port key (s.putPort { q with wbQ := q.wbQ.filter (fun x => x.1 != key), walking := q.wbQ.filter (fun x => x.1 == key) ++ q.walking })

/-- The copy ends, FRAME and TIER of the entry switch and WB clears, the held writes drain (R304 step 3). `cur` is the PME as it stands. -/
def switchPage (who : Requester) (v : Move) (cur : Pme) (s : State) : Except Stop State :=
  let new := { cur with frame := v.new.frame, tier := v.new.tier, core := v.new.core, wb := false }
  (copyPage who v.old new s).map (fun s1 =>
    let s2 := dropSectors v.old s1
    let s3 : State := { s2 with mem := memWrite s2.mem v.pmeAt (leBytes 8 (pmeWord new)) }
    let q := ((s3.port v.port).fill v.key new).rekey (v.old.byteAt 0) (new.byteAt 0)
    let s4 := s3.putPort q
    let x := s4.hub (v.port / 64 - 8)
    let s5 := if v.port < 512 then s4
      else s4.putHub (v.port / 64 - 8) { x with dcores := (v.key, new.core) :: x.dcores.filter (fun d => d.1 != v.key) }
    (drainHeld v.port v.key s5).wakeWaiting (fun t => t.wait == .drain v.port))

/-- A page that a map-out has moved is listed in its report (R347, R348). -/
def State.reportMove (s : State) (v : Move) (old new : Pme) : State :=
  { s with mgmt := { s.mgmt with reports := s.mgmt.reports ++
      [[BitVec.ofNat 64 (v.handle.toNat / 65536 * 65536 + v.asid), BitVec.ofNat 64 (pmeWord old), BitVec.ofNat 64 (pmeWord new), 0]] } }

/-- A request of a ring whose page has switched: STATE 0x02, then DONE. -/
def reportDone (hub : Nat) (v : Move) (s : State) : State :=
  let free (s : State) : State := s.putHub hub { s.hub hub with move := none }
  match finishMove hub v.asid v.ring v.index (v.new.frame % 2 ^ 31) 2 s with
  | .ok s1 => free s1
  | .error x => if x.final then free s else engineHold hub v.asid true x (s.putHub hub { s.hub hub with move := some { v with stage := 3 } })

/-- A switched page whose held writes have drained (R279 step 4): its report. -/
def moveEnds (hub : Nat) (v : Move) (s : State) : State :=
  if (s.port v.port).wbQ.any (fun x => x.1 == v.key) || s.writesAhead v.port v.key then s
  else if v.mapOut then
    (s.putHub hub { s.hub hub with move := none }).reportMove v v.old
      { ((parsePme v.new.core (memNat s.mem v.pmeAt 8)).getD v.new) with frame := v.new.frame, tier := v.new.tier, wb := false }
  else reportDone hub v s

/-- A sector of the old frame is on its way between its cache and its hub. -/
def Move.sectorBusy (v : Move) (s : State) : Bool :=
  v.old.tier == 1 && (s.port v.old.core).mscBusy.any (fun x => x.2.2 == 0 || (v.old.byteAt 0 - 2 ^ 42) / 65536 == x.2.1 / 32)

/-- The move of a hub goes on: what was held of its report is written, or the page switches once no access translated before is outstanding, and reports
when what it held has drained; a PME that is not present any more holds the engine (R347 step 4). -/
def execPageCopyDone (hub : Nat) (s : State) : Host.Outcome State Fault Refusal :=
  settled (
    match (s.hub hub).move with
    | none => s
    | some v =>
      if (s.hub hub).moveHold.isSome then s
      else if v.stage = 2 then startCopy hub v s
      else if v.stage = 3 then reportDone hub v s
      else if v.stage = 4 then moveEnds hub v s
      else if v.stage ≠ 1 ∨ s.heldFor (· == v.key) (fun _ => true) ∨ v.sectorBusy s then s
      else
        match parsePme v.old.core (memNat s.mem v.pmeAt 8) with
        | none => engineHold hub v.asid true (.absent v.port v.key (((s.tableEntry v.asid v.key.buf).map (fun e => posOf s.conf.lc e v.port)).getD 0) v.handle) s
        | some cur =>
          match switchPage (.hub hub) v cur s with
          | .error x => (x.noted (.hub hub) v.asid s).2
          | .ok s1 => moveEnds hub { v with stage := 4 } (s1.putHub hub { s1.hub hub with move := some { v with stage := 4 } }))

/-! ## Layers (R346-R348) -/

/-- The stack register as the host reads it (R348). -/
def Mgmt.stackWord (m : Mgmt) (k : Nat) : W64 := (m.stack k).1 ++ (0 : BitVec 16) ++ (m.stack k).2

/-- The 32 cores whose channels a stack holds (R335). -/
def stackCores (k : Nat) : List Nat := (List.range 32).map (fun c => k / 2 * 64 + k % 2 * 32 + c)

def layersLeft (mask : BitVec 16) : Nat := ((List.range 16).filter (fun l => mask.getLsbD l)).length

/-- The controller maps out each layer that has too many errors, while more than 12 are left. -/
def execLayerEvaluation (stack : Nat) (s : State) : Host.Outcome State Fault Refusal :=
  .next (
    let mask := (s.mgmt.stack stack).2
    let bad := (List.range 16).filter (fun l => mask.getLsbD l && (stackCores stack).any (fun c =>
      let q := s.port c
      4 ≤ (vget q.uel l 0).toNat || 65536 ≤ (vget q.cel l 0).toNat))
    { s with agenda := (bad.take (layersLeft mask - 12)).map (fun l => Turn.event (.layerMapOut stack l)) ++ s.agenda })

/-- The new place of a page that leaves layer `layer` (R347 step 3): a frame of the same channel's move pool in a layer that stays, else one
of the CAP move pool of the hub that serves the die. -/
def newFrame (s : State) (asid : Nat) (p : Pme) : Option (Nat × Nat × Pme) :=
  match lowest ((poolOf (s.port p.core).pools asid).filter (s.frameOk p.core)) with
  | some f => some (p.core, f, { p with frame := f })
  | none =>
    let hub := s.hubOf (dieOf p.core)
    (lowest (poolOf (s.hub hub).capPools asid)).map (fun f => (0x200 + 64 * hub, f, { p with tier := 1, frame := hub * 2 ^ 31 + f }))

/-- The carve-outs of a stack written back and emptied (R347 step 1). -/
def emptyCarve (core : Nat) (s : State) : Except Stop State := (s.port core).msc.foldlM (fun s m => flushSector (.hub (s.hubOf (dieOf core))) core m.1 s) s

/-- The first frame of a channel that firmware reserves at boot, from there to its top (R337). -/
def PortSt.firstReserved (q : PortSt) : Nat := (channelSize - q.carveBytes - 40 * 2 ^ 20) / 65536

/-- The present place of a frame reserved at boot. -/
def PortSt.resFrame (q : PortSt) (f : Nat) : Nat := ((q.resFrames.find? (fun y => y.1 == f)).map (fun y => y.2)).getD f

/-- The frames of a channel that nothing uses, from the top of its usable capacity down: no present page, no pool, no reserved frame that has moved
there, no frame that a move has taken, and no layer that is out or goes (R347 step 2). -/
def State.topFrames (s : State) (core layer : Nat) : List Nat :=
  let q := s.port core
  let taken (f : Nat) : Bool := s.hubs.any (fun h => match h.move with | some v => v.new.tier == 0 && v.new.core == core && v.new.frame == f | none => false)
  let used := (s.presentPages.filter (fun x => x.2.2.2.2.tier == 0 && x.2.2.2.2.core == core)).map (fun x => x.2.2.2.2.frame)
  (List.range q.firstReserved).reverse.filter (fun f =>
    f / 1536 != layer && s.frameOk core f && !used.contains f && !taken f && !q.resFrames.any (fun y => y.2 == f) && !q.pools.any (fun y => y.2.contains f))

/-- The reserved frames of a channel that lie in a layer. -/
def State.resIn (s : State) (core layer : Nat) : List Nat :=
  let q := s.port core
  ((List.range (channelSize / 65536 - q.firstReserved)).map (· + q.firstReserved)).filter (fun f => q.resFrame f / 1536 == layer)

/-- The reserved frames of a channel leave a layer (R347 step 2), once their rows let them through; a stop with no code where too few frames are unused. -/
def moveReserved (core layer : Nat) (s : State) : Except Stop State :=
  let who := Requester.hub (s.hubOf (dieOf core))
  let fs := s.resIn core layer
  let gs := if fs.isEmpty then [] else s.topFrames core layer
  if gs.length < fs.length then .error (.code 0)
  else
    (fs.zip gs).foldlM (fun s x =>
      let a := hbmAt core ((s.port core).resFrame x.1 * 65536)
      let b := hbmAt core (x.2 * 65536)
      (rowGate who a 65536 s).bind (fun s1 => (rowGate who b 65536 s1).map (fun s2 =>
        let s3 := s2.copyMem a b 65536
        let q := s3.port core
        s3.putPort { q with resFrames := (x.1, x.2) :: q.resFrames.filter (fun y => y.1 != x.1) }))) s

/-- The record of an event, two words from 0x00 (R426). -/
def RasEvent.words (e : RasEvent) : List W64 := [BitVec.ofNat 64 (e.code.toNat + e.die % 16 * 2 ^ 16), e.detail]

/-- An event recorded by the management controller (R426). -/
def State.rasEvent (s : State) (code : Nat) (die : Nat) (detail : W64) : State :=
  let e : RasEvent := ⟨BitVec.ofNat 16 code, die, detail⟩
  { s with mgmt := { s.mgmt with events := s.mgmt.events ++ [e] }, host := .event e :: s.host }

/-- Bytes of a channel that buffers may use (R337, R347). -/
def State.channelBytes (s : State) (core : Nat) : Nat :=
  let q := s.port core
  (1496 - 96 * (16 - layersLeft (s.mgmt.stack (core / 32)).2)) * 2 ^ 20 - q.carveBytes

/-- MCONF and MCAP are written (R421): at boot, at each fence, and as a layer is mapped out (R347). -/
def State.writeConf (s : State) : State :=
  let c := s.conf
  let live := (List.range 8).filter s.dieUp
  let hubs := (List.range 2).filter s.hubUp
  let mib := (live.flatMap (fun d => (List.range 64).map (fun k => s.channelBytes (64 * d + k) / 2 ^ 20))).sum
  { s with conf := { c with
    mconf := BitVec.ofNat 64 (c.admitted.toNat + c.fenced.toNat * 2 ^ 8 + c.hubs.toNat * 2 ^ 16 + (if c.m8 then 2 ^ 18 else 0) +
      live.length * 2 ^ 24 + 64 * live.length * 2 ^ 32),
    mcap := BitVec.ofNat 64 (mib + 1024 * hubs.length * 2 ^ 32) } }

/-- The next page of a layer that goes moves (R347 step 3): by the engine of the hub that serves its die, where that engine is idle and a frame is
free. -/
def mapOutNext (x : PageKey × W64 × Nat × Nat × Pme) (s : State) : State :=
  let (key, h, home, a, p) := x
  let hub := s.hubOf (dieOf p.core)
  let y := s.hub hub
  if y.move.isSome ∨ y.request.isSome ∨ y.moveHold.isSome then s
  else
    match newFrame s key.asid p with
    | none => s
    | some (from_, f, new) => beginMove hub ⟨key.asid, 0, 0, home, key, a, p, new, 0, true, h⟩ from_ f s

/-- The first two steps of a map-out (R347): the carve-outs of the stack are emptied, the reserved frames leave the layer. -/
def mapOutStart (stack layer : Nat) (s : State) : State :=
  let put (on : Bool) (s : State) : State := { s with mgmt := { s.mgmt with mapOut := some (stack, layer, on) } }
  match ((stackCores stack).foldlM (fun s c => emptyCarve c s) s).bind (fun s => (stackCores stack).foldlM (fun s c => moveReserved c layer s) s) with
  | .ok s1 => put true s1
  | .error x => if x.final then s else put false (x.noted (.hub (s.hubOf (stack / 2))) 0 s).2

/-- A move of a ring takes a page to a frame of the layer, from before the map-out (R347). -/
def State.movesInto (s : State) (stack layer : Nat) : Bool :=
  s.hubs.any (fun h => match h.move with
    | some v => v.new.tier == 0 && (stackCores stack).contains v.new.core && v.new.frame / 1536 == layer
    | none => false)

/-- Map-out of a layer (R347), one at a time: its first steps, then page after page, then the layer is removed. -/
def execLayerMapOut (stack layer : Nat) (s : State) : Host.Outcome State Fault Refusal :=
  settled (
    let r := s.mgmt.stack stack
    let cores := stackCores stack
    match s.mgmt.mapOut with
    | none => if !r.2.getLsbD layer ∨ layersLeft r.2 ≤ 12 then s else mapOutStart stack layer s
    | some (k, l, on) =>
      if k ≠ stack ∨ l ≠ layer then s
      else if !on then mapOutStart stack layer s
      else if s.hubs.any (fun h => (h.move.map Move.mapOut).getD false) then s
      else
        (match s.presentPages.find? (fun x => x.2.2.2.2.tier == 0 && cores.contains x.2.2.2.2.core && x.2.2.2.2.frame / 1536 == layer) with
         | some x => mapOutNext x s
         | none =>
           if s.movesInto stack layer then s
           else
           ({ s with mgmt := { s.mgmt with
               mapOut := none
               stackRegs := (stack, r.1 - 3072, r.2 &&& ~~~((1 : BitVec 16) <<< layer)) :: s.mgmt.stackRegs.filter (fun x => x.1 != stack) } }).writeConf.rasEvent
             0x12 (stack / 2) (BitVec.ofNat 64 (stack * 16 + layer))))

end Sys2Proof.Machine
end

