-- ==== Sys2Proof/Machine/Gangs.lean ====
section
/-! DEFINITION. Gangs: where they can stand (R148, R150), their placement and start (R149, R151), relocation (R153, R154), the save and
restore notices (R209-R213), cancellation (R166) and retirement (R155, R289). -/

namespace Sys2Proof.Machine

/-! ## Resources (R148, R150) -/

/-- What a gang asks of a run. -/
structure Need where
  gangw    : Nat
  wgsize   : Nat
  tiles    : Nat
  bars     : Nat
  localLen : Nat
  places   : List (Option Nat)     -- of each allocation, the offset in a bank at which it starts, where its banks need that (R289)
  deriving DecidableEq, Repr

def KDesc.need (k : KDesc) : Need := ⟨k.gangw, k.wgsize, k.tiles, k.bars, k.localLen, List.replicate k.gangw none⟩

/-- A gang that holds its resources. -/
def Gang.stands (g : Gang) : Bool := g.state == .running || g.state == .saving

/-- The offset in a bank at which the allocation of a workgroup that has started must stand again: that of the old one, if one of its banks
is in cache or FIFO mode, so that the same banks lie in the new one (R289, log entry 144). -/
def State.placeOf (s : State) (g : Gang) (w : Workgroup) : Option Nat :=
  let banks := if g.stands then s.bankImages w else ((g.images.find? (fun i => i.wgpos == w.wgpos)).map GangImage.banks).getD []
  if banks.isEmpty then none else some (w.lbase % 0x8000)

/-- What a gang that has started asks of its next run. -/
def State.gangNeed (s : State) (g : Gang) (w : Workgroup) : Need :=
  ⟨w.gangw, w.wgsize, w.tiles, w.bars, w.localLen, (s.gangWgs g).map (s.placeOf g)⟩

def State.wgStands (s : State) (w : Workgroup) : Bool := ((s.gangOf w).map Gang.stands).getD true

/-- Workgroups that hold resources of a core. -/
def State.anchored (s : State) (core : Nat) : List Workgroup := s.wgs.filter (fun w => w.anchor == core && s.wgStands w)

def State.slotsUsed (s : State) (core lane : Nat) : Nat := ((List.range 24).filter (fun k => s.slotTaken core lane k)).length

/-- Thread indices below `n` that are pinned to a lane (R15). -/
def laneCount (n lane : Nat) : Nat := (n + 63 - lane) / 64

/-- A core can take a workgroup (R150). -/
def State.coreTakes (s : State) (n : Need) (core : Nat) : Bool :=
  let ws := s.anchored core
  (List.range 64).all (fun l => s.slotsUsed core l + laneCount n.wgsize l ≤ 24) && ws.length < 8 &&
    (ws.map Workgroup.tiles).sum + n.tiles ≤ 8 && (ws.map Workgroup.bars).sum + n.bars ≤ 64

/-- A free aligned range at `a`, beside the ranges in use (R148). -/
def fits (used : List (Nat × Nat)) (n a : Nat) : Bool :=
  a % 512 == 0 && a + n ≤ 2 ^ 23 && used.all (fun u => u.2 == 0 || a + n ≤ u.1 || u.1 + u.2 ≤ a)

/-- The first byte from `a` at the offset in a bank that a place asks for. -/
def placeFrom (place : Option Nat) (a : Nat) : Nat := (place.map (fun r => a + (r + 0x8000 - a % 0x8000) % 0x8000)).getD a

/-- First fit (R148): the lowest free range starts at 0 or at the end of one in use. -/
def firstFit (used : List (Nat × Nat)) (n : Nat) (place : Option Nat) : Option Nat :=
  lowest (((0 :: used.map (fun u => u.1 + u.2)).map (placeFrom place)).filter (fits used n))

/-- The ranges of a gang's allocations, one after another. -/
def firstFits (used : List (Nat × Nat)) (n : Nat) : List (Option Nat) → Option (List Nat)
  | [] => some []
  | p :: ps =>
    match firstFit used n p with
    | none => none
    | some a => (firstFits (used ++ [(a, n)]) n ps).map (fun l => a :: l)

/-- Local ranges in use in a plaza. -/
def State.rangesUsed (s : State) (plaza : Nat) : List (Nat × Nat) :=
  (s.wgs.filter (fun w => plazaOf w.anchor == plaza && s.wgStands w)).map (fun w => (w.lbase, w.localLen))

/-- The run that starts at a core can take a gang: the local ranges it would get (R150). -/
def State.runAt (s : State) (n : Need) (first : Nat) : Option (List Nat) :=
  if (List.range n.gangw).all (fun i => s.coreTakes n (first + i)) then firstFits (s.rangesUsed (plazaOf first)) n.localLen n.places else none

/-- The first run of a die that can take a gang, in ascending order of (plaza, c) (R151): its first core and local ranges. -/
def State.findRun (s : State) (n : Need) (die : Nat) (sel : Nat → Bool) : Option (Nat × List Nat) :=
  if !s.dieUp die then none
  else
    (((List.range 8).map (fun p => 8 * die + p)).filter sel).flatMap (fun p => (List.range (9 - n.gangw)).map (fun c => 8 * p + c))
      |>.findSome? (fun c => (s.runAt n c).map (fun l => (c, l)))

/-! ## Starting a gang (R149) -/

def State.gang? (s : State) (launch gang : Nat) : Option Gang := s.gs.gangs.find? (fun g => g.launch == launch && g.gang == gang)

/-- The launch of a number, with its job. -/
def State.launch? (s : State) (launch : Nat) : Option (Job × Tcb) := s.gs.jobs.findSome? (fun j => (j.tcbOf launch).map (fun t => (j, t)))

/-- A thread takes the lowest free slot of its lane at its core. -/
def State.seat (s : State) (t : Thread) : State :=
  let k := ((List.range 24).find? (fun k => !s.slotTaken t.core t.lane k)).getD 0
  let t1 := { t with place := .slot k, since := (s.core t.core).ccnt.toNat + 1 }
  if (s.thread? t.tid).isSome then s.putThread t1 else { s with threads := s.threads ++ [t1] }

/-- A tile context of a core that no workgroup has. -/
def State.freeTiles (s : State) (core : Nat) : Nat :=
  let ws := s.anchored core
  ((List.range 8).find? (fun c => !ws.any (fun w => w.tbase == 524288 * c))).getD 0 * 524288

/-- A workgroup as its gang starts. -/
def newWorkgroup (s : State) (j : Job) (t : Tcb) (img : Image) (k : KDesc) (gang pos core lbase : Nat) : Workgroup :=
  { Workgroup.blank with
    wid := s.nextId, asid := j.asid, job := j.num, launch := t.launch, gang := gang, wgpos := pos, anchor := core, wgsize := k.wgsize,
    gangw := k.gangw, issuer := k.issuer, kdesc := t.kdesc, entry := handleOf (indexOf img.code) k.entry, nbud := k.nbud, vbud := k.vbud,
    snbud := k.snbud, svbud := k.svbud, bars := k.bars, tiles := k.tiles, localLen := k.localLen, lbase := lbase, tbase := s.freeTiles core,
    trapbase := (k.trap.map (fun o => handleOf (indexOf img.code) o)).getD 0,
    w := Vector.ofFn (fun i => t.words.getD i.val 0), f := Vector.ofFn (fun i => k.finit.getD i.val 0) }

/-- Thread `i` of a workgroup (R44, R149). -/
def newThread (tid : Nat) (w : Workgroup) (i : Nat) : Thread :=
  { Thread.blank with
    tid := tid, asid := w.asid, job := w.job, launch := w.launch, gang := w.gang, wgpos := w.wgpos, index := i, anchor := w.anchor,
    core := w.anchor, status := .ready, pc := w.entry, nbud := w.nbud, vbud := w.vbud, snbud := w.snbud, svbud := w.svbud, bars := w.bars,
    tiles := w.tiles, localLen := w.localLen, trapbase := w.trapbase, kernTrap := w.trapbase }

def startWorkgroup (j : Job) (t : Tcb) (img : Image) (k : KDesc) (gang pos core lbase : Nat) (s : State) : State :=
  let w := newWorkgroup s j t img k gang pos core lbase
  (List.range k.wgsize).foldl (fun s i => { s.seat (newThread s.nextTid w i) with nextTid := s.nextTid + 1 })
    { s.putWg w with nextId := s.nextId + 1 }

def startGang (g : Gang) (j : Job) (t : Tcb) (img : Image) (k : KDesc) (first : Nat) (bases : List Nat) (s : State) : State :=
  let s1 := bases.zipIdx.foldl (fun s x => startWorkgroup j t img k g.gang x.2 (first + x.2) x.1 s) s
  let s2 := s1.putGang { g with state := .running, run := first, width := k.gangw, order := s.gs.order, helped := false }
  { s2 with gs := { s2.gs with order := s.gs.order + 1 } }

/-- A gang of the die is being relocated. -/
def State.relocating (s : State) (die : Nat) : Bool :=
  s.gs.gangs.any (fun g => g.die == die && g.target.isSome && (g.state == .saving || g.state == .saved))

/-- `GANG_PLACEMENT` (R151): the gang at the head of a distributor's queue starts on the first run that can take it. -/
def execGangPlacement (die : Nat) (s : State) : Host.Outcome State Fault Refusal :=
  .next (
    let d := s.die die
    match d.queue with
    | [] => s
    | (launch, gang) :: rest =>
      match s.gang? launch gang, s.launch? launch with
      | some g, some (j, t) =>
        if g.state ≠ .queued ∨ t.cancel ∨ s.relocating die then s
        else
          match s.imageOf j with
          | none => s
          | some img =>
            match img.kdesc? t.kdesc with
            | none => s
            | some k =>
              match s.findRun k.need die (fun _ => true) with
              | some (first, bases) => startGang g j t img k first bases (s.putDie { d with queue := rest })
              | none => s
      | _, _ => s.putDie { d with queue := rest })

/-! ## Saving (R209, R210) -/

/-- Peer modules that an ASID's peer table names (R416). -/
def State.peersOf (s : State) (asid : Nat) : List Nat :=
  match (s.hub s.activeHub).peers.find? (fun p => p.1 == asid) with
  | none => []
  | some (_, at_, n) => (List.range n).filter (fun i => bitOf (memNat s.mem (at_ + 32 * i + 0x10) 8) 12)

/-- Every core that runs, and the peers of an ASID: where a save notice goes (R210). -/
def State.noticeTargets (s : State) (asid : Nat) : List Nat :=
  ((List.range 8).filter s.dieUp).flatMap (fun d => (List.range 64).map (fun c => 64 * d + c)) ++
    (s.peersOf asid).map (fun m => peerCore asid m 0)

/-- The save of a running gang starts (R210 step 1): each of its anchor cores stops its threads and tells every other core. None: the save
pool has no room for its area (R209). -/
def State.startSave (s : State) (g : Gang) (reason : Nat) (target : Option Nat) : Option State :=
  match s.gangWgs g with
  | [] => none
  | w :: _ =>
    (s.takeArea w).map (fun s1 =>
      let g1 := { (s1.gangOf w).getD g with state := .saving, reason := reason, target := target, savedN := 0, images := [] }
      let s2 := (s1.putGang g1).writeHeader g1
      let tell (s : State) (a : Nat) : State :=
        ((s.noticeTargets g.asid).filter (· != a)).foldl (fun s c => s.send a c 2 (.saveNotice g.launch g.gang)) s
      (((List.range g.width).map (g.run + ·)).foldl tell s2).saveSweep)

/-- A thread of a gang has been saved (R210 step 4). -/
def countSaved (launch gang : Nat) (s : State) : State :=
  match s.gang? launch gang with
  | some g => let g1 := { g with savedN := g.savedN + 1 }; ((s.putGang g1).writeHeader g1).finishSave g1
  | none => s

/-- A thread that another module has saved, with its record, which goes into the save area here (R210, R211). -/
def savedAway (tid : Nat) (ws : List W64) (s : State) : State :=
  match (s.thread? tid).filter Thread.away with
  | none => s
  | some t =>
    let w := s.wgOf t
    match s.gangOf w with
    | some g =>
      if g.state ≠ .saving then s
      else
        countSaved t.launch t.gang ((s.writePool g.die (g.base + recordAt w t) (ws.take 128)).putThread
          { t.withRecord ws with place := .saveArea, status := .saved, writes := [] })
    | none => s

/-- A saved notice at the anchor of WGPOS 0 (R210 step 4). -/
def execSavedNotice (k : Nat) (s : State) : Host.Outcome State Fault Refusal :=
  .next (
    match s.take k with
    | some (m, s1) =>
      (match m.body with
       | .savedNotice launch gang => countSaved launch gang s1
       | .awaySaved tid ws => savedAway tid ws s1
       | _ => s)
    | none => s)

/-! ## Restoring (R213) -/

/-- A saved thread at its workgroup's new anchor: joining and sleeping threads go on waiting, every other executes at its saved pc. -/
def State.restoreThread (s : State) (w : Workgroup) (t : Thread) : State :=
  let st : Status :=
    match t.wait with
    | .join _ _ | .bar _ _ _ | .gbar => .joining
    | .sleep => .sleeping
    | _ => t.running
  s.seat { t with anchor := w.anchor, core := w.anchor, status := st, images := [], got := [],
                  wait := if st = .joining ∨ st = .sleeping then t.wait else .none, stalled := false }

/-- Items of a saved workgroup enter the plaza order again: old and new serial numbers. -/
def renumber (first : Nat) (l : List SeqItem) : List (Nat × Nat) :=
  ((l.map SeqItem.serial).mergeSort (· ≤ ·)).zipIdx.map (fun x => (x.1, first + x.2))

def newSerial (m : List (Nat × Nat)) (x : Nat) : Nat := ((m.find? (fun y => y.1 == x)).map (fun y => y.2)).getD x

def SeqInstr.renumber (m : List (Nat × Nat)) (i : SeqInstr) : SeqInstr := { i with serial := newSerial m i.serial }

def Sequencer.renumber (m : List (Nat × Nat)) (q : Sequencer) : Sequencer :=
  { q with queue := q.queue.map (SeqInstr.renumber m), parts := q.parts.map (fun p => { p with instr := p.instr.renumber m }) }

/-- A region of a workgroup's allocation, moved with it. -/
def Region.moved (old new : Nat) (r : Region) : Region := if r.isLocal then { r with lo := r.lo - old + new, hi := r.hi - old + new } else r

/-- The bank of a restored allocation that takes a saved mode (R289): one in FIFO mode keeps its entries, and its producer is sent a
grant for its new place. -/
def restoreBank (w : Workgroup) (s : State) (x : Nat × BankMode × List Byte) : State :=
  let plaza := plazaOf w.anchor
  match w.banks[x.1]? with
  | none => s
  | some b =>
    let s1 := s.setBank plaza b x.2.1
    match x.2.1 with
    | .fifo size count _ _ fill producer =>
      let s2 : State := { s1 with lmem := memWrite s1.lmem (localAt plaza (b * 0x8000)) x.2.2 }
      match producer with
      | some pd => s2.send (bankCore plaza b) ((parseDesc pd).dst w.asid) 2 (.grant (bankDesc plaza b) size count (count - fill) plaza b true)
      | none => s2
    | _ => s1

/-- One workgroup is restored at its new place: record, local and tile images, stamps (R213, R274). -/
def restoreWorkgroup (m : List (Nat × Nat)) (img : GangImage) (core lbase : Nat) (s : State) (w : Workgroup) : State :=
  let w1 := { w with anchor := core, lbase := lbase, tbase := s.freeTiles core, seq := w.seq.renumber m, park := w.park.map (Sequencer.renumber m) }
  let plaza := plazaOf core
  let p := s.plaza plaza
  let (a, n, t0, tn) := (lbase / 512, w.localLen / 512, w1.tbase / 4, 16384 * w.tiles)
  let old := fun (x : Nat × Nat) => a ≤ x.1 && x.1 < a + n
  let p1 := { p with
    stamps := p.stamps.filter (fun x => !old x) ++ img.stamps.map (fun x => (x.1 + a, x.2)),
    items := p.items ++ img.items.map (fun i => { i with serial := newSerial m i.serial, regions := i.regions.map (Region.moved w.lbase lbase) }),
    doomed := p.doomed ++ img.doomed.map (newSerial m),
    soft := p.soft.filter (fun x => !(lbase ≤ 4 * x && 4 * x < lbase + w.localLen)) ++ img.soft.map (· + lbase / 4),
    softTile := p.softTile.filter (fun x => !(x.1 == core && t0 ≤ x.2 && x.2 < t0 + tn)) ++ img.softTile.map (fun x => (core, x + t0)) }
  let s1 := (s.putPlaza p1).putWg w1
  let s2 : State := { s1 with
    lmem := memPaste s1.lmem (localAt plaza lbase) w.localLen img.bytes,
    tmem := memPaste s1.tmem (tileSlice w1) (65536 * w.tiles) img.tiles }
  img.banks.foldl (restoreBank w1) s2

/-- A saved gang on its run (R213): the plaza's write counter is raised above every restored stamp (R274), every image is loaded, then every
thread is created at its workgroup's anchor; an `IDLE` whose kick came meanwhile ends (R206, R208). -/
def restoreGang (g : Gang) (first : Nat) (bases : List Nat) (s : State) : State :=
  let p := s.plaza (plazaOf first)
  let items := g.images.flatMap GangImage.items
  let m := renumber p.nextSerial items
  let top := (g.images.flatMap GangImage.stamps).foldl (fun v x => max v x.2) p.wctr
  let s0 := s.putPlaza { p with nextSerial := p.nextSerial + items.length, wctr := (top + 1) % 2 ^ 64 }
  let s1 := g.images.zip bases |>.foldl (fun s x =>
    match s.wgs.find? (fun w => w.launch == g.launch && w.gang == g.gang && w.wgpos == x.1.wgpos) with
    | some w => restoreWorkgroup m x.1 (first + x.1.wgpos) x.2 s w
    | none => s) s0
  let s2 := s1.putGang { g with state := .running, run := first, order := s.gs.order, target := none, helped := false, images := [] }
  let s3 : State := { s2 with gs := { s2.gs with order := s.gs.order + 1 } }
  let s4 := (s3.threads.filter (fun t => g.owns t && t.status == .saved)).foldl (fun s t => s.restoreThread (s.wgOf t) t) s3
  (s4.gangWgs g).foldl (fun s w => wakeIdlers w s) s4

/-- The launch of a gang is being cancelled (R154, R166). -/
def State.gangCancelled (s : State) (g : Gang) : Bool := ((s.launch? g.launch).map (fun x => x.2.cancel)).getD false

/-- `GANG_RESTORE` (R213): on the relocation target, or on the first run once the gang heads its distributor's queue. A gang whose launch is
cancelled is discarded, not restored (R154). -/
def execGangRestore (launch gang : Nat) (s : State) : Host.Outcome State Fault Refusal :=
  .next (
    match s.gang? launch gang with
    | none => s
    | some g =>
      match s.gangWgs g, g.target with
      | w :: _, some c =>
        if g.state ≠ .saved ∨ !s.dieUp g.die ∨ s.gangCancelled g then s
        else (match s.runAt (s.gangNeed g w) c with | some bases => restoreGang g c bases s | none => s)
      | w :: _, none =>
        let d := s.die g.die
        if g.state ≠ .restoring ∨ d.queue.head? ≠ some (launch, gang) ∨ s.relocating g.die ∨ s.gangCancelled g then s
        else
          match s.findRun (s.gangNeed g w) g.die (fun _ => true) with
          | some (first, bases) => restoreGang g first bases (s.putDie { d with queue := d.queue.tail })
          | none => s
      | [], _ => s)

/-! ## Relocation (R153, R154) -/

/-- A thread that is away from its anchor, from the issue of the migrating instruction to its landing back (R36). -/
def Thread.travels (t : Thread) : Bool := t.status != .exited && (t.core != t.anchor || t.status == .outbound || t.status == .overflow)

/-- The module without a gang. -/
def State.without (s : State) (g : Gang) : State :=
  { s with threads := s.threads.filter (fun t => !g.owns t), wgs := s.wgs.filter (fun w => !(w.launch == g.launch && w.gang == g.gang)) }

/-- Whether a running gang may be relocated for the gang `key`, which needs `n` at priority `prio` (R153, R154): the run it would free, and its target. -/
def relocatable (s : State) (key : Nat × Nat) (n : Need) (prio die : Nat) (r : Gang) : Option (Nat × Nat) :=
  match s.gangWgs r with
  | [] => none
  | w :: _ =>
    if r.state ≠ .running ∨ r.die ≠ die ∨ r.prio > prio ∨ r.barred = some key ∨
        s.allThreads.any (fun t => r.owns t && (t.travels || t.status == .parkedFault)) then none
    else
      match s.findRun (s.gangNeed r w) die (fun p => p != plazaOf r.run), (s.without r).findRun n die (fun p => p == plazaOf r.run) with
      | some (target, _), some (freed, _) => some (freed, target)
      | _, _ => none

/-- The choice among eligible gangs (R153): lowest PRIO, smallest freed run, latest placement. -/
def betterMove (a b : Gang × Nat × Nat) : Bool :=
  a.1.prio < b.1.prio || (a.1.prio == b.1.prio && (a.2.1 < b.2.1 || (a.2.1 == b.2.1 && b.1.order < a.1.order)))

def State.relocation (s : State) (key : Nat × Nat) (n : Need) (prio die : Nat) : Option (Gang × Nat × Nat) :=
  (s.gs.gangs.filterMap (fun r => (relocatable s key n prio die r).map (fun x => (r, x)))).foldl
    (fun b x => match b with | none => some x | some y => if betterMove x y then some x else some y) none

/-- What the gang at the head of a queue needs. -/
def State.needOf (s : State) (g : Gang) : Option Need :=
  match s.gangWgs g with
  | w :: _ => some (s.gangNeed g w)
  | [] => (s.launch? g.launch).bind (fun x => (s.imageOf x.1).bind (fun i => (i.kdesc? x.2.kdesc).map KDesc.need))

/-- `RELOCATION` (R153, R154): a running gang is saved for the gang at the head, to be restored in another plaza of the die; one for each gang
at the head. -/
def execRelocation (die : Nat) (s : State) : Host.Outcome State Fault Refusal :=
  .next (
    match (s.die die).queue.head?.bind (fun x => s.gang? x.1 x.2) with
    | none => s
    | some g =>
      match s.needOf g with
      | none => s
      | some n =>
        if g.helped ∨ s.relocating die ∨ (s.findRun n die (fun _ => true)).isSome then s
        else
          match s.relocation (g.launch, g.gang) n g.prio die with
          | none => s
          | some (r, _, target) =>
            match s.startSave r 0 (some target) with
            | some s1 => s1.putGang { g with helped := true }
            | none => s.putGang { r with barred := some (g.launch, g.gang) })

/-! ## Cancellation and retirement -/

/-- The save area of a gang is given back (R209). -/
def State.dropArea (s : State) (g : Gang) : State :=
  match s.gangWgs g with
  | w :: _ =>
    let d := s.die g.die
    if g.saveArea then (s.putDie { d with saveUsed := d.saveUsed - saveBytes w }).wakeWaiting (fun t => t.wait == .savePool) else s
  | [] => s

/-- A suspend that waited for the save pool tries again (R209). -/
def State.retrySuspends (s : State) : State :=
  (s.gs.gangs.filter (fun g => g.state == .running && ((s.job? g.job).map Job.suspended).getD false)).foldl
    (fun s g => (s.startSave g 1 none).getD s) s

/-- A gang retires: its resources are released together. One that is saved stands in no plaza. -/
def retireGang (g : Gang) (s : State) : State :=
  let s1 := (if g.stands then s.leavePlaza g else s).dropArea g
  let s2 : State := { s1.putGang { g with state := .retired, saveArea := false, images := [] } with
    wgs := s1.wgs.filter (fun w => !(w.launch == g.launch && w.gang == g.gang)),
    threads := s1.threads.filter (fun t => !(g.owns t && t.status == .exited)) }
  let s3 := match s2.job? g.job with
    | some j => s2.putJob (j.mapTcb (fun t => t.launch == g.launch) (fun t => { t with gleft := t.gleft - 1 }))
    | none => s2
  s3.retrySuspends.suspendsDone

/-- Every condition of R155 holds. -/
def State.canRetire (s : State) (g : Gang) : Bool :=
  let ws := s.gangWgs g
  let wids := ws.map Workgroup.wid
  (g.state == .running || g.state == .saving || g.state == .saved || g.state == .restoring) &&
    !s.allThreads.any (fun t => g.owns t && (t.status != .exited || !t.writes.isEmpty || !t.fwd.isEmpty)) &&
    !s.net.any (fun m => match m.body with | .exitNotice w _ => wids.contains w && s.reachable m.dst | _ => false) &&
    ws.all (fun w => w.seq.queue.isEmpty && w.seq.parts.isEmpty && !w.seq.pendingCommit && !w.seq.batches.any (fun b => b == 1 || b == 3) &&
      !s.seqFlight w.wid) &&
    (s.liveJobs (plazaOf g.run) wids).isEmpty

/-- Every thread of a gang has exited. -/
def State.gangExited (s : State) (g : Gang) : Bool := !s.allThreads.any (fun t => g.owns t && t.status != .exited)

/-- `GANG_RETIRE` (R155, R289): once all its threads have exited its engine jobs that do not go on are cancelled (R331), so that what waits behind them
ends; the producers of its FIFO banks are revoked. -/
def execGangRetire (launch gang : Nat) (s : State) : Host.Outcome State Fault Refusal :=
  .next (
    match s.gang? launch gang with
    | none => s
    | some g =>
      let s1 := if g.stands && s.gangExited g then s.cancelFaulted g else s
      let ws := if g.stands then s1.gangWgs g else []
      if !s1.canRetire g then s1
      else if ws.any (fun w => !(s1.unrevoked w).isEmpty) then ws.foldl State.revokeBanks s1
      else
        let d := s1.die g.die
        retireGang g (s1.putDie { d with queue := d.queue.filter (fun x => x != (launch, gang)) }))

/-- A thread that cancellation removes at once; a context in flight or held is discarded where it is accepted (R166). -/
def Thread.removable (t : Thread) : Bool :=
  t.status != .exited && t.status != .outbound && (match t.place with | .staged _ _ | .spawnStaged _ _ _ _ => false | _ => true)

/-- A cancelled thread is removed. -/
def State.removeThread (s : State) (t : Thread) : State :=
  let s1 : State := { s with dies := s.dies.map (fun d => { d with barriers := d.barriers.map (fun b =>
    { b with waiters := b.waiters.filter (fun x => x.1 != t.tid) }) }) }
  ((s1.stopThread t).freeMonitors).reap t.tid

/-- A save notice at a core (R210): one of this module has done its work once it has come in; a peer's stands there until each thread of its gang that
is there, or on its way there, has been saved (log entry 165). -/
def execGangSaveNotice (k : Nat) (s : State) : Host.Outcome State Fault Refusal :=
  settled (
    match s.take k with
    | some (m, s1) =>
      (match m.body with
       | .saveNotice _ _ =>
         if m.src < 1024 then s1
         else if m.isMoving then { s1 with net := s1.net ++ [{ m with spot := .staged 0 }] }
         else s
       | _ => s)
    | none => s)

/-- A running gang of a cancelled launch stops: its threads are removed, its sequencers discard their batches, its engine jobs are
cancelled (R166). -/
def cancelGang (g : Gang) (s : State) : State :=
  let s1 := (s.allThreads.filter (fun t => g.owns t && t.removable)).foldl State.removeThread s
  let s2 := (s1.gangWgs g).foldl (fun s w =>
    let s1 := match w.park with | some q => (s.clearSeq w.wid).dropQueue w q | none => s.clearSeq w.wid
    let w1 := s1.wgBy w.wid
    s1.putWg { w1 with park := none, parkTiles := [], seq := { w1.seq with parts := [], pendingCommit := false } }) s1
  let plaza := plazaOf g.run
  let wids := (s2.gangWgs g).map Workgroup.wid
  ((s2.plaza plaza).jobs.filter (fun j => wids.contains j.wid && j.live)).foldl (fun s j => stopJob plaza j 256 s) s2

/-- Gangs of a launch that have not started never start. -/
def State.withdraw (s : State) (launch : Nat) : State :=
  let out := s.gs.gangs.filter (fun g => g.launch == launch && g.state == .queued)
  { s with
    gs := { s.gs with gangs := s.gs.gangs.filter (fun g => !(g.launch == launch && g.state == .queued)) },
    dies := s.dies.map (fun d => { d with queue := d.queue.filter (fun x => !out.any (fun g => (g.launch, g.gang) == x)) }) }

/-- Spawned threads of a launch are removed, those in spawn queues included. -/
def State.removeSpawned (s : State) (launch : Nat) : State :=
  let s1 := (s.allThreads.filter (fun t => t.spawned && t.launch == launch && t.removable)).foldl State.removeThread s
  s1.plazas.foldl (fun s p =>
    let out := p.spawnQ.filter (fun t => t.launch == launch)
    if out.isEmpty then s
    else
      out.foldl (fun s t => s.spawnedExit t.job t.launch)
        ((s.putPlaza { p with spawnQ := p.spawnQ.filter (fun t => t.launch != launch) }).wakeWaiting (fun u => u.wait == .spawnQueue p.id))) s1

/-- `LAUNCH_CANCELLATION` (R166). -/
def execLaunchCancellation (job tcb : Nat) (s : State) : Host.Outcome State Fault Refusal :=
  .next (
    match s.job? job with
    | none => s
    | some j =>
      match j.tcbs.find? (fun t => t.index == tcb) with
      | none => s
      | some t =>
        if !t.cancel ∨ t.complete then s
        else
          let s1 := s.withdraw t.launch
          ((s1.gs.gangs.filter (fun g => g.launch == t.launch && g.state != .retired)).foldl (fun s g => cancelGang g s) s1).removeSpawned
            t.launch)

end Sys2Proof.Machine
end

