-- ==== Sys2Proof/Machine/Graph.lean ====
section
/-! DEFINITION. Jobs, phases and graphs (R135, R136, R156-R165, R170): submission, the start of phases and graphs, the ready queue,
the completion of launches and jobs, requests to a hub, and the takeover of the standby scheduler. -/

namespace Sys2Proof.Machine

/-! ## Jobs (R157, R158) -/

/-- What is wrong with a job record (R157), 0 for nothing. -/
def State.recordStatus (s : State) (r : JobRecord) : Nat :=
  let w := r.w0.toNat
  if r.w3 ≠ 0 ∨ bits w 31 18 ≠ 0 ∨ bits w 15 12 ≠ 0 then 0x02
  else if bits w 11 0 ≠ r.queueAsid then 0x04
  else
    match s.gs.images.find? (fun i => i.asid == r.queueAsid && indexOf i.code == indexOf r.image) with
    | none => 0x01
    | some i => if bits w 63 48 = 0 ∨ i.phases.length < bits w 47 32 + bits w 63 48 then 0x03 else 0

/-- `JOB_SUBMIT` (R157). -/
def execJobSubmit (hub : Nat) (record : JobRecord) (s : State) : Host.Outcome State Fault Refusal :=
  .next (
    if !s.hubUp hub then s
    else
      let st := s.recordStatus record
      if st ≠ 0 then { s with host := .jobQueue st 0 :: s.host }
      else
        let w := record.w0.toNat
        let j : Job :=
          { num := s.gs.nextJob, asid := record.queueAsid, hub := hub, image := record.image, notify := record.notify, cpol := bits w 17 16,
            phase0 := bits w 47 32, nphase := bits w 63 48, phase := 0, stage := 1, graph := 0, tcbs := [], phases := [],
            outcome := 0, cause := 0, canc := 0, cancelGraph := false, cancelJob := false, suspended := false, doneOrder := 0 }
        { s.putJob j with gs := { (s.putJob j).gs with nextJob := s.gs.nextJob + 1 } })

/-- The present phase has completed: the next one starts, or the job is at its end (R157). -/
def Job.endPhase (j : Job) (outcome : Nat) : Job :=
  let j1 := { j with phases := j.phases ++ [outcome] }
  if outcome = 0 ∧ j.phase + 1 < j.nphase then { j1 with phase := j.phase + 1, stage := 1, tcbs := [], cancelGraph := false }
  else { j1 with stage := 3 }

/-- A job whose last phase has completed and whose status has not been written. -/
def Job.ended (j : Job) : Bool := j.stage == 3 && j.phase < j.phases.length

def State.wakeObjects (s : State) : State := s.wakeWaiting (fun t => t.wait == .object)

/-- The active hub, whose scheduler accesses memory. -/
def State.scheduler (s : State) : Requester := .hub s.activeHub

/-- What a peer has answered to the scheduler's access for a job. -/
def State.answerTo (s : State) (job : Nat) (h : W64) : Option (Nat × List Byte) :=
  (s.gs.got.find? (fun g => g.1 == job && g.2.1 == h)).map (fun g => g.2.2)

/-- The answers that the scheduler keeps for a job have been used. -/
def State.forgetAnswers (s : State) (job : Nat) : State := { s with gs := { s.gs with got := s.gs.got.filter (fun g => g.1 != job) } }

/-- The scheduler asks a peer for a job, once at a time. -/
def State.askPeer (s : State) (job home : Nat) (r : Request) : State :=
  if s.net.any (fun m => match m.body with | .read q | .store q => q.who == s.scheduler && q.wid == job | _ => false) then s
  else
    let r1 := { r with who := s.scheduler, wid := job }
    s.send (0x200 + 64 * s.activeHub) home 0 (if r.kind = .write then .store r1 else .read r1)

/-- A read that the graph scheduler makes (R136, R161), with the checks of `LD`: the bytes, a fault code, or a stall until the host completes
the fault or a peer answers. -/
def State.schedRead (s : State) (j : Job) (h : W64) (n : Nat) : Except State (Except Nat (List Byte) × State) :=
  let good := (s.gs.got.filter (fun g => g.1 == j.num && g.2.2.1 == 0)).map (fun g => (g.2.1, g.2.2.2))
  match readGot s.scheduler good j.asid h n (n / 512 + 2) [] s with
  | .ok (bs, s1) => .ok (.ok bs, s1)
  | .error x =>
    match x.noted s.scheduler j.asid s with
    | (.code c, s1) => .ok (.error c, s1)
    | (.absent home key pos h, s1) => .error (s1.postRecord home key h pos 0 0)
    | (.peer home h n, s1) =>
      (match s1.answerTo j.num h with
       | some (c, _) => .ok (.error c, s1)
       | none => .error (s1.askPeer j.num home { Request.blank with asid := j.asid, handle := h, size := n }))
    | (_, s1) => .error s1

/-- `PHASE_START` (R136, R165): the size word chooses the class. No rule checks the alignment of the size word: the model reads its four bytes as they
stand (log entry 156). -/
def execPhaseStart (job : Nat) (s : State) : Host.Outcome State Fault Refusal :=
  .next (
    match s.job? job with
    | none => s
    | some j =>
      if j.stage ≠ 1 then s
      else if j.cancelJob then (s.putJob (j.endPhase 1)).wakeObjects
      else
        match (s.imageOf j).bind (fun i => i.phases[j.phase0 + j.phase]?) with
        | none => (s.putJob (j.endPhase 2)).wakeObjects
        | some p =>
          match s.schedRead j p.sizew 4 with
          | .error s1 => s1
          | .ok (.error _, s1) => ((s1.forgetAnswers job).putJob (j.endPhase 2)).wakeObjects
          | .ok (.ok bs, s1) =>
            match p.classes.find? (fun c => leNat bs ≤ c.1) with
            | none => ((s1.forgetAnswers job).putJob (j.endPhase 2)).wakeObjects
            | some c => (s1.forgetAnswers job).putJob { j with stage := 2, graph := c.2 })

/-! ## Graphs (R159-R162) -/

/-- A word of the image's schedule section. -/
def Image.word (i : Image) (off : Nat) : Nat := leNat ((i.sched.drop off).take 8)

def Image.tcbCount (i : Image) (g : Nat) : Nat := bits (i.word g) 15 0

/-- Explicit edges of a graph image (R159). -/
def Image.edges (i : Image) (g : Nat) : List (Nat × Nat) :=
  let off := g + i.word (g + 8)
  (List.range (bits (i.word g) 31 16)).map (fun k =>
    let e := leNat ((i.sched.drop (off + 4 * k)).take 4)
    (bits e 15 0, bits e 31 16))

/-- A task control block of a graph image as its graph starts (R160). -/
def Image.tcbAt (i : Image) (g launch k : Nat) : Tcb :=
  let a := g + 0x40 + 64 * k
  let w := i.word (a + 0x10)
  { Tcb.blank with
    index := k, kdesc := BitVec.ofNat 64 (i.word a), args := BitVec.ofNat 64 (i.word (a + 8)), gangs := bits w 31 0, gleft := bits w 31 0,
    prio := bits w 35 32, wcnt := bits w 40 36, diemask := bits w 48 41, launch := launch }

/-- The argument block of a launch (R161): its W values and regions, or the code of the fault that ends it. -/
def startTcb (j : Job) (img : Image) (t : Tcb) (s : State) : Except State (Except Nat Tcb × State) :=
  match img.kdesc? t.kdesc with
  | none => .ok (.error 0x08, s)
  | some k =>
    let fill (ws : List W64) : Tcb := { t with words := ws, regions := regionsOf k ws t.wcnt t.gangs }
    if t.wcnt = 0 then .ok (.ok (fill []), s)
    else if offsetOf t.args % 8 ≠ 0 then .ok (.error 0x0A, s)
    else
      match s.schedRead j t.args (8 * t.wcnt) with
      | .error s1 => .error s1
      | .ok (.error c, s1) => .ok (.error c, s1)
      | .ok (.ok bs, s1) => .ok (.ok (fill ((List.range t.wcnt).map (fun n => BitVec.ofNat 64 (wordAt bs n)))), s1)

/-- Every launch of a graph with its words, and the launches that a fault has ended, with their codes. -/
def startTcbs (j : Job) (img : Image) : List Tcb → State → Except State (List Tcb × List (Nat × Nat) × State)
  | [], s => .ok ([], [], s)
  | t :: ts, s =>
    match startTcb j img t s with
    | .error s1 => .error s1
    | .ok (r, s1) =>
      match startTcbs j img ts s1 with
      | .error s2 => .error s2
      | .ok (l, bad, s2) =>
        match r with
        | .ok t1 => .ok (t1 :: l, bad, s2)
        | .error c => .ok (t :: l, (t.launch, c) :: bad, s2)

/-- Predecessors among the launches with a lower index (R162). -/
def predsOf (edges : List (Nat × Nat)) (earlier : List Tcb) (t : Tcb) : List Nat :=
  (earlier.filter (fun e => regionsMeet e.regions t.regions || edges.contains (e.index, t.index))).map Tcb.index

/-- Predecessors and counters of a graph's launches, in TCB order (R162). -/
def linkTcbs (edges : List (Nat × Nat)) (now : W64) (l : List Tcb) : List Tcb :=
  l.map (fun t =>
    let ps := predsOf edges (l.filter (fun e => e.index < t.index)) t
    { t with pred := ps, counter := ps.length }.settle now)

/-- Whether the scheduler has handed a launch on at the present value of the hub's DTC: what it processes at one value comes before what it hands
on then (R144, log entry 145). -/
def State.handedNow (s : State) : Bool := s.gs.handed == some (s.dtcOf (8 + s.activeHub))

/-- `GRAPH_START` (R161, R162). R141 lets an image be unloaded while none of its launches is incomplete, and says nothing of a job whose graph has been
chosen then: the model leaves it as it stands (log entry 155). -/
def execGraphStart (job : Nat) (s : State) : Host.Outcome State Fault Refusal :=
  .next (
    match s.job? job with
    | none => s
    | some j =>
      match s.imageOf j with
      | none => s
      | some img =>
        if j.stage ≠ 2 ∨ s.handedNow then s
        else if j.cancelGraph then (s.putJob (j.endPhase 1)).wakeObjects
        else
          let n := img.tcbCount j.graph
          match startTcbs j img ((List.range n).map (fun k => img.tcbAt j.graph (s.gs.nextLaunch + k) k)) s with
          | .error s1 => s1
          | .ok (l, bad, s1) =>
            let j1 := { j with stage := 3, tcbs := linkTcbs (img.edges j.graph) (s.dtcOf (8 + s.activeHub)) l }
            let j2 := bad.foldl (fun j x => j.launchError x.1 x.2) j1
            let s2 := (s1.forgetAnswers job).putJob j2
            { s2 with gs := { s2.gs with nextLaunch := s.gs.nextLaunch + n } })

/-! ## Requests to a hub -/

/-- A child launch reaches the hub, which builds its TCB (R115, R163). -/
def buildChild (now : W64) (idx : Nat) (j : Job) : Job :=
  match j.tcbs.find? (fun t => t.index == idx && !t.built) with
  | none => j
  | some t =>
    let ps := (j.tcbs.filter (fun e => e.index < idx && !e.complete && e.index != t.parent && regionsMeet e.regions t.regions)).map Tcb.index
    j.mapTcb (fun x => x.index == idx) (fun x => { x with built := true, pred := ps, counter := ps.length }.settle now)

/-- `HUB_REQUEST` (R403): a child launch; a sector of the capacity tier is read for a memory-side cache, or written back by one (R340, R341). -/
def execHubRequest (k : Nat) (s : State) : Host.Outcome State Fault Refusal :=
  .next (
    match s.take k with
    | none => s
    | some (m, s1) =>
      match m.body with
      | .hub _ job idx =>
        if s.handedNow then s
        else (match s1.job? job with
         | some j => s1.putJob (buildChild (s1.dtcOf (8 + s1.activeHub)) idx j)
         | none => s1)
      | .sectorFill index sector => s1.send m.dst m.src 3 (.sector index sector (memRead s1.mem (capAt (2048 * sector)) 2048))
      | .writeBack index sector bs =>
        let s2 := s1.copyMem ((s1.port m.src).sectorAt index 0) (capAt (2048 * sector)) 2048
        ({ s2 with mem := memWrite s2.mem (capAt (2048 * sector)) bs }).send m.dst m.src 2 (.writeBackAck index)
      | _ => s)

/-! ## The ready queue (R152, R164) -/

/-- What may be handed on next: a gang of a ready launch, or a saved gang of a job that has been resumed. -/
structure Offer where
  prio   : Nat
  back   : Bool                    -- a saved gang, ahead of the ready launches of equal PRIO (R302)
  early  : Bool                    -- ready before a scheduler takeover (R170)
  rdy    : Nat
  index  : Nat
  job    : Nat
  launch : Nat
  gang   : Nat
  deriving DecidableEq, Repr

/-- The order of hand-on (R144, R164, R170, R302). -/
def Offer.before (a b : Offer) : Bool :=
  let key (x : Offer) : List Nat := [15 - x.prio, if x.back then 0 else 1, if x.early then 0 else 1, x.rdy, x.index, x.job, x.gang]
  (key a) < (key b)

/-- The next gang of a launch to be handed on: the lowest with none handed on or withdrawn. -/
def State.nextGang (s : State) (t : Tcb) : Option Nat :=
  match (List.range t.handed).find? (fun g => (s.gang? t.launch g).isNone) with
  | some g => some g
  | none => if t.handed < t.gangs then some t.handed else none

/-- A ready launch with a gang to hand on. -/
def State.offerOf (s : State) (j : Job) (t : Tcb) : Option Offer :=
  if t.complete ∨ t.cancel ∨ !t.built ∨ ¬(t.state = 1 ∨ t.state = 2) then none
  else (s.nextGang t).map (fun g => ⟨t.prio, false, t.early, t.rdy.toNat, t.index, j.num, t.launch, g⟩)

def State.offers (s : State) : List Offer :=
  (s.gs.jobs.filter (fun j => !j.suspended && j.stage == 3)).flatMap (fun j =>
    j.tcbs.filterMap (s.offerOf j) ++
      (s.gs.gangs.filter (fun g => g.job == j.num && g.state == .saved && g.target.isNone)).map
        (fun g => ⟨g.prio, true, false, g.order, g.tcb, j.num, g.launch, g.gang⟩))

/-- The candidate dies of a launch, round-robin from the one behind the last (R152); the bits of the dies that M4 lacks are ignored (R160). -/
def State.candidateDies (s : State) (diemask : Nat) : List Nat :=
  let mask := if s.conf.m8 then diemask else diemask % 16
  ((List.range 8).map (fun i => (s.gs.lastDie + 1 + i) % 8)).filter (fun d => s.dieUp d && (mask == 0 || bitOf mask d))

/-- A RESUME whose saved gangs have all been handed on is complete (R302). -/
def State.resumesDone (s : State) : State :=
  let busy (x : Nat × Nat × W64) : Bool := s.gs.gangs.any (fun g => g.job == x.2.1 && g.state == .saved && g.target.isNone)
  (s.gs.resumes.filter (fun x => !busy x)).foldl (fun s x => complete x.1 x.2.2 0 s)
    { s with gs := { s.gs with resumes := s.gs.resumes.filter busy } }

/-- A gang enters a distributor's queue. -/
def State.enqueue (s : State) (die launch gang : Nat) : State :=
  let d := s.die die
  let s1 := s.putDie { d with queue := d.queue ++ [(launch, gang)] }
  { s1 with gs := { s1.gs with lastDie := die } }

def handOn (o : Offer) (j : Job) (t : Tcb) (width die : Nat) (s : State) : State :=
  let g : Gang :=
    { asid := j.asid, job := j.num, launch := t.launch, gang := o.gang, tcb := t.index, die := die, run := 0, width := width, prio := t.prio,
      state := .queued, order := 0, saveArea := false, base := 0, reason := 0, live := 0, savedN := 0, target := none, barred := none,
      helped := false, images := [] }
  let s1 := s.putJob (j.mapTcb (fun x => x.launch == t.launch) (fun x => { x with state := 2, handed := max x.handed (o.gang + 1) }))
  ({ s1 with gs := { s1.gs with gangs := s1.gs.gangs ++ [g] } }).enqueue die t.launch o.gang

/-- The die that receives an offer (R152): the first with a run for it, else the first on which relocation would make one. -/
def State.dieFor (s : State) (key : Nat × Nat) (n : Need) (prio : Nat) (dies : List Nat) : Option Nat :=
  match dies.find? (fun d => (s.findRun n d (fun _ => true)).isSome) with
  | some d => some d
  | none => dies.find? (fun d => (s.relocation key n prio d).isSome)

/-- A hand-on is made at the present value of the hub's DTC. -/
def State.handing (s : State) : State := { s with gs := { s.gs with handed := some (s.dtcOf (8 + s.activeHub)) } }

/-- `READY_HAND_ON` (R152, R164): the first of the ready queue is handed on, or stays at its head. -/
def execReadyHandOn (s : State) : Host.Outcome State Fault Refusal :=
  .next (
    match s.offers.foldl (fun b o => match b with | none => some o | some x => if o.before x then some o else some x) none with
    | none => s
    | some o =>
      if o.back then
        match s.gang? o.launch o.gang with
        | none => s
        | some g =>
          match s.needOf g with
          | none => s
          | some n =>
            if (s.dieFor (g.launch, g.gang) n g.prio [g.die]).isSome then
              ((s.putGang { g with state := .restoring }).enqueue g.die g.launch g.gang).handing.resumesDone
            else s
      else
        match s.launch? o.launch with
        | none => s
        | some (j, t) =>
          match (s.imageOf j).bind (fun i => i.kdesc? t.kdesc) with
          | none => s
          | some k =>
            match s.dieFor (t.launch, o.gang) k.need t.prio (s.candidateDies t.diemask) with
            | some d => (handOn o j t k.gangw d s).handing
            | none => s)

/-! ## Completion (R156, R162, R167) -/

/-- Nothing of a launch is left to wait for; one of no gangs completes at once (R115, R160). -/
def State.launchDone (s : State) (t : Tcb) : Bool :=
  let gone := !s.gs.gangs.any (fun g => g.launch == t.launch && g.state != .retired) &&
    !s.allThreads.any (fun u => u.launch == t.launch && (!u.writes.isEmpty || !u.fwd.isEmpty)) && t.spawned == 0
  t.built && !t.complete && gone && (t.cancel || t.gangs == 0 || (t.gleft == 0 && (t.state == 1 || t.state == 2)))

/-- A completed launch counts down its successors; one that failed cancels them (R162, R167). -/
def Tcb.afterPred (done : Tcb) (now : W64) (t : Tcb) : Tcb :=
  if t.pred.contains done.index ∧ !t.complete then
    { t with counter := t.counter - 1, cancel := t.cancel || done.failed }.settle now
  else t

/-- `LAUNCH_COMPLETION` (R156): with the graph and the phase when it was the last. -/
def execLaunchCompletion (job tcb : Nat) (s : State) : Host.Outcome State Fault Refusal :=
  .next (
    match s.job? job with
    | none => s
    | some j =>
      match j.tcbs.find? (fun t => t.index == tcb) with
      | none => s
      | some t =>
        if !s.launchDone t ∨ s.handedNow then s
        else
          let t1 := { t with complete := true, state := if t.state = 5 then 5 else if t.cancel then 4 else 3 }
          let j1 := { j with tcbs := (j.tcbs.map (fun (x : Tcb) => if x.index = t.index then t1 else x)).map (t1.afterPred (s.dtcOf (8 + s.activeHub))),
                             canc := if t1.state = 4 then min 65535 (j.canc + 1) else j.canc }
          let j2 := if j1.tcbs.all Tcb.complete then j1.endPhase j1.graphOutcome else j1
          let s1 := s.putJob j2
          ({ s1 with gs := { s1.gs with gangs := s1.gs.gangs.filter (fun g => g.launch != t.launch) } }).wakeObjects)

/-- The job status (R158). -/
def Job.status (j : Job) (outcome : Nat) : Nat :=
  j.num % 2 ^ 24 + outcome * 2 ^ 24 + j.cause * 2 ^ 32 + j.canc * 2 ^ 40

/-- The outcome of a job whose last phase has completed (R156, R158). -/
def Job.lastOutcome (j : Job) : Nat := if j.tcbs.any (fun t => t.state == 5) then 2 else j.phases.getLast?.getD 2

/-- A job completes: its completion entry is posted, its barriers are freed (R158, R384). -/
def completeJob (j : Job) (s : State) : State :=
  let s1 : State := (s.forgetAnswers j.num).putJob { j with stage := 4, outcome := j.lastOutcome, doneOrder := s.gs.order }
  ({ s1 with
    gs := { s1.gs with order := s.gs.order + 1 }, host := .jobQueue 0 j.num :: s1.host,
    dies := s1.dies.map (fun (d : DieSt) => { d with barriers := d.barriers.filter (fun (b : ModBarrier) => b.job != j.num) }.tidy) }).wakeObjects

/-- A job whose status has been written, once the write is complete (R88): stage 5. -/
def postStatus (j : Job) (s : State) : State := if s.owes s.scheduler then s.putJob { j with stage := 5 } else completeJob j s

/-- The status of a job is written; that to a peer is answered by it. A write that fails leaves the completion as it is (log entry 93). -/
def writeStatus (j : Job) (s : State) : State :=
  let bs := leBytes 8 (j.status j.lastOutcome)
  match s.writeBuf s.scheduler j.asid j.notify bs with
  | .ok s1 => postStatus j s1
  | .error x =>
    match x.noted s.scheduler j.asid s with
    | (.code _, s1) => completeJob j s1
    | (.absent home key pos h, s1) => s1.postRecord home key h pos 1 0
    | (.peer home h n, s1) =>
      if (s1.answerTo j.num h).isSome then completeJob j s1
      else s1.askPeer j.num home { Request.blank with asid := j.asid, handle := h, size := n, kind := .write, data := bs.take n }
    | (_, s1) => s1

/-- `JOB_COMPLETION` (R158): the status is written to NOTIFY with release at system scope, and the completion entry is posted once that write is
complete. -/
def execJobCompletion (job : Nat) (s : State) : Host.Outcome State Fault Refusal :=
  .next (
    match s.job? job with
    | none => s
    | some j => if j.ended then writeStatus j s else if j.stage = 5 then postStatus j s else s)

/-- The graph scheduler of a hub takes over (R170): launches that are ready keep their order. -/
def State.takeOver (s : State) (hub : Nat) : State :=
  { s with gs := { s.gs with
      active := hub, handed := none,
      jobs := s.gs.jobs.map (fun j => j.mapTcb (fun t => t.state == 1 || t.state == 2) (fun t => { t with early := true })) } }

/-- `SCHEDULER_TAKEOVER` (R170): HD0's scheduler fails, and HD1's takes over. -/
def execSchedulerTakeover (s : State) : Host.Outcome State Fault Refusal :=
  .next (if s.gs.active ≠ 0 ∨ !s.hubUp 1 then s else s.takeOver 1)

end Sys2Proof.Machine
end

