-- ==== Sys2Proof/Machine/Hubs.lean ====
section
/-! DEFINITION. The commands of the hubs' privileged queues (R302, R303, R292, R416). -/

namespace Sys2Proof.Machine

/-! ## A command (R302) -/

def cmdCode (c : Command) : Nat := bits c.w0.toNat 7 0
def cmdAsid (c : Command) : Nat := bits c.w0.toNat 19 8
def cmdLevel (c : Command) : Nat := bits c.w0.toNat 21 20

/-- A hub executes its commands one at a time: one whose completion is outstanding holds back the next. -/
def State.hubBusy (s : State) (hub : Nat) : Bool :=
  (s.hub hub).inval.isSome || s.gs.suspends.any (fun x => x.1 == hub) || s.gs.resumes.any (fun x => x.1 == hub)

/-- A command taken by its hub: the checks of R302, then its effect, which posts the completion. `anyAsid`: the ASID need not be registered. -/
def runCommand (code : Nat) (anyAsid : Bool) (c : Command) (go : State → State) (s : State) : Host.Outcome State Fault Refusal :=
  settled (
    if !s.hubUp c.hub || s.hubBusy c.hub then s
    else if cmdCode c = 0 ∨ 0x0B < cmdCode c then complete c.hub c.tag 0x01 s
    else if cmdCode c ≠ code then s
    else if bits c.w0.toNat 63 22 ≠ 0 then complete c.hub c.tag 0x02 s
    else if !anyAsid && (s.bases (cmdAsid c)).isNone then complete c.hub c.tag 0x03 s
    else go s)

/-- A handle that names a buffer of the command's ASID, by the table or by an entry that a cache still holds. -/
def State.namesBuffer (s : State) (asid : Nat) (h : W64) : Bool :=
  (s.tableEntry asid (indexOf h)).isSome || s.ports.any (fun q => (findDesc q.desc asid (indexOf h)).isSome) ||
    s.cores.any (fun x => (findDesc x.desc asid (indexOf h)).isSome)

/-- A unit that a command names is a hub, or a core of a die that has been admitted (R302). -/
def State.unitOk (s : State) (unit : Nat) : Bool := unit == 0x200 || unit == 0x240 || (unit < 512 && s.conf.admitted.getLsbD (dieOf unit))

/-! ## Invalidation (R303) -/

/-- Every unit that holds translations or cached lines: running cores and hubs. -/
def State.units (s : State) : List Nat :=
  (((List.range 8).filter s.dieUp).flatMap (fun d => (List.range 64).map (fun k => 64 * d + k))) ++
    ((List.range 2).filter s.hubUp).map (fun h => 0x200 + 64 * h)

/-- An invalidation is broadcast; its completion waits for every answer. -/
def broadcast (c : Command) (level : Nat) (h : W64) (n : Nat) (bases : Option (Nat × Nat)) (s : State) : State :=
  let us := s.units
  let x := s.hub c.hub
  us.foldl (fun s u => s.send (0x200 + 64 * c.hub) u 2 (.inval c.hub (cmdAsid c) level h n))
    (s.putHub c.hub { x with inval := some ⟨c.tag, (cmdAsid c), us.length, bases⟩ })

def execInval (c : Command) (s : State) : Host.Outcome State Fault Refusal :=
  runCommand 0x01 false c (fun s =>
    if cmdLevel c = 3 then complete c.hub c.tag 0x02 s
    else if cmdLevel c < 2 ∧ !s.namesBuffer (cmdAsid c) c.arg then complete c.hub c.tag 0x04 s
    else broadcast c (cmdLevel c) c.arg (max 1 c.param.toNat) none s) s

def execRegasid (c : Command) (s : State) : Host.Outcome State Fault Refusal :=
  runCommand 0x03 true c (fun s =>
    if (s.bases (cmdAsid c)).isNone then complete c.hub c.tag 0 (setBases (cmdAsid c) c.arg.toNat c.param.toNat s)
    else broadcast c 2 0 0 (some (c.arg.toNat, c.param.toNat)) s) s

/-! ## Faults (R89, R301, R302) -/

/-- The requests that wait for a page, held writes first, are translated again; a page that is still not present holds them again, with a
new record. The outstanding record is cleared, posted or not; a tier migration engine that held for the page goes on (R279, R301). -/
def retryPage (port : Nat) (key : PageKey) (s : State) : State :=
  let q := s.port port
  let mine := q.holdQ.filter (fun x => x.1 == key) ++ q.readHold.filter (fun x => x.1 == key) ++ q.walking.filter (fun x => x.1 == key)
  let s1 : State := { s with hubs := s.hubs.map (fun (x : HubSt) => if x.moveHold = some (port, key) then { x with moveHold := none } else x) }
  walkDone port key (s1.putPort { q with
    records := q.records.filter (· != key), unposted := q.unposted.filter (fun x => x.1 != key), holdQ := q.holdQ.filter (fun x => x.1 != key), readHold := q.readHold.filter (fun x => x.1 != key),
    walking := mine ++ q.walking.filter (fun x => x.1 != key) })

/-- Engine jobs held on a page go on (R329). -/
def releaseJobs (port : Nat) (key : PageKey) (s : State) : State :=
  { s with plazas := s.plazas.map (fun p => { p with jobs := p.jobs.map (fun j =>
      if j.heldKey = some (port, key) ∧ j.state = 3 then { j with heldKey := none, state := 2, cause := 0 } else j) }) }

/-- The threads parked on a page translate again; where a held write has found no room they wait behind it, as for a walk (R302, R307). -/
def wakeParked (port : Nat) (key : PageKey) (s : State) : State :=
  if (s.port port).walksWrite key then
    s.mapThreads (fun t => if t.wait = .fault port key then { t with status := .waiting, wait := .walk port key t.pendH 0 } else t)
  else s.wakeWaiting (fun t => t.wait == .fault port key)

def Sequencer.unhold (q : Sequencer) (x : Nat × PageKey) : Sequencer :=
  { q with fault := if q.fault = some x then none else q.fault
           parts := q.parts.map (fun (p : SeqPart) => if p.fault = some x then { p with fault := none } else p) }

/-- The sequencers that hold for a page go on (R272). -/
def releaseSequencers (port : Nat) (key : PageKey) (s : State) : State :=
  { s with wgs := s.wgs.map (fun (w : Workgroup) => { w with seq := w.seq.unhold (port, key), park := w.park.map (fun q => q.unhold (port, key)) }) }

/-- `FAULTDONE` (R302). -/
def execFaultdone (c : Command) (s : State) : Host.Outcome State Fault Refusal :=
  runCommand 0x02 false c (fun s =>
    let port := bits c.param.toNat 9 0
    match (if s.unitOk port then s.portEntry port (cmdAsid c) (indexOf c.arg) else none) with
    | none => complete c.hub c.tag 0x04 s
    | some e =>
      let key : PageKey := ⟨(cmdAsid c), indexOf c.arg, (homeLoc s.conf.lc e (offsetOf c.arg)).page⟩
      let s1 := (wakeParked port key (retryPage port key s)).wakeWaiting (fun t => t.wait == .drain port)
      complete c.hub c.tag 0 (releaseSequencers port key (releaseJobs port key s1))) s

def execFaultq (c : Command) (s : State) : Host.Outcome State Fault Refusal :=
  runCommand 0x06 false c (fun s =>
    let x := s.hub c.hub
    complete c.hub c.tag 0 (s.putHub c.hub { x with faultBase := c.arg.toNat, faultLen := bits c.param.toNat 15 0 })) s

/-! ## Tracking and moving pages (R277-R279, R305) -/

def execTrack (c : Command) (s : State) : Host.Outcome State Fault Refusal :=
  runCommand 0x04 false c (fun s =>
    let x := s.hub c.hub
    let rest := x.trackers.filter (fun t => t.asid != (cmdAsid c))
    let threshold := bits c.param.toNat 15 0
    let open_ := x.notices.filter (fun v => v.asid != cmdAsid c || v.written.isSome)
    if threshold = 0 then complete c.hub c.tag 0 (s.putHub c.hub { x with trackers := rest, notices := open_ })
    else if !s.namesBuffer (cmdAsid c) c.arg then complete c.hub c.tag 0x04 s
    else
      complete c.hub c.tag 0 (s.putHub c.hub { x with
        notices := open_
        trackers := ⟨(cmdAsid c), c.arg, threshold, bits c.param.toNat 31 16, [], [], []⟩ :: rest })) s

/-- A move pool replaced (R302). -/
def setPool (pools : List (Nat × List Nat)) (asid : Nat) (frames : List Nat) : List (Nat × List Nat) :=
  (asid, frames) :: pools.filter (fun p => p.1 != asid)

def execPool (c : Command) (s : State) : Host.Outcome State Fault Refusal :=
  runCommand 0x05 false c (fun s =>
    let unit := bits c.param.toNat 25 16
    let n := bits c.param.toNat 15 0
    if !s.unitOk unit then complete c.hub c.tag 0x04 s
    else complete c.hub c.tag 0 (
      if unit < 512 then
        let q := s.port unit
        s.putPort { q with pools := setPool q.pools (cmdAsid c) ((List.range n).map (· + c.arg.toNat % 2 ^ 31 / 65536)) }
      else
        let h := (unit - 512) / 64
        let x := s.hub h
        s.putHub h { x with capPools := setPool x.capPools (cmdAsid c) ((List.range n).map (· + c.arg.toNat % 2 ^ 40 / 65536)) })) s

/-- The monitor that a hub's tier migration engine holds on the ring of an ASID goes (R279). -/
def disarmRing (hub asid : Nat) (s : State) : State :=
  { ringWakes hub asid s with ports := s.ports.map (fun (q : PortSt) =>
      { q with monitors := q.monitors.filter (fun m => !(m.tid == ringMonitor asid && m.core == 0x200 + 64 * hub)) }) }

def execMovering (c : Command) (s : State) : Host.Outcome State Fault Refusal :=
  runCommand 0x0A false c (fun s =>
    let s1 := disarmRing c.hub (cmdAsid c) s
    let x := s1.hub c.hub
    let rest := x.rings.filter (fun r => r.1 != (cmdAsid c))
    if c.arg = 0 then complete c.hub c.tag 0 (s1.putHub c.hub { x with rings := rest })
    else if !s.namesBuffer (cmdAsid c) c.arg then complete c.hub c.tag 0x04 s
    else complete c.hub c.tag 0 (s1.putHub c.hub { x with rings := ((cmdAsid c), c.arg) :: rest })) s

/-! ## Jobs (R209, R213) -/

/-- A gang of a suspended job: running, it is saved; being saved or saved for a relocation, it stays saved; handed on again, it is taken back. -/
def suspendGang (s : State) (g : Gang) : State :=
  match g.state with
  | .running => (s.startSave g 1 none).getD s
  | .saving | .saved => s.putGang { g with reason := 1, target := none }
  | .restoring =>
    let d := s.die g.die
    (s.putDie { d with queue := d.queue.filter (fun x => x != (g.launch, g.gang)) }).putGang { g with state := .saved }
  | .queued | .retired => s

def execSuspend (c : Command) (s : State) : Host.Outcome State Fault Refusal :=
  runCommand 0x07 false c (fun s =>
    match s.job? (bits c.arg.toNat 23 0) with
    | none => complete c.hub c.tag 0x04 s
    | some j =>
      if j.asid ≠ (cmdAsid c) then complete c.hub c.tag 0x04 s
      else
        let s1 := j.tcbs.foldl (fun s t => s.withdraw t.launch) (s.putJob { j with suspended := j.stage != 4 })
        let s2 := (s1.gs.gangs.filter (fun g => g.job == j.num)).foldl suspendGang s1
        ({ s2 with gs := { s2.gs with suspends := s2.gs.suspends ++ [(c.hub, j.num, c.tag)] } }).suspendsDone) s

def execResume (c : Command) (s : State) : Host.Outcome State Fault Refusal :=
  runCommand 0x08 false c (fun s =>
    match s.job? (bits c.arg.toNat 23 0) with
    | none => complete c.hub c.tag 0x04 s
    | some j =>
      if j.asid ≠ (cmdAsid c) then complete c.hub c.tag 0x04 s
      else if !j.suspended then complete c.hub c.tag 0 s
      else
        let s1 := s.putJob { j with suspended := false }
        ({ s1 with gs := { s1.gs with resumes := s1.gs.resumes ++ [(c.hub, j.num, c.tag)] } }).resumesDone) s

/-! ## Leases and peers (R292, R416) -/

def execLease (c : Command) (s : State) : Host.Outcome State Fault Refusal :=
  runCommand 0x09 true c (fun s =>
    let die := bits c.arg.toNat 3 0
    if die < 8 ∧ s.conf.admitted.getLsbD die then
      complete c.hub c.tag 0 (s.putDie { s.die die with dlease := BitVec.ofNat 16 c.param.toNat })
    else complete c.hub c.tag 0x04 s) s

def execPeertab (c : Command) (s : State) : Host.Outcome State Fault Refusal :=
  runCommand 0x0B false c (fun s =>
    let entry := if c.arg = 0 then [] else [((cmdAsid c), c.arg.toNat, min 4096 (bits c.param.toNat 12 0))]
    complete c.hub c.tag 0 ({ s with hubs := s.hubs.map (fun x => { x with peers := entry ++ x.peers.filter (fun p => p.1 != (cmdAsid c)) }) })) s

end Sys2Proof.Machine
end

