-- ==== Sys2Proof/Machine/Loader.lean ====
section
/-! DEFINITION. Loading and unloading an image (R128-R135, R139-R141, R159, R160): the file's form, its checks in the order of R140, its
relocations, and the buffers, boards and tables that a load creates. -/

namespace Sys2Proof.Machine

/-! ## The file (R128-R131) -/

/-- A section with its bytes. -/
structure Sect where
  type  : Nat
  align : Nat
  link  : Nat
  foff  : Nat
  size  : Nat
  bytes : List Byte
  deriving DecidableEq, Repr

/-- A symbol (R130). -/
structure Sym where
  kind  : Nat
  bind  : Nat
  sect  : Nat
  value : Nat
  size  : Nat
  fidx  : Nat
  nbud  : Nat
  vbud  : Nat
  deriving DecidableEq, Repr

/-- A relocation, with the index of the section it patches. -/
structure Reloc where
  sect   : Nat
  type   : Nat
  offset : Nat
  sym    : Nat
  addend : Int
  deriving DecidableEq, Repr

def u64 (bs : List Byte) (off : Nat) : Nat := leNat ((bs.drop off).take 8)
def u32 (bs : List Byte) (off : Nat) : Nat := leNat ((bs.drop off).take 4)

/-- A check of the loader: its status where it fails (R140). -/
def need (ok : Bool) (status : Nat) : Except Nat Unit := if ok then .ok () else .error status

def crcStep (c : Nat) (b : Byte) : Nat :=
  (List.range 8).foldl (fun c _ => if c % 2 = 1 then (c / 2) ^^^ 0xEDB88320 else c / 2) (c ^^^ b.toNat)

/-- CRC-32 of IEEE 802.3. -/
def crc32 (bs : List Byte) : Nat := bs.foldl crcStep 0xFFFFFFFF ^^^ 0xFFFFFFFF

def putBytes (bs : List Byte) (off : Nat) (x : List Byte) : List Byte := bs.take off ++ x ++ bs.drop (off + x.length)

/-- The section table (R129). -/
def readSects (bs : List Byte) : List (Sect × Bool) :=
  let off := u32 bs 0x0C
  (List.range (bits (u64 bs 8) 15 0)).map (fun k =>
    let a := off + 32 * k
    let w := u64 bs a
    let s : Sect := { type := bits w 39 32, align := bits w 47 40, link := bits w 63 48, foff := u64 bs (a + 8), size := u64 bs (a + 16),
                      bytes := (bs.drop (u64 bs (a + 8))).take (u64 bs (a + 16)) }
    (s, u64 bs (a + 24) == 0 && a + 32 ≤ bs.length))

def overlap (a b : Sect) : Bool := a.size != 0 && b.size != 0 && a.foff < b.foff + b.size && b.foff < a.foff + a.size

/-- The rules of R129 for the sections of a file of `n` bytes. -/
def sectsOk (l : List (Sect × Bool)) (n : Nat) : Bool :=
  let ss := l.map (fun x => x.1)
  l.all (fun x => x.2 && x.1.type ≤ 7 && 2 ≤ x.1.align && x.1.align ≤ 12 && x.1.foff % 2 ^ x.1.align == 0 && x.1.foff + x.1.size ≤ n &&
      (if x.1.type = 6 then x.1.link < ss.length else x.1.link == 0)) &&
    ss.zipIdx.all (fun x => ss.zipIdx.all (fun y => x.2 == y.2 ||
      (!overlap x.1 y.1 && !(x.1.type == y.1.type && (x.1.type != 6 || x.1.link == y.1.link)))))

/-- The null symbol, entry 0 (R130): nothing defines it (log entry 146). -/
def Sym.null : Sym := { kind := 0, bind := 0, sect := 0xFFFE, value := 0, size := 0, fidx := 0, nbud := 0, vbud := 0 }

/-- A symbol entry, and whether its fields are within R130; the status of a section index that names no section, and of a board of other than 1 to
64 slots, is the model's choice (log entry 146). -/
def readSym (bs : List Byte) (nsect : Nat) (k : Nat) : Sym × Bool :=
  let w := u64 bs (24 * k)
  let x := u64 bs (24 * k + 16)
  let s : Sym := { kind := bits w 55 52, bind := bits w 51 48, sect := bits w 47 32, value := u64 bs (24 * k + 8), size := bits x 31 0,
                   fidx := bits x 44 42, nbud := bits x 37 32, vbud := bits x 41 38 }
  (if k = 0 then Sym.null else s, bits w 63 56 == 0 && bits x 63 45 == 0 && s.kind ≤ 6 && s.bind ≤ 2 && (s.sect < nsect || s.sect ≥ 0xFFFE) &&
    (s.kind != 4 || s.sect == 0xFFFE || (1 ≤ s.size && s.size ≤ 64)))

def readReloc (bs : List Byte) (sect k : Nat) : Reloc × Bool :=
  let w := u64 bs (16 * k)
  let x := u64 bs (16 * k + 8)
  ({ sect := sect, type := bits w 47 32, offset := bits w 31 0, sym := bits x 31 0, addend := (BitVec.ofNat 32 (bits x 63 32)).toInt },
   bits w 63 48 == 0)

/-- A file that has passed status 0x01 and 0x02. -/
structure Gof where
  sects  : List Sect
  syms   : List Sym
  relocs : List Reloc
  nkern  : Nat
  deriving DecidableEq, Repr

def Gof.sect? (g : Gof) (type : Nat) : Option (Sect × Nat) := g.sects.zipIdx.find? (fun x => x.1.type == type)
def Gof.bytes (g : Gof) (type : Nat) : List Byte := ((g.sect? type).map (fun x => x.1.bytes)).getD []

/-- Statuses 0x01 and 0x02 (R128-R131). That a file without a whole header answers 0x01, and that a symbol index beyond `.sym` and a `.sym` or `.rel`
of no whole number of entries answer 0x02, is the model's choice (log entry 146). -/
def readGof (bs : List Byte) : Except Nat Gof := do
  let w := u64 bs 0
  need (64 ≤ bs.length && bits w 31 0 == 0x1A464F47 && bits w 47 32 == 1 && bitOf w 48 && bits w 63 49 == 0) 0x01
  let ss := readSects bs
  need ((List.range 5).all (fun k => u64 bs (0x18 + 8 * k) == 0) && u32 bs 0x14 == crc32 (putBytes bs 0x14 (leBytes 4 0)) &&
    u32 bs 0x10 == bs.length && u32 bs 0x0C % 8 == 0 && 1 ≤ ss.length && ss.length ≤ 16 && sectsOk ss bs.length) 0x02
  let sects := ss.map (fun x => x.1)
  let sy := (sects.filter (fun s => s.type == 5)).flatMap (fun s => (List.range (s.size / 24)).map (readSym s.bytes sects.length))
  let re := (sects.filter (fun s => s.type == 6)).flatMap (fun s => (List.range (s.size / 16)).map (readReloc s.bytes s.link))
  need (sects.all (fun s => (s.type != 5 || s.size % 24 == 0) && (s.type != 6 || s.size % 16 == 0)) && sy.all (fun x => x.2) &&
    re.all (fun x => x.2 && x.1.sym < sy.length)) 0x02
  pure { sects := sects, syms := sy.map (fun x => x.1), relocs := re.map (fun x => x.1), nkern := bits (u64 bs 8) 31 16 }

/-! ## Relocation (R132) -/

/-- Where the image's sections stand: handles of the code, data and chain buffers, and the boards of its symbols. -/
structure Placed where
  code   : W64
  rodata : W64
  chain  : W64
  boards : List (Nat × Nat × Nat)  -- symbol, die, index
  deriving DecidableEq, Repr

/-- `.kdesc` stands behind `.text`, 64-byte aligned (R139). -/
def Gof.kdescAt (g : Gof) : Nat := ((g.bytes 0).length + 63) / 64 * 64
def Gof.codeLength (g : Gof) : Nat := g.kdescAt + (g.bytes 2).length

/-- The buffer of a section type, the section's offset in it, and the buffer's length. -/
def Gof.home (g : Gof) (p : Placed) (type : Nat) : Option (W64 × Nat × Nat) :=
  match type with
  | 0 => some (p.code, 0, g.codeLength)
  | 1 => some (p.rodata, 0, (g.bytes 1).length)
  | 2 => some (p.code, g.kdescAt, g.codeLength)
  | 3 => some (p.chain, 0, (g.bytes 3).length)
  | _ => none

def Gof.typeOf (g : Gof) (sect : Nat) : Option Nat := (g.sects[sect]?).map Sect.type

/-- The descriptor behind one in `.kdesc`: its templates follow it, and each descriptor is 64-byte aligned (R129, R133). -/
def nextKdesc (bs : List Byte) (off : Nat) : Nat := (off + 128 + 32 * bits (u64 bs (off + 0x20)) 15 8 + 63) / 64 * 64

/-- Where the descriptors of a file stand in `.kdesc`. -/
def kdescOffsets (bs : List Byte) : Nat → Nat → List Nat
  | 0, _ => []
  | n + 1, off => off :: kdescOffsets bs n (nextKdesc bs off)

/-- The code offset of a kernel symbol's descriptor: the symbol stands in `.kdesc`, or at the kernel's entry. -/
def Gof.kentry (g : Gof) (s : Sym) : Option Nat :=
  let bs := g.bytes 2
  let at_ (off : Nat) : Bool :=
    match g.typeOf s.sect with
    | some 2 => off == s.value
    | some 0 => bits (u64 bs off) 47 0 == s.value
    | _ => false
  ((kdescOffsets bs g.nkern 0).find? at_).map (fun off => g.kdescAt + off)

/-- A field of an instruction word set. -/
def setField (bs : List Byte) (off lo n v : Nat) : List Byte :=
  let w := u64 bs off
  putBytes bs off (leBytes 8 (w - bits w (lo + n - 1) lo * 2 ^ lo + v % 2 ^ n * 2 ^ lo))

/-- One relocation applied to the bytes of its section; none where its value is out of range. -/
def applyReloc (g : Gof) (p : Placed) (r : Reloc) (bs : List Byte) : Option (List Byte) :=
  match g.syms[r.sym]? with
  | none => none
  | some s =>
    let weak := s.sect == 0xFFFE
    let fits (n : Nat) : Bool := r.offset + n ≤ bs.length
    let rel : Option Int :=
      if weak ∨ g.typeOf s.sect ≠ some 0 ∨ g.typeOf r.sect ≠ some 0 then none
      else
        let d : Int := (s.value : Int) + r.addend - r.offset
        if d % 4 = 0 then some (d / 4) else none
    let w := u64 bs r.offset
    match r.type with
    | 1 =>
      if !fits 8 then none
      else if weak then (if r.addend < 0 then none else some (putBytes bs r.offset (leBytes 8 r.addend.toNat)))
      else
        match (g.typeOf s.sect).bind (g.home p) with
        | none => none
        | some (h, base, len) =>
          let o : Int := (base : Int) + s.value + r.addend
          if o < 0 ∨ (len : Int) < o then none else some (putBytes bs r.offset (leBytes 8 (handleAdd h o.toNat).toNat))
    | 2 => rel.bind (fun d => if -1024 ≤ d ∧ d ≤ 1023 ∧ fits 8 then some (setField bs r.offset 53 11 (d % 2048).toNat) else none)
    | 3 => rel.bind (fun d => if -(2 ^ 31 : Int) ≤ d ∧ d < 2 ^ 31 ∧ fits 12 then some (putBytes bs (r.offset + 8) (leBytes 4 (d % (2 ^ 32 : Int)).toNat)) else none)
    | 4 => if s.kind = 1 ∧ r.addend = 0 ∧ fits 8 then (g.kentry s).map (fun o => putBytes bs r.offset (leBytes 8 (handleAdd p.code o).toNat)) else none
    | 5 => if s.kind = 5 ∧ fits 8 ∧ bits w 45 44 = 2 then some (setField bs r.offset 41 3 s.fidx) else none
    | 6 | 7 =>
      if weak then (if r.type = 7 ∧ fits 8 then some (putBytes bs r.offset (leBytes 8 0)) else none)
      else
        match p.boards.find? (fun b => b.1 == r.sym) with
        | none => none
        | some (_, die, i) =>
          if s.kind ≠ 4 then none
          else if r.type = 7 then (if fits 8 then some (putBytes bs r.offset (leBytes 8 (die * 2 ^ 28 + i))) else none)
          else if r.addend = 0 ∧ fits 12 then some (putBytes bs (r.offset + 8) (leBytes 4 (die * 2 ^ 28 + i)))
          else none
    | 8 => if s.kind = 5 ∧ fits 8 ∧ bits w 57 56 = 2 ∧ bits w 63 58 = 0 then some (setField bs r.offset 53 3 s.fidx) else none
    | 9 => if s.kind = 5 ∧ fits 8 ∧ bits w 50 49 = 2 ∧ bitOf w 51 then some (setField bs r.offset 46 3 s.fidx) else none
    | _ => none

/-- Every relocation of the file applied: the types of the sections, and their bytes. -/
def Gof.relocated (g : Gof) (p : Placed) : Option (List (Nat × List Byte)) :=
  g.sects.zipIdx.mapM (fun x =>
    ((g.relocs.filter (fun r => r.sect == x.2)).foldlM (fun bs r => applyReloc g p r bs) x.1.bytes).map (fun bs => (x.1.type, bs)))

/-! ## Kernel descriptors and schedule tables (R133-R135, R159, R160) -/

/-- The fields of a descriptor at an offset of `.kdesc`, without its templates: none where one is out of R123's range. -/
def readKdesc (g : Gof) (bs : List Byte) (off : Nat) : Option KDesc :=
  let w0 := u64 bs off
  let w1 := u64 bs (off + 8)
  let w2 := u64 bs (off + 0x10)
  let w3 := u64 bs (off + 0x18)
  let w4 := u64 bs (off + 0x20)
  let k : KDesc :=
    { off := g.kdescAt + off, entry := bits w0 47 0, wgsize := bits w1 10 0, gangw := bits w1 14 11, issuer := bits w1 24 15,
      nbud := bits w1 30 25, vbud := bits w1 34 31, bars := bits w1 39 35, tiles := bits w1 43 40, snbud := bits w1 49 44, svbud := bits w1 53 50,
      localLen := bits w2 31 0, trap := if bitOf w3 48 then some (bits w3 47 0) else none,
      finit := (List.range 8).map (fun i => BitVec.ofNat 64 (u64 bs (off + 0x40 + 8 * i))), prints := [] }
  let ok := off + 128 ≤ bs.length && bits w0 63 48 == 0 && bits w1 63 54 == 0 && bits w2 63 32 == 0 && bits w3 63 49 == 0 && bits w4 63 32 == 0 &&
    (List.range 3).all (fun i => u64 bs (off + 0x28 + 8 * i) == 0) && 1 ≤ k.wgsize && k.wgsize ≤ 1024 && 1 ≤ k.gangw && k.gangw ≤ 8 &&
    k.issuer < k.wgsize && k.nbud ≤ 32 && k.vbud ≤ 8 && k.snbud ≤ 32 && k.svbud ≤ 8 && k.bars ≤ 16 && k.tiles ≤ 8 && k.localLen % 512 == 0 &&
    k.gangw * k.localLen ≤ 2 ^ 23 && k.entry % 4 == 0 && bits w4 15 8 ≤ 16 && (bits w4 15 8 == 0 || bits w4 31 16 == 0x80) &&
    off + 128 + 32 * bits w4 15 8 ≤ bs.length
  if ok then some k else none

/-- The descriptors of a file, in order, each with its templates behind it, 64-byte aligned. No status is stated for an NKERN that does not fit the
section: the model answers 0x06 where it is too short, and ignores what is behind the last descriptor (log entry 157). -/
def readKdescs (g : Gof) (bs : List Byte) : Nat → Nat → Option (List KDesc)
  | 0, _ => some []
  | n + 1, off =>
    match readKdesc g bs off with
    | none => none
    | some k => (readKdescs g bs n (nextKdesc bs off)).map (fun l => k :: l)

/-- The templates of a descriptor (R134); none where one is rejected. -/
def readPrints (g : Gof) (bs : List Byte) (k : KDesc) : Option (List (Bool × Nat × Int × Nat × Int)) :=
  let off := k.off - g.kdescAt
  (List.range (bits (u64 bs (off + 0x20)) 15 8)).mapM (fun i =>
    let a := off + 0x80 + 32 * i
    let w := u64 bs a
    if bits w 63 5 = 0 ∧ u64 bs (a + 0x10) ≠ 0 then
      some (bitOf w 0, bits w 4 1, (BitVec.ofNat 64 (u64 bs (a + 8))).toInt, u64 bs (a + 0x10), (BitVec.ofNat 64 (u64 bs (a + 0x18))).toInt)
    else none)

/-- A phase table (R135); none where it is rejected. -/
def readPhase (bs : List Byte) (off : Nat) : Option Phase :=
  let w := u64 bs (off + 8)
  let n := bits w 3 0
  let cl := (List.range 8).map (fun i => u64 bs (off + 0x10 + 8 * i))
  let used := (cl.take n).map (fun c => (bits c 31 0, bits c 63 32))
  if off + 80 ≤ bs.length ∧ bits w 63 4 = 0 ∧ 1 ≤ n ∧ n ≤ 8 ∧ (cl.drop n).all (· == 0) ∧ (used.zip (used.drop 1)).all (fun x => x.1.1 < x.2.1) then
    some { sizew := BitVec.ofNat 64 (u64 bs off), classes := used }
  else none

/-- The phase tables stand at the start of `.sched`, up to the lowest graph image that one of them names. -/
def readPhases (bs : List Byte) : Nat → Nat → Nat → Option (List Phase)
  | 0, _, _ => some []
  | n + 1, off, limit =>
    if limit ≤ off then some []
    else
      match readPhase bs off with
      | none => none
      | some p => (readPhases bs n (off + 80) (p.classes.foldl (fun m c => min m c.2) limit)).map (fun l => p :: l)

/-- The rules of R159 and R160 for a graph image. The status of an EDGEOFF that is no multiple of 4, or not 0 with NEDGE 0, and of a header, a TCB array
or an edge list that reaches beyond `.sched`, is not stated: the model answers 0x08 (log entry 158). -/
def graphOk (bs : List Byte) (g : Nat) : Bool :=
  let w0 := u64 bs g
  let n := bits w0 15 0
  let ne := bits w0 31 16
  let eo := u64 bs (g + 8)
  let tcb (k : Nat) : Bool :=
    let a := g + 0x40 + 64 * k
    let w := u64 bs (a + 0x10)
    bits w 63 49 == 0 && bits w 40 36 ≤ 16 && (List.range 5).all (fun i => u64 bs (a + 0x18 + 8 * i) == 0)
  let edge (k : Nat) : Bool :=
    let e := u32 bs (g + eo + 4 * k)
    bits e 15 0 < bits e 31 16 && bits e 31 16 < n
  g + 64 ≤ bs.length && bits w0 63 32 == 0 && (List.range 6).all (fun i => u64 bs (g + 0x10 + 8 * i) == 0) && 1 ≤ n && n ≤ 4096 &&
    g + 0x40 + 64 * n ≤ bs.length && eo % 4 == 0 && (ne != 0 || eo == 0) && (ne == 0 || g + eo + 4 * ne ≤ bs.length) &&
    (List.range n).all tcb && (List.range ne).all edge

/-! ## Code (R140 status 0x07) -/

/-- Instruction starts of `.text`; none where a word fails steps 2 to 4 of R61. Function descriptors are skipped. -/
def codeStarts (bs : List Byte) (descs : List Nat) : Nat → Nat → Option (List Nat)
  | 0, _ => some []
  | n + 1, off =>
    if bs.length ≤ off then some []
    else if descs.contains off then codeStarts bs descs n (off + 8)
    else
      match decode ((bs.drop off).take 16) with
      | .error _ => none
      | .ok (_, len) => if crosses off len then none else (codeStarts bs descs n (off + len)).map (fun l => off :: l)

def Gof.funcs (g : Gof) : List Nat := (g.syms.filter (fun s => s.kind == 2 && g.typeOf s.sect == some 0)).map Sym.value

/-! ## Buffers and boards (R139) -/

/-- The lowest slots of an ASID's buffer table whose entries are not valid, with their GEN. -/
def State.freeSlots (s : State) (bt n : Nat) : List (Nat × Nat) :=
  (((List.range 4096).filter (fun k => k ≠ 0 && !bitOf (memNat s.mem (bt + 64 * k + 8) 8) 0)).take n).map
    (fun k => (k, bits (memNat s.mem (bt + 64 * k) 8) 63 60))

/-- A read-only HBM buffer in MODULE interleave with granules of 4 KiB (R284). -/
def newEntry (asid gen len : Nat) (leased : Bool) : List Byte :=
  leBytes 8 (gen * 2 ^ 60 + asid * 2 ^ 48 + len) ++ leBytes 8 (3 + (if leased then 128 else 0) + 3 * 2 ^ 10 + 2 ^ 13) ++ leBytes 48 0

/-- Bytes put into a new buffer page by page; none where a page is not present. -/
def fillBuffer (asid : Nat) (h : W64) (bs : List Byte) (s : State) : Option State :=
  (List.range ((bs.length + 4095) / 4096)).foldlM (fun s k =>
    match s.tableEntry asid (indexOf h) with
    | none => none
    | some e =>
      let l := homeLoc s.conf.lc e (4096 * k)
      (s.walkPme l.home ⟨asid, indexOf h, l.page⟩).map (fun p =>
        ({ s with mem := memWrite s.mem (p.byteAt l.lam) ((bs.drop (4096 * k)).take 4096) }))) s

/-- One buffer of the image created and filled; an empty section has none. -/
def createBuffer (asid bt : Nat) (slot : Option (Nat × Nat)) (leased : Bool) (bs : List Byte) (s : State) : Option State :=
  if bs.isEmpty then some s
  else
    match slot with
    | none => none
    | some (k, gen) =>
      let s1 : State := { s with mem := memWrite s.mem (bt + 64 * k) (newEntry asid gen bs.length leased) }
      fillBuffer asid (handleOf (gen * 4096 + k) 0) bs s1

/-- Boards of an image, round-robin over the running dies, in symbol order: symbol, die, index, slots. -/
def State.placeBoards (s : State) (syms : List Sym) : Option (List (Nat × Nat × Nat × Nat)) :=
  let dies := (List.range 8).filter s.dieUp
  let wanted := syms.zipIdx.filter (fun x => x.1.kind == 4 && x.1.sect != 0xFFFE)
  wanted.zipIdx.foldlM (fun (l : List (Nat × Nat × Nat × Nat)) x =>
    let die := dies.getD (x.2 % dies.length) 0
    let mine := l.filter (fun y => y.2.1 == die)
    let d := s.die die
    match freeIndex (d.boards.map Board.index ++ mine.map (fun y => y.2.2.1)) 65535 with
    | some i =>
      if d.syeBytes + mine.foldl (fun n y => n + 64 + 8 * y.2.2.2) 0 + 64 + 8 * x.1.1.size ≤ syeRoom ∧ !dies.isEmpty then
        some (l ++ [(x.1.2, die, i, x.1.1.size)])
      else none
    | none => none) []

/-- The board ids that relocations are resolved against (R139): where the boards cannot all be placed, the load fails later, with status 0x09, and
ids of 0 stand for theirs until then (R140). -/
def boardIds (syms : List Sym) (placed : Option (List (Nat × Nat × Nat × Nat))) : List (Nat × Nat × Nat) :=
  match placed with
  | some l => l.map (fun x => (x.1, x.2.1, x.2.2.1))
  | none => (syms.zipIdx.filter (fun x => x.1.kind == 4 && x.1.sect != 0xFFFE)).map (fun x => (x.2, 0, 0))

def State.createBoards (s : State) (asid : Nat) (code : W64) (l : List (Nat × Nat × Nat × Nat)) : State :=
  l.foldl (fun s x =>
    let d := s.die x.2.1
    let b : Board := { index := x.2.2.1, asid := asid, image := code, n := x.2.2.2, slots := List.replicate x.2.2.2 0, mask := 0, gen := 0, level := 0 }
    s.putDie ({ d with boards := d.boards ++ [b] }.used (boardObject b.index))) s

/-! ## The load (R140) -/

/-- The handle of a slot that a section's buffer takes: those of the non-empty sections, in order. -/
def slotHandles (slots : List (Nat × Nat)) (present : List Bool) : List (Option (Nat × Nat)) :=
  present.zipIdx.map (fun x => if x.1 then slots[(present.take x.2).count true]? else none)

def handleOfSlot (x : Option (Nat × Nat)) : W64 := match x with | some (k, gen) => handleOf (gen * 4096 + k) 0 | none => 0

/-- The checks and effects of a load, in the order of R140. -/
def loadImage (asid : Nat) (file : List Byte) (s : State) : Except Nat State := do
  let g ← readGof file
  let bt := ((s.bases asid).map (fun x => x.1)).getD 0
  let present := [g.codeLength != 0, !(g.bytes 1).isEmpty, !(g.bytes 3).isEmpty]
  let slots := slotHandles (if (s.bases asid).isSome then s.freeSlots bt 3 else []) present
  let boards := s.placeBoards g.syms
  let p : Placed :=
    { code := handleOfSlot (slots.getD 0 none), rodata := handleOfSlot (slots.getD 1 none), chain := handleOfSlot (slots.getD 2 none),
      boards := boardIds g.syms boards }
  need (g.relocs.all (fun r => 1 ≤ r.type && r.type ≤ 9)) 0x03
  need (g.relocs.all (fun r => match g.syms[r.sym]? with | some y => y.sect != 0xFFFE || y.bind == 2 | none => false)) 0x04
  let sects ← match g.relocated p with | some l => Except.ok l | none => .error 0x05
  let part (type : Nat) : List Byte := ((sects.find? (fun x => x.1 == type)).map (fun x => x.2)).getD []
  let text := part 0
  let kdesc := part 2
  let sched := part 4
  let ks ← match readKdescs g kdesc g.nkern 0 with | some l => Except.ok l | none => .error 0x06
  let starts ← match codeStarts text (g.funcs.map (· - 8)) (text.length / 8 + 1) 0 with | some l => Except.ok l | none => .error 0x07
  need (ks.all (fun k => starts.contains k.entry && (match k.trap with | some o => starts.contains o | none => true)) &&
    g.funcs.all starts.contains) 0x07
  let phases ← match readPhases sched (sched.length / 80 + 1) 0 sched.length with | some l => Except.ok l | none => .error 0x08
  need (phases.all (fun p => p.classes.all (fun c => graphOk sched c.2))) 0x08
  let code := if g.codeLength = 0 then [] else text ++ List.replicate (g.kdescAt - text.length) 0 ++ kdesc
  let s1 ← match boards, (((createBuffer asid bt (slots.getD 0 none) true code s).bind (createBuffer asid bt (slots.getD 1 none) true (part 1))).bind
      (createBuffer asid bt (slots.getD 2 none) false (part 3))) with
    | some l, some s1 => Except.ok (s1.createBoards asid p.code l)
    | _, _ => .error 0x09
  let kds ← match ks.mapM (fun k => (readPrints g kdesc k).map (fun l => { k with prints := l })) with | some l => Except.ok l | none => .error 0x0A
  let img : Image :=
    { asid := asid, code := p.code, rodata := if (g.bytes 1).isEmpty then none else some p.rodata,
      chain := if (g.bytes 3).isEmpty then none else some p.chain, kdescs := kds, phases := phases, sched := sched,
      boards := (boards.getD []).map (fun x => (x.2.1, x.2.2.1)) }
  pure { s1 with gs := { s1.gs with images := s1.gs.images ++ [img] } }

/-- `IMAGE_LOAD` (R140, R141): a rejected image creates nothing. -/
def execImageLoad (asid : Nat) (image : List Nat) (s : State) : Host.Outcome State Fault Refusal :=
  .next (
    if !s.conf.booted then s
    else
      match loadImage asid (image.map (fun b => BitVec.ofNat 8 b)) s with
      | .ok s1 => { s1 with host := .loader 0 :: s1.host }
      | .error st => { s with host := .loader st :: s.host })

/-! ## The unload (R141) -/

/-- A buffer freed by the driver: VALID 0, the next GEN (R283). -/
def freeSlot (bt : Nat) (h : W64) (s : State) : State :=
  let k := indexOf h % 4096
  let w := memNat s.mem (bt + 64 * k) 8
  { s with mem := memWrite s.mem (bt + 64 * k) (leBytes 8 ((bits w 63 60 + 1) % 16 * 2 ^ 60 + w % 2 ^ 60) ++ leBytes 8 0) }

/-- The buffer of a handle is freed, and no unit keeps what it held of it (R141, R299, R303; log entry 147). -/
def dropBuffer (asid bt : Nat) (s : State) (h : W64) : Except Stop State :=
  let n := bits (memNat s.mem (bt + 64 * (indexOf h % 4096)) 8) 47 0
  s.unitIds.foldlM (fun s u => applyInval s.activeHub u asid 1 h n s) (freeSlot bt h s)

/-- `IMAGE_UNLOAD` (R141); it goes on later where a sector of a memory-side cache that it flushes waits for a throttled row (R341, R350). -/
def execImageUnload (asid : Nat) (code : W64) (s : State) : Host.Outcome State Fault Refusal :=
  .next (
    match s.gs.images.find? (fun i => i.asid == asid && indexOf i.code == indexOf code) with
    | none => s
    | some i =>
      if s.gs.jobs.any (fun j => j.asid == asid && indexOf j.image == indexOf i.code && j.tcbs.any (fun t => !t.complete)) then
        { s with host := .loader 0x0C :: s.host }
      else
        let bt := ((s.bases asid).map (fun x => x.1)).getD 0
        match ([some i.code, i.rodata, i.chain].filterMap id).foldlM (dropBuffer asid bt) s with
        | .error y => (y.noted s.scheduler asid s).2
        | .ok s1 =>
        let s2 := i.boards.foldl (fun s b => let d := s.die b.1; s.putDie { d with boards := d.boards.filter (fun x => x.index != b.2) }.tidy) s1
        { s2 with gs := { s2.gs with images := s2.gs.images.filter (fun x => !(x.asid == asid && indexOf x.code == indexOf i.code)) },
                  host := .loader 0 :: s2.host })

end Sys2Proof.Machine
end

