-- ==== Sys2Proof/Machine/Links.lean ====
section
/-! DEFINITION. Cells and links (R402-R410), clocks and temperature (R409, R410, R427), the HBM4E interface (R343), and the host ports
(R373, R411-R414). -/

namespace Sys2Proof.Machine

/-! ## Cells (R402, R403) -/

/-- VC of a TYPE code (R403); none: unassigned. -/
def vcOfType (t : Nat) : Option Nat :=
  if 0x01 ≤ t ∧ t ≤ 0x0A then some 0
  else if t = 0x10 ∨ t = 0x11 then some 1
  else if 0x20 ≤ t ∧ t ≤ 0x31 then some 2
  else if t = 0x38 ∨ t = 0x39 then some 3
  else none

/-- A receiver discards a cell with this header (R402, R403). -/
def badCell (h : W64) : Bool :=
  let w := h.toNat
  bits w 63 55 != 0 || (bitOf w 54 && bits w 27 22 != 0x01) || vcOfType (bits w 27 22) != some (bits w 21 20)

/-- A discarded cell is counted at the receiving die, and CELL_BAD is raised: one cell since the last report (R404, R426). -/
def State.discardCell (s : State) (die : Nat) : State :=
  let d := s.die die
  (s.putDie { d with linkErr := d.linkErr + 1 }).rasEvent 0x13 die 1

/-! ## Links (R405-R408, R410) -/

def State.link? (s : State) (k : Nat) : Option Link := s.links.find? (fun l => l.id == k)
def State.putLink (s : State) (l : Link) : State := { s with links := putBy Link.id l s.links }

/-- A direction of a link, from end A or to it, and the dies that it goes from and to. -/
def Link.dir (l : Link) (fromA : Bool) : LinkDir := if fromA then l.ab else l.ba
def Link.setDir (l : Link) (fromA : Bool) (d : LinkDir) : Link := if fromA then { l with ab := d } else { l with ba := d }
def Link.ends (l : Link) (fromA : Bool) : Nat × Nat := if fromA then (l.endA, l.endB) else (l.endB, l.endA)

/-- The free-buffer count that a cell of a message uses up (R406): of VC0 one for each destination core and for its anchor returns, else one for each
VC; and how many cells it is. -/
def Msg.buffer (m : Msg) : Nat × Nat × Bool := if m.vc = 0 then (0, m.dst, m.aret) else (m.vc, 0, false)
def Msg.buffers (m : Msg) : Nat := if m.vc = 0 then (if m.aret then 13 else 16) else if m.vc = 1 then 64 else if m.vc = 2 then 32 else 128

/-- The cells of a message that stand in the receiver's buffers behind a link: those that have crossed it and have gone no further, and those of one
that waits in the link in front of its core (R30, R406). -/
def State.cellsBehind (s : State) (x : Nat × Nat) (m : Msg) : Nat :=
  let n := m.cells s
  match m.spot with
  | .staged _ => 0
  | .link _ => if m.path.getLast? = some x then n else 0
  | _ =>
    let (h, c) := m.gone
    if 0 < h ∧ m.path[h - 1]? = some x then n - c
    else if ((s.nextHop m).bind (fun k => m.path[k]?)) = some x then c
    else 0

/-- The next link of a message is this one. -/
def State.nextIs (s : State) (x : Nat × Nat) (m : Msg) : Bool := m.isMoving && ((s.nextHop m).bind (fun k => m.path[k]?)) == some x

/-- A cell of a message can be sent on a link (R406): the receiver has a buffer for it, or no cell of another message in the buffers, where the message
is longer than they are; no other message of its buffers is part-way over the link; general VC0 cells for a core stop while one waits in the link. -/
def State.sends (s : State) (x : Nat × Nat) (k : Nat) (m : Msg) : Bool :=
  let mine := s.net.zipIdx.filter (fun y => y.1.buffer == m.buffer && y.2 != k)
  let others := (mine.map (fun y => s.cellsBehind x y.1)).sum
  s.nextIs x m && (others = 0 || others + s.cellsBehind x m < m.buffers) &&
    !mine.any (fun y => s.nextIs x y.1 && (0 < y.1.gone.2 || (m.gone.2 == 0 && y.2 < k))) &&
    !(m.general && s.net.any (fun y => y.general && y.dst == m.dst && y.inLink))

/-- The message whose cell goes next over a link, by its place. -/
def State.nextCell (s : State) (x : Nat × Nat) : Option (Nat × Msg) :=
  (s.net.zipIdx.find? (fun y => s.sends x y.2 y.1)).map (fun y => (y.2, y.1))

/-- One more cell of a message has crossed its next link; behind the last one it stands at the die there. -/
def State.crossCell (s : State) (k : Nat) (m : Msg) : State :=
  match s.nextHop m with
  | none => s
  | some h =>
    let c := m.gone.2 + 1
    { s with net := s.net.set k { m with spot := if c < m.cells s then .hop h c else .hop (h + 1) 0 } }

/-- The module as it stands once the next `n` cells have crossed a link. -/
def State.afterCells (x : Nat × Nat) : Nat → State → State
  | 0, s => s
  | n + 1, s => match s.nextCell x with | some (k, m) => State.afterCells x n (s.crossCell k m) | none => s

/-- The header of the next flit (R402). -/
def State.flitHeader (s : State) (d : LinkDir) (m : Msg) : W64 := m.header s d.txSeq.toNat m.gone.2

/-- Flits sent again are counted at the transmitter's die (R405, die counter 0x08). -/
def State.resend (s : State) (die n : Nat) : State := (List.range n).foldl (fun s _ => if die < 8 then s.countDie die 8 else s) s

/-- A message is lost with a cell that its receiver discards (R404). -/
def State.loseMessage (s : State) (die k : Nat) : State := ({ s with net := s.net.eraseIdx k }).discardCell die

/-- A flit that its receiver accepts: its cell is checked (R402, R403) and goes on. -/
def acceptFlit (l : Link) (fromA : Bool) (flip : W64) (s : State) : State :=
  let x := l.ends fromA
  let d := l.dir fromA
  let seq := match d.replay with | (q, _) :: _ => q | [] => d.txSeq
  let d1 : LinkDir := { d with
    rxSeq := d.rxSeq + 1, naks := 0, replay := d.replay.tail, txSeq := if d.replay.isEmpty then d.txSeq + 1 else d.txSeq }
  let s1 := s.putLink (l.setDir fromA d1)
  match s.nextCell x with
  | none => s1
  | some (k, m) => if badCell (m.header s seq.toNat m.gone.2 ^^^ flip) then s1.loseMessage x.2 k else s1.crossCell k m

/-- `FLIT_RECEIVE` (R404, R405): the next flit arrives at one end of a link. A good one in turn is accepted and acknowledged;
one with a bad CRC or a SEQ out of turn is discarded and answered with a NAK, and so is, without another NAK, every flit that follows it until the transmitter resends. The transmitter keeps up to 256 flits. -/
def execFlitReceive (link : LinkEnd) (flit : FlitSeen) (s : State) : Host.Outcome State Fault Refusal :=
  .next (
    match s.link? link.link with
    | none => s
    | some l =>
      let d := l.dir link.fromA
      if !l.up ∨ l.training then s
      else if d.replay.isEmpty ∧ (s.nextCell (l.ends link.fromA)).isNone then s
      else
        let good := flit.crcGood && flit.flip.extractLsb' 32 16 == 0
        if good && !d.nak then acceptFlit l link.fromA flit.flip s
        else if !d.replay.isEmpty && !d.nak then s.putLink (l.setDir link.fromA { d with nak := true })
        else if 256 ≤ d.replay.length then s
        else
          let s1 := State.afterCells (l.ends link.fromA) d.replay.length s
          match s1.nextCell (l.ends link.fromA) with
          | none => s
          | some (_, m) =>
            s.putLink (l.setDir link.fromA { d with nak := true, txSeq := d.txSeq + 1, replay := d.replay ++ [(d.txSeq, s1.flitHeader d m)] }))

/-- `NAK` (R405): the transmitter of a direction resends from the named SEQ; after 16 for one SEQ the link retrains. -/
def execNak (link : LinkEnd) (s : State) : Host.Outcome State Fault Refusal :=
  .next (
    match s.link? link.link with
    | none => s
    | some l =>
      let d := l.dir link.fromA
      if !d.nak then s
      else if d.naks + 1 ≥ 16 then s.putLink { l.setDir link.fromA { d with nak := false, naks := 0 } with training := true }
      else (s.resend (l.ends link.fromA).1 d.replay.length).putLink (l.setDir link.fromA { d with nak := false, naks := d.naks + 1 }))

/-- Cells that were part-way over a link go over it again. -/
def Msg.stepBack (m : Msg) : Msg := match m.spot with | .hop n _ => { m with spot := .hop n 0 } | _ => m

/-- The links that a test picks are down; what was on them goes on from where it stood before. -/
def State.linksDown (s : State) (p : Link → Bool) : State :=
  let quiet (d : LinkDir) : LinkDir := { d with replay := [], nak := false, naks := 0 }
  let out := s.links.filter p
  { s with
    net := s.net.map (fun m => if out.any (fun l => s.nextIs (l.ends true) m || s.nextIs (l.ends false) m) then m.stepBack else m)
    links := s.links.map (fun l => if p l then { l with up := false, training := false, ab := quiet l.ab, ba := quiet l.ba } else l) }

/-- The die that is fenced when a link is down (R408). -/
def Link.victim (l : Link) : Nat := if l.endA < 8 ∧ l.endB < 8 then max l.endA l.endB else min l.endA l.endB

/-- `LINK_RETRAIN` (R408): held traffic resumes in SEQ order; the third failure in a row takes the link down. -/
def execLinkRetrain (link : Nat) (succeeds : Bool) (s : State) : Host.Outcome State Fault Refusal :=
  .next (
    match s.link? link with
    | none => s
    | some l =>
      if !l.up then s
      else if succeeds then
        let ready (d : LinkDir) : LinkDir := { d with naks := 0, nak := false }
        ((s.resend l.endA l.ab.replay.length).resend l.endB l.ba.replay.length).putLink
          { l with training := false, failed := 0, ab := ready l.ab, ba := ready l.ba }
      else
        let s1 := s.putLink { l with training := true, failed := l.failed + 1 }
        if l.failed + 1 ≥ 3 then s1.raiseEvent (.linkDown link) else s1)

def execLinkDown (link : Nat) (s : State) : Host.Outcome State Fault Refusal :=
  .next (
    match s.link? link with
    | none => s
    | some l =>
      if !l.up ∨ l.failed < 3 then s else (s.linksDown (fun x => x.id == link)).raiseEvent (.dieFatalError l.victim 1))

/-- Rates of a link in GT/s (R410). -/
def rates : List Nat := [16, 24, 32, 48]

/-- `LINK_RATE_STEP` (R410): one rate up or down on M8, with a retraining window. -/
def execLinkRateStep (link : Nat) (up : Bool) (s : State) : Host.Outcome State Fault Refusal :=
  .next (
    match s.link? link with
    | none => s
    | some l =>
      if !s.conf.m8 ∨ !l.up then s
      else
        let next := if up then rates.find? (fun r => l.rate < r) else rates.reverse.find? (fun r => r < l.rate)
        match next with
        | some r => s.putLink { l with rate := r, training := true }
        | none => s)

/-! ## Clocks and temperature (R409, R410, R427) -/

/-- A link of the module has not drained (R409): it retrains, it has flits to resend, or it has a cell to send that its receiver has room for. -/
def Link.busy (s : State) (l : Link) : Bool :=
  l.up && (l.training || !l.ab.replay.isEmpty || !l.ba.replay.isEmpty || (s.nextCell (l.ends true)).isSome || (s.nextCell (l.ends false)).isSome)

def State.linksBusy (s : State) : Bool := s.links.any (Link.busy s)

def State.allCores (s : State) : List Nat := ((List.range 8).filter s.dieUp).flatMap (fun d => (List.range 64).map (fun k => 64 * d + k))

/-- Issue stops, or restarts, on every core (R409). -/
def State.stopCores (s : State) (b : Bool) : State := s.allCores.foldl (fun s c => s.putCore { s.core c with stopped := b }) s

/-- One stage of a module-wide frequency step (R409): issue stops at an instruction boundary; once every link has drained, the clock changes
and issue restarts on all dies. A step that has begun goes to the clock that it began for. -/
def moduleClock (step : Nat) (s : State) : State :=
  if !s.issuing.isEmpty then s
  else
    match s.mgmt.clockTo with
    | none => ({ s with mgmt := { s.mgmt with clockTo := some step } }).stopCores true
    | some to_ =>
      if s.linksBusy then s
      else
        let s1 := (((List.range 8).filter s.dieUp).foldl (fun s d => s.putDie { s.die d with clock := to_ }) s).stopCores false
        { s1 with mgmt := { s1.mgmt with clockTo := none } }

/-- `FREQUENCY_CHANGE` (R409, R410): to a clock of `step` times 0.275 GHz, on M4 of the module, on M8 of a die. -/
def execFrequencyChange (clock : ClockSet) (s : State) : Host.Outcome State Fault Refusal :=
  .next (
    if !s.conf.booted then s
    else if !s.conf.m8 ∧ s.mgmt.clockTo.isSome then moduleClock clock.step s
    else if clock.step < 6 ∨ 12 < clock.step then s
    else if !s.conf.m8 then moduleClock clock.step s
    else if s.dieUp clock.die then s.putDie { s.die clock.die with clock := clock.step }
    else s)

/-- The clock of a die lowered one step, to 1.65 GHz at the lowest; on M4 the module clock, by the stall handshake. A hub has no core clock. -/
def lowerClock (die : Nat) (s : State) : State :=
  let d := s.die die
  let step := max 6 (d.clock - 1)
  if !s.conf.m8 then moduleClock step s else if die < 8 then s.putDie { d with clock := step } else s

/-- A compute die, or a hub by its die number, runs. -/
def State.unitUp (s : State) (die : Nat) : Bool := if die < 8 then s.dieUp die else die < 10 && s.hubUp (die - 8)

/-- A die that has the clock that a condition of a die lowers: on M4 every compute die has the module clock. -/
def State.moduleDie (s : State) (die : Nat) : Nat := if die < 8 then die else ((List.range 8).find? s.dieUp).getD 0

/-- `THERMAL_STEP` (R427): a condition that holds is reported and lowers the clock one step; a step of the module clock that has begun goes on whether it
still holds or not. -/
def execThermalStep (die : Nat) (s : State) : Host.Outcome State Fault Refusal :=
  .next (
    if !s.unitUp die then s
    else if !s.conf.m8 ∧ s.mgmt.clockTo.isSome then moduleClock 6 s
    else
      let on := if s.conf.m8 then die else s.moduleDie die
      if (s.die die).temp ≥ 950 then lowerClock on (s.rasEvent 0x18 die (BitVec.ofNat 64 (s.die die).temp))
      else if s.mgmt.cap < s.mgmt.power then lowerClock on (s.rasEvent 0x19 die (BitVec.ofNat 64 s.mgmt.power))
      else s)

/-- `THERMAL_TRIP` (R427): at 105 °C, a fatal error with cause 5. -/
def execThermalTrip (die : Nat) (s : State) : Host.Outcome State Fault Refusal :=
  .next (
    if (s.die die).temp < 1050 then s
    else if s.dieUp die then s.raiseEvent (.dieFatalError die 5)
    else if 8 ≤ die ∧ s.hubUp (die - 8) then s.raiseEvent (.hubFatalError (die - 8) 5)
    else s)

/-- `HBM_CHANNEL_RETRAIN` (R343): eight replays of a class L error have failed; a retrain that fails is fatal to the die. -/
def execHbmChannelRetrain (core : Nat) (succeeds : Bool) (s : State) : Host.Outcome State Fault Refusal :=
  .next (
    if !s.dieUp (dieOf core) then s
    else
      let q := s.port core
      let s1 := s.putPort { q with ctrs := vset q.ctrs 3 (vget q.ctrs 3 0 + 8) }
      if succeeds then s1 else s1.raiseEvent (.dieFatalError (dieOf core) 2))

/-! ## Host ports (R411-R414) -/

/-- The status register PSTAT of a hub's port as the host reads it (R413). -/
def HubSt.pstat (h : HubSt) : W64 :=
  BitVec.ofNat 64 ((if h.up then 1 else 0) + (if h.fwd then 2 else 0) + (if h.carry then 4 else 0) + h.rate % 256 * 2 ^ 8 + h.retrains % 256 * 2 ^ 16)

/-- `PORT_FAILURE` (R414): the other hub, where it runs, carries this hub's host traffic. Requests in flight stay, and are completed there. -/
def execPortFailure (hub : Nat) (s : State) : Host.Outcome State Fault Refusal :=
  .next (
    let x := s.hub hub
    if 1 < hub ∨ !s.hubUp hub ∨ !x.up then s
    else
      let y := s.hub (1 - hub)
      let other := s.hubUp (1 - hub)
      let s1 := (s.putHub hub { x with up := false, fwd := other }).putHub (1 - hub) { y with carry := other }
      s1.rasEvent 0x14 (8 + hub) (BitVec.ofNat 64 hub))

/-- `PORT_TRAINED` (R413, R414): the port trains again, at a rate in GT/s. -/
def execPortTrained (port : PortRate) (s : State) : Host.Outcome State Fault Refusal :=
  let hub := port.hub
  .next (
    let x := s.hub hub
    if 1 < hub ∨ !s.hubUp hub ∨ x.up then s
    else
      let y := s.hub (1 - hub)
      let s1 := (s.putHub hub { x with up := true, fwd := false, rate := port.rate % 256, retrains := min 255 (x.retrains + 1) }).putHub (1 - hub)
        { y with carry := false }
      s1.rasEvent 0x15 (8 + hub) (BitVec.ofNat 64 hub))

/-- `CXL_SNOOP` (R411): the module caches no host line. -/
def execCxlSnoop (hub _address : Nat) (s : State) : Host.Outcome State Fault Refusal :=
  .next (if s.portCarries hub then { s with host := .snoop :: s.host } else s)

/-- An MPA of the HDM range that a running channel holds (R411). -/
def State.mpaOk (s : State) (a n : Nat) : Bool :=
  let core := a / 2 ^ 31
  core < 512 && s.dieUp (dieOf core) && a % 2 ^ 31 + n ≤ s.channelBytes core

/-- A register that the host reads through CXL.io (R411): the counter block of a channel (R345), MCFG (R336), a stack register and the map-out report
(R348), the throttle table (R351), a credit table (R396), PSTAT (R413), MCONF and MCAP (R421). -/
def State.ioRead (s : State) (reg : IoReg) : W64 :=
  match reg with
  | .counter core k => (s.port core).counterWords.getD k 0
  | .mcfg core => (s.port core).mcfg
  | .stack k => s.mgmt.stackWord k
  | .report entry k => (s.mgmt.reports.getD entry []).getD k 0
  | .throttle die asid => (((s.die die).throttle.find? (fun x => x.1 == asid)).map (fun x => x.2)).getD 0
  | .credit core entry k => if k < 4 then (s.core core).creditTable.getD (4 * entry + k) 0 else 0
  | .pstat hub => (s.hub hub).pstat
  | .mconf => s.conf.mconf
  | .mcap => s.conf.mcap

/-- A host write to a running channel, whole or with a byte mask (R411). -/
def hostWriteTo (a : Nat) (bs : List Byte) (mask : Option (List Bool)) (s : State) : State :=
  if s.mpaOk a bs.length then
    hostAccess { Request.blank with
      who := .host, handle := BitVec.ofNat 64 a, size := bs.length, kind := .write, data := bs, post := mask.isSome
      c := BitVec.ofNat 64 (((mask.getD []).zipIdx.map (fun x => if x.1 then 2 ^ x.2 else 0)).sum) } s
  else { s with host := .writeDone true :: s.host }

/-- `CXL_MEM_ACCESS` (R373, R411): performed at its home as a STAY access of a thread is; or a register read through CXL.io. -/
def execCxlMemAccess (acc : HostAccess) (s : State) : Host.Outcome State Fault Refusal :=
  settled (
    if !s.conf.booted then s
    else
      match acc with
      | .read a n =>
        if s.mpaOk a n then hostAccess { Request.blank with who := .host, handle := BitVec.ofNat 64 a, size := n } s
        else { s with host := .data (List.replicate n 0) true :: s.host }
      | .write a bs => hostWriteTo a bs none s
      | .writePart a bs mask => hostWriteTo a bs (some mask) s
      | .io hub reg => if s.hubUp hub ∧ (s.hub hub).up then { s with host := .io (s.ioRead reg) :: s.host } else s)

end Sys2Proof.Machine
end

