-- ==== Sys2Proof/Machine/Peers.lean ====
section
/-! DEFINITION. Peer modules (R412, R415-R418, R430): what arrives from one, what one answers, and a connection that fails. -/

namespace Sys2Proof.Machine

/-! ## The peer table (R416) -/

/-- The word at an offset of an entry of a peer table. -/
def peerWord (s : State) (base i off : Nat) : Nat := memNat s.mem (base + 32 * i + off) 8

/-- A valid entry of a peer table, by its index, that names an endpoint and an ASID there. -/
def peerMatches (s : State) (base asid : Nat) (hi lo : W64) (i : Nat) : Bool :=
  peerWord s base i 0 == hi.toNat && peerWord s base i 8 == lo.toNat && peerWord s base i 0x18 == 0 && bits (peerWord s base i 0x10) 63 12 == 1 &&
    bits (peerWord s base i 0x10) 11 0 == asid

/-- The local ASID and the entry of its table, as a hub holds it, that name an endpoint and an ASID there: the first that a hub finds. -/
def State.peerOf (s : State) (hub asid : Nat) (hi lo : W64) : Option (Nat × Nat) :=
  (s.hub hub).peers.findSome? (fun (own, base, n) => ((List.range n).find? (peerMatches s base asid hi lo)).map (fun i => (own, i)))

/-- The table and the index of the entry that a place in a peer module stands for (R412, R416). -/
def State.peerEntry (s : State) (hub dst : Nat) : Option (Nat × Nat) :=
  ((s.hub hub).peers.find? (fun p => p.1 == (dst / 1024 - 1) / 4096)).map (fun p => (p.2.1, (dst / 1024 - 1) % 4096))

/-- The ASID that a message for a peer carries there (R416). -/
def State.remoteAsid (s : State) (hub dst : Nat) : Nat :=
  match s.peerEntry hub dst with
  | some (base, i) => bits (peerWord s base i 0x10) 11 0
  | none => 0

/-- A place in a peer module lies behind an endpoint. -/
def State.behind (s : State) (hub : Nat) (hi lo : W64) (dst : Nat) : Bool :=
  match s.peerEntry hub dst with
  | some (base, i) => peerWord s base i 0 == hi.toNat && peerWord s base i 8 == lo.toNat
  | none => false

/-! ## Messages from a peer -/

/-- A request that a peer makes (R417), for the thread that stands there under a number. -/
def peerRequest (src asid tag : Nat) (h : W64) (size : Nat) (kind : ReqKind) : Request :=
  { Request.blank with who := .peer (src / 1024) tag, asid := asid, handle := h, size := size, kind := kind }

/-- The operation of a peer's atomic (R104, R376). -/
def peerAtomic (aop : Nat) : AtomOp :=
  if aop < 8 then .atom aop else if aop < 11 then .atomf (aop - 8) else if aop = 11 then .cas else if aop = 12 then .lres else .scond

/-- The number under which a number of a peer is known here, of `n` bits there: no job and no launch of this module has it. -/
def peerNumber (src n k : Nat) : Nat := src / 1024 * 2 ^ n + k

/-- The descriptor of a kernel whose image stands at the same index here (R416). -/
def State.kernelHere (s : State) (asid : Nat) (kdesc : W64) : Option (W64 × KDesc) :=
  s.gs.images.findSome? (fun i => if i.asid = asid then (i.kdesc? kdesc).map (fun k => (i.code, k)) else none)

/-- A thread of a peer's job, as its context first comes in (R26, R27): its identity from the header, the rest of its budgets, what `RDSP` reads of its
kernel (R84) and its trap handler from its kernel (R204). -/
def guestThread (tid asid src : Nat) (kernel : Option (W64 × KDesc)) (ws : List W64) : Thread :=
  let sser := ctxField ws 1 63 35
  let own (n : KDesc → Nat) : Nat := if sser = 0 then (kernel.map (fun k => n k.2)).getD 0 else 0
  let t : Thread := { Thread.blank with
    tid := tid, asid := asid, job := peerNumber src 24 (ctxField ws 3 23 0), launch := peerNumber src 32 (ctxField ws 2 31 0),
    gang := ctxField ws 2 63 32, wgpos := ctxField ws 1 34 32, index := ctxField ws 1 31 22, spawned := sser != 0, sser := sser,
    anchor := src / 1024 * 1024 + ctxField ws 1 21 12, status := .outbound, bars := own KDesc.bars, tiles := own KDesc.tiles,
    localLen := own KDesc.localLen, snbud := (kernel.map (fun k => k.2.snbud)).getD 0, svbud := (kernel.map (fun k => k.2.svbud)).getD 0,
    wgsize := (kernel.map (fun k => k.2.wgsize)).getD 0, gangw := (kernel.map (fun k => k.2.gangw)).getD 0,
    issuer := (kernel.map (fun k => k.2.issuer)).getD 0,
    kernTrap := (kernel.bind (fun k => k.2.trap.map (fun o => handleOf (indexOf k.1) o))).getD 0 }
  t.withContext ws

/-- A thread of this module that is at the peer a message came from. -/
def State.threadAt (s : State) (tid asid src : Nat) : Option Thread :=
  (s.thread? tid).filter (fun t => t.asid == asid && t.away && t.core / 1024 == src / 1024)

/-- A queue descriptor of a bank at a peer, as this module's producers name it (R98). -/
def peerDesc (src bank : Nat) : W64 := BitVec.ofNat 64 ((src / 1024 - 1) % 4096 * 2 ^ 16 + 2 ^ 15 + bank % 32 * 2 ^ 10 + src % 1024)

/-- A peer's message enters the fabric at its hub, with the local ASID. -/
def deliverPeer (src asid : Nat) (m : PeerMessage) (s : State) : State :=
  let put (vc : Nat) (aret : Bool) (b : Body) (s : State) : State := { s with net := s.net ++ [⟨src, m.dst % 1024, vc, aret, b, .moving⟩] }
  let bankOf (k : Nat) : Nat := 32 * (src % 8) + k % 32
  let away (tid : Nat) (go : Thread → State) : State := match s.threadAt tid asid src with | some t => go t | none => s
  match m.body with
  | .store h bs => put 0 false (.store { peerRequest src asid 0 h bs.length .write with data := bs }) s
  | .atomic h aop ty b c post tag =>
    let t := BitVec.ofNat 5 ty
    put 0 false (.atomic { peerRequest src asid tag h (width t.toNat / 8) .atomic with op := peerAtomic aop, ty := t, b := b, c := c, post := post }) s
  | .arm h ty cond b tag =>
    put 0 false (.arm { peerRequest src asid tag h (width ty / 8) .read with
      monitor := true, ty := BitVec.ofNat 5 ty, cond := BitVec.ofNat 4 cond, b := b }) s
  | .read h n tag => put 0 false (.read (peerRequest src asid tag h n .read)) s
  | .entry core bank bs => put 0 false (.entry (plazaOf core) (32 * (core % 8) + bank) bs 0 0) s
  | .context tid kdesc ws =>
    match s.threadAt tid asid src with
    | some t =>
      put 0 (!t.spawned && m.dst % 1024 == t.anchor) (.context tid) (s.putThread { t.withContext ws with smode := 0, kick0 := none, status := .outbound })
    | none =>
      if (s.thread? tid).isSome then s
      else
        let t := guestThread s.nextTid asid src (s.kernelHere asid kdesc) ws
        put 0 false (.context t.tid) { s with threads := s.threads ++ [t], nextTid := s.nextTid + 1 }
  | .saved tid ws => away tid (fun _ => put 2 false (.awaySaved tid ws) s)
  | .saveNotice launch gang => put 2 false (.saveNotice (peerNumber src 32 launch) gang) s
  | .exit tid => away tid (fun _ => put 2 false (.awayExit tid) s)
  | .spawned job launch up => put 2 false (.awaySpawn job launch up) s
  | .kick tid record nap => away tid (fun t => put 2 false (.kick (s.wgOf t).wid (!record) tid nap) s)
  | .kickRead tid => away tid (fun t => put 0 false (.kickRead tid (s.wgOf t).wid) s)
  | .wake tid nap => put 2 false (.wake tid nap) s
  | .grant bank size count credits fresh => put 2 false (.grant (peerDesc src bank) size count credits (plazaOf (src % 1024)) (bankOf bank) fresh) s
  | .credit bank => put 2 false (.credit (peerDesc src bank)) s
  | .revoke bank want => put 2 false (.revoke (peerDesc src bank) (plazaOf (src % 1024)) (bankOf bank) want) s

/-- `PEER_MESSAGE_IN` (R416): accepted only where a local ASID's table names the sender and its ASID, which the local one replaces; any other message is
discarded and counted. -/
def execPeerMessageIn (hub : Nat) (m : PeerMessage) (s : State) : Host.Outcome State Fault Refusal :=
  .next (
    if !s.hubUp hub then s
    else
      match s.peerOf hub m.asid m.addrHi m.addrLo with
      | none => s.discardCell (8 + hub)
      | some (asid, i) =>
        if s.reachable (m.dst % 1024) then deliverPeer (peerCore asid i (m.src % 1024)) asid m s else s.discardCell (8 + hub))

/-! ## What a peer answers (R430) -/

/-- A context that does not go through raises at its source (R37, R418). -/
def contextFails (tid : Nat) (s : State) : State :=
  match s.thread? tid with
  | some t => s.raiseAt t 0x0D 0 t.pendH
  | none => s

/-- The thread is at the peer; the slot that it left frees as the acceptance reaches its source (R29). One of the peer's own has left the module. -/
def contextLeaves (tid dst : Nat) (s : State) : State :=
  match s.thread? tid with
  | some t =>
    let s1 := holdSlot t s
    if 1024 ≤ t.anchor ∧ t.anchor / 1024 = dst / 1024 then { s1 with threads := s1.threads.filter (fun u => u.tid != tid) }
    else s1.putThread { t with core := dst, place := .gone }
  | none => s

/-- What comes back to a thread for its request: an acknowledgement on VC2, data or a result on VC1; of a `WAITC` a wake, or nothing where its monitor has
been armed there, and the thread is parked (R108, R376, R430). -/
def replyThread (m : Msg) (tid : Nat) (r : Request) (code : Nat) (bs : List Byte) (s : State) : State :=
  if r.kind = .write ∨ r.post then s.send m.dst m.src 2 (.ack tid r.wid 0 code)
  else if r.monitor then
    if code ≠ 0 then s.send m.dst m.src 1 (.data tid 0 [] 0 code)
    else if leNat (bs.take 1) ≠ 0 then s.send m.dst m.src 2 (.wake tid 0)
    else (match s.waiter tid m.src with | some (t, _) => s.putThread (t.parkMonitor m.dst) | none => s)
  else if r.kind = .read then s.send m.dst m.src 1 (.data tid 0 bs 0 code)
  else
    s.send m.dst m.src 1 (.result tid (BitVec.ofNat 64 (leNat (bs.take 8))) (leNat ((bs.drop 8).take 1) != 0)
      (BitVec.ofNat 7 (leNat ((bs.drop 9).take 1))) code r.wid)

/-- A message for a peer, which has left the module, is answered with a code, 0 for none, and bytes: what comes back enters the fabric at the hub. A
queue entry is acknowledged without a code. -/
def peerAnswers (m : Msg) (code : Nat) (bs : List Byte) (s : State) : State :=
  match m.body with
  | .read r | .store r | .atomic r | .fill r | .arm r =>
    (match r.who with
     | .thread tid => replyThread m tid r code bs s
     | _ => answerRequest m.src r code bs s)
  | .entry _ _ _ tid wid => s.send m.dst m.src 2 (.ack tid wid 0 0)
  | .context tid => if code = 0 then (contextLeaves tid m.dst s).send m.dst m.src 2 (.accepted tid) else contextFails tid s
  | .engine plaza key _ pos _ out =>
    (match (s.plaza plaza).job? key with
     | some j => if code = 0 then pieceLanded plaza j pos out.length s else stopJob plaza (j.lose pos) code s
     | none => s)
  | .kickRead tid _ => s.send m.dst m.src 1 (.kickValue tid (BitVec.ofNat 64 (leNat (bs.take 8))))
  | .imageRead tid _ k => s.send m.dst m.src 1 (.image tid k (BitVec.ofNat 64 (leNat (bs.take 8))))
  | .grant _ _ _ _ plaza bank fresh => if fresh then s.send m.dst m.src 2 (.grantAck plaza bank (code == 0)) else s
  | .revoke _ plaza bank want => if want then s.send m.dst m.src 0 (.revokeReply plaza bank) else s
  | _ => s

/-- The hub and the port of it that a message for a peer leaves through (R412). -/
def Msg.peerHub (m : Msg) : Nat := dieOf m.src % 2
def Msg.peerPort (m : Msg) : Nat := m.dst % 4

/-- `PEER_ACKNOWLEDGEMENT` (R412, R416, R430): message `k`, which leaves for a peer with its ASID there, has crossed the connection, and what the peer
answers comes back. -/
def execPeerAcknowledgement (k code : Nat) (data : List Nat) (s : State) : Host.Outcome State Fault Refusal :=
  settled (
    match s.net[k]? with
    | none => s
    | some m =>
      if m.dst < 1024 ∨ !s.hubUp m.peerHub ∨ !s.deliverable k m then s
      else
        peerAnswers m code (data.map (BitVec.ofNat 8)) { s with
          net := s.net.eraseIdx k
          host := .peerSent m.peerHub m.peerPort (s.remoteAsid m.peerHub m.dst) (m.header s 0 0) :: s.host })

/-! ## A connection that fails (R418) -/

/-- The launch of a lost thread is cancelled at the level of its job (R168). -/
def State.cancelLaunch (s : State) (job launch : Nat) : State :=
  match s.job? job with
  | some j => s.putJob (j.cancelAt j.cpol launch)
  | none => s

/-- A thread that is lost: its launch is cancelled at CPOL (R37, R168). -/
def State.loseThread (s : State) (t : Thread) : State :=
  (s.removeThread { t with writes := [], fwd := [], late := none }).cancelLaunch t.job t.launch

/-- A thread that waits for a peer meets 0x0D. -/
def State.failWaiter (s : State) (tid core : Nat) : State :=
  match s.waiter tid core, s.lateAt tid core with
  | some (t, _), _ => s.raiseAt t 0x0D 0 t.pendH
  | none, some (t, l) => lateArrives t l [] 0x0D s
  | none, none => s

/-- A message that has not crossed a connection that fails, as if the peer's die were fenced. -/
def settleMessage (m : Msg) (s : State) : State :=
  match m.body with
  | .read r | .store r | .atomic r | .fill r | .arm r => answerRequest m.src r 0x0D [] s
  | .entry _ _ _ tid wid => ackArrives m.src tid wid 0 0x0D s
  | .context tid => contextFails tid s
  | .engine plaza key _ pos _ _ => (match (s.plaza plaza).job? key with | some j => stopJob plaza (j.lose pos) 0x0D s | none => s)
  | .kickRead tid _ | .imageRead tid _ _ => s.failWaiter tid m.src
  | .grant _ _ _ _ plaza bank fresh => if fresh then grantAcked plaza bank false s else s
  | .revoke _ plaza bank want => if want then revokeReplied plaza bank s else s
  | _ => s

/-- What is outstanding on connections of a hub is settled, message by message; `p` says which places in peer modules lie behind them. A message that the
settling of an earlier one has removed is settled with it. Threads that are there are lost, and a `WAITC` that has a monitor there fails (R108, log
entry 106). -/
def settlePeer (hub : Nat) (p : Nat → Bool) (s : State) : State :=
  let mine (m : Msg) : Bool := 1024 ≤ m.dst && m.peerHub == hub && p m.dst
  let s1 := (s.net.filter mine).foldl (fun s m => if s.net.contains m then settleMessage m { s with net := s.net.erase m } else s) s
  let s2 := (s1.allThreads.filter (fun t => t.away && dieOf t.anchor % 2 == hub && p t.core)).foldl State.loseThread s1
  (s2.allThreads.filter (fun t => match t.wait with | .monitor c _ => 1024 ≤ c && dieOf t.core % 2 == hub && p c | _ => false)).foldl
    (fun s t => s.raiseAt t 0x0D 0 t.pendH) s2

/-- `ROD_TIMEOUT` (R415, R418): the connection of a port of a hub to the module at an endpoint fails. The event carries the index of the entry that names
it, the first that the hub finds. -/
def execRodTimeout (port : PeerPort) (peer : Endpoint) (s : State) : Host.Outcome State Fault Refusal :=
  let hub := port.hub
  settled (
    if 1 < hub ∨ 3 < port.port ∨ !s.hubUp hub then s
    else
      let i := ((s.hub hub).peers.findSome? (fun (_, base, n) =>
        (List.range n).find? (fun i => peerWord s base i 0 == peer.hi.toNat && peerWord s base i 8 == peer.lo.toNat))).getD 0
      (settlePeer hub (fun dst => dst % 4 == port.port && s.behind hub peer.hi peer.lo dst) s).rasEvent 0x16 (8 + hub) (BitVec.ofNat 64 i))

end Sys2Proof.Machine
end

