-- ==== Sys2Proof/Machine/Fence.lean ====
section
/-! DEFINITION. Dies and hubs that fail (R37, R89, R168, R354, R386, R393, R426): the fence, and what a surviving unit does as the notice of
the loss reaches it. -/

namespace Sys2Proof.Machine

/-! ## What is lost with a unit -/

/-- A message from or to a die of the module. -/
def Msg.touches (m : Msg) (die : Nat) : Bool := (m.src < 1024 && dieOf m.src == die) || (m.dst < 1024 && dieOf m.dst == die)

/-- A request that a home has passed on to a unit that is lost fails there (R341, R426); where the home is lost, its requester hears of that. -/
def dropPassed (die : Nat) (r : Request) (s : State) : State :=
  match r.trans with
  | some x => if dieOf x.port = die then s else s.refuseAt x.port x.src r 0x0D
  | none => s

/-- What becomes of a message that is lost with a die: no unit waits for its answer. A hub counts the answer that a lost unit owes it itself (R303). -/
def dropMessage (die : Nat) (s : State) (m : Msg) : State :=
  match m.body with
  | .inval hub asid _ _ _ | .invalAnswer hub asid =>
    if s.hubUp hub then s.send (0x200 + 64 * hub) (0x200 + 64 * hub) 2 (.invalAnswer hub asid) else s
  | .read r | .store r | .atomic r | .fill r | .arm r | .units r _ _ | .hostRead r _ _ _ | .hostWrite r _ _ _ => dropPassed die r s
  | .spawn t _ _ => s.spawnedExit t.job t.launch
  | .engine plaza key _ pos _ _ => (match (s.plaza plaza).job? key with | some j => stopJob plaza (j.lose pos) 0x0D s | none => s)
  | .grant _ _ _ _ plaza bank fresh => if fresh then grantAcked plaza bank false s else s
  | .grantAck plaza bank _ => grantAcked plaza bank false s
  | .revoke _ plaza bank want => if want then revokeReplied plaza bank s else s
  | .revokeReply plaza bank => revokeReplied plaza bank s
  | _ => s

/-- The messages that a test picks are lost with a die. -/
def dropThose (die : Nat) (p : Msg → Bool) (s : State) : State :=
  (s.net.filter p).foldl (dropMessage die) { s with net := s.net.filter (fun m => !p m) }

/-- A request to the synchronisation engine of another die is performed if it comes in before that die processes the loss (R354). -/
def Msg.outlives (m : Msg) (die : Nat) : Bool :=
  match m.body with
  | .barrier _ _ _ _ _ | .board _ _ _ _ _ _ _ _ => m.dst < 512 && dieOf m.dst != die
  | _ => false

/-- Every other message from or to a die is lost. -/
def dropMessages (die : Nat) (s : State) : State := dropThose die (fun m => m.touches die && !m.outlives die) s

/-- A move whose engine, home or frames are lost is given up: the page stays where it is, and the writes held for it are served (log entry 52). -/
def dropMove (hub : Nat) (s : State) : State :=
  let x := s.hub hub
  match x.move with
  | none => s
  | some v =>
    let s1 := s.putHub hub { x with move := none }
    let cur := { (parsePme (s.frameCore v.port v.key) (memNat s.mem v.pmeAt 8)).getD v.old with wb := false }
    let s2 : State := { s1 with mem := memWrite s1.mem v.pmeAt (leBytes 8 (pmeWord cur)) }
    let q := s2.port v.port
    let s3 := if (q.lookup v.key).isSome then s2.putPort (q.fill v.key cur) else s2
    (drainHeld v.port v.key s3).wakeWaiting (fun t => t.wait == .drain v.port)

/-- A move that touches a die. -/
def Move.touches (v : Move) (die : Nat) : Bool := dieOf v.port == die || dieOf v.old.core == die || dieOf v.new.core == die

/-! ## The fence of a compute die (R426) -/

/-- A gang that stands on a die, or is saved there. -/
def Gang.on (g : Gang) (die : Nat) : Bool := g.die == die && g.state != .queued && g.state != .retired

/-- A thread that is lost with a die. -/
def Thread.on (t : Thread) (die : Nat) : Bool := t.status != .exited && t.core < 512 && dieOf t.core == die

/-- The jobs present on a die (R354): with a gang there that has not retired, queued ones included, or with a thread there; a context that is held there
has arrived, in the staging or in the link. -/
def State.jobsOn (s : State) (die : Nat) : List Nat :=
  ((s.gs.gangs.filter (fun g => g.die == die && g.state != .retired)).map Gang.job ++ (s.allThreads.filter (fun t => t.on die)).map Thread.job ++
    (s.net.filter (fun m => !m.isMoving && m.dst < 512 && dieOf m.dst == die)).filterMap (fun m => (m.contextOf s).map (fun x => x.1.job)) ++
    (s.plazas.filter (fun p => p.id / 8 == die)).flatMap (fun p => p.spawnQ.map Thread.job)).eraseDups

/-- Entries of spawn queues of the die are lost. -/
def dropSpawns (die : Nat) (s : State) : State :=
  (s.plazas.filter (fun p => p.id / 8 == die)).foldl (fun s p =>
    p.spawnQ.foldl (fun s t => (s.spawnedExit t.job t.launch).cancelLaunch t.job t.launch)
      ((s.putPlaza { p with spawnQ := [], banks := [], stages := [], items := [], doomed := [] }).wakeWaiting (fun u => u.wait == .spawnQueue p.id))) s

/-- The place of a slot whose number is held for a thread that leaves. -/
def slotPlace (code : Nat) : Place := if code % 32 < 24 then .slot (code % 32) else .landing (code % 32 - 24)

/-- A context that is held on the die has not been accepted: its thread is OUTBOUND still, in the slot that its source holds for it (R29, R37). -/
def takeBack (s : State) (t : Thread) : State :=
  match t.place with
  | .staged src _ =>
    let x := s.core src
    (match x.leaving.find? (fun y => y.1 == t.tid) with
     | some y => (s.putThread { t with core := src, place := slotPlace y.2 }).putCore { x with leaving := x.leaving.eraseP (fun z => z.1 == t.tid) }
     | none => s)
  | _ => s

/-- The contexts held on a die go back to their sources on other dies. -/
def State.takeBackHeld (s : State) (die : Nat) : State :=
  (s.allThreads.filter (fun t => t.on die && (match t.place with | .staged src _ => src < 512 && dieOf src != die | _ => false))).foldl takeBack s

/-- Everything that runs on a die stops (R426 step 1), and the launches that had something there are cancelled (R168). -/
def stopDie (die : Nat) (s : State) : State :=
  let s1 := dropSpawns die (dropMessages die (s.takeBackHeld die))
  let gs := s1.gs.gangs.filter (fun g => g.on die)
  let s2 := gs.foldl (fun s g => s.cancelLaunch g.job g.launch) s1
  let s3 := (s2.allThreads.filter (fun t => t.on die)).foldl State.loseThread s2
  let s4 := gs.foldl (fun s g => cancelGang g s) s3
  let s5 := dropMessages die s4
  let d := s5.die die
  let out := s5.gs.gangs.filter (fun g => g.die == die && g.state == .queued)
  let s6 := s5.putDie { d with queue := [] }
  ({ s6 with
    gs := { s6.gs with gangs := s6.gs.gangs.filter (fun g => !out.any (fun x => x.launch == g.launch && x.gang == g.gang)) },
    ports := s6.ports.map (fun (p : PortSt) => if p.id < 512 ∧ dieOf p.id = die then { PortSt.blank p.id with carve := p.carve } else p),
    issuing := if dieOf s6.groupCore = die then [] else s6.issuing } : State).linksDown (fun l => l.endA == die || l.endB == die)

/-- A loss notice to every surviving die and hub (R426 step 3). -/
def sendLoss (from_ die : Nat) (s : State) : State :=
  let dies := ((List.range 8).filter s.dieUp).map (fun d => 64 * d)
  let hubs := ((List.range 2).filter (fun h => s.hubUp h && 0x200 + 64 * h != from_)).map (fun h => 0x200 + 64 * h)
  (dies ++ hubs).foldl (fun s u => s.send from_ u 2 (.dieLoss die)) s

/-- `DIE_FATAL_ERROR` (R426): the die stops, the configuration is written, the notices go out. -/
def execDieFatalError (die cause : Nat) (s : State) : Host.Outcome State Fault Refusal :=
  settled (
    if !s.dieUp die then s
    else
      let here := s.jobsOn die
      let s1 := stopDie die s
      let s2 := (List.range 2).foldl (fun s h => if ((s.hub h).move.map (fun v => v.touches die)).getD false then dropMove h s else s) s1
      let s3 : State := { s2 with
        conf := { s2.conf with fenced := s2.conf.fenced ||| ((1 : BitVec 8) <<< die) },
        gs := { s2.gs with present := (die, here) :: s2.gs.present.filter (fun x => x.1 != die) } }
      (sendLoss (0x200 + 64 * s.mgmt.activeCtl) die s3.writeConf).rasEvent 0x10 die (BitVec.ofNat 64 cause))

/-! ## The notice of a loss -/

/-- Something that a thread has asked for, or its answer, is still on its way or at a unit that runs. -/
def State.pendingFor (s : State) (tid : Nat) : Bool :=
  let mine (r : Request) : Bool := r.who == .thread tid && (r.kind == .read || r.wantsResult)
  s.net.any (fun m => (1024 ≤ m.dst || s.reachable m.dst) && match m.body with
    | .read r | .store r | .atomic r | .fill r | .arm r | .units r _ _ | .hostRead r _ _ _ | .hostWrite r _ _ _ => mine r
    | .data t _ _ _ _ | .result t _ _ _ _ _ | .image t _ _ | .imageRead t _ _ | .kickRead t _ | .kickValue t _ => t == tid
    | .release t _ | .boardReply t _ _ _ | .wake t _ => t == tid
    | .barrier _ _ _ _ t => t == tid
    | .board _ _ _ _ _ t _ _ => t == tid
    | _ => false) ||
  s.ports.any (fun q => q.walking.any (fun x => mine x.2.2) || q.holdQ.any (fun x => mine x.2.2) || q.readHold.any (fun x => mine x.2.2) ||
    q.wbQ.any (fun x => mine x.2.2) || q.mscWait.any (fun x => mine x.2.2) || q.rowHold.any (fun x => mine x.2.2)) ||
  s.dies.any (fun d => s.dieUp d.id && d.barriers.any (fun b => b.waiters.any (fun x => x.1 == tid)))

/-- A thread whose wait the loss of a die ends: it executes its instruction again (R37, R386, R393). -/
def lossEnds (s : State) (lost : Nat) (t : Thread) : Bool :=
  match t.wait with
  | .answer _ => !s.pendingFor t.tid
  | .drain dest => dest < 1024 && dieOf dest == lost
  | .monitors core | .monitor core _ => dieOf core == lost
  | _ => false

/-- Threads of a die whose load is lost, and which have run ahead of it, execute it again. -/
def againLate (die : Nat) (s : State) : State :=
  (s.allThreads.filter (fun t => t.late.isSome && t.core < 512 && dieOf t.core == die && !s.pendingFor t.tid)).foldl
    (fun s t => s.wakeThread t.atLoad) s

/-- Such a thread goes on; one that was swapped out waits for a landing slot. -/
def State.goOn (s : State) (t : Thread) : State :=
  match t.place with
  | .area _ _ => s.putThread { t with status := .overflow, wait := .none, since := (s.core t.core).ccnt.toNat }
  | _ => s.wakeThread t

/-- OUTBOUND threads of a die whose context is lost resume at their source (R37). -/
def resumeOutbound (die : Nat) (s : State) : State :=
  (s.allThreads.filter (fun t => t.status == .outbound && t.slotNo.isSome && t.core < 512 && dieOf t.core == die &&
    !s.net.any (fun m => match m.body with | .context tid => tid == t.tid | _ => false))).foldl State.wakeThread s

/-- Writes of the die's cores to homes that are lost fail (R89). -/
def failWrites (die lost : Nat) (s : State) : State :=
  (s.allThreads.flatMap (fun t => (t.writes.filter (fun w => w.core < 512 && dieOf w.core == die && w.target < 1024 && dieOf w.target == lost &&
      (w.state == .sent || w.state == .held))).map (fun w => (t.tid, w)))).foldl (fun s x => ackArrives x.2.core x.1 x.2.id 0 0x0D s) s

/-- Slots of the die that were held for threads that the loss took with it. -/
def freeLostSlots (die : Nat) (s : State) : State :=
  { s with cores := s.cores.map (fun (c : CoreSt) =>
      if dieOf c.id = die then
        { c with leaving := c.leaving.filter (fun x => s.net.any (fun m => match m.body with | .accepted tid => tid == x.1 && m.dst == c.id | _ => false)) }
      else c) }

/-- Incomplete barriers of a die whose job was present on the lost one are released BROKEN (R354, R386). -/
def breakBarriers (die lost : Nat) (s : State) : State :=
  let jobs := ((s.gs.present.find? (fun x => x.1 == lost)).map (fun x => x.2)).getD []
  (s.die die).barriers.foldl (fun s b =>
    if jobs.contains b.job && !b.broken && (b.arrivals > 0 || b.last.isNone) then
      releaseAll die b false (s.putBarrier die { b with broken := true, waiters := [] })
    else s) s

/-- No message passes between a die and one whose loss it has processed (R354). -/
def dropBetween (die lost : Nat) (s : State) : State :=
  dropThose lost (fun m => m.src < 1024 && m.dst < 1024 &&
    ((dieOf m.src == die && dieOf m.dst == lost) || (dieOf m.src == lost && dieOf m.dst == die))) s

/-- Waiters on a lost die leave the barriers of a die (R354). -/
def dropWaiters (die lost : Nat) (s : State) : State :=
  let d := s.die die
  s.putDie { d with barriers := d.barriers.map (fun (b : ModBarrier) => { b with waiters := b.waiters.filter (fun w => dieOf w.2 != lost) }) }

/-- A compute die processes the notice of a loss, as one step. -/
def processLoss (die lost : Nat) (s : State) : State :=
  let s0 := dropBetween die lost s
  let d := s0.die die
  let s1 := dropWaiters die lost (breakBarriers die lost (s0.putDie { d with lossSeen := lost :: d.lossSeen }))
  let s2 := againLate die (freeLostSlots die (failWrites die lost (resumeOutbound die s1)))
  (s2.allThreads.filter (fun t => t.core < 512 && dieOf t.core == die && (t.status == .waiting || t.status == .parkedFault || t.status == .parkedMonitor) &&
    lossEnds s2 lost t)).foldl State.goOn s2

/-- `DIE_LOSS_NOTICE` (R354, R426). -/
def execDieLossNotice (k : Nat) (s : State) : Host.Outcome State Fault Refusal :=
  settled (
    match s.take k with
    | some (m, s1) =>
      (match m.body with
       | .dieLoss lost => if m.dst < 512 then processLoss (dieOf m.dst) lost s1 else s1
       | _ => s)
    | none => s)

/-! ## The loss of a hub (R426) -/

/-- Sectors that a port waits for from a lost hub, or was writing back to it: the access that asked for the fill or the write-back fails with 0x0D,
and those behind it look at the cache anew (R341). -/
def failSectors (hub : Nat) (s : State) : State :=
  s.ports.foldl (fun s q0 =>
    let q := s.port q0.id
    let bad := q.mscBusy.filter (fun x => (x.2.2 == 1 && 2048 * x.2.1 / 2 ^ 40 == hub) || (x.2.2 == 0 && q.victim x.1 / 2 ^ 40 == hub))
    bad.foldl (fun s x => refuseSector q0.id x.1 0x0D s)
      (s.putPort { q with mscBusy := q.mscBusy.filter (fun x => !bad.contains x) })) s

/-- The management controller of a hub takes over (R425): an update in progress is abandoned. -/
def State.controlBy (s : State) (hub : Nat) : State :=
  ({ s with mgmt := { s.mgmt with activeCtl := hub, misses := 0, updating := false,
                                  imageValid := s.mgmt.imageValid && !s.mgmt.updating } }).rasEvent 0x17 (8 + hub) 0

/-- The messages of a lost hub: what it would have passed on comes from the other, the rest is lost. -/
def hubMessages (hub : Nat) (s : State) : State :=
  let (me, other) := (0x200 + 64 * hub, 0x200 + 64 * (1 - hub))
  let moved : List Msg := (s.net.filter (fun m => m.touches (8 + hub))).filterMap (fun m => match m.body with
    | .hub _ _ _ => if m.dst = me then some { m with dst := other } else none
    | .dieLoss _ => if m.src = me ∧ m.dst ≠ other then some { m with src := other } else none
    | _ => none)
  let s1 := dropMessages (8 + hub) s
  { s1 with net := s1.net ++ moved }

/-- Everything that a lost hub did (R426). -/
def stopHub (hub : Nat) (s : State) : State :=
  let other := 1 - hub
  let s1 := if ((s.hub hub).move).isSome then dropMove hub s else s
  let s2 := hubMessages hub { s1 with conf := { s1.conf with hubs := s1.conf.hubs &&& ~~~((1 : BitVec 2) <<< hub) } }
  let s3 := failSectors hub s2
  let s4 := if s3.gs.active = hub ∧ s3.hubUp other then s3.takeOver other else s3
  let s5 := if s4.mgmt.activeCtl = hub ∧ s4.hubUp other then s4.controlBy other else s4
  let x := s5.hub other
  let s6 := (s5.putHub hub { HubSt.blank hub with fwd := s5.hubUp other }).putHub other { x with carry := x.carry || s5.hubUp other }
  ({ s6 with
    ports := s6.ports.map (fun (p : PortSt) => if p.id = 0x200 + 64 * hub then PortSt.blank p.id else p),
    gs := { s6.gs with suspends := s6.gs.suspends.filter (fun x => x.1 != hub), resumes := s6.gs.resumes.filter (fun x => x.1 != hub) } } : State).linksDown (fun l => l.endA == 8 + hub || l.endB == 8 + hub)

/-- Peers that each of the four ports of a hub has a connection to (R412, R415). -/
def State.connections (s : State) (hub : Nat) : List Nat := ((s.hub hub).peers.flatMap (fun p => s.peersOf p.1)).eraseDups

/-- `HUB_FATAL_ERROR` (R426). -/
def execHubFatalError (hub cause : Nat) (s : State) : Host.Outcome State Fault Refusal :=
  settled (
    if !s.hubUp hub then s
    else
      let peers := (s.connections hub).flatMap (List.replicate 4)
      let s1 := stopHub hub (peers.foldl (fun s p => s.rasEvent 0x16 (8 + hub) (BitVec.ofNat 64 p)) (settlePeer hub (fun _ => true) s))
      (sendLoss (0x200 + 64 * s1.mgmt.activeCtl) (8 + hub) s1.writeConf).rasEvent 0x11 (8 + hub) (BitVec.ofNat 64 cause))

end Sys2Proof.Machine
end

