-- ==== Sys2Proof/Machine/Manage.lean ====
section
/-! DEFINITION. Boot (R419, R420), attestation (R422) and the management controllers (R423-R425, R427). -/

namespace Sys2Proof.Machine

/-! ## Boot -/

/-- Power cap of a configuration: default and maximum (R427). -/
def maxPower (m8 : Bool) : Nat := if m8 then 3400 else 1900

/-- A die or hub passes its image check, or its authentication; a place that the input does not name fails. -/
def bootChecked (b : BootInput) (die : Nat) : Bool := b.check.getD die false
def bootTrusted (b : BootInput) (die : Nat) : Bool := b.auth.getD die false
def bootPasses (b : BootInput) (die : Nat) : Bool := bootChecked b die && bootTrusted b die

/-- Dies of the configuration: compute dies, then HD0 and HD1. -/
def bootUnits (b : BootInput) : List Nat := List.range (if b.m8 then 8 else 4) ++ [8, 9]

/-- The module as a cold boot finds it: what stands outside the main side stays. -/
def State.powered (s : State) : State :=
  { State.reset with
    mgmt := { Mgmt.blank with imageValid := s.mgmt.imageValid, flash := s.mgmt.flash, events := s.mgmt.events },
    host := s.host, agenda := s.agenda, fresh := s.fresh }

/-- Links between adjacent admitted compute dies, and from each hub to every compute die (R5, R407, R420). Compute die `i` stands in
row i mod 2 and column i div 2. -/
def linkEnds : List (Nat × Nat) :=
  (List.range 4).map (fun c => (2 * c, 2 * c + 1)) ++ (List.range 6).map (fun i => (i, i + 2)) ++
    (List.range 8).flatMap (fun d => [(d, 8), (d, 9)])

def LinkDir.fresh : LinkDir := { txSeq := 0, rxSeq := 0, replay := [], nak := false, naks := 0 }

def newLink (id : Nat) (x : Nat × Nat) : Link :=
  { id := id, endA := x.1, endB := x.2, up := true, rate := 48, ab := .fresh, ba := .fresh, failed := 0, training := false }

/-- The MCFG word that firmware writes for a port (R336). -/
def mcfgOf (b : BootInput) (core : Nat) : W64 := ((b.mcfgs.find? (fun x => x.1 == core)).map (fun x => x.2)).getD b.mcfg

/-- A port as it starts with its MCFG word (R336): a CARVE of 11 is taken as 00. -/
def bootPort (b : BootInput) (core : Nat) : PortSt :=
  let w := (mcfgOf b core).toNat
  let carve := bits w 1 0
  { PortSt.blank core with carve := if carve = 3 then 0 else BitVec.ofNat 2 carve, rpen := bitOf w 2, rpth := BitVec.ofNat 16 (bits w 31 16) }

/-- Steps 2 to 5 of R419 on a module that has a hub. -/
def bootDies (b : BootInput) (s : State) : State :=
  let good := (bootUnits b).filter (bootPasses b)
  let comp := good.filter (· < 8)
  let cores := comp.flatMap (fun d => (List.range 64).map (fun k => 64 * d + k))
  let hub (h : Nat) : HubSt := { HubSt.blank h with up := bootPasses b (8 + h) }
  let first := if bootPasses b 8 then 0 else 1
  let hubs : BitVec 2 := (if bootPasses b 8 then 1 else 0) + (if bootPasses b 9 then 2 else 0)
  let s1 : State := { s with
    conf := { Conf.off with
      booted := true, m8 := b.m8, lc := cores,
      admitted := comp.foldl (fun (v : BitVec 8) d => v ||| ((1 : BitVec 8) <<< d)) 0,
      hubs := hubs, hubsBooted := hubs },
    hubs := #v[hub 0, hub 1],
    ports := (cores.map (bootPort b)).filter (fun q => q != PortSt.blank q.id),
    links := (linkEnds.filter (fun x => good.contains x.1 && good.contains x.2)).zipIdx.map (fun x => newLink x.2 x.1),
    gs := { Scheduler.blank with active := first },
    mgmt := { s.mgmt with activeCtl := first, cap := maxPower b.m8 } }
  let s2 := ((bootUnits b).filter (fun d => !bootPasses b d)).foldl (fun s d => s.rasEvent 0x02 d (if bootChecked b d then 2 else 1)) s1
  let s3 := (cores.filter (fun c => bits (mcfgOf b c).toNat 1 0 == 3)).foldl (fun s c => s.rasEvent 0x04 (dieOf c) (BitVec.ofNat 64 c)) s2
  let s4 := s3.writeConf
  s4.rasEvent 0x01 (8 + first) s4.conf.mconf

/-- `COLD_BOOT` (R419, R420). -/
def execColdBoot (b : BootInput) (s : State) : Host.Outcome State Fault Refusal :=
  .next (
    let s0 := s.powered
    if !s0.mgmt.imageValid ∨ !b.imageOk then s0.rasEvent 0x03 8 0
    else if !bootPasses b 8 && !bootPasses b 9 then s0.rasEvent 0x03 8 1
    else bootDies b s0)

/-! ## Attestation (R422) -/

/-- The bytes of a word, lowest first. -/
def byteNats (n : Nat) (x : Nat) : List Nat := (leBytes n x).map BitVec.toNat

/-- A die that boot admitted: one that is fenced later has been neither excluded nor absent. -/
def State.trusts (s : State) (die : Nat) : Bool := if die < 8 then s.conf.admitted.getLsbD die else s.conf.hubsBooted.getLsbD (die - 8)

/-- What a measurement block contains. -/
def State.measure (s : State) (block : Nat) : Option (List Nat) :=
  if block = 1 then some (byteNats 64 (Config.sha512 s.mgmt.flash).toNat)
  else if block = 2 then some (byteNats 8 s.conf.mconf.toNat ++ byteNats 8 s.conf.mcap.toNat)
  else if 3 ≤ block ∧ block ≤ 12 then
    some (if s.trusts (block - 3) then byteNats 64 (Config.sha512 (Config.certificate (block - 3))).toNat else List.replicate 64 0)
  else none

/-- `SPDM_REQUEST` (R422): the block as it stands at the request, signed with the module key. -/
def execSpdmRequest (block : Nat) (s : State) : Host.Outcome State Fault Refusal :=
  .next (
    match s.measure block with
    | none => s
    | some bs => { s with host := .report bs (Config.sha512 bs) (Config.signature bs) :: s.host })

/-! ## Management (R423-R425) -/

/-- `FIRMWARE_UPDATE` (R424): the single image is written in place, and is invalid from the first write. -/
def execFirmwareUpdate (image : List Nat) (s : State) : Host.Outcome State Fault Refusal :=
  .next { s with mgmt := { s.mgmt with flash := image, imageValid := false, updating := true } }

/-- `ACTIVATE_FIRMWARE` (R424): the update completes; the image passes the next check if its signature is good. -/
def execActivateFirmware (signatureGood : Bool) (s : State) : Host.Outcome State Fault Refusal :=
  .next (if s.mgmt.updating then { s with mgmt := { s.mgmt with updating := false, imageValid := signatureGood } } else s)

/-- What a PLDM request reads (R423): the types that are supported, the effecter, or a sensor. -/
def State.pldmRead (s : State) (c : Pldm) : Option (List Nat) :=
  match c with
  | .setCap _ => none
  | .discovery => some [0, 2, 5]
  | .getCap => some [s.mgmt.cap]
  | .dieTemp die => some [(s.die die).temp]
  | .diePower die => some [(s.die die).power]
  | .modulePower => some [s.mgmt.power]
  | .coolant => some [s.mgmt.coolant]

/-- `POWER_CAP_EFFECTER` and the other PLDM requests of types 0 and 2 (R423, R427): no cap is above the maximum. -/
def execPowerCapEffecter (c : Pldm) (s : State) : Host.Outcome State Fault Refusal :=
  .next (
    match c with
    | .setCap watts => { s with mgmt := { s.mgmt with cap := min watts (maxPower s.conf.m8) } }
    | _ => match s.pldmRead c with | some v => { s with host := .pldm v :: s.host } | none => s)

/-- `HEARTBEAT_CHECK` (R425): HD1's controller takes over after three missed heartbeats. -/
def execHeartbeatCheck (beat : Bool) (s : State) : Host.Outcome State Fault Refusal :=
  .next (
    if s.mgmt.activeCtl ≠ 0 then s
    else if beat then { s with mgmt := { s.mgmt with misses := 0 } }
    else if s.mgmt.misses + 1 < 3 then { s with mgmt := { s.mgmt with misses := s.mgmt.misses + 1 } }
    else s.controlBy 1)

end Sys2Proof.Machine
end

