-- ==== Sys2Proof/Machine/Auto.lean ====
section
/-! DEFINITION. Which agent acts next when the outside world has put nothing on the agenda (log entry 1), and the turns that
are no event of the table: the passing of time, and the environment; and the placing of one instruction. -/

namespace Sys2Proof.Machine

/-- A cold boot at which everything passes on a Falxo M8 (log entry 1). -/
def defaultBoot : BootInput :=
  { m8 := true, imageOk := true, check := List.replicate 10 true, auth := List.replicate 10 true,
    mcfg := 0x10000004, mcfgs := [] }

/-- The event that delivers a message (R403). -/
def deliveryOf (m : Msg) (k : Nat) : Instr :=
  match m.body with
  | .context _ => .contextArrival k
  | .spawn _ _ _ => .spawnMessage k
  | .read _ | .imageRead _ _ _ | .kickRead _ _ => .remoteReadRequest k
  | .store _ => .storeRequest k
  | .atomic _ => .atomicRequest k
  | .entry _ _ _ _ _ => .queueEntry k
  | .fill _ => .leaseFillRequest k
  | .sectorFill _ _ | .hub _ _ _ | .writeBack _ _ _ => .hubRequest k
  | .arm _ => .monitorArm k
  | .revokeReply _ _ => .revokeReply k
  | .data _ _ _ _ _ | .line _ _ _ | .image _ _ _ | .kickValue _ _ => .readData k
  | .result _ _ _ _ _ _ => .atomicResult k
  | .ack _ _ _ _ => .writeAcknowledgement k
  | .accepted _ => .contextAcceptance k
  | .grant _ _ _ _ _ _ _ | .grantAck _ _ _ => .grant k
  | .credit _ => .credit k
  | .revoke _ _ _ _ => .revoke k
  | .inval _ _ _ _ _ => .invalidation k
  | .invalAnswer _ _ => .invalidationAnswer k
  | .barrier _ _ _ _ _ => .barrierRequest k
  | .release _ _ => .barrierRelease k
  | .board _ _ _ _ _ _ _ _ => .boardRequest k
  | .boardReply _ _ _ _ => .boardReply k
  | .wake _ _ => .wake k
  | .kick _ _ _ _ => .kick k
  | .saveNotice _ _ => .gangSaveNotice k
  | .savedNotice _ _ | .awaySaved _ _ => .savedNotice k
  | .exitNotice _ _ | .awayExit _ | .awaySpawn _ _ _ => .exitNotice k
  | .wbNotice _ _ | .wbAck _ => .wbNotice k
  | .dieLoss _ => .dieLossNotice k
  | .engine _ _ _ _ _ _ => .engineData k
  | .sector _ _ _ | .units _ _ _ => .sectorData k
  | .writeBackAck _ => .sectorWriteBackAck k
  | .hostRead _ _ _ _ | .hostWrite _ _ _ _ => .cxlCacheCompletion k
  | .peerAck _ _ _ => .writeAcknowledgement k

/-! ## Time and the environment -/

/-- The cc count of a core that runs moves on, if no thread of it issues meanwhile (R20, R22, R409). -/
def State.passCycles (s : State) (core cc : Nat) : State :=
  let x := s.core core
  if !x.stopped && s.quiet core cc then s.putCore { x with ccnt := x.ccnt + BitVec.ofNat 64 cc } else s

/-- Every row window that the dies' DTCs have left ends (R349). -/
def State.endWindows (s : State) : State := (List.range 8).foldl (fun s d => endWindow d s) s

/-- Time passes at one DTC; with no die named, for the whole module, whose cores then count their cc as well (R2). -/
def State.passTime (s : State) (die ns : Nat) : State :=
  if h : die < 10 then ({ s with dtc := s.dtc.set die (s.dtc[die] + BitVec.ofNat 64 ns) } : State).endWindows
  else
    (s.cores.foldl (fun (s : State) c => s.passCycles c.id (ns * (s.die (dieOf c.id)).clock * 275 / 1000))
      { s with dtc := s.dtc.map (fun t => t + BitVec.ofNat 64 ns) }).endWindows

def State.setTemp (s : State) (die tenths : Nat) : State := s.putDie { s.die die with temp := tenths }
def State.setDiePower (s : State) (die watts : Nat) : State := s.putDie { s.die die with power := watts }

/-- A bit of the metadata of a cache index is wrong (R339): bits 0-15 are those of unit 0, 16-25 those of unit 1. -/
def PortSt.flipMeta (q : PortSt) (index bit : Nat) : PortSt :=
  let u := q.images index
  let x := (u.2 ++ u.1) ^^^ ((1 : BitVec 32) <<< bit)
  { q with msc := (index, x.extractLsb' 0 16, x.extractLsb' 16 16) :: q.msc.filter (fun y => y.1 != index) }

/-- An error of the environment (R343): 0 a word of local memory and 1 one of tile memory, class S; 2 an uncorrectable and 3 a correctable
error of a 64-byte unit of a core's channel, class A; 4 a bit of the metadata of a cache index, `word` the index and 2^20 times the bit (R342);
5 a class L error, `word` the replays of its transfer, at most 8. -/
def State.upset (s : State) (kind core word : Nat) : State :=
  let p := s.plaza (plazaOf core)
  let q := s.port core
  let layer := word * 64 / (96 * 2 ^ 20)
  match kind with
  | 0 => s.putPlaza { p with soft := word :: p.soft.filter (· != word), softCount := p.softCount + 1 }
  | 1 => s.putPlaza { p with softTile := (core, word) :: p.softTile.filter (· != (core, word)), softCount := p.softCount + 1 }
  | 2 =>
    let u := hbmAt core (64 * word) / 64
    s.putPort { q with poison := u :: q.poison.filter (· != u), ctrs := vset q.ctrs 5 (vget q.ctrs 5 0 + 1),
                       uel := vset q.uel layer (vget q.uel layer 0 + 1) }
  | 4 => s.putPort (q.flipMeta (word % 2 ^ 20) (word / 2 ^ 20 % 26))
  | 5 => s.putPort { q with ctrs := vset q.ctrs 3 (vget q.ctrs 3 0 + BitVec.ofNat 64 (min 8 word)) }
  | _ => s.putPort { q with ctrs := vset q.ctrs 4 (vget q.ctrs 4 0 + 1), cel := vset q.cel layer (vget q.cel layer 0 + 1) }

/-! ## Vector stores word by word (R250) -/

/-- The four words of 32 bytes, each with its place, in an order that names each once. -/
def wordsIn (order : List Nat) (bs : List Byte) : Option (List (Nat × List Byte)) :=
  if order.length = 4 ∧ (List.range 4).all order.contains then some (order.map (fun k => (8 * k, (bs.drop (8 * k)).take 8))) else none

/-- A vector store on its way to a home of the module becomes the stores of its words, which are performed in this order; the last one is
acknowledged. -/
def State.splitStore (s : State) (k : Nat) (order : List Nat) : State :=
  match s.net[k]? with
  | none => s
  | some m =>
    match m.body with
    | .store r =>
      if r.size ≠ 32 ∨ 1024 ≤ m.dst ∨ r.trans.isSome then s
      else
        match wordsIn order r.data with
        | none => s
        | some l =>
          let part (x : Nat × List Byte) : Request := { r with handle := handleAdd r.handle x.1, size := 8, data := x.2 }
          let silent (r : Request) : Request := { r with who := .cache, wid := 0 }
          let rs := l.zipIdx.map (fun x => if x.2 = 3 then part x.1 else silent (part x.1))
          { s with net := s.net.take k ++ rs.map (fun r => { m with body := .store r }) ++ s.net.drop (k + 1) }
    | _ => s

/-- The oldest entry of a thread's forwarding table becomes four, where there is room for them. -/
def State.splitLocal (s : State) (tid : Nat) (order : List Nat) : State :=
  s.mapThreads (fun t =>
    if t.tid ≠ tid ∨ 13 < t.fwd.length then t
    else
      match t.fwd with
      | x :: rest =>
        if x.bytes.length ≠ 32 then t
        else
          match wordsIn order x.bytes with
          | none => t
          | some l => { t with fwd := l.map (fun y => ⟨x.id, x.addr + y.1, y.2⟩) ++ rest }
      | [] => t)

/-! ## Placing one instruction (log entry 1) -/

/-- The words of an instruction as they are stored, and zeros up to the longest instruction. -/
def fetchBytes (nbits w : Nat) : List Byte := leBytes 16 (w % 2 ^ nbits)

/-- The buffer table entry of the placed code: one frame of core 0's channel. -/
def placedEntry : BufEntry :=
  { gen := 0, owner := 0, length := 65536, count := 1, first := 0, gran := 2, imode := 0, pinned := false, replica := false,
    leased := false, tier := 0, at_ := false, wr := false, rd := true, peer := 0, mirror := 0 }

def placedPme : Pme := { frame := 0, tier := 0, pin := false, wb := false, at_ := false, wr := false, rd := true, core := 0 }

/-- A thread of a workgroup of one at core 0 of a die that runs, about to execute the bytes given. -/
def State.placeThread (s : State) (bs : List Byte) : State :=
  let t : Thread := { Thread.blank with tid := 1, place := .slot 0, status := .ready, pc := handleOf 1 0, nbud := 32, vbud := 8 }
  let c := s.core 0
  let q := s.port 0
  ({ s with threads := t :: s.threads.filter (fun u => u.tid != 1), issuing := [1], group := [0], groupCore := 0,
            nextTid := max s.nextTid 2, mem := memWrite s.mem 0 bs,
            conf := { s.conf with admitted := s.conf.admitted ||| 1, fenced := s.conf.fenced &&& 0xFE } }.putCore
      { c with desc := (0, 1, placedEntry) :: c.desc }).putPort
    { q with mtlb := (⟨0, 1, 0⟩, placedPme) :: q.mtlb }

/-! ## What the module does of itself -/

/-- What a thread's status and wait let happen. -/
def Thread.turns (t : Thread) : List Turn :=
  (if t.fwd.isEmpty then [] else [.localWrite t.tid]) ++
    (if t.writes.isEmpty then [] else [.event (.leasedWriteComplete t.tid), .event (.writeDrainInterlock t.tid)]) ++
    (match t.place with
     | .landing _ => [.event (.landedThreadMove t.core t.lane)]
     | .staged _ _ | .spawnStaged _ _ _ _ | .area _ _ =>
       (List.range 4).map (fun k => Turn.event (.landingSlotRefill t.core t.lane k)) ++
         [.event (.holdTimeout t.core t.tid), .event (.overflowEntryFree t.core)]
     | _ => []) ++
    (match t.wait with
     | .descriptor _ _ => [.event (.descriptorCacheFill t.tid)]
     | .walk core key _ _ => [.event (.pageMapWalk core key)]
     | .sleep => [.event (.sleepWake t.tid)]
     | _ => [])

/-- Steps of a sequencer, and what a workgroup's threads wait for together. -/
def State.wgTurns (s : State) (w : Workgroup) : List Turn :=
  [.event (.kStep w.wid), .event (.issuerExitCommit w.wid)] ++
    (s.allThreads.filter (fun t => w.is t && !t.spawned)).flatMap (fun t => match t.wait with
      | .join _ _ => [Turn.event (.joinInstance w.wid t.pc.toNat)]
      | .bar n _ _ => [.event (.barrierPhaseEnd w.wid n)]
      | .gbar =>
        ((s.wgs.find? (fun x => x.launch == w.launch && x.gang == w.gang && x.wgpos == 0)).map
          (fun x => Turn.event (.barrierPhaseEnd x.wid 16))).toList
      | _ => [])

def PortSt.turns (q : PortSt) : List Turn :=
  q.walking.map (fun x => Turn.event (.pageMapWalk q.id x.1)) ++ (if q.unposted.isEmpty then [] else [.event (.faultPostRetry q.id)]) ++
    (if q.leases.isEmpty && q.ackHold.isEmpty then [] else [.event (.leaseExpiry q.id)]) ++
    q.mscWait.map (fun x => .event (.memorySideCacheAccess q.id x.1)) ++ q.rowHold.map (fun x => .event (.throttledActivation q.id x.1))

def EngJob.turns (plaza : Nat) (j : EngJob) : List Turn :=
  [.event (.chainEntry plaza j.key), .event (.condEvaluate plaza j.key), .event (.condTimeout plaza j.key)] ++
    (List.range j.idxs.length).map (fun k => .event (.dedupeFetch plaza j.key k))

def PlazaSt.turns (p : PlazaSt) : List Turn :=
  p.spawnQ.map (fun t => Turn.event (.spawnQueuePlace p.id t.lane)) ++
    (if p.jobs.isEmpty then [] else .event (.engineJobStart p.id) :: p.jobs.flatMap (fun j => j.turns p.id))

def DieSt.turns (d : DieSt) : List Turn :=
  (if d.queue.isEmpty then [] else [.event (.gangPlacement d.id), .event (.relocation d.id)]) ++
    d.syeFull.map (fun x => .event (.syeOverflow d.id x)) ++ [.event (.rowWindow d.id)]

def HubSt.turns (h : HubSt) : List Turn :=
  (if h.notices.isEmpty then [] else [.notice h.id]) ++ .event (.pageCopyDone h.id) :: h.rings.map (fun r => .event (.moveRequestTake h.id r.1))

/-- What a link does: the next flit of each direction, and the answer to a NAK. -/
def Link.turns (l : Link) : List Turn :=
  [true, false].flatMap (fun a => [.resend l.id a, .flit l.id a])

/-- A context that waits in the link for a core. -/
def Msg.turns (m : Msg) : List Turn :=
  if !m.inLink then []
  else
    match m.body with
    | .context tid => [.event (.holdTimeout m.dst tid), .event (.overflowEntryFree m.dst)]
    | .spawn t _ _ => [.event (.holdTimeout m.dst t.tid), .event (.overflowEntryFree m.dst)]
    | _ => []

def Job.turns (j : Job) : List Turn :=
  if j.stage = 4 then []
  else
    [.event (.phaseStart j.num), .event (.graphStart j.num), .event (.jobCompletion j.num)] ++
      j.tcbs.flatMap (fun t => if t.complete then [] else
        [Turn.event (.launchCompletion j.num t.index)] ++ (if t.cancel then [.event (.launchCancellation j.num t.index)] else []))

def Gang.turns (g : Gang) : List Turn := [.event (.gangRetire g.launch g.gang), .event (.gangRestore g.launch g.gang)]

/-- What the module can do of itself in a state besides issuing; an event whose condition does not hold changes nothing. -/
def State.candidates (s : State) : List Turn :=
  if !s.conf.booted then [.event (.coldBoot defaultBoot)]
  else
    s.allThreads.flatMap Thread.turns ++ s.net.flatMap Msg.turns ++ s.links.flatMap Link.turns ++
      s.net.zipIdx.map (fun x => .event (deliveryOf x.1 x.2)) ++ s.wgs.flatMap s.wgTurns ++
      s.plazas.flatMap PlazaSt.turns ++ s.ports.flatMap PortSt.turns ++ s.dies.flatMap DieSt.turns ++ s.hubs.toList.flatMap HubSt.turns ++
      s.gs.gangs.flatMap Gang.turns ++ s.gs.jobs.flatMap Job.turns ++
      (match s.mgmt.mapOut with | some (stack, layer, _) => [.event (.layerMapOut stack layer)] | none => []) ++
      (match s.mgmt.clockTo with | some step => [.clock step] | none => []) ++ [.event .readyHandOn]

/-- A thread that makes its core select: READY, in its handler, or in `YIELD` to the next cc (R110). -/
def Thread.wantsIssue (t : Thread) : Bool :=
  t.slotNo.isSome && (t.status == .ready || t.status == .handler || t.wait == .yield)

/-- The running cores with such a thread. -/
def State.issueCores (s : State) : List Nat :=
  ((s.threads.filter Thread.wantsIssue).map Thread.core).eraseDups.filter (fun c => !(s.core c).stopped && s.dieUp (dieOf c))

/-- The core that selects next: the cores take turns. -/
def State.nextCore (s : State) : Option Nat :=
  match s.issueCores.filter (fun c => s.groupCore < c) with
  | [] => s.issueCores.min?
  | l => l.min?

/-- The DTCs move on by 1 ns for every four cc of the first of the issuing cores (log entry 1). -/
def State.tick (s : State) (core : Nat) : State :=
  if s.issueCores.min? = some core ∧ (s.core core).ccnt.toNat % 4 = 3 then ({ s with dtc := s.dtc.map (fun t => t + 1) } : State).endWindows else s

end Sys2Proof.Machine
end

