-- ==== Sys2Proof/Machine/Dispatch.lean ====
section
/-! DEFINITION. One arm per instruction: each is one call of its meaning. -/

namespace Sys2Proof.Machine

def exec (i : Instr) (s : State) : Host.Outcome State Fault Refusal :=
  match i with
  | .add f => Sys2Proof.Machine.execAdd f s
  | .sub f => Sys2Proof.Machine.execSub f s
  | .mul f => Sys2Proof.Machine.execMul f s
  | .mulh f => Sys2Proof.Machine.execMulh f s
  | .div f => Sys2Proof.Machine.execDiv f s
  | .rem f => Sys2Proof.Machine.execRem f s
  | .mad f => Sys2Proof.Machine.execMad f s
  | .neg f => Sys2Proof.Machine.execNeg f s
  | .abs f => Sys2Proof.Machine.execAbs f s
  | .min f => Sys2Proof.Machine.execMin f s
  | .max f => Sys2Proof.Machine.execMax f s
  | .and f => Sys2Proof.Machine.execAnd f s
  | .or f => Sys2Proof.Machine.execOr f s
  | .xor f => Sys2Proof.Machine.execXor f s
  | .andn f => Sys2Proof.Machine.execAndn f s
  | .shl f => Sys2Proof.Machine.execShl f s
  | .shr f => Sys2Proof.Machine.execShr f s
  | .sra f => Sys2Proof.Machine.execSra f s
  | .rol f => Sys2Proof.Machine.execRol f s
  | .clz f => Sys2Proof.Machine.execClz f s
  | .ctz f => Sys2Proof.Machine.execCtz f s
  | .popc f => Sys2Proof.Machine.execPopc f s
  | .brev f => Sys2Proof.Machine.execBrev f s
  | .bfx f => Sys2Proof.Machine.execBfx f s
  | .bfi f => Sys2Proof.Machine.execBfi f s
  | .sext f => Sys2Proof.Machine.execSext f s
  | .zext f => Sys2Proof.Machine.execZext f s
  | .cmp f => Sys2Proof.Machine.execCmp f s
  | .sel f => Sys2Proof.Machine.execSel f s
  | .mov f => Sys2Proof.Machine.execMov f s
  | .lim f => Sys2Proof.Machine.execLim f s
  | .plog f => Sys2Proof.Machine.execPlog f s
  | .hmk f => Sys2Proof.Machine.execHmk f s
  | .hadd f => Sys2Proof.Machine.execHadd f s
  | .hidx f => Sys2Proof.Machine.execHidx f s
  | .hofs f => Sys2Proof.Machine.execHofs f s
  | .hchk f => Sys2Proof.Machine.execHchk f s
  | .bra f => Sys2Proof.Machine.execBra f s
  | .brp f => Sys2Proof.Machine.execBrp f s
  | .call f => Sys2Proof.Machine.execCall f s
  | .callx f => Sys2Proof.Machine.execCallx f s
  | .ret f => Sys2Proof.Machine.execRet f s
  | .exit f => Sys2Proof.Machine.execExit f s
  | .rjoin f => Sys2Proof.Machine.execRjoin f s
  | .loop f => Sys2Proof.Machine.execLoop f s
  | .nop f => Sys2Proof.Machine.execNop f s
  | .bkpt f => Sys2Proof.Machine.execBkpt f s
  | .rdsp f => Sys2Proof.Machine.execRdsp f s
  | .cntrd f => Sys2Proof.Machine.execCntrd f s
  | .shfl f => Sys2Proof.Machine.execShfl f s
  | .vote f => Sys2Proof.Machine.execVote f s
  | .ballot f => Sys2Proof.Machine.execBallot f s
  | .gscan f => Sys2Proof.Machine.execGscan f s
  | .ld f => Sys2Proof.Machine.execLd f s
  | .st f => Sys2Proof.Machine.execSt f s
  | .ldk f => Sys2Proof.Machine.execLdk f s
  | .ldl f => Sys2Proof.Machine.execLdl f s
  | .stl f => Sys2Proof.Machine.execStl f s
  | .prf f => Sys2Proof.Machine.execPrf f s
  | .qpush f => Sys2Proof.Machine.execQpush f s
  | .qpop f => Sys2Proof.Machine.execQpop f s
  | .qcnt f => Sys2Proof.Machine.execQcnt f s
  | .bankm f => Sys2Proof.Machine.execBankm f s
  | .fence f => Sys2Proof.Machine.execFence f s
  | .atom f => Sys2Proof.Machine.execAtom f s
  | .atomf f => Sys2Proof.Machine.execAtomf f s
  | .cas f => Sys2Proof.Machine.execCas f s
  | .lres f => Sys2Proof.Machine.execLres f s
  | .scond f => Sys2Proof.Machine.execScond f s
  | .waitc f => Sys2Proof.Machine.execWaitc f s
  | .sleep f => Sys2Proof.Machine.execSleep f s
  | .yield f => Sys2Proof.Machine.execYield f s
  | .bar f => Sys2Proof.Machine.execBar f s
  | .gbar f => Sys2Proof.Machine.execGbar f s
  | .pbari f => Sys2Proof.Machine.execPbari f s
  | .pbara f => Sys2Proof.Machine.execPbara f s
  | .pbarw f => Sys2Proof.Machine.execPbarw f s
  | .migr f => Sys2Proof.Machine.execMigr f s
  | .spawn f => Sys2Proof.Machine.execSpawn f s
  | .launch f => Sys2Proof.Machine.execLaunch f s
  | .home f => Sys2Proof.Machine.execHome f s
  | .cancel f => Sys2Proof.Machine.execCancel f s
  | .cwait f => Sys2Proof.Machine.execCwait f s
  | .nbpost f => Sys2Proof.Machine.execNbpost f s
  | .nbload f => Sys2Proof.Machine.execNbload f s
  | .nbview f => Sys2Proof.Machine.execNbview f s
  | .nbmask f => Sys2Proof.Machine.execNbmask f s
  | .nbgen f => Sys2Proof.Machine.execNbgen f s
  | .fadd f => Sys2Proof.Machine.execFadd f s
  | .fsub f => Sys2Proof.Machine.execFsub f s
  | .fmul f => Sys2Proof.Machine.execFmul f s
  | .fma f => Sys2Proof.Machine.execFma f s
  | .fdiv f => Sys2Proof.Machine.execFdiv f s
  | .fsqrt f => Sys2Proof.Machine.execFsqrt f s
  | .frcp f => Sys2Proof.Machine.execFrcp f s
  | .frsq f => Sys2Proof.Machine.execFrsq f s
  | .fex2 f => Sys2Proof.Machine.execFex2 f s
  | .flg2 f => Sys2Proof.Machine.execFlg2 f s
  | .fmin f => Sys2Proof.Machine.execFmin f s
  | .fmax f => Sys2Proof.Machine.execFmax f s
  | .fcmp f => Sys2Proof.Machine.execFcmp f s
  | .fcls f => Sys2Proof.Machine.execFcls f s
  | .fcvt f => Sys2Proof.Machine.execFcvt f s
  | .icvf f => Sys2Proof.Machine.execIcvf f s
  | .fcvi f => Sys2Proof.Machine.execFcvi f s
  | .vld f => Sys2Proof.Machine.execVld f s
  | .vst f => Sys2Proof.Machine.execVst f s
  | .vldl f => Sys2Proof.Machine.execVldl f s
  | .vstl f => Sys2Proof.Machine.execVstl f s
  | .vadd f => Sys2Proof.Machine.execVadd f s
  | .vsub f => Sys2Proof.Machine.execVsub f s
  | .vmul f => Sys2Proof.Machine.execVmul f s
  | .vfma f => Sys2Proof.Machine.execVfma f s
  | .vmin f => Sys2Proof.Machine.execVmin f s
  | .vmax f => Sys2Proof.Machine.execVmax f s
  | .vabs f => Sys2Proof.Machine.execVabs f s
  | .vred f => Sys2Proof.Machine.execVred f s
  | .vdot f => Sys2Proof.Machine.execVdot f s
  | .vbcs f => Sys2Proof.Machine.execVbcs f s
  | .vext f => Sys2Proof.Machine.execVext f s
  | .vins f => Sys2Proof.Machine.execVins f s
  | .vprm f => Sys2Proof.Machine.execVprm f s
  | .vcvt f => Sys2Proof.Machine.execVcvt f s
  | .vqnt f => Sys2Proof.Machine.execVqnt f s
  | .vdqn f => Sys2Proof.Machine.execVdqn f s
  | .vtag f => Sys2Proof.Machine.execVtag f s
  | .vcmp f => Sys2Proof.Machine.execVcmp f s
  | .vsel f => Sys2Proof.Machine.execVsel f s
  | .fmtw f => Sys2Proof.Machine.execFmtw f s
  | .fmtr f => Sys2Proof.Machine.execFmtr f s
  | .tdef f => Sys2Proof.Machine.execTdef f s
  | .tzero f => Sys2Proof.Machine.execTzero f s
  | .tld f => Sys2Proof.Machine.execTld f s
  | .tst f => Sys2Proof.Machine.execTst f s
  | .tcvt f => Sys2Proof.Machine.execTcvt f s
  | .tget f => Sys2Proof.Machine.execTget f s
  | .tset f => Sys2Proof.Machine.execTset f s
  | .ufdef f => Sys2Proof.Machine.execUfdef f s
  | .mma f => Sys2Proof.Machine.execMma f s
  | .mmau f => Sys2Proof.Machine.execMmau f s
  | .mmas f => Sys2Proof.Machine.execMmas f s
  | .mtrans f => Sys2Proof.Machine.execMtrans f s
  | .mperm f => Sys2Proof.Machine.execMperm f s
  | .mrsum f => Sys2Proof.Machine.execMrsum f s
  | .mscale f => Sys2Proof.Machine.execMscale f s
  | .mcommit f => Sys2Proof.Machine.execMcommit f s
  | .mwait f => Sys2Proof.Machine.execMwait f s
  | .mstat f => Sys2Proof.Machine.execMstat f s
  | .mclear f => Sys2Proof.Machine.execMclear f s
  | .mresume f => Sys2Proof.Machine.execMresume f s
  | .mpark f => Sys2Proof.Machine.execMpark f s
  | .munpark f => Sys2Proof.Machine.execMunpark f s
  | .sccfg f => Sys2Proof.Machine.execSccfg f s
  | .sctag f => Sys2Proof.Machine.execSctag f s
  | .scinv f => Sys2Proof.Machine.execScinv f s
  | .scstat f => Sys2Proof.Machine.execScstat f s
  | .cpygo f => Sys2Proof.Machine.execCpygo f s
  | .engwait f => Sys2Proof.Machine.execEngwait f s
  | .engstat f => Sys2Proof.Machine.execEngstat f s
  | .engcan f => Sys2Proof.Machine.execEngcan f s
  | .cbrd f => Sys2Proof.Machine.execCbrd f s
  | .cbrst f => Sys2Proof.Machine.execCbrst f s
  | .trap f => Sys2Proof.Machine.execTrap f s
  | .rte f => Sys2Proof.Machine.execRte f s
  | .sysrd f => Sys2Proof.Machine.execSysrd f s
  | .syswr f => Sys2Proof.Machine.execSyswr f s
  | .idle f => Sys2Proof.Machine.execIdle f s
  | .issueGroupSelect core => Sys2Proof.Machine.execIssueGroupSelect core s
  | .writeDrainInterlock tid => Sys2Proof.Machine.execWriteDrainInterlock tid s
  | .contextArrival k => Sys2Proof.Machine.execContextArrival k s
  | .holdTimeout core tid => Sys2Proof.Machine.execHoldTimeout core tid s
  | .overflowEntryFree core => Sys2Proof.Machine.execOverflowEntryFree core s
  | .landingSlotRefill core lane slot => Sys2Proof.Machine.execLandingSlotRefill core lane slot s
  | .landedThreadMove core lane => Sys2Proof.Machine.execLandedThreadMove core lane s
  | .contextAcceptance k => Sys2Proof.Machine.execContextAcceptance k s
  | .spawnMessage k => Sys2Proof.Machine.execSpawnMessage k s
  | .spawnQueuePlace plaza lane => Sys2Proof.Machine.execSpawnQueuePlace plaza lane s
  | .remoteReadRequest k => Sys2Proof.Machine.execRemoteReadRequest k s
  | .storeRequest k => Sys2Proof.Machine.execStoreRequest k s
  | .atomicRequest k => Sys2Proof.Machine.execAtomicRequest k s
  | .queueEntry k => Sys2Proof.Machine.execQueueEntry k s
  | .leaseFillRequest k => Sys2Proof.Machine.execLeaseFillRequest k s
  | .monitorArm k => Sys2Proof.Machine.execMonitorArm k s
  | .hubRequest k => Sys2Proof.Machine.execHubRequest k s
  | .revokeReply k => Sys2Proof.Machine.execRevokeReply k s
  | .readData k => Sys2Proof.Machine.execReadData k s
  | .atomicResult k => Sys2Proof.Machine.execAtomicResult k s
  | .writeAcknowledgement k => Sys2Proof.Machine.execWriteAcknowledgement k s
  | .leasedWriteComplete tid => Sys2Proof.Machine.execLeasedWriteComplete tid s
  | .leaseExpiry core => Sys2Proof.Machine.execLeaseExpiry core s
  | .grant k => Sys2Proof.Machine.execGrant k s
  | .credit k => Sys2Proof.Machine.execCredit k s
  | .revoke k => Sys2Proof.Machine.execRevoke k s
  | .invalidation k => Sys2Proof.Machine.execInvalidation k s
  | .invalidationAnswer k => Sys2Proof.Machine.execInvalidationAnswer k s
  | .barrierRequest k => Sys2Proof.Machine.execBarrierRequest k s
  | .barrierRelease k => Sys2Proof.Machine.execBarrierRelease k s
  | .boardRequest k => Sys2Proof.Machine.execBoardRequest k s
  | .boardReply k => Sys2Proof.Machine.execBoardReply k s
  | .wake k => Sys2Proof.Machine.execWake k s
  | .kick k => Sys2Proof.Machine.execKick k s
  | .gangSaveNotice k => Sys2Proof.Machine.execGangSaveNotice k s
  | .savedNotice k => Sys2Proof.Machine.execSavedNotice k s
  | .exitNotice k => Sys2Proof.Machine.execExitNotice k s
  | .wbNotice k => Sys2Proof.Machine.execWbNotice k s
  | .dieLossNotice k => Sys2Proof.Machine.execDieLossNotice k s
  | .engineData k => Sys2Proof.Machine.execEngineData k s
  | .sectorData k => Sys2Proof.Machine.execSectorData k s
  | .sectorWriteBackAck k => Sys2Proof.Machine.execSectorWriteBackAck k s
  | .flitReceive link flit => Sys2Proof.Machine.execFlitReceive link flit s
  | .nak link => Sys2Proof.Machine.execNak link s
  | .linkRetrain link succeeds => Sys2Proof.Machine.execLinkRetrain link succeeds s
  | .linkDown link => Sys2Proof.Machine.execLinkDown link s
  | .linkRateStep link up => Sys2Proof.Machine.execLinkRateStep link up s
  | .frequencyChange clock => Sys2Proof.Machine.execFrequencyChange clock s
  | .thermalStep die => Sys2Proof.Machine.execThermalStep die s
  | .thermalTrip die => Sys2Proof.Machine.execThermalTrip die s
  | .descriptorCacheFill tid => Sys2Proof.Machine.execDescriptorCacheFill tid s
  | .pageMapWalk core key => Sys2Proof.Machine.execPageMapWalk core key s
  | .faultPostRetry core => Sys2Proof.Machine.execFaultPostRetry core s
  | .moveRequestTake hub asid => Sys2Proof.Machine.execMoveRequestTake hub asid s
  | .pageCopyDone hub => Sys2Proof.Machine.execPageCopyDone hub s
  | .memorySideCacheAccess core index => Sys2Proof.Machine.execMemorySideCacheAccess core index s
  | .rowWindow die => Sys2Proof.Machine.execRowWindow die s
  | .throttledActivation core row => Sys2Proof.Machine.execThrottledActivation core row s
  | .layerEvaluation stack => Sys2Proof.Machine.execLayerEvaluation stack s
  | .layerMapOut stack layer => Sys2Proof.Machine.execLayerMapOut stack layer s
  | .jobSubmit hub record => Sys2Proof.Machine.execJobSubmit hub record s
  | .jobCompletion job => Sys2Proof.Machine.execJobCompletion job s
  | .phaseStart job => Sys2Proof.Machine.execPhaseStart job s
  | .graphStart job => Sys2Proof.Machine.execGraphStart job s
  | .launchCompletion job tcb => Sys2Proof.Machine.execLaunchCompletion job tcb s
  | .readyHandOn => Sys2Proof.Machine.execReadyHandOn s
  | .gangPlacement die => Sys2Proof.Machine.execGangPlacement die s
  | .relocation die => Sys2Proof.Machine.execRelocation die s
  | .gangRetire launch gang => Sys2Proof.Machine.execGangRetire launch gang s
  | .launchCancellation job tcb => Sys2Proof.Machine.execLaunchCancellation job tcb s
  | .schedulerTakeover => Sys2Proof.Machine.execSchedulerTakeover s
  | .gangRestore launch gang => Sys2Proof.Machine.execGangRestore launch gang s
  | .joinInstance w pc => Sys2Proof.Machine.execJoinInstance w pc s
  | .barrierPhaseEnd w n => Sys2Proof.Machine.execBarrierPhaseEnd w n s
  | .sleepWake tid => Sys2Proof.Machine.execSleepWake tid s
  | .kStep w => Sys2Proof.Machine.execKStep w s
  | .issuerExitCommit w => Sys2Proof.Machine.execIssuerExitCommit w s
  | .engineJobStart plaza => Sys2Proof.Machine.execEngineJobStart plaza s
  | .chainEntry plaza job => Sys2Proof.Machine.execChainEntry plaza job s
  | .condEvaluate plaza job => Sys2Proof.Machine.execCondEvaluate plaza job s
  | .condTimeout plaza job => Sys2Proof.Machine.execCondTimeout plaza job s
  | .dedupeFetch plaza job position => Sys2Proof.Machine.execDedupeFetch plaza job position s
  | .syeOverflow die object => Sys2Proof.Machine.execSyeOverflow die object s
  | .inval c => Sys2Proof.Machine.execInval c s
  | .faultdone c => Sys2Proof.Machine.execFaultdone c s
  | .regasid c => Sys2Proof.Machine.execRegasid c s
  | .track c => Sys2Proof.Machine.execTrack c s
  | .pool c => Sys2Proof.Machine.execPool c s
  | .faultq c => Sys2Proof.Machine.execFaultq c s
  | .suspend c => Sys2Proof.Machine.execSuspend c s
  | .resume c => Sys2Proof.Machine.execResume c s
  | .lease c => Sys2Proof.Machine.execLease c s
  | .movering c => Sys2Proof.Machine.execMovering c s
  | .peertab c => Sys2Proof.Machine.execPeertab c s
  | .imageLoad asid image => Sys2Proof.Machine.execImageLoad asid image s
  | .imageUnload asid code => Sys2Proof.Machine.execImageUnload asid code s
  | .cxlMemAccess acc => Sys2Proof.Machine.execCxlMemAccess acc s
  | .cxlSnoop hub address => Sys2Proof.Machine.execCxlSnoop hub address s
  | .portFailure hub => Sys2Proof.Machine.execPortFailure hub s
  | .portTrained port => Sys2Proof.Machine.execPortTrained port s
  | .peerAcknowledgement k code data => Sys2Proof.Machine.execPeerAcknowledgement k code data s
  | .peerMessageIn hub m => Sys2Proof.Machine.execPeerMessageIn hub m s
  | .rodTimeout port peer => Sys2Proof.Machine.execRodTimeout port peer s
  | .coldBoot b => Sys2Proof.Machine.execColdBoot b s
  | .spdmRequest block => Sys2Proof.Machine.execSpdmRequest block s
  | .firmwareUpdate image => Sys2Proof.Machine.execFirmwareUpdate image s
  | .activateFirmware signatureGood => Sys2Proof.Machine.execActivateFirmware signatureGood s
  | .powerCapEffecter c => Sys2Proof.Machine.execPowerCapEffecter c s
  | .heartbeatCheck beat => Sys2Proof.Machine.execHeartbeatCheck beat s
  | .dieFatalError die cause => Sys2Proof.Machine.execDieFatalError die cause s
  | .hubFatalError hub cause => Sys2Proof.Machine.execHubFatalError hub cause s
  | .hbmChannelRetrain core succeeds => Sys2Proof.Machine.execHbmChannelRetrain core succeeds s
  | .cxlCacheCompletion k => Sys2Proof.Machine.execCxlCacheCompletion k s
  | .parkedThreadSwapOut tid => Sys2Proof.Machine.execParkedThreadSwapOut tid s

end Sys2Proof.Machine
end

