-- ==== Sys2Proof/Machine/Turns.lean ====
section
/-! DEFINITION. One turn of the module (log entry 1): a thread of an issue group executes, an event happens, time passes. With nothing on
the agenda the first candidate that changes the state acts; where none does, a core selects; where no thread is ready, time passes. -/

namespace Sys2Proof.Machine

/-! ## Ahead of a load (R49, R360; log entry 30) -/

/-- Operations that a thread may execute while the bytes of a load are outstanding: on integers, floats and predicates, the branches, and the plain
stores. Before any other it waits. -/
def aheadOp (op : Nat) (f : Fields) : Bool :=
  (0x01 ≤ op && op ≤ 0x31) || op == 0x38 || (0x80 ≤ op && op ≤ 0x92) ||
    ((op == 0x51 || op == 0x54 || op == 0xA1 || op == 0xA3) && ordOf f != 2)

/-- A scalar or vector register, or a position of the queue, that a load has still to fill. -/
def Late.pends (l : Late) (o : Opnd) : Bool :=
  match l.cont, o with
  | .vload v _ _ _, .v k => v == k
  | .load d _ _, .n k => d == .n k
  | .load _ _ _, .q k => k.val == l.depth
  | _, _ => false

/-- An instruction reads or writes what a load has still to fill. -/
def Late.touches (l : Late) (op : Nat) (f : Fields) : Bool :=
  let dst : Bool := match l.cont with | .vload v _ _ _ => f.dst == .v v | c => (match f.dst with | .n k => c.dst == .n k | _ => false)
  match form op f.func f.imm11 f.ext f.len with
  | none => true
  | some g =>
    dst || [(g.a, f.a, 0), (g.b, f.b, 1), (g.c, f.c, 2)].any (fun x => x.1 != .unread && replaced g f.len != x.2.2 && l.pends x.2.1)

/-- The thread has gone on behind an instruction, with no fault, no wait and no write to where the load reads. -/
def Late.passes (l : Late) (s s1 : State) : Bool :=
  let (t, u) := (s.th, s1.th)
  u.tid == t.tid && u.hnd == t.hnd && u.status == u.running && u.wait == .none && u.late == t.late &&
    u.writes.all (fun w => t.writes.contains w || indexOf w.handle != indexOf l.h || offsetOf w.handle + 32 ≤ offsetOf l.h ||
      offsetOf l.h + 32 ≤ offsetOf w.handle)

/-- The instruction of a thread that has gone on behind a load whose bytes are outstanding: it executes if it can complete without them; else the
thread waits for them in front of it. -/
def execAhead (l : Late) (i : Instr) (s : State) : Host.Outcome State Fault Refusal :=
  let wait := Host.Outcome.next (block .waiting .late s)
  match opFields i with
  | none => wait
  | some (op, f) =>
    if !aheadOp op f || l.touches op f then wait
    else
      match exec i s with
      | .next s1 =>
        if l.passes s s1 then
          .next (s1.onTh (fun t => { t with late := some { l with depth := l.depth + if resultOf op f = .q then 1 else 0 } }))
        else wait
      | x => x

/-- A plain load, `LDK` or `VLD` stands at a waiting thread's pc. -/
def State.atPlainLoad (s : State) (t : Thread) : Bool :=
  match fetch { s with th := t } with
  | .instr i => (match opFields i with | some (op, f) => (op == 0x50 || op == 0x52 || op == 0xA0) && ordOf f != 1 | none => false)
  | _ => false

/-- A thread that waits for the bytes of a plain load, which no W register takes, goes on behind it. -/
def State.runAhead (s : State) (tid : Nat) : State :=
  match s.thread? tid with
  | none => s
  | some t =>
    match t.wait with
    | .answer c =>
      let able : Bool := match c with | .load d _ _ => !dstIsW d | .vload _ _ _ _ => true | _ => false
      if !able ∨ t.status ≠ .waiting ∨ t.late.isSome ∨ t.slotNo.isNone ∨ !s.atPlainLoad t then s
      else
        s.resume { c.finish (List.replicate c.size 0) t with
          late := some { cont := c, h := t.pendH, depth := 0, pc := t.pc, q := t.q, n := t.n, v := t.v, vtag := t.vtag, p := t.p, fpflags := t.fpflags } }
    | _ => s

/-! ## One turn -/

/-- The executing thread fetches and executes one instruction (R61). -/
def runThread (s : State) : Host.Outcome State Fault Refusal :=
  match fetchStep s, s.th.late with
  | .error s1, none => .next (putBack s1)
  | .error _, some _ => .next (putBack (block .waiting .late s))
  | .ok (i, s0), late =>
    match (match late with | some l => execAhead l i s0 | none => exec i s0) with
    | .next s1 => .next (putBack s1)
    | .fault r => .fault r
    | .refused r => .refused r

/-- A member of the present issue group, which may have left since the group issued. -/
def runMember (tid : Nat) (rest : List Nat) (s : State) : Host.Outcome State Fault Refusal :=
  match takeThread tid s with
  | some s1 => runThread s1
  | none => .next (if rest.isEmpty then endCc s.groupCore { s with issuing := [] } else { s with issuing := rest })

/-- The group that a core would select now has a thread in it (R21). -/
def State.selects (s : State) (core tid : Nat) : Bool :=
  match selectGroup s core with
  | some (_, g, _) => g.any (fun t => t.tid == tid)
  | none => false

/-- A turn that the agenda names. -/
def runTurn (t : Turn) (s : State) : Host.Outcome State Fault Refusal :=
  match t with
  | .event i => if (opFields i).isSome then .next s else exec i s
  | .issue tid =>
    match s.thread? tid with
    | some u => if s.selects u.core tid then exec (.issueGroupSelect u.core) s else .next s
    | none => .next s
  | .time die ns => .next (s.passTime die ns)
  | .cycles core cc => .next (s.passCycles core cc)
  | .localWrite tid => .next (performLocal tid s).saveSweep
  | .splitStore k order => .next (s.splitStore k order)
  | .splitLocal tid order => .next (s.splitLocal tid order)
  | .notice hub => settled (noticeStep hub s)
  | .flit link fromA => execFlitReceive ⟨link, fromA⟩ ⟨true, 0⟩ s
  | .resend link fromA => execNak ⟨link, fromA⟩ s
  | .clock step => .next (moduleClock step s)
  | .upset kind core word => .next (s.upset kind core word)
  | .temperature die tenths => .next (s.setTemp die tenths)
  | .power watts => .next { s with mgmt := { s.mgmt with power := watts } }
  | .diePower die watts => .next (s.setDiePower die watts)
  | .coolant tenths => .next { s with mgmt := { s.mgmt with coolant := tenths } }
  | .runAhead tid => .next (s.runAhead tid)

/-- The outcome of a turn, if it changes anything. -/
def tryTurn (t : Turn) (s : State) : Option (Host.Outcome State Fault Refusal) :=
  match runTurn t s with
  | .next s1 => if s1 = s then none else some (.next s1)
  | x => some x

/-- The first of the turns that changes something. -/
def firstTurn (l : List Turn) (s : State) : Option (Host.Outcome State Fault Refusal) :=
  match l with
  | [] => none
  | t :: ts => match tryTurn t s with | some r => some r | none => firstTurn ts s

/-- One turn that the module chooses itself: what can happen besides issuing, else the next core selects, else time passes. -/
def autoStep (s : State) : Host.Outcome State Fault Refusal :=
  match firstTurn s.candidates s with
  | some r => r
  | none =>
    match s.nextCore with
    | some c => runTurn (.event (.issueGroupSelect c)) (s.tick c)
    | none => runTurn (.time 10 1) s

end Sys2Proof.Machine
end

