-- ==== Sys2Proof/Machine/Step.lean ====
section
/-! DEFINITION. One step of the module, and the placing of one instruction for the step to fetch. -/

namespace Sys2Proof.Machine

/-- One step: the rest of an issue group first, then the agenda, then what the module chooses (log entry 1). -/
def step (s : State) : Host.Outcome State Fault Refusal :=
  match s.issuing with
  | tid :: rest => runMember tid rest s
  | [] =>
    match s.agenda with
    | t :: ts => runTurn t { s with agenda := ts }
    | [] => autoStep s

/-- A loaded thread of one workgroup whose next instruction is the word given (log entry 1). -/
def State.withFetchWord (s : State) (nbits w : Nat) : State := s.placeThread (fetchBytes nbits w)

end Sys2Proof.Machine
end

