-- ==== Sys2Proof/Safety.lean ====
section
/-! DEFINITION. What a safe run is and when an instruction has its own effect, in the terms that claims use. -/

namespace Sys2Proof

/-- A run of `n` steps from `s` that meets no fault of the model and no refusal. -/
def Safety.safeRun (n : Nat) (s : Machine.State) : Prop := ∃ t : Machine.State, core.run n s = .next t

namespace Machine

/-- The checks of R61 steps 5 to 8 let the instruction execute where the thread stands: its guard is true, no check fails, and an anchored
instruction is at the thread's anchor (R25). -/
def mayRun (op : Nat) (f : Fields) (s : State) : Bool :=
  guardTrue s.th f.guard && (preCheck op f s).isNone && (!isAnchored op f || s.th.core == s.th.anchor)

/-- The state after a fault that the thread's handler takes: nothing but the thread changes (R198). -/
def State.trapped (s : State) (code info : Nat) (faddr : W64) : State :=
  { s with th := (s.th.faulted code info faddr).enterHandler }

/-- The valid format image that the executing thread has for Fk: at its anchor, or as it has come from there (R240). -/
def State.format (s : State) (k : Nat) : Option Narrow :=
  if s.th.spawned then none
  else if s.th.core = s.th.anchor then parseImage (vget s.wg.f k 0)
  else
    match s.th.images.find? (fun x => x.1.val == k) with
    | some x => parseImage x.2
    | none => none

/-- The format of a float TYPE or of `.xFk`, where the thread has it (R54, R223). -/
def State.fmtFor (s : State) (t : Nat) : Option Fmt := if isNarrow t then (s.format (t - 16)).map Narrow.fmt else some (stdFmt t)

/-- The bits that a vector access of a TYPE keeps (R249). -/
def State.keptBits (s : State) (t : Nat) : Option Nat :=
  if isNarrow t then (s.format (t - 16)).map (fun m => codesOf m.fmt.width * m.fmt.width) else some 256

/-- The format of a TYPE as a matrix instruction captures it at issue (R232). -/
def State.typeFor (s : State) (t : Nat) : Option Narrow :=
  if isNarrow t then parseImage (vget s.wg.f (t - 16) 0) else some Narrow.std

/-- A vector TYPE with its format, where the thread has it (R44, R229). -/
def State.vtyFor (s : State) (t : Nat) : Option VTy :=
  if isNarrow t then (s.format (t - 16)).map (fun m => ⟨t, m.fmt.width, codesOf m.fmt.width, m.fmt⟩)
  else some ⟨t, width t, 256 / width t, stdFmt t⟩

/-- The V registers of operands hold vectors of a TYPE (R50). -/
def State.tagged (s : State) (os : List Opnd) (t : Nat) : Prop := ∀ o ∈ os, (s.th.vtag[vReg o]).toNat = 0x20 + t

/-- The number that a finite value stands for. -/
def Val.rat (v : Val) : ℚ :=
  match v with
  | .fin neg m e => (if neg then -1 else 1) * (m : ℚ) * (2 : ℚ) ^ e
  | _ => 0

/-- The `n` bytes of a buffer from handle `h` stand at `a` in main memory, behind the port of the thread's own core, and an access with right
`kind` (0 read, 1 write, 2 atomic) is made there at once: the checks of R87 and of the page pass, its translation is at hand, and nothing holds
the page, the row or the bytes; no vector store of the thread is still on its way to that port (R250). -/
def State.atHand (s : State) (h : W64) (kind n a : Nat) : Prop :=
  ∃ (e e' : BufEntry) (key : PageKey) (p : Pme) (lam : Nat),
    lookupDesc s h = .hit e ∧ srcCheck e (offsetOf h) n kind = none ∧ e.tier ≤ 1 ∧ e.leased = false ∧ s.th.core < 512 ∧
    (homeLoc s.conf.lc e (offsetOf h)).home = s.th.core ∧ homeDead s e s.th.core = false ∧
    translate s s.th.core s.th.asid h kind n = .page e' key p lam ∧ e'.leased = false ∧ p.tier = 0 ∧ p.core = s.th.core ∧ p.wb = false ∧
    a = p.byteAt lam ∧ a / 2 ^ 31 = s.th.core ∧
    (s.port s.th.core).holdQ.any (fun x => x.1 == key) = false ∧ (s.port s.th.core).walking.any (fun x => x.1 == key) = false ∧
    s.ownOnWay s.th.core s.th.tid = false ∧ (s.port s.th.core).wbQ.any (fun x => x.1 == key) = false ∧ (s.port s.th.core).throttledIn (rowsAt a n) = none ∧ s.poisoned a n = false

/-- The same bytes lie at a home that runs, and the access passes the checks made where the thread stands (R87). -/
def State.homedAt (s : State) (h : W64) (kind n : Nat) (e : BufEntry) (home : Nat) : Prop :=
  lookupDesc s h = .hit e ∧ srcCheck e (offsetOf h) n kind = none ∧ (homeLoc s.conf.lc e (offsetOf h)).home = home ∧ homeDead s e home = false

/-- Local bytes of the thread's workgroup that a local access reaches where the thread stands: aligned, inside the allocation, in scratch banks;
`x` is their plaza byte address (R93). -/
def State.localHand (s : State) (o : Int) (n align x : Nat) : Prop :=
  o % (align : Int) = 0 ∧ 0 ≤ o ∧ o + n ≤ s.th.localLen ∧ s.th.spawned = false ∧ plazaOf s.th.core = plazaOf s.th.anchor ∧
  x = s.wg.lbase + o.toNat ∧ (s.plaza (plazaOf s.th.anchor)).badBank x n = none

/-- No core is saving a thread: no gang of this module, and none of a peer's that has sent its notice (R210). -/
def State.savesNothing (s : State) : Prop :=
  (∀ g ∈ s.gs.gangs, g.state ≠ .saving) ∧ ∀ m ∈ s.net, ∀ launch gang, m.savesGuests m.dst launch gang = false

/-- A thread that has a handler and is not in it (R198, R199). -/
def Thread.handles (t : Thread) : Bool := !t.hnd && t.trapbase != 0

end Machine

end Sys2Proof
end

