-- ==== Sys2Proof/Certificates/Slice0/Obligations.lean ====
section
/-! DEFINITION. The statements for the provers. A clause about an instruction says for which states and operands it completes (`mayRun`: the
checks of R61 steps 5 to 8 pass) and gives the whole next state; what the ends of instructions (`finishQ`, `finishP`, `finishV`, `finishU`)
and a handled fault (`State.trapped`) change, and what they leave, is said in statements of their own. -/

open Sys2Proof Sys2Proof.Machine

/-! ## Encoding -/

/-- Every well-formed instruction of the opcode map, at every value of every field it has, is read back from the bytes that stand for it,
whatever bytes follow (R38, R41, R42, R45, R46, R62). -/
def Obligations.EncodedInstructionsDecodeBack : Prop :=
  ∀ (i : Instr) (op : Nat) (f : Fields) (rest : List Byte), opFields i = some (op, f) → i.wf = true →
    decode (encode i ++ rest) = .ok (i, lenBytes f.len)

/-- Whatever bytes decode, the instruction is well-formed and is one of the opcode map's, and the length is the one that LEN gives; nothing is read
beyond it (R38, R61 step 4, R63). LEN 11 is no instruction (R38); a word whose LEN is allowed but whose slot no row of the opcode map names is
illegal at every value of its other fields (R62, R63). -/
def Obligations.DecodingRejectsAndChecks : Prop :=
  (∀ (bs : List Byte) (i : Instr) (n : Nat), decode bs = .ok (i, n) →
     i.wf = true ∧ (opFields i).isSome = true ∧ (n = 8 ∨ n = 12 ∨ n = 16) ∧ n ≤ bs.length ∧
     ∀ rest : List Byte, decode (bs.take n ++ rest) = .ok (i, n)) ∧
  ((∀ (b : Byte) (bs : List Byte), b.toNat % 4 = 3 → decode (b :: bs) = .error .invalidLength) ∧
   (∀ (len : Len) (w : Nat) (ext : W64),
     ([(0x00, 0x00), (0x0C, 0x0F), (0x25, 0x27), (0x2D, 0x2F), (0x3A, 0x3B), (0x3E, 0x3F), (0x44, 0x4F), (0x5B, 0x5F), (0x6D, 0x6F), (0x76, 0x77),
       (0x7D, 0x7F), (0x91, 0x9F), (0xB7, 0xB7), (0xBA, 0xBF), (0xCF, 0xCF), (0xD7, 0xD7), (0xDC, 0xDF), (0xE6, 0xEF), (0xF5, 0xFF)] :
         List (Nat × Nat)).any (fun r => r.1 ≤ w / 4 % 256 && w / 4 % 256 ≤ r.2) = true →
     decodeWord len w ext = .error .illegal))

/-- Words written out from the spec's encodings stand for the instructions that the spec gives them (R14, R43, R182, R201). -/
def Obligations.SpecWordsDecode : Prop :=
  decode (leBytes 8 0x0000040001310005 ++ leBytes 4 0x186A0) =
    .ok (.add ⟨.l96, ⟨false, 0⟩, .n 3, .n 3, .q 0, .q 0, 2, 0, 0x186A0⟩, 12) ∧
  decode (leBytes 8 0x02400000000008C0) = .ok (.bra ⟨.l64, ⟨false, 2⟩, .queue, .q 0, .q 0, .q 0, 0, 18, 0⟩, 8) ∧
  decode (leBytes 8 0x00000000072003C0) = .ok (.trap ⟨.l64, ⟨false, 0⟩, .queue, .imm 18, .q 0, .q 0, 0, 0, 0⟩, 8) ∧
  decode (leBytes 8 0x0800100000000722 ++ leBytes 8 0x0080200100020040) =
    .ok (.mma ⟨.l128, ⟨false, 1⟩, .queue, .q 0, .q 0, .q 0, 8, 64, 0x0080200100020040⟩, 16)

/-! ## A step runs the decoded instruction -/

/-- Where a thread is the next member of the present issue group, no earlier write of it has failed while it was saved, its fetch passes steps
1 to 3 of R61, and the bytes at its pc decode, the step executes exactly that instruction with that thread as the executing thread, in the state
that differs only in that the fetch has used its page (R299), and the thread then stands among the others again. A thread that has gone on behind a
load whose bytes are outstanding executes the instruction likewise, or waits in front of it for the bytes (R360): which it does is the model's
choice (log entry 30). -/
def Obligations.StepExecutesDecodedInstruction : Prop :=
  ∀ (s s1 : State) (tid : Nat) (rest : List Nat) (b0 bs : List Byte) (len : Len) (i : Instr) (n : Nat),
    s.issuing = tid :: rest → takeThread tid s = some s1 → s1.th.wcode = 0 → offsetOf s1.th.pc % 4 = 0 →
    findBytes s1 s1.th.asid s1.th.pc 4 = .bytes b0 → lenOf (leNat (b0.take 1)) = some len →
    findBytes s1 s1.th.asid s1.th.pc (lenBytes len) = .bytes bs → crosses (offsetOf s1.th.pc) (lenBytes len) = false →
    decode bs = .ok (i, n) →
    let s2 := s1.used s1.th.asid s1.th.pc
    (s1.th.late = none →
      step s = (match exec i s2 with
        | .next t => .next (putBack t)
        | .fault r => .fault r
        | .refused r => .refused r)) ∧
    (∀ l, s1.th.late = some l →
      step s = .next (putBack (block .waiting .late s2)) ∨
      ∃ (t : State) (pushed : Nat), exec i s2 = .next t ∧ t.th.status = t.th.running ∧ t.th.late = some l ∧
        step s = .next (putBack (t.onTh (fun u => { u with late := some { l with depth := l.depth + pushed } }))))

/-- The faults of the fetch, in the order of R61 steps 1 to 4: a pc that is no multiple of 4 is 0x0A, a failed read of the first word its own code, LEN
11 is 0x02, a crossed fetch boundary 0x03 (R39), a failed read of what follows the first word its own code, any other word that is no instruction
0x01. Each is taken at the pc, where a page that the fetch has looked up is used (R299); a page that is not present parks the thread there (R11). A
thread that was saved with a failed write takes that fault before its first instruction (R213). That the misaligned pc comes first in step 1, and that
step 1 reads the first word alone before step 3, are the model's choices (log entry 133); so is that a thread which has gone on behind a load waits
for its bytes before it takes a fault of the fetch (log entry 30). -/
def Obligations.FetchFaultsInOrder : Prop :=
  (∀ (s s1 : State) (tid : Nat) (rest : List Nat), s.issuing = tid :: rest → takeThread tid s = some s1 → s1.th.wcode = 0 → s1.th.late = none →
     let faults := fun (c : Nat) (h : W64) => step s = .next (putBack (raise c h (s1.used s1.th.asid s1.th.pc)))
     (offsetOf s1.th.pc % 4 ≠ 0 → step s = .next (putBack (raise 0x0A s1.th.pc s1))) ∧
     (offsetOf s1.th.pc % 4 = 0 →
       (∀ c, findBytes s1 s1.th.asid s1.th.pc 4 = .code c → faults c s1.th.pc) ∧
       (∀ home key pos, findBytes s1 s1.th.asid s1.th.pc 4 = .absent home key pos → step s = .next (putBack (parkFetch home key pos s1))) ∧
       (∀ b0, findBytes s1 s1.th.asid s1.th.pc 4 = .bytes b0 →
         (lenOf (leNat (b0.take 1)) = none → faults 0x02 0) ∧
         (∀ len, lenOf (leNat (b0.take 1)) = some len →
           (crosses (offsetOf s1.th.pc) (lenBytes len) = true → faults 0x03 0) ∧
           (crosses (offsetOf s1.th.pc) (lenBytes len) = false →
             (∀ c, findBytes s1 s1.th.asid s1.th.pc (lenBytes len) = .code c → faults c s1.th.pc) ∧
             (∀ bs, findBytes s1 s1.th.asid s1.th.pc (lenBytes len) = .bytes bs → decode bs = .error .illegal → faults 0x01 0)))))) ∧
  (∀ (s s1 : State) (tid : Nat) (rest : List Nat), s.issuing = tid :: rest → takeThread tid s = some s1 → s1.th.wcode ≠ 0 → s1.th.late = none →
     step s = .next (putBack (raise s1.th.wcode s1.th.wfail { s1 with th := { s1.th with wcode := 0, wfail := 0 } }))) ∧
  (∀ (s s1 : State) (tid : Nat) (rest : List Nat), s.issuing = tid :: rest → takeThread tid s = some s1 → s1.th.late ≠ none →
     (∀ i, fetch s1 ≠ .instr i) → step s = .next (putBack (block .waiting .late s1)))

/-- The placed instruction is the first that a step executes after reset, whatever instruction of the opcode map it is. No instruction, event or command
of the model ends in a fault of the model or a refusal: each answers a next state. Loads of bytes at hand, `LDK` of a cached line, `PRF`, `FENCE` with
nothing outstanding, and every float, conversion and vector instruction whose formats, tags and element numbers pass their checks complete: the
thread goes on behind the instruction as a running thread, with no trap (R61 step 9, R91, R94, R96, R242-R247, R251-R260). -/
def Obligations.PlacedInstructionIsExecuted : Prop :=
  (∀ (nbits w : Nat) (i : Instr), decodeTableWord nbits w = some i →
     ∃ s1 : State, takeThread 1 (State.reset.withFetchWord nbits w) = some s1 ∧
       step (State.reset.withFetchWord nbits w) = (match exec i (s1.used s1.th.asid s1.th.pc) with
         | .next t => .next (putBack t)
         | .fault r => .fault r
         | .refused r => .refused r)) ∧
  (∀ (i : Instr) (s : State), ∃ t : State, exec i s = .next t) ∧
  (∀ (f : Fields) (s : State),
     let goes := fun (op : Nat) (i : Instr) => mayRun op f s = true →
       ∃ t : State, exec i s = .next t ∧ t.th.pc = pcAdd s.th.pc (lenBytes f.len) ∧ t.th.status = s.th.running ∧ t.th.hnd = s.th.hnd
     let h? := fun (op : Nat) => effAddr (src op f 0 s) (disp f)
     let n := width (tyOf f) / 8
     ((∃ h a, h? 0x50 = some h ∧ offsetOf h % n = 0 ∧ s.atHand h 0 n a) → goes 0x50 (.ld f)) ∧
     ((∃ h a, h? 0xA0 = some h ∧ offsetOf h % 32 = 0 ∧ s.atHand h 0 32 a ∧ s.keptBits (tyOf f) ≠ none) → goes 0xA0 (.vld f)) ∧
     ((∃ h e home, h? 0x52 = some h ∧ offsetOf h % n = 0 ∧ s.homedAt h 0 n e home ∧ e.leased = true ∧ dieOf home = dieOf s.th.core ∧
         s.ways s.th.core ≠ [] ∧ (s.die (dieOf s.th.core)).dlease ≠ 0 ∧ cached s s.th.asid h n s.th.core ≠ none) → goes 0x52 (.ldk f)) ∧
     ((∀ h, h? 0x55 = some h → lookupDesc s h ≠ .miss) → goes 0x55 (.prf f)) ∧
     (s.th.writes = [] → s.th.fwd = [] → goes 0x5A (.fence f)) ∧
     (goes 0x80 (.fadd f) ∧ goes 0x81 (.fsub f) ∧ goes 0x82 (.fmul f) ∧ goes 0x83 (.fma f) ∧ goes 0x84 (.fdiv f) ∧ goes 0x85 (.fsqrt f) ∧
       goes 0x86 (.frcp f) ∧ goes 0x87 (.frsq f) ∧ goes 0x88 (.fex2 f) ∧ goes 0x89 (.flg2 f) ∧ goes 0x8A (.fmin f) ∧ goes 0x8B (.fmax f) ∧
       goes 0x8C (.fcmp f) ∧ goes 0x8D (.fcls f) ∧ goes 0xB8 (.fmtw f)) ∧
     (s.fmtFor (srcTypeOf f) ≠ none → s.fmtFor (tyOf f) ≠ none → goes 0x8E (.fcvt f)) ∧
     (s.fmtFor (tyOf f) ≠ none → goes 0x8F (.icvf f)) ∧ (s.fmtFor (srcTypeOf f) ≠ none → goes 0x90 (.fcvi f)) ∧
     (s.th.spawned = false → s.th.core = s.th.anchor → goes 0xB9 (.fmtr f)) ∧
     (∀ T, s.vtyFor (tyOf f) = some T →
       (s.tagged [f.a] (tyOf f) → goes 0xAA (.vabs f) ∧ goes 0xAB (.vred f) ∧
         ((src 0xAE f 1 s).toNat < T.n → goes 0xAE (.vext f)) ∧ ((src 0xAF f 2 s).toNat < T.n → goes 0xAF (.vins f)) ∧
         (isNarrow (tyOf f) = false ∨ T.w = 8 → s.tagged [f.b] 4 → goes 0xB0 (.vprm f))) ∧
       (s.tagged [f.a, f.b] (tyOf f) → goes 0xA4 (.vadd f) ∧ goes 0xA5 (.vsub f) ∧ goes 0xA6 (.vmul f) ∧ goes 0xA8 (.vmin f) ∧
         goes 0xA9 (.vmax f) ∧ goes 0xAC (.vdot f) ∧ goes 0xB5 (.vcmp f)) ∧
       (s.tagged [f.a, f.b, f.c] (tyOf f) → goes 0xA7 (.vfma f)) ∧ goes 0xAD (.vbcs f) ∧ goes 0xB4 (.vtag f) ∧
       (s.tagged [f.a] (zType T.w) → s.tagged [f.b, f.c] (tyOf f) → goes 0xB6 (.vsel f))) ∧
     (∀ ts td, s.vtyFor (srcTypeOf f) = some ts → s.vtyFor (tyOf f) = some td → s.tagged [f.a] (srcTypeOf f) → (src 0xB1 f 1 s).toNat = 0 →
       0 < ts.n → 0 < td.n → goes 0xB1 (.vcvt f)) ∧
     (∀ K, s.th.spawned = false → s.format (tyOf f - 16) = some K → (tyOf f - 16) < 8 → (src 0xB2 f 2 s).toNat = 0 → (src 0xB2 f 1 s).toNat = 0 →
       K.bs ≤ codesOf K.fmt.width → 0 < K.bs →
       let q := K.bs * width (srcTypeOf f) / 256
       (vReg f.a).val + q ≤ s.th.vbud → (∀ j, j < q → (vget s.th.vtag ((vReg f.a).val + j) 0).toNat = 0x20 + srcTypeOf f) → goes 0xB2 (.vqnt f)) ∧
     (∀ K, s.th.spawned = false → s.format (srcTypeOf f - 16) = some K → (srcTypeOf f - 16) < 8 → (src 0xB3 f 2 s).toNat = 0 →
       0 < codesOf K.fmt.width → s.tagged [f.a] (srcTypeOf f) → goes 0xB3 (.vdqn f)))

/-! ## What every instruction has in common (R52, R61) -/

/-- An instruction whose guard is false does nothing but move on, and push if its Result is Q: the thread's other registers, every other
thread and all else stay (R12, R52). -/
def Obligations.GuardedOffInstructionOnlyPushes : Prop :=
  ∀ (i : Instr) (op : Nat) (f : Fields) (s : State), opFields i = some (op, f) → guardTrue s.th f.guard = false →
    (resultOf op f = .q →
      exec i s = .next { s with th := { s.th with
        q := pushQ s.th.q (offValue op f s), pc := pcAdd s.th.pc (lenBytes f.len), status := s.th.running, wait := .none,
        badIndex := none, images := [], got := [] } }) ∧
    (resultOf op f ≠ .q →
      exec i s = .next { s with th := { s.th with
        pc := pcAdd s.th.pc (lenBytes f.len), status := s.th.running, wait := .none, badIndex := none, images := [], got := [] } })

/-- The checks of R61 steps 6 to 8, in their order, for an instruction whose guard is true: the first that fails is the fault that the instruction
takes, with none of its effect. An anchored instruction that passes its checks away from the thread's anchor has no effect there: the thread
migrates to its anchor, where it executes the instruction again (R25). -/
def Obligations.ChecksFailInOrder : Prop :=
  (∀ (i : Instr) (op : Nat) (f : Fields) (s : State), opFields i = some (op, f) → guardTrue s.th f.guard = true →
     ((overBudget s.th f.a = true ∨ overBudget s.th f.b = true ∨ overBudget s.th f.c = true ∨ dstOverBudget s.th f.dst = true) →
       exec i s = .next (raise 0x04 0 s)) ∧
     (overBudget s.th f.a = false → overBudget s.th f.b = false → overBudget s.th f.c = false → dstOverBudget s.th f.dst = false →
       (s.th.spawned = true → isAnchored op f = true → exec i s = .next (raise 0x0B 0 s)) ∧
       (s.th.spawned = false → issuerOnly op f = true → s.th.index ≠ (s.wgOf s.th).issuer → exec i s = .next (raise 0x0B 0 s)) ∧
       (s.th.spawned = false → s.th.index = (s.wgOf s.th).issuer → isMatrix op = true → s.th.hnd = true → op ≠ 0xD2 → op ≠ 0xD5 →
         (s.wgOf s.th).park = none → exec i s = .next (raise 0x0E 0 s)))) ∧
  (∀ (i : Instr) (op : Nat) (f : Fields) (s : State), opFields i = some (op, f) → guardTrue s.th f.guard = true → preCheck op f s = none →
     isAnchored op f = true → s.th.core ≠ s.th.anchor → exec i s = .next (migrate s.th.anchor 0 s))

/-! ## Faults, handlers and the return from them (R197-R202) -/

/-- A fault of a thread that has a handler and is not in it, other than 0x0E: SY_EPC is the instruction's address, SY_CAUSE the code with INFO 0,
SY_FADDR as given; the frame takes the queue and the predicates, HND is set and the thread goes on at SY_TRAPBASE as HANDLER. Queue, predicates,
named and vector registers, flags, and everything outside the thread stay as they were (R11, R197, R198). A fault in handler mode, a fault of a
thread with no handler, and every fault 0x0E is a launch error: the thread is stopped, and its launch takes the code, with SY_CAUSE, SY_EPC and
SY_FADDR written before (R198, R199). The launch that takes an error: its ERR holds the first code, its STATE is ERROR and its cancellation has
begun; the job's CAUSE is the first such code; a launch that is complete is not changed (R158, R160, R199). -/
def Obligations.FaultsEnterTheHandlerOrEndTheLaunch : Prop :=
  (∀ (code : Nat) (faddr : W64) (s : State), code ≠ 0x0E → s.th.hnd = false → s.th.trapbase ≠ 0 →
     ∃ t : Thread, raise code faddr s = { s with th := t } ∧
       t.epc = s.th.pc ∧ t.cause = BitVec.ofNat 64 code ∧ t.faddr = faddr ∧ t.frameQ = s.th.q ∧
       (∀ k : Fin 8, k ≠ 0 → t.frameP[k] = s.th.p[k]) ∧ t.hnd = true ∧ t.status = .handler ∧ t.pc = s.th.trapbase ∧ t.wait = .none ∧
       t.q = s.th.q ∧ t.p = s.th.p ∧ t.n = s.th.n ∧ t.v = s.th.v ∧ t.vtag = s.th.vtag ∧ t.vm = s.th.vm ∧ t.fpflags = s.th.fpflags ∧
       t.trapbase = s.th.trapbase ∧ t.core = s.th.core ∧ t.place = s.th.place ∧ t.writes = s.th.writes ∧ t.fwd = s.th.fwd) ∧
  (∀ (code : Nat) (faddr : W64) (s : State), (code = 0x0E ∨ s.th.hnd = true ∨ s.th.trapbase = 0) →
     raise code faddr s = (s.stopThread (s.th.faulted code 0 faddr)).recordError s.th.job s.th.launch code) ∧
  (∀ (j : Job) (launch code : Nat),
     (∀ t ∈ (j.launchError launch code).tcbs, ∃ u ∈ j.tcbs, t.index = u.index ∧ t.launch = u.launch ∧
       (u.complete = true → t = u) ∧
       (u.complete = false → u.launch = launch → t.err = (if u.err = 0 then code else u.err) ∧ t.state = 5 ∧ t.cancel = true) ∧
       (u.launch ≠ launch → t.err = u.err ∧ t.state = u.state)) ∧
     (j.launchError launch code).cause = (if j.cause = 0 then code else j.cause) ∧
     (j.launchError launch code).num = j.num ∧ (j.launchError launch code).outcome = j.outcome)

/-- `TRAP` takes the fault 0x10 with its operand in SY_FADDR, `BKPT` the fault 0x11 with its IMM11; a thread with a handler enters it, with SY_EPC at the
instruction itself (R78, R201). -/
def Obligations.TrapAndBreakpointTakeTheirFault : Prop :=
  ∀ (f : Fields) (s : State),
    (mayRun 0xF0 f s = true → exec (.trap f) s = .next (raise 0x10 (src 0xF0 f 0 s) s)) ∧
    (mayRun 0x39 f s = true → exec (.bkpt f) s = .next (raise 0x11 (BitVec.ofNat 64 f.imm11.toNat) s)) ∧
    (s.th.handles = true →
      (mayRun 0xF0 f s = true → exec (.trap f) s = .next (s.trapped 0x10 0 (src 0xF0 f 0 s))) ∧
      (mayRun 0x39 f s = true → exec (.bkpt f) s = .next (s.trapped 0x11 0 (BitVec.ofNat 64 f.imm11.toNat))) ∧
      ∀ code h, (s.trapped code 0 h).th.epc = s.th.pc ∧ (s.trapped code 0 h).th.cause = BitVec.ofNat 64 code ∧ (s.trapped code 0 h).th.faddr = h)

/-- `RTE` in handler mode restores queue and predicates from the frame, leaves handler mode and goes on at SY_EPC; outside handler mode, and for an
issuer whose `MPARK` has no `MUNPARK`, it is fault 0x0E. Nothing else of the thread and nothing outside it changes (R202). What a handler does to
queue and predicates is undone by `RTE`: a thread that has entered its handler by a fault, and returns with the frame and SY_EPC as the entry left
them, has its queue and predicates and goes on at the instruction that faulted (R198, R202). A thread in handler mode does not move: what would
migrate it is fault 0x0E (R200). -/
def Obligations.ReturnFromTheHandler : Prop :=
  (∀ (f : Fields) (s : State), mayRun 0xF1 f s = true →
     (s.th.hnd = true → parkedIssuer s = false →
       exec (.rte f) s = .next { s with th := { s.th with
         q := s.th.frameQ, p := Vector.ofFn (fun i => if i.val = 0 then true else s.th.frameP[i.val]), hnd := false,
         status := .ready, wait := .none, pc := s.th.epc } }) ∧
     ((s.th.hnd = false ∨ parkedIssuer s = true) → exec (.rte f) s = .next (raise 0x0E 0 s))) ∧
  (∀ (t h : Thread) (code info : Nat) (faddr : W64), t.p[0] = true →
     h.frameQ = ((t.faulted code info faddr).enterHandler).frameQ → h.frameP = ((t.faulted code info faddr).enterHandler).frameP →
     h.epc = ((t.faulted code info faddr).enterHandler).epc →
     h.leaveHandler.q = t.q ∧ h.leaveHandler.p = t.p ∧ h.leaveHandler.pc = t.pc ∧ h.leaveHandler.hnd = false ∧
       h.leaveHandler.status = .ready ∧ h.leaveHandler.n = h.n ∧ h.leaveHandler.v = h.v ∧ h.leaveHandler.fpflags = h.fpflags) ∧
  (∀ (dest : Nat) (faddr : W64) (s : State), s.th.hnd = true → migrate dest faddr s = raise 0x0E 0 s)

/-- `SYSRD` of every register the thread may read pushes and writes it: the exception registers, flags, budgets, identity, ASID, SY_TRAPBASE, the die's
time, in handler mode the frame, and at the anchor SY_KICK (R203, R205, R207). `SYSWR` writes the register and nothing else, then the thread goes
on; a register that only the handler may write is fault 0x01 outside it, a misaligned SY_TRAPBASE fault 0x0A, an SY_TFP value with a bit outside
[7:1] fault 0x01, and SY_KICK of a spawned thread fault 0x0B (R203, R205, R207). -/
def Obligations.SystemRegisterReadsAndWrites : Prop :=
  (∀ (f : Fields) (s : State), mayRun 0xF2 f s = true →
     (sysNo f = 0x00 → exec (.sysrd f) s = .next (finishQ f s.th.epc s)) ∧
     (sysNo f = 0x01 → exec (.sysrd f) s = .next (finishQ f s.th.cause s)) ∧
     (sysNo f = 0x02 → exec (.sysrd f) s = .next (finishQ f s.th.faddr s)) ∧
     (sysNo f = 0x03 → exec (.sysrd f) s = .next (finishQ f (s.th.fpflags.zeroExtend 64) s)) ∧
     (sysNo f = 0x04 → exec (.sysrd f) s = .next (finishQ f (budgetWord s.th) s)) ∧
     (sysNo f = 0x05 → exec (.sysrd f) s = .next (finishQ f (idWord s.th) s)) ∧
     (sysNo f = 0x06 → exec (.sysrd f) s = .next (finishQ f (BitVec.ofNat 64 s.th.asid) s)) ∧
     (sysNo f = 0x07 → exec (.sysrd f) s = .next (finishQ f s.th.trapbase s)) ∧
     (sysNo f = 0x08 → exec (.sysrd f) s = .next (finishQ f (s.dtcOf (dieOf s.th.core)) s)) ∧
     (sysNo f = 0x09 → s.th.spawned = true → exec (.sysrd f) s = .next (raise 0x0B 0 s)) ∧
     (sysNo f = 0x09 → s.th.spawned = false → s.th.core = s.th.anchor → exec (.sysrd f) s = .next (finishQ f s.wg.kick s)) ∧
     (∀ k : Fin 16, sysNo f = 0x10 + k.val → s.th.hnd = true → exec (.sysrd f) s = .next (finishQ f s.th.frameQ[k] s)) ∧
     (sysNo f = 0x20 → s.th.hnd = true → exec (.sysrd f) s = .next (finishQ f (s.th.frameP.zeroExtend 64 &&& 0xFE) s)) ∧
     (s.th.hnd = false → 0x10 ≤ sysNo f → exec (.sysrd f) s = .next (raise 0x01 0 s))) ∧
  (∀ (f : Fields) (s : State), mayRun 0xF3 f s = true →
     (sysNo f = 0x00 → s.th.hnd = true → exec (.syswr f) s = .next (finishU f { s with th := { s.th with epc := src 0xF3 f 0 s } })) ∧
     (sysNo f = 0x01 → s.th.hnd = true → exec (.syswr f) s = .next (finishU f { s with th := { s.th with cause := src 0xF3 f 0 s } })) ∧
     (sysNo f = 0x02 → s.th.hnd = true → exec (.syswr f) s = .next (finishU f { s with th := { s.th with faddr := src 0xF3 f 0 s } })) ∧
     (sysNo f = 0x03 → exec (.syswr f) s = .next (finishU f { s with th := { s.th with fpflags := (src 0xF3 f 0 s).truncate 7 } })) ∧
     (sysNo f = 0x07 → (src 0xF3 f 0 s).toNat % 4 = 0 →
       exec (.syswr f) s = .next (finishU f { s with th := { s.th with trapbase := src 0xF3 f 0 s } })) ∧
     (sysNo f = 0x07 → (src 0xF3 f 0 s).toNat % 4 ≠ 0 → exec (.syswr f) s = .next (raise 0x0A (src 0xF3 f 0 s) s)) ∧
     (sysNo f = 0x09 → s.th.spawned = false →
       exec (.syswr f) s = .next (finishU f (s.send s.th.core s.th.anchor 2 (.kick s.wg.wid true s.th.tid 0)))) ∧
     (sysNo f = 0x09 → s.th.spawned = true → exec (.syswr f) s = .next (raise 0x0B 0 s)) ∧
     (∀ k : Fin 16, sysNo f = 0x10 + k.val → s.th.hnd = true →
       exec (.syswr f) s = .next (finishU f { s with th := { s.th with frameQ := s.th.frameQ.set k (src 0xF3 f 0 s) } })) ∧
     (sysNo f = 0x20 → s.th.hnd = true → src 0xF3 f 0 s &&& 0xFE = src 0xF3 f 0 s →
       exec (.syswr f) s = .next (finishU f { s with th := { s.th with frameP := (src 0xF3 f 0 s).truncate 8 } })) ∧
     (sysNo f = 0x20 → src 0xF3 f 0 s &&& 0xFE ≠ src 0xF3 f 0 s → exec (.syswr f) s = .next (raise 0x01 0 s)) ∧
     (s.th.hnd = false → (sysNo f ≤ 2 ∨ 0x10 ≤ sysNo f) → exec (.syswr f) s = .next (raise 0x01 0 s)) ∧
     ((sysNo f = 4 ∨ sysNo f = 5 ∨ sysNo f = 6 ∨ sysNo f = 8) → exec (.syswr f) s = .next (raise 0x01 0 s)))

/-! ## Registers and the ends of instructions (R11, R44, R48, R50, R51) -/

/-- The end of an instruction whose Result is Q: the value enters the queue at Q1 and the others move up, the N register that DST names takes it (an N
register only), a W register takes it at the end of the cc, and the thread goes on behind the instruction. Every other register, every byte of
memory and everything outside the thread stay (R11, R48, R51). The ends of instructions of the other Results. P: the predicate that DST names, P1 to
P7, takes the value, and P0 stays. V: the vector register that DST names takes value and tag. None: nothing but the pc. None of them pushes, and
nothing outside the thread changes (R46, R50, R51). A W register written in a cc reads its old value for the rest of that cc, and the new one from
its end on; the last of two writes in one cc stays, and the other W registers keep their values (R48). -/
def Obligations.ResultsWriteOnlyTheirDestination : Prop :=
  (∀ (f : Fields) (v : W64) (s : State), let t := finishQ f v s
     t.th.q[0] = v ∧ (∀ k : Fin 15, t.th.q[k.val + 1] = s.th.q[k.val]) ∧
     (∀ k : Fin 32, t.th.n[k] = if f.dst = .n k then v else s.th.n[k]) ∧
     (∀ k : Fin 16, f.dst = .w k → t = { s.putWg { s.wg with wPend := s.wg.wPend ++ [(k, v)] } with th := t.th }) ∧
     ((∀ k : Fin 16, f.dst ≠ .w k) → t = { s with th := t.th }) ∧
     t.th = { s.th with q := t.th.q, n := t.th.n, pc := pcAdd s.th.pc (lenBytes f.len), status := s.th.running, wait := .none,
                        badIndex := none, images := [], got := [] }) ∧
  (∀ (f : Fields) (s : State),
     (let t := finishU f s
      t = { s with th := { s.th with pc := pcAdd s.th.pc (lenBytes f.len), status := s.th.running, wait := .none, badIndex := none,
                                     images := [], got := [] } }) ∧
     (∀ b : Bool, let t := finishP f b s
      (∀ k : Fin 7, t.th.p[k.val + 1] = if f.dst = .p k then b else s.th.p[k.val + 1]) ∧ t.th.p[0] = s.th.p[0] ∧
      t = { s with th := { s.th with p := t.th.p, pc := pcAdd s.th.pc (lenBytes f.len), status := s.th.running, wait := .none,
                                     badIndex := none, images := [], got := [] } }) ∧
     (∀ (v : W256) (tag : BitVec 6), let t := finishV f v tag s
      (∀ k : Fin 8, t.th.v[k] = (if f.dst = .v k then v else s.th.v[k]) ∧ t.th.vtag[k] = if f.dst = .v k then tag else s.th.vtag[k]) ∧
      t = { s with th := { s.th with v := t.th.v, vtag := t.th.vtag, pc := pcAdd s.th.pc (lenBytes f.len), status := s.th.running,
                                     wait := .none, badIndex := none, images := [], got := [] } })) ∧
  (∀ (w : Workgroup) (k : Fin 16) (v : W64),
     ({ w with wPend := w.wPend ++ [(k, v)] } : Workgroup).endCc.w[k] = v ∧
     (∀ j : Fin 16, j ≠ k → ({ w with wPend := w.wPend ++ [(k, v)] } : Workgroup).endCc.w[j] = w.endCc.w[j]) ∧
     ({ w with wPend := w.wPend ++ [(k, v)] } : Workgroup).w = w.w ∧ (w.wPend = [] → w.endCc.w = w.w))

/-- Operands as 64-bit values: Q, N and W registers as they stand, a predicate as 0 or 1, the low 64 bits of a vector register, an inline
immediate as code − 0x70 sign-extended (R43, R45). -/
def Obligations.OperandValues : Prop :=
  ∀ s : State,
    (∀ k : Fin 16, opndValue s (.q k) = s.th.q[k] ∧ opndValue s (.w k) = s.wg.w[k]) ∧ (∀ k : Fin 32, opndValue s (.n k) = s.th.n[k]) ∧
    (∀ k : Fin 8, (opndValue s (.p k)).toNat = (if s.th.p[k] = true then 1 else 0) ∧ (opndValue s (.v k)).toNat = s.th.v[k].toNat % 2 ^ 64) ∧
    (∀ k : Fin 32, (opndValue s (.imm k)).toInt = (opndCode (.imm k) : Int) - 0x70)

/-- Narrowing and extending at each integer TYPE: a result extended and narrowed again is the exact result modulo 2^w, in the range of the TYPE; a
result already in that range is unchanged (R43, R64, R68). The arithmetic instructions: each writes and pushes the exact result of R65, reduced to
TYPE and extended (R64). -/
def Obligations.IntegerArithmeticResults : Prop :=
  (∀ (t : Nat) (r : Int), isInt t = true →
     (narrow t (extend t r) - r) % ((2 ^ width t : Nat) : Int) = 0 ∧ loOf t ≤ narrow t (extend t r) ∧ narrow t (extend t r) ≤ hiOf t ∧
     (loOf t ≤ r → r ≤ hiOf t → narrow t (extend t r) = r)) ∧
  (∀ (f : Fields) (s : State), let T := tyOf f; let a := fun op => narrow T (src op f 0 s); let b := fun op => narrow T (src op f 1 s)
     let c := fun op => narrow T (src op f 2 s)
     (mayRun 0x01 f s = true → exec (.add f) s = .next (finishQ f (extend T (a 0x01 + b 0x01)) s)) ∧
     (mayRun 0x02 f s = true → exec (.sub f) s = .next (finishQ f (extend T (a 0x02 - b 0x02)) s)) ∧
     (mayRun 0x03 f s = true → exec (.mul f) s = .next (finishQ f (extend T (a 0x03 * b 0x03)) s)) ∧
     (mayRun 0x04 f s = true → exec (.mulh f) s = .next (finishQ f (extend T (a 0x04 * b 0x04 / (2 ^ width T : Nat))) s)) ∧
     (mayRun 0x05 f s = true → exec (.div f) s = .next (finishQ f (extend T (if b 0x05 = 0 then -1 else (a 0x05).tdiv (b 0x05))) s)) ∧
     (mayRun 0x06 f s = true →
       exec (.rem f) s = .next (finishQ f (extend T (if b 0x06 = 0 then a 0x06 else a 0x06 - b 0x06 * (a 0x06).tdiv (b 0x06))) s)) ∧
     (mayRun 0x07 f s = true → exec (.mad f) s = .next (finishQ f (extend T (a 0x07 * b 0x07 + c 0x07)) s)) ∧
     (mayRun 0x08 f s = true → exec (.neg f) s = .next (finishQ f (extend T (-a 0x08)) s)) ∧
     (mayRun 0x09 f s = true → exec (.abs f) s = .next (finishQ f (extend T (if a 0x09 < 0 then -a 0x09 else a 0x09)) s)) ∧
     (mayRun 0x0A f s = true → exec (.min f) s = .next (finishQ f (extend T (if a 0x0A ≤ b 0x0A then a 0x0A else b 0x0A)) s)) ∧
     (mayRun 0x0B f s = true → exec (.max f) s = .next (finishQ f (extend T (if a 0x0B ≤ b 0x0B then b 0x0B else a 0x0B)) s)))

/-! ## Integer operate, compare, select, handles (R64-R72) -/

/-- The bit instructions, by the bits of the w-bit patterns u of A and v of B (R66): each completes, and what it writes and pushes is the extended
pattern whose bits are given. The count n is bits [7:0] of B, and the control word g is read whole. The counting instructions and the bit-field
extract (R66): what each writes and pushes, by the bits of the pattern u of A. -/
def Obligations.BitAndCountInstructionResults : Prop :=
  (∀ (f : Fields) (s : State), isInt (tyOf f) = true →
     let T := tyOf f; let w := width T; let u := fun op => (src op f 0 s).toNat % 2 ^ w; let v := fun op => (src op f 1 s).toNat % 2 ^ w
     let n := fun op => (src op f 1 s).toNat % 256
     let gives := fun (op : Nat) (i : Fields → Instr) (bit : Nat → Bool) => mayRun op f s = true →
       ∃ r : Nat, r < 2 ^ w ∧ (∀ k, k < w → r.testBit k = bit k) ∧ exec (i f) s = .next (finishQ f (extend T r) s)
     gives 0x10 .and (fun k => (u 0x10).testBit k && (v 0x10).testBit k) ∧
     gives 0x11 .or (fun k => (u 0x11).testBit k || (v 0x11).testBit k) ∧
     gives 0x12 .xor (fun k => (u 0x12).testBit k != (v 0x12).testBit k) ∧
     gives 0x13 .andn (fun k => (u 0x13).testBit k && !(v 0x13).testBit k) ∧
     gives 0x14 .shl (fun k => n 0x14 ≤ k && (u 0x14).testBit (k - n 0x14)) ∧
     gives 0x15 .shr (fun k => (u 0x15).testBit (k + n 0x15)) ∧
     gives 0x16 .sra (fun k => if k + n 0x16 < w then (u 0x16).testBit (k + n 0x16) else (u 0x16).testBit (w - 1)) ∧
     gives 0x17 .rol (fun k => (u 0x17).testBit ((k + w - n 0x17 % w) % w)) ∧
     gives 0x1B .brev (fun k => (u 0x1B).testBit (w - 1 - k)) ∧
     gives 0x1D .bfi (fun k =>
       let g := (src 0x1D f 2 s).toNat; let pos := g % 64; let len := min (g / 256 % 128) 64
       if pos ≤ k ∧ k < pos + len then (v 0x1D).testBit (k - pos) else (u 0x1D).testBit k) ∧
     gives 0x1E .sext (fun k =>
       if n 0x1E = 0 then false else if w ≤ n 0x1E ∨ k < n 0x1E then (u 0x1E).testBit k else (u 0x1E).testBit (n 0x1E - 1)) ∧
     gives 0x1F .zext (fun k => decide (k < n 0x1F) && (u 0x1F).testBit k)) ∧
  (∀ (f : Fields) (s : State), isInt (tyOf f) = true →
     let T := tyOf f; let w := width T; let u := fun op => (src op f 0 s).toNat % 2 ^ w
     (mayRun 0x18 f s = true → ∃ r : Nat, exec (.clz f) s = .next (finishQ f (extend T r) s) ∧ r ≤ w ∧
       (∀ k, w - r ≤ k → k < w → (u 0x18).testBit k = false) ∧ (r < w → (u 0x18).testBit (w - 1 - r) = true)) ∧
     (mayRun 0x19 f s = true → ∃ r : Nat, exec (.ctz f) s = .next (finishQ f (extend T r) s) ∧ r ≤ w ∧
       (∀ k, k < r → (u 0x19).testBit k = false) ∧ (r < w → (u 0x19).testBit r = true)) ∧
     (mayRun 0x1A f s = true →
       exec (.popc f) s = .next (finishQ f (extend T (((List.range w).filter (fun k => (u 0x1A).testBit k)).length : Nat)) s)) ∧
     (mayRun 0x1C f s = true →
       let g := (src 0x1C f 1 s).toNat; let pos := g % 64; let len := min (g / 256 % 128) 64
       ∃ x : Nat, x < 2 ^ len ∧ (∀ k, k < len → x.testBit k = (decide (pos + k < w) && (u 0x1C).testBit (pos + k))) ∧
         exec (.bfx f) s = .next (finishQ f (extend T (if isSigned T = true ∧ 0 < len ∧ x.testBit (len - 1) = true
           then (x : Int) - (2 ^ len : Nat) else x)) s)))

/-- Compare, select, move, limit and predicate logic (R56, R67, R68, R70). The handle instructions (R71, R72): `HMK` joins the low 16 bits of A and the
low 48 of B; `HADD` adds B, signed, to the offset, and gives a null handle outside the offset range; `HIDX` and `HOFS` give the two parts. `HCHK`
answers from the descriptor cache: the buffer valid, the range within it and every right granted; on a miss it waits, changing nothing else. -/
def Obligations.CompareSelectLogicAndHandleResults : Prop :=
  (∀ (f : Fields) (s : State), let T := tyOf f; let a := fun op => narrow T (src op f 0 s); let b := fun op => narrow T (src op f 1 s)
     let c := fun op => narrow T (src op f 2 s); let cond := fbits f.func 8 5; let lim := fun (r : Int) => max (loOf T) (min r (hiOf T))
     (mayRun 0x20 f s = true → cond ≤ 5 →
       exec (.cmp f) s = .next (finishP f (
         if cond = 0 then decide (a 0x20 = b 0x20) else if cond = 1 then decide (a 0x20 ≠ b 0x20) else if cond = 2 then decide (a 0x20 < b 0x20)
         else if cond = 3 then decide (a 0x20 ≤ b 0x20) else if cond = 4 then decide (b 0x20 < a 0x20) else decide (b 0x20 ≤ a 0x20)) s)) ∧
     (mayRun 0x21 f s = true → exec (.sel f) s = .next (finishQ f (extend T (if predOf s f.a = true then b 0x21 else c 0x21)) s)) ∧
     (mayRun 0x22 f s = true → exec (.mov f) s = .next (finishQ f (extend T (a 0x22)) s)) ∧
     (mayRun 0x23 f s = true →
       (fbits f.func 6 5 = 0 → exec (.lim f) s = .next (finishQ f (extend T (max (b 0x23) (min (a 0x23) (c 0x23)))) s)) ∧
       (fbits f.func 6 5 = 1 → exec (.lim f) s = .next (finishQ f (extend T (lim (a 0x23 + b 0x23))) s)) ∧
       (fbits f.func 6 5 = 2 → exec (.lim f) s = .next (finishQ f (extend T (lim (a 0x23 - b 0x23))) s))) ∧
     (mayRun 0x24 f s = true → exec (.plog f) s = .next (finishP f ((fbits f.func 7 0).testBit
       ((if predOf s f.a = true then 4 else 0) + (if predOf s f.b = true then 2 else 0) + (if predOf s f.c = true then 1 else 0))) s))) ∧
  (∀ (f : Fields) (s : State),
     (mayRun 0x28 f s = true → ∃ h : W64, exec (.hmk f) s = .next (finishQ f h s) ∧
       h.toNat = (src 0x28 f 0 s).toNat % 2 ^ 16 * 2 ^ 48 + (src 0x28 f 1 s).toNat % 2 ^ 48) ∧
     (mayRun 0x29 f s = true → ∃ h : W64, exec (.hadd f) s = .next (finishQ f h s) ∧
       (let x := ((src 0x29 f 0 s).toNat % 2 ^ 48 : Int) + (src 0x29 f 1 s).toInt
        (0 ≤ x ∧ x < 2 ^ 48 → (h.toNat : Int) = ((src 0x29 f 0 s).toNat / 2 ^ 48 : Nat) * 2 ^ 48 + x) ∧
        (¬(0 ≤ x ∧ x < 2 ^ 48) → (h.toNat : Int) = x % 2 ^ 48))) ∧
     (mayRun 0x2A f s = true → ∃ h : W64, exec (.hidx f) s = .next (finishQ f h s) ∧ h.toNat = (src 0x2A f 0 s).toNat / 2 ^ 48) ∧
     (mayRun 0x2B f s = true → ∃ h : W64, exec (.hofs f) s = .next (finishQ f h s) ∧ h.toNat = (src 0x2B f 0 s).toNat % 2 ^ 48) ∧
     (mayRun 0x2C f s = true →
       (∀ e, lookupDesc s (src 0x2C f 0 s) = .hit e → exec (.hchk f) s = .next (finishP f (
         decide (offsetOf (src 0x2C f 0 s) + (src 0x2C f 1 s).toNat ≤ e.length) && (!f.func[0] || e.rd) && (!f.func[1] || e.wr) &&
           (!f.func[2] || e.at_)) s)) ∧
       (lookupDesc s (src 0x2C f 0 s) = .invalid → exec (.hchk f) s = .next (finishP f false s)) ∧
       (lookupDesc s (src 0x2C f 0 s) = .miss →
         exec (.hchk f) s = .next (block .waiting (.descriptor s.th.asid (indexOf (src 0x2C f 0 s))) s))))

/-! ## Control transfer (R73-R78) -/

/-- A transfer changes the pc and ends what the instruction waited for, nothing else; a distance is added to the offset field of a code handle, modulo
2^48, and its buffer index stays (R73). `BRA`, `BRP`, `CALL`, `RET` and `LOOP` go to the targets of R73; a call pushes and writes the return
address, a loop its count less one, and branches while that count, exact, is above 0. `NOP` only moves on (R78). -/
def Obligations.BranchesGoToTheirTargets : Prop :=
  ((∀ (x : W64) (s : State), jump x s =
     { s with th := { s.th with pc := x, status := s.th.running, wait := .none, badIndex := none, images := [], got := [] } }) ∧
   (∀ (x : W64) (d : Int), (pcAdd x d).toNat / 2 ^ 48 = x.toNat / 2 ^ 48 ∧
     ((pcAdd x d).toNat % 2 ^ 48 : Int) = ((x.toNat % 2 ^ 48 : Int) + d) % 2 ^ 48)) ∧
  (∀ (f : Fields) (s : State), let goal := fun (x : W64) => pcAdd x (4 * disp f)
     (mayRun 0x30 f s = true → exec (.bra f) s = .next (jump (goal s.th.pc) s)) ∧
     (mayRun 0x31 f s = true → exec (.brp f) s = .next (jump (goal (src 0x31 f 0 s)) s)) ∧
     (mayRun 0x32 f s = true → exec (.call f) s = .next (jump (goal s.th.pc) (finishQ f (pcAdd s.th.pc (lenBytes f.len)) s))) ∧
     (mayRun 0x34 f s = true → exec (.ret f) s = .next (jump (src 0x34 f 0 s) s)) ∧
     (mayRun 0x37 f s = true →
       (1 < (src 0x37 f 0 s).toInt → exec (.loop f) s = .next (jump (goal s.th.pc) (finishQ f (src 0x37 f 0 s - 1) s))) ∧
       ((src 0x37 f 0 s).toInt ≤ 1 → exec (.loop f) s = .next (finishQ f (src 0x37 f 0 s - 1) s))) ∧
     (mayRun 0x38 f s = true → exec (.nop f) s = .next (finishU f s)))

/-- `CALLX`, its checks in order, each failing with SY_FADDR = a: alignment 0x0A, the read of the descriptor at a − 8 with its own code, the MARK
0x01, the budgets 0x04; where all pass, the call. What is behind the read has used the descriptor's page (R74, R75, R299). -/
def Obligations.CallxChecksItsDescriptor : Prop :=
  ∀ (f : Fields) (s : State), mayRun 0x33 f s = true → let a := src 0x33 f 0 s
    let h := handleOf (indexOf a) (offsetOf a - 8)
    let u := s.used s.th.asid h
    (offsetOf a % 8 ≠ 0 → exec (.callx f) s = .next (raise 0x0A a s)) ∧
    (offsetOf a % 8 = 0 → offsetOf a < 8 → ∃ c, (c = 0x06 ∨ c = 0x08) ∧ exec (.callx f) s = .next (raise c a s)) ∧
    (offsetOf a % 8 = 0 → 8 ≤ offsetOf a →
      (∀ c, findBytes s s.th.asid h 8 = .code c → exec (.callx f) s = .next (raise c a u)) ∧
      (∀ home key pos, findBytes s s.th.asid h 8 = .absent home key pos → exec (.callx f) s = .next (parkFetch home key pos s)) ∧
      (∀ bs, findBytes s s.th.asid h 8 = .bytes bs → let d := leNat bs
        (d / 2 ^ 16 % 2 ^ 16 ≠ 0xC0DE → exec (.callx f) s = .next (raise 0x01 a u)) ∧
        (d / 2 ^ 16 % 2 ^ 16 = 0xC0DE → (s.th.nbud < d % 2 ^ 6 ∨ s.th.vbud < d / 2 ^ 6 % 2 ^ 4) →
          exec (.callx f) s = .next (raise 0x04 a u)) ∧
        (d / 2 ^ 16 % 2 ^ 16 = 0xC0DE → d % 2 ^ 6 ≤ s.th.nbud → d / 2 ^ 6 % 2 ^ 4 ≤ s.th.vbud →
          exec (.callx f) s = .next (jump a (finishQ f (pcAdd s.th.pc (lenBytes f.len)) u)))))

/-- `EXIT` of a thread, spawned or not, that is not a workgroup's issuer: the thread is EXITED and holds no slot, its reservation and monitors are
gone, the writes that it has sent and that have not failed stay outstanding, and no byte of memory, no other thread and no message but an exit
notice changes (of a spawned thread of a peer's job, a notice to that peer: log entry 111); an issuer in its handler whose `MPARK` has no `MUNPARK` takes 0x0E instead (R77, R200). -/
def Obligations.ExitEndsTheThread : Prop :=
  ∀ (f : Fields) (s : State), mayRun 0x35 f s = true →
    ((s.th.spawned = true ∨ s.th.index ≠ s.wg.issuer) →
      ∃ t : State, exec (.exit f) s = .next t ∧ t.th.status = .exited ∧ t.th.place = .gone ∧
        (∀ p ∈ t.ports, (∀ r ∈ p.resv, r.1 ≠ s.th.tid) ∧ ∀ m ∈ p.monitors, m.tid ≠ s.th.tid) ∧
        (∀ w ∈ s.th.writes, (∀ c, w.state ≠ .failed c) → w ∈ t.th.writes) ∧ t.th.fwd = s.th.fwd ∧
        t.mem = s.mem ∧ t.lmem = s.lmem ∧ t.tmem = s.tmem ∧ t.threads = s.threads ∧
        (t.net = s.net ∨ (s.th.core ≠ s.th.anchor ∧ ∃ w, t.net = s.net ++ [⟨s.th.core, s.th.anchor, 2, false, .exitNotice w s.th.index, .moving⟩]) ∨
          (s.th.spawned = true ∧ 2 ^ 24 ≤ s.th.job ∧
            t.net = s.net ++ [⟨s.th.core, 1024 * (s.th.job / 2 ^ 24), 2, false, .awaySpawn s.th.job s.th.launch false, .moving⟩]))) ∧
    (s.th.hnd = true → s.th.spawned = false → s.th.index = s.wg.issuer → s.wg.park.isSome = true →
      exec (.exit f) s = .next (raise 0x0E 0 s))

/-- `RDSP` pushes and writes the value that SEL names, and `CNTRD` the counter of the current core or die, 0 beyond the tables (R84, R85). The numbers
that a thread of a peer's job reads are those that its context brought, without the peer that the model adds to each (log entry 111). -/
def Obligations.IdentityAndCounterReads : Prop :=
  ∀ (f : Fields) (s : State),
    (mayRun 0x3C f s = true → ∃ v : W64, exec (.rdsp f) s = .next (finishQ f v s) ∧ let sel := fbits f.func 5 0
      (sel = 0x00 → v = BitVec.ofNat 64 (s.th.index % 64)) ∧ (sel = 0x01 → v = BitVec.ofNat 64 s.th.core) ∧
      (sel = 0x02 → v = BitVec.ofNat 64 s.th.index) ∧ (sel = 0x03 → v = BitVec.ofNat 64 s.th.wgpos) ∧
      (s.th.job < 2 ^ 24 → s.th.spawned = false → (sel = 0x04 → v = BitVec.ofNat 64 s.wg.wgsize) ∧ (sel = 0x05 → v = BitVec.ofNat 64 s.wg.gangw) ∧
        (sel = 0x0B → v = BitVec.ofNat 64 s.wg.issuer)) ∧
      (2 ^ 24 ≤ s.th.job → (sel = 0x04 → v = BitVec.ofNat 64 s.th.wgsize) ∧ (sel = 0x05 → v = BitVec.ofNat 64 s.th.gangw) ∧
        (sel = 0x0B → v = BitVec.ofNat 64 s.th.issuer)) ∧
      (sel = 0x06 → v = BitVec.ofNat 64 s.th.gang) ∧ (sel = 0x07 → v = BitVec.ofNat 64 (s.th.launch % 2 ^ 32)) ∧
      (sel = 0x08 → v = BitVec.ofNat 64 (s.th.job % 2 ^ 24)) ∧ (sel = 0x09 → v = BitVec.ofNat 64 (s.th.anchor % 1024)) ∧
      (sel = 0x0A → v = BitVec.ofNat 64 s.th.asid) ∧
      (sel = 0x0C → v = s.dtcOf (s.th.core / 64)) ∧ (sel = 0x0D → v = (s.core s.th.core).ccnt) ∧
      (sel = 0x0E → v = BitVec.ofNat 64 s.group.length) ∧
      (sel = 0x0F → ∀ k : Fin 64, v[k] = s.group.any (fun x => x % 64 == k.val)) ∧
      (sel = 0x10 → v = BitVec.ofNat 64 ((List.range 8).filter s.dieUp).length) ∧
      (sel = 0x11 → v = BitVec.ofNat 64 (64 * ((List.range 8).filter s.dieUp).length))) ∧
    (mayRun 0x3D f s = true → ∃ v : W64, exec (.cntrd f) s = .next (finishQ f v s) ∧ let a := (src 0x3D f 0 s).toNat
      (f.func[0] = false → (∀ h : a < 9, v = (s.core s.th.core).ctr[a]) ∧ (9 ≤ a → v = 0)) ∧
      (f.func[0] = true → (∀ h : a < 10, v = (s.die (s.th.core / 64)).ctr[a]) ∧ (10 ≤ a → v = 0)))

/-! ## Cross-lane instructions (R79-R82) -/

/-- A cross-lane instruction or `RJOIN` deposits its operands and makes the thread JOINING at its pc; nothing else changes until its instance completes
(R79-R81). JOIN_INSTANCE: where the threads of a workgroup that are JOINING in a cross-lane instruction at a pc are in one lane block, and every
lane that a member's mask names is a member or absent, every member at once goes on behind the instruction with its result, and no other thread
changes; where some member waits for a lane, or the gang is being saved (R83), nothing changes (R79). -/
def Obligations.CrossLaneInstructionsJoin : Prop :=
  (∀ (f : Fields) (s : State), let one := fun (b : Bool) => (if b then 1 else 0 : W64)
     let joins := fun (op : JoinOp) (a b c : W64) =>
       { s with th := { s.th with depA := a, depB := b, depC := c, status := .joining, wait := .join op f.dst } }
     (mayRun 0x40 f s = true →
       exec (.shfl f) s = .next (joins (.shfl (fbits f.func 1 0)) (src 0x40 f 0 s) (src 0x40 f 1 s) (src 0x40 f 2 s))) ∧
     (mayRun 0x41 f s = true → exec (.vote f) s = .next (joins (.vote (fbits f.func 1 0)) (one (predOf s f.a)) (src 0x41 f 1 s) 0)) ∧
     (mayRun 0x42 f s = true → exec (.ballot f) s = .next (joins .ballot (one (predOf s f.a)) (src 0x42 f 1 s) 0)) ∧
     (mayRun 0x43 f s = true →
       exec (.gscan f) s = .next (joins (.gscan (fbits f.func 11 9) (fbits f.func 8 7) (BitVec.ofNat 5 (tyOf f))) (src 0x43 f 0 s) (src 0x43 f 1 s) 0)) ∧
     (mayRun 0x36 f s = true → exec (.rjoin f) s = .next (joins .rjoin (src 0x36 f 0 s) (src 0x36 f 1 s) 0))) ∧
  (∀ (w pc blk : Nat) (s : State), let g := s.wgBy w; let l := s.joiners g (BitVec.ofNat 64 pc)
     s.suspends g = false → s.th.tid = 0 → (∀ t ∈ s.threads, t.tid ≠ 0) → (s.threads.map Thread.tid).Nodup → blk < 16 → l ≠ [] →
     (∀ t ∈ l, t.isRjoin = false ∧ t.index / 64 = blk) →
     (instanceFull g blk l = true →
       ∃ u : State, exec (.joinInstance w pc) s = .next u ∧
         (∀ t ∈ l, ∃ op d, t.wait = .join op d ∧ u.thread? t.tid = some (t.joined (s.core t.core).ccnt.toNat (joinResult op l t))) ∧
         (∀ t ∈ s.threads, t ∉ l → u.thread? t.tid = some t) ∧ u.mem = s.mem ∧ u.lmem = s.lmem ∧ u.net = s.net) ∧
     (instanceFull g blk l = false → exec (.joinInstance w pc) s = .next s)) ∧
  (∀ (w pc : Nat) (s : State), s.suspends (s.wgBy w) = true → exec (.joinInstance w pc) s = .next s)

/-- What each member of an instance gets, its members on distinct lanes (R80): `SHFL` the A value of its source lane, 0 where that lane is not in
its lane set; `BALLOT` the lanes of its lane set whose predicate is true; `VOTE` all, any and all equal over its lane set. -/
def Obligations.CrossLaneResults : Prop :=
  ∀ (l : List Thread) (t : Thread), (l.map (fun u => u.index % 64)).Nodup → t ∈ l →
    let inSet := fun (u : Thread) => u ∈ l ∧ bitOf t.joinMask (u.index % 64) = true
    (∀ mode : Nat, let s := shflLane mode (t.index % 64) t.depB
      (∀ u, inSet u → ((u.index % 64 : Nat) : Int) = s → (joinResult (.shfl mode) l t).1 = u.depA) ∧
      ((∀ u, inSet u → ((u.index % 64 : Nat) : Int) ≠ s) → (joinResult (.shfl mode) l t).1 = 0)) ∧
    (∀ k : Fin 64, (joinResult .ballot l t).1[k] = true ↔ ∃ u, inSet u ∧ u.index % 64 = k.val ∧ u.depA ≠ 0) ∧
    ((joinResult (.vote 0) l t).2 = true ↔ ∀ u, inSet u → u.depA ≠ 0) ∧
    ((joinResult (.vote 1) l t).2 = true ↔ ∃ u, inSet u ∧ u.depA ≠ 0) ∧
    ((joinResult (.vote 2) l t).2 = true ↔ (∀ u, inSet u → u.depA ≠ 0) ∨ (∀ u, inSet u → u.depA = 0))

/-! ## Memory (R86-R97, R249, R250) -/

/-- `LD` and `VLD` read their bytes where these are at hand, little-endian and extended to TYPE (R91, R249); a load of a leased buffer, and `LDK`, takes
them from the core's read cache where it holds the line under a lease (R91, R291). Nothing else changes but the recency and row counts of the ports.
A load of bytes at another core: `LD` and `VLD` migrate there; with STAY, and `LDK` always, the request goes to the home and the thread waits for
its answer (R90, R91). -/
def Obligations.LoadsReadTheirBytes : Prop :=
  (∀ (f : Fields) (s : State) (h : W64), let n := width (tyOf f) / 8
     let scalar := fun (bs : List Byte) (u : State) => finishQ f (extend (tyOf f) (leNat bs)) u
     let vector := fun (b : Nat) (bs : List Byte) (u : State) => finishV f (BitVec.ofNat 256 (leNat bs % 2 ^ b)) (tagOf (tyOf f)) u
     (mayRun 0x50 f s = true → effAddr (src 0x50 f 0 s) (disp f) = some h → offsetOf h % n = 0 →
       (∀ a, s.atHand h 0 n a → ∃ ps ds, exec (.ld f) s = .next (scalar (memRead s.mem a n) { s with ports := ps, dies := ds }))) ∧
     (mayRun 0xA0 f s = true → effAddr (src 0xA0 f 0 s) (disp f) = some h → offsetOf h % 32 = 0 → ∀ b, s.keptBits (tyOf f) = some b →
       (∀ a, s.atHand h 0 32 a → ∃ ps ds, exec (.vld f) s = .next (vector b (memRead s.mem a 32) { s with ports := ps, dies := ds }))) ∧
     (∀ e home bs, s.homedAt h 0 n e home → e.leased = true → dieOf home = dieOf s.th.core → s.ways s.th.core ≠ [] →
       (s.die (dieOf s.th.core)).dlease ≠ 0 → cached s s.th.asid h n s.th.core = some bs → offsetOf h % n = 0 →
       (mayRun 0x50 f s = true → effAddr (src 0x50 f 0 s) (disp f) = some h → exec (.ld f) s = .next (scalar bs s)) ∧
       (mayRun 0x52 f s = true → effAddr (src 0x52 f 0 s) (disp f) = some h → exec (.ldk f) s = .next (scalar bs s)))) ∧
  (∀ (f : Fields) (s : State) (h : W64) (e : BufEntry) (home : Nat),
     let asks := fun (n : Nat) (c : Cont) => awaitAnswer h c (s.send s.th.core home 0 (.read (ofThread s h n .read)))
     let n := width (tyOf f) / 8
     let c := Cont.load f.dst (ty5 f) (lenBytes f.len)
     e.leased = false → e.tier ≤ 1 → home ≠ s.th.core →
     (mayRun 0x50 f s = true → effAddr (src 0x50 f 0 s) (disp f) = some h → offsetOf h % n = 0 → s.homedAt h 0 n e home →
       exec (.ld f) s = .next (if stayOf f then asks n c else migrate home h s)) ∧
     (mayRun 0xA0 f s = true → effAddr (src 0xA0 f 0 s) (disp f) = some h → offsetOf h % 32 = 0 → s.homedAt h 0 32 e home →
       ∀ b, s.keptBits (tyOf f) = some b →
       exec (.vld f) s = .next (if stayOf f then asks 32 (.vload (vDst f) (ty5 f) b (lenBytes f.len)) else migrate home h s)) ∧
     (mayRun 0x52 f s = true → effAddr (src 0x52 f 0 s) (disp f) = some h → offsetOf h % n = 0 → s.homedAt h 0 n e home →
       exec (.ldk f) s = .next (asks n c)))

/-- `ST` and `VST`, a releasing one where nothing of the thread is outstanding: at another home the write leaves and the thread goes on at once, its write
outstanding, and the core's own copy of a leased line goes. `ST` at hand completes with the bytes of the value, little-endian, in memory at their
address, and every other byte, the local and the tile memories and the thread's registers as before (R88, R92). A `VST` whose home is the thread's own
core leaves for its port in the same way, because its four words are performed one by one (R250): the model's choice (log entry 23). -/
def Obligations.StoresWriteTheirBytes : Prop :=
  ∀ (f : Fields) (s : State) (h : W64) (vec : Bool),
    let op := if vec then 0xA1 else 0x51
    let i := if vec then Instr.vst f else Instr.st f
    let n := if vec then 32 else width (tyOf f) / 8
    let bs := if vec then leBytes 32 s.th.v[vReg f.b].toNat else leBytes n (valueBits 0x51 f (tyOf f) 1 s)
    mayRun op f s = true → (ordOf f = 2 → s.th.writes = [] ∧ s.th.fwd = []) → effAddr (src op f 0 s) (disp f) = some h → offsetOf h % n = 0 →
    (∀ e home, s.homedAt h 1 n e home → e.tier ≤ 1 → (home ≠ s.th.core ∨ vec = true) →
      exec i s = .next (finishU f (State.onTh { (if e.leased then s.dropLine h else s) with
        nextId := s.nextId + 1
        net := s.net ++ [⟨s.th.core, home, 0, false, .store { ofThread s h n .write with data := bs, wid := s.nextId }, .moving⟩] }
          (fun t => { t with writes := t.writes ++ [⟨s.nextId, .home e.tier, s.th.core, home, e.leased, h, .sent⟩] })))) ∧
    (∀ a, vec = false → s.atHand h 1 n a →
      ∃ t : State, exec i s = .next t ∧ t.mem = memWrite s.mem a bs ∧ t.th.status = s.th.running ∧
        (Memory.wf s.mem = true → ∀ x, memByte t.mem x = if a ≤ x ∧ x < a + n then bs.getD (x - a) 0 else memByte s.mem x) ∧
        t.lmem = s.lmem ∧ t.tmem = s.tmem ∧ t.wgs = s.wgs ∧ t.th.q = s.th.q ∧ t.th.n = s.th.n ∧ t.th.v = s.th.v ∧ t.th.p = s.th.p ∧
        t.th.pc = pcAdd s.th.pc (lenBytes f.len) ∧ (∃ w, t.th.writes = s.th.writes ++ [w] ∧ w.id = s.nextId ∧ w.handle = h))

/-- `LDL` and `VLDL` read local bytes, the thread's own last write to them first; `STL` and `VSTL` without release enter the bytes in the thread's
forwarding table, behind at most 15 others, and local memory keeps its bytes until they are performed (R93, R250, R295). -/
def Obligations.LocalAccesses : Prop :=
  ∀ (f : Fields) (s : State) (x : Nat), let n := width (tyOf f) / 8
    let plaza := plazaOf s.th.anchor
    let holds := fun (k : Nat) (bs : List Byte) =>
      (∃ w, (s.th.fwd.filter (fun w => w.overlaps x k)).getLast? = some w ∧ w.covers x k = true ∧ bs = (w.bytes.drop (x - w.addr)).take k) ∨
      (s.th.fwd.any (fun w => w.overlaps x k) = false ∧ (wordsOf x k).any (s.plaza plaza).soft.contains = false ∧
        bs = memRead s.lmem (localAt plaza x) k)
    let enters := fun (bs : List Byte) => finishU f (State.onTh { s with nextId := s.nextId + 1 }
      (fun t => { t with fwd := t.fwd ++ [⟨s.nextId, x, bs⟩] }))
    (mayRun 0x53 f s = true → s.localHand (localOff 0x53 f s) n n x → ∀ bs, holds n bs →
      exec (.ldl f) s = .next (finishQ f (extend (tyOf f) (leNat bs)) s)) ∧
    (mayRun 0xA2 f s = true → s.localHand (localOff 0xA2 f s) 32 32 x → ∀ bs b, holds 32 bs → s.keptBits (tyOf f) = some b →
      exec (.vldl f) s = .next (finishV f (BitVec.ofNat 256 (leNat bs % 2 ^ b)) (tagOf (tyOf f)) s)) ∧
    (s.th.fwd.length < 16 → ordOf f ≠ 2 →
      (mayRun 0x54 f s = true → s.localHand (localOff 0x54 f s) n n x →
        exec (.stl f) s = .next (enters (leBytes n (valueBits 0x54 f (tyOf f) 1 s)))) ∧
      (mayRun 0xA3 f s = true → s.localHand (localOff 0xA3 f s) 32 32 x →
        exec (.vstl f) s = .next (enters (leBytes 32 s.th.v[vReg f.b].toNat))))

/-- What stops an access where it stands, in order: an address outside the buffer's 48-bit range 0x06 with SY_FADDR = a, a misaligned one 0x0A, an
invalid descriptor 0x08, bytes beyond the length 0x06, a right that is missing 0x07 (atomics to tier HOST 0x07 too); of local accesses 0x0A, then
the return to the plaza, and there 0x04 in a spawned thread and outside the allocation (R23, R86, R87, R93). `FENCE.s` goes on where no write of the thread in its scope is outstanding,
takes the fault of one that has failed, parks the thread for one that is held, and waits for any other, then for local writes (R89, R96). `PRF` goes
on and never faults, whatever its address; where its core does not hold the buffer's entry it waits for that (R94, R287). That a local access checks its
alignment before the allocation is the model's choice (log entry 25). -/
def Obligations.AccessChecksFenceAndPrefetch : Prop :=
  (∀ (f : Fields) (s : State) (i : Instr) (op n kind : Nat), let w := width (tyOf f) / 8
     let a := src op f 0 s
     (mayRun op f s = true →
       (i, op, n, kind) ∈ [(Instr.st f, 0x51, w, 1), (Instr.vst f, 0xA1, 32, 1), (Instr.ldk f, 0x52, w, 0), (Instr.lres f, 0x63, w, 2),
         (Instr.scond f, 0x64, w, 2)] →
       (effAddr a (disp f) = none → exec i s = .next (raise 0x06 a s)) ∧
       (∀ h, effAddr a (disp f) = some h →
         (offsetOf h % n ≠ 0 → exec i s = .next (raise 0x0A h s)) ∧
         (offsetOf h % n = 0 →
           (lookupDesc s h = .invalid → exec i s = .next (raise 0x08 h s)) ∧
           (∀ e, lookupDesc s h = .hit e → e.tier ≤ 1 →
             (offsetOf h + n > e.length → exec i s = .next (raise 0x06 h s)) ∧
             (offsetOf h + n ≤ e.length → e.allows kind = false → exec i s = .next (raise 0x07 h s)))))) ∧
     (mayRun op f s = true → (i, op, n) ∈ [(Instr.ldl f, 0x53, w), (Instr.stl f, 0x54, w), (Instr.vstl f, 0xA3, 32)] →
       let o := localOff op f s
       (o % (n : Int) ≠ 0 → exec i s = .next (raise 0x0A (ofInt64 o) s)) ∧
       (o % (n : Int) = 0 → plazaOf s.th.core ≠ plazaOf s.th.anchor → exec i s = .next (migrate s.th.anchor 0 s)) ∧
       (o % (n : Int) = 0 → plazaOf s.th.core = plazaOf s.th.anchor → s.th.spawned = true ∨ o < 0 ∨ o + n > s.th.localLen →
         exec i s = .next (raise 0x04 0 s)))) ∧
  (∀ (f : Fields) (s : State),
     let out := s.th.writes.filter (fun w => w.core == s.th.core && inScope (scopeOf f) s.th.core s.th.anchor s.wg.lbase (s.wg.lbase + s.wg.localLen) w &&
       w.pending (s.dtcOf (dieOf s.th.core)))
     let notes := s.onTh (fun t => { t with awaited := out.map SentWrite.id })
     (mayRun 0x5A f s = true →
       (out = [] → (scopeOf f = 0 ∨ s.th.fwd = []) → exec (.fence f) s = .next (finishU f s)) ∧
       (out = [] → scopeOf f ≠ 0 → s.th.fwd ≠ [] → exec (.fence f) s = .next (block .waiting .localWrites s)) ∧
       ((∃ w ∈ out, ∃ c, w.state = .failed c) → ∃ w ∈ out, ∃ c, w.state = .failed c ∧
         exec (.fence f) s = .next (raise c w.handle (s.onTh (fun t => { t with writes := t.writes.filter (fun x => x.id != w.id) })))) ∧
       ((∀ w ∈ out, ∀ c, w.state ≠ .failed c) → (∃ w ∈ out, w.state = .held) →
         exec (.fence f) s = .next (block .parkedFault .writes (notes.countCore s.th.core 7))) ∧
       (out ≠ [] → (∀ w ∈ out, (∀ c, w.state ≠ .failed c) ∧ w.state ≠ .held) → exec (.fence f) s = .next (block .waiting .writes notes))) ∧
     (mayRun 0x55 f s = true → let a := src 0x55 f 0 s
       (effAddr a (disp f) = none → exec (.prf f) s = .next (finishU f s)) ∧
       (∀ h, effAddr a (disp f) = some h →
         (lookupDesc s h = .invalid → exec (.prf f) s = .next (finishU f s)) ∧
         (∀ e, lookupDesc s h = .hit e → ∃ u : State, exec (.prf f) s = .next (finishU f u) ∧
           u.th = s.th ∧ u.threads = s.threads ∧ u.lmem = s.lmem ∧ u.wgs = s.wgs) ∧
         (lookupDesc s h = .miss → exec (.prf f) s = .next (block .waiting (.descriptor s.th.asid (indexOf h)) s)))))

/-! ## Queues and banks (R98-R103) -/

/-- `QPUSH` with a credit sends its entry, padded with zeros to the entry size, on the route of its descriptor, takes the credit and counts the push; an
entry too large is 0x06, with no grant or no credit the thread waits. `QCNT` reads the credits of the core's table, or the fill, head or tail of a
bank of the allocation, 0 as the fill of a scratch bank (R98, R99, R103, R296, R396). `QPOP` of a bank with an entry copies the oldest entry to local memory, moves the head, returns
a credit to the producer and gives the entry size; of an empty bank it gives 0, or with W waits; of a bank that is no FIFO it is 0x0F. `BANKM` to
scratch or cache takes effect at once where the bank is no FIFO: cache clears it; a FIFO bank with entries is 0x0F (R100-R102, R398). -/
def Obligations.QueueAndBankInstructions : Prop :=
  (∀ (f : Fields) (s : State), let d := src 0x56 f 0 s
     let q := parseDesc d
     (mayRun 0x56 f s = true → (∀ c, descFault s d = some c → exec (.qpush f) s = .next (raise c d s)) ∧
       (descFault s d = none → ∀ bs, (fbits f.func 1 0 = 0 → bs = leBytes 8 (src 0x56 f 1 s).toNat) →
           (fbits f.func 1 0 = 1 → bs = leBytes 32 s.th.v[vReg f.b].toNat) →
           (2 ≤ fbits f.func 1 0 → let n := 8 * 2 ^ fbits f.func 3 2
             ∃ x, s.localHand (src 0x56 f 1 s).toInt n 1 x ∧ s.th.fwd.any (fun w => w.overlaps x n) = false ∧
               (wordsOf x n).any (s.plaza (plazaOf s.th.anchor)).soft.contains = false ∧ bs = memRead s.lmem (localAt (plazaOf s.th.anchor) x) n) →
         ((s.core s.th.core).credit? (queueKey d) = none → exec (.qpush f) s = .next (block .waiting (.credit (queueKey d)) s)) ∧
         (∀ e, (s.core s.th.core).credit? (queueKey d) = some e →
           (e.size < bs.length → exec (.qpush f) s = .next (raise 0x06 d s)) ∧
           (bs.length ≤ e.size → e.credits = 0 → ∃ t : State, exec (.qpush f) s = .next t ∧ t.th.status = .waiting ∧ t.th.wait = .credit (queueKey d) ∧
             t.th.pc = s.th.pc ∧ t.net = s.net ∧
             ((t.core s.th.core).credit? (queueKey d)).map CreditEntry.stalls = some (if s.th.stalled then e.stalls else e.stalls + 1)) ∧
           (bs.length ≤ e.size → e.credits ≠ 0 → ∃ t : State, exec (.qpush f) s = .next t ∧
             t.net = s.net ++ [⟨s.th.core, q.dst s.th.asid, 0, false, .entry (plazaOf q.core) (32 * (q.core % 8) + q.bank)
               (bs ++ List.replicate (e.size - bs.length) 0) s.th.tid s.nextId, .moving⟩] ∧
             (t.core s.th.core).credit? (queueKey d) = some { e with credits := e.credits - 1, pushed := e.pushed + 1 } ∧
             t.th = { s.th with
               writes := s.th.writes ++ [⟨s.nextId, .queue q.remote, s.th.core, q.dst s.th.asid, false, d, .sent⟩], stalled := false
               pc := pcAdd s.th.pc (lenBytes f.len), status := s.th.running, wait := .none, badIndex := none, images := [], got := [] } ∧
             t.mem = s.mem ∧ t.lmem = s.lmem ∧ t.threads = s.threads ∧ t.wgs = s.wgs)))) ∧
     (mayRun 0x58 f s = true → let a := src 0x58 f 0 s
       (fbits f.func 1 0 = 1 → descFault s a = none →
         exec (.qcnt f) s = .next (finishQ f (BitVec.ofNat 64 ((((s.core s.th.core).credit? (queueKey a)).map CreditEntry.credits).getD 0)) s)) ∧
       (fbits f.func 1 0 ≠ 1 → plazaOf s.th.core = plazaOf s.th.anchor → bankInside s (a.toNat % 256) = true →
         (∀ z n head tail fill p, (s.plaza (plazaOf s.th.anchor)).mode (a.toNat % 256) = .fifo z n head tail fill p →
           exec (.qcnt f) s = .next (finishQ f (BitVec.ofNat 64 (if fbits f.func 1 0 = 0 then fill else if fbits f.func 1 0 = 2 then head else tail)) s))) ∧
         (fbits f.func 1 0 = 0 → (s.plaza (plazaOf s.th.anchor)).isScratch (a.toNat % 256) = true → exec (.qcnt f) s = .next (finishQ f 0 s)))) ∧
  (∀ (f : Fields) (s : State), let plaza := plazaOf s.th.anchor
     (mayRun 0x57 f s = true → plazaOf s.th.core = plaza → let bank := (src 0x57 f 0 s).toNat % 256
       (bankInside s bank = false → exec (.qpop f) s = .next (raise 0x04 0 s)) ∧
       (bankInside s bank = true →
         ((s.plaza plaza).isScratch bank = true → exec (.qpop f) s = .next (raise 0x0F (BitVec.ofNat 64 bank) s)) ∧
         (∀ z n head tail fill p x, (s.plaza plaza).mode bank = .fifo z n head tail fill p → s.localHand (src 0x57 f 1 s).toInt z 1 x →
           s.th.fwd.any (fun w => w.overlaps x z) = false →
           (fill = 0 → exec (.qpop f) s = .next (if bitOf f.func.toNat 0 then block .waiting (.entry plaza bank) s else finishQ f 0 s)) ∧
           (fill ≠ 0 → (wordsOf (bank * 0x8000 + head * z) z).any (s.plaza plaza).soft.contains = false →
             ∃ u : State, exec (.qpop f) s = .next (finishQ f (BitVec.ofNat 64 z) u) ∧ u.th = s.th ∧ u.mem = s.mem ∧ u.wgs = s.wgs ∧
               u.lmem = memWrite s.lmem (localAt plaza x) (memRead s.lmem (localAt plaza (bank * 0x8000 + head * z)) z) ∧
               (u.plaza plaza).mode bank = .fifo z n ((head + 1) % n) tail (fill - 1) p ∧
               (p = none → u.net = s.net) ∧
               (∀ d, p = some d → u.net = s.net ++ [⟨bankCore plaza bank, s.producerAt plaza bank d, 2, false,
                 .credit (bankDesc plaza bank), .moving⟩]))))) ∧
     (mayRun 0x59 f s = true → let bank := (src 0x59 f 0 s).toNat % 256
       bankInside s bank = true → (s.plaza plaza).stage? bank = none →
       (∀ z n head tail fill p, (s.plaza plaza).mode bank = .fifo z n head tail fill p → 0 < fill → fbits f.func 1 0 ≤ 1 →
         exec (.bankm f) s = .next (raise 0x0F (BitVec.ofNat 64 bank) s)) ∧
       ((s.plaza plaza).mode bank = .scratch ∨ (s.plaza plaza).mode bank = .cache → fbits f.func 1 0 ≤ 1 →
         ∃ u : State, exec (.bankm f) s = .next (finishU f u) ∧ u.mem = s.mem ∧
           u.th = { s.th with status := u.th.status, wait := u.th.wait, since := u.th.since } ∧
           (u.plaza plaza).mode bank = (if fbits f.func 1 0 = 0 then .scratch else .cache) ∧
           (∀ b, b ≠ bank → (u.plaza plaza).mode b = (s.plaza plaza).mode b) ∧
           (fbits f.func 1 0 = 0 → u.lmem = s.lmem) ∧
           (fbits f.func 1 0 = 1 → ∀ x, localAt plaza (bank * 0x8000) ≤ x → x < localAt plaza (bank * 0x8000) + 0x8000 → u.lmem.all (fun c => c.1 != x) = true))))

/-! ## Atomics (R104-R108) -/

/-- What an atomic writes, o the old bytes and x the operand as unsigned numbers of TYPE's width: sums modulo 2^w, minimum and maximum by TYPE's order,
bitwise operations, exchange, and an increment that wraps at x; `CAS` writes only where o equals x, a store-conditional only where the reservation
is held; a reserving load writes nothing (R104, R107). `ATOM`, `ATOMF` and `CAS` on local bytes at hand, without release and behind the thread's own
writes: the bytes become what the operation gives, the old value extended to TYPE is the Result, sticky flags are added; a posted one has no Result
(R104, R105). -/
def Obligations.LocalAtomics : Prop :=
  (∀ (ty : BitVec 5) (held : Bool) (old b c : W64), let t := ty.toNat
     let o := pattern t old
     let x := pattern t b
     let new := fun (op : AtomOp) => (atomNew op ty held old b c).1
     new (.atom 0) = some ((o + x) % 2 ^ width t) ∧
     (∃ m, new (.atom 1) = some m ∧ (m = o ∨ m = x) ∧ (narrow t old < narrow t b → m = o) ∧ (narrow t b < narrow t old → m = x)) ∧
     (∃ m, new (.atom 2) = some m ∧ (m = o ∨ m = x) ∧ (narrow t old < narrow t b → m = x) ∧ (narrow t b < narrow t old → m = o)) ∧
     new (.atom 3) = some (o &&& x) ∧ new (.atom 4) = some (o ||| x) ∧ new (.atom 5) = some (o ^^^ x) ∧ new (.atom 6) = some x ∧
     (x ≤ o → new (.atom 7) = some 0) ∧ (o < x → new (.atom 7) = some (o + 1)) ∧
     (o = x → atomNew .cas ty held old b c = (some (pattern t c), true, 0)) ∧ (o ≠ x → atomNew .cas ty held old b c = (none, false, 0)) ∧
     atomNew .scond ty held old b c = (if held then some x else none, held, 0) ∧ atomNew .lres ty held old b c = (none, true, 0)) ∧
  (∀ (f : Fields) (s : State) (i : Instr) (op : Nat) (aop : AtomOp) (x : Nat), let n := width (tyOf f) / 8
     let plaza := plazaOf s.th.anchor
     (i, op, aop) ∈ [(Instr.atom f, 0x60, AtomOp.atom (fbits f.func 7 5)), (Instr.atomf f, 0x61, .atomf (fbits f.func 7 5)), (Instr.cas f, 0x62, .cas)] →
     mayRun op f s = true → isLocalAtomic f = true → hasRel f = false → s.localHand (localOff op f s) n n x →
     s.th.fwd.any (fun w => w.overlaps x n) = false → (wordsOf x n).any (s.plaza plaza).soft.contains = false →
     let old := BitVec.ofNat 64 (memNat s.lmem (localAt plaza x) n)
     let r := atomNew aop (ty5 f) false old (atomValue op f 1 s) (atomValue op f 2 s)
     ∃ u : State, exec i s = .next (if isPost f then finishU f u else finishQ f (extend (tyOf f) old.toNat) (u.onTh (fun t => t.flag r.2.2))) ∧
       u.th = s.th ∧ u.mem = s.mem ∧ u.tmem = s.tmem ∧ u.wgs = s.wgs ∧ u.net = s.net ∧
       (r.1 = none → u = s) ∧ (∀ v, r.1 = some v → u.lmem = memWrite s.lmem (localAt plaza x) (leBytes n v)))

/-- Atomics, a releasing one where nothing of the thread is outstanding, on bytes at hand are performed at once and indivisibly: the bytes become what the
operation gives, nothing else in memory changes, and the result is on its way to the thread, which waits for it; a posted one goes on. `LRES` reserves
the 64-byte unit, `SCOND` succeeds by the reservation and ends it. `WAITC` whose condition does not hold parks the thread with a monitor on the
location; one whose condition holds is woken. At another home the request of each leaves for it, and the thread waits for its answer; a posted one goes
on with its write outstanding, and the core's own copy of a leased line goes (R105, R107, R108, R358). -/
def Obligations.AtomicsAtHand : Prop :=
  ∀ (f : Fields) (s : State) (i : Instr) (op : Nat) (aop : AtomOp) (h : W64) (a : Nat), let n := width (tyOf f) / 8
    let core := s.th.core
    let length := lenBytes f.len
    s.th.tid ≠ 0 → mayRun op f s = true → effAddr (src op f 0 s) (disp f) = some h →
    ((i, op, aop) ∈ [(Instr.atom f, 0x60, AtomOp.atom (fbits f.func 7 5)), (Instr.atomf f, 0x61, .atomf (fbits f.func 7 5)), (Instr.cas f, 0x62, .cas),
        (Instr.lres f, 0x63, .lres), (Instr.scond f, 0x64, .scond)] →
      (op ≤ 0x62 → isLocalAtomic f = false) → (hasRel f = true → s.th.writes = [] ∧ s.th.fwd = []) → offsetOf h % n = 0 →
      let asks := { ofThread s h n .atomic with op := aop, ty := ty5 f, b := atomValue op f 1 s, c := atomValue op f 2 s, post := isPost f }
      (∀ e home, s.homedAt h 2 n e home → e.tier ≤ 1 → home ≠ core →
        let waits := awaitAnswer h (if op = 0x64 then .scond (pDst f) length else .atomic f.dst (ty5 f) length)
        let leaves := State.onTh { (if e.leased then s.dropLine h else s) with
          nextId := s.nextId + 1
          net := s.net ++ [⟨core, home, 0, false, .atomic { asks with wid := s.nextId }, .moving⟩] }
            (fun t => { t with writes := t.writes ++ [⟨s.nextId, .home e.tier, core, home, e.leased, h, .sent⟩] })
        (isPost f = false → exec i s = .next (waits (if e.leased then leaves else s.send core home 0 (.atomic asks)))) ∧
        (isPost f = true → exec i s = .next (finishU f leaves))) ∧
      (s.atHand h 2 n a →
      let old := BitVec.ofNat 64 (memNat s.mem a n)
      let r := atomNew aop (ty5 f) ((s.port core).holds (.thread s.th.tid) (a / 64)) old (atomValue op f 1 s) (atomValue op f 2 s)
      ∃ t : State, exec i s = .next t ∧ t.lmem = s.lmem ∧ t.tmem = s.tmem ∧ t.wgs = s.wgs ∧
        t.th.q = s.th.q ∧ t.th.n = s.th.n ∧ t.th.v = s.th.v ∧ t.th.p = s.th.p ∧ t.th.fpflags = s.th.fpflags ∧
        (r.1 = none → t.mem = s.mem) ∧
        (∀ v, r.1 = some v → t.mem = memWrite s.mem a (leBytes n v) ∧ (Memory.wf s.mem = true →
          ∀ x, memByte t.mem x = if a ≤ x ∧ x < a + n then (leBytes n v).getD (x - a) 0 else memByte s.mem x)) ∧
        (isPost f = true → t.th.pc = pcAdd s.th.pc (lenBytes f.len) ∧ t.th.status = s.th.running) ∧
        (isPost f = false → t.th.pc = s.th.pc ∧ t.th.status = .waiting ∧
          ⟨core, core, 1, false, .result s.th.tid old r.2.1 r.2.2 0 0, .moving⟩ ∈ t.net) ∧
        (op = 0x63 → (t.port core).holds (.thread s.th.tid) (a / 64) = true) ∧
        (op = 0x64 → ∀ u, (t.port core).holds (.thread s.th.tid) u = false))) ∧
    (i = .waitc f → op = 0x65 → let ty := fbits f.func 8 4
      let k := width ty / 8
      let met := condHolds (fbits f.func 3 0) ty (BitVec.ofNat 64 (memNat s.mem a k)) (src 0x65 f 1 s)
      offsetOf h % k = 0 →
      (∀ e home, s.homedAt h 0 k e home → e.tier ≤ 1 → home ≠ core → exec i s = .next ((awaitAnswer h (.monitor length) s).send core home 0
        (.arm { ofThread s h k .read with
          monitor := true, ty := BitVec.ofNat 5 ty, cond := BitVec.ofNat 4 (fbits f.func 3 0), b := src 0x65 f 1 s }))) ∧
      (s.atHand h 0 k a → (s.port core).monitors.length < 4096 → ∃ t : State, exec i s = .next t ∧ t.mem = s.mem ∧ t.th.pc = s.th.pc ∧
        (met = true → t.th.status = .waiting ∧ ⟨core, core, 2, false, .wake s.th.tid 0, .moving⟩ ∈ t.net) ∧
        (met = false → t.th.status = .parkedMonitor ∧ ∃ m ∈ (t.port core).monitors, m.tid = s.th.tid ∧ m.cell = a ∧ m.value = src 0x65 f 1 s)))

/-! ## Waiting, moving and starting threads (R109-R118, R206, R378-R393) -/

/-- `SLEEP`, `YIELD` and `IDLE`: the thread sleeps, with its pc behind the instruction but for `SLEEP.PROMISE`, until the time, promise or kick that
the instruction names; nothing but the thread changes (and the model's counter that numbers the `IDLE`s), and for an `IDLE` away from the anchor the
message that asks for the kick (R109, R110, R206). -/
def Obligations.SleepYieldAndIdle : Prop :=
  ∀ (f : Fields) (s : State), let now := s.dtcOf (dieOf s.th.core)
    let after := pcAdd s.th.pc (lenBytes f.len)
    let sleeps := fun (i : Instr) (mode : Nat) (pc : W64) (net : List Msg) (t : State) =>
      exec i s = .next t ∧ t = { s with th := t.th, net := net, nextId := t.nextId } ∧ t.th.status = .sleeping ∧ t.th.wait = .sleep ∧ t.th.smode = mode ∧ t.th.pc = pc ∧
      t.th.q = s.th.q ∧ t.th.n = s.th.n ∧ t.th.v = s.th.v ∧ t.th.p = s.th.p
    (mayRun 0x66 f s = true → let a := src 0x66 f 0 s
      (fbits f.func 1 0 = 0 → ∃ t, sleeps (.sleep f) 0 after s.net t ∧ t.th.wdie = dieOf s.th.core ∧ (now.toNat + a.toNat < 2 ^ 64 → t.th.wake = now + a)) ∧
      (fbits f.func 1 0 = 1 → ∃ t, sleeps (.sleep f) 1 after s.net t ∧ t.th.wdie = dieOf s.th.core ∧ t.th.wake = a) ∧
      (fbits f.func 1 0 = 2 → ∃ t, sleeps (.sleep f) 2 s.th.pc s.net t ∧ t.th.wake.toNat = a.toNat % 2 ^ 56 ∧
        t.th.wjob.toNat = (src 0x66 f 1 s).toNat / 2 ^ 56 ∧ t.th.wdie = (if s.th.spawned then dieOf s.th.core else dieOf s.th.anchor))) ∧
    (mayRun 0x67 f s = true → exec (.yield f) s = .next { s with th := { s.th with
      pc := after, status := .sleeping, wait := .yield, badIndex := none, images := [], got := [] } }) ∧
    (mayRun 0xF4 f s = true → let a := src 0xF4 f 0 s
      (s.th.core = s.th.anchor → s.th.spawned = false → ∃ t, sleeps (.idle f) 3 after s.net t ∧ t.th.kick0 = some s.wg.kick ∧
        (a = 0 → t.th.wake = 0) ∧ (a ≠ 0 → now.toNat + a.toNat < 2 ^ 64 → t.th.wake = now + a)) ∧
      (s.th.core ≠ s.th.anchor → s.th.spawned = false →
        ∃ t, sleeps (.idle f) 3 after (s.net ++ [⟨s.th.core, s.th.anchor, 2, false, .kick s.wg.wid false s.th.tid s.nextId, .moving⟩]) t ∧
          t.th.kick0 = none ∧ t.th.nap = s.nextId))

/-- `BAR` and `GBAR` count one arrival at their barrier and make the thread JOINING, `BAR.BATCH` with the bit of its batch (R379-R382). `PBARI` makes
the barrier of the lowest free index, 0 where none is free; `PBARA` sends an arrival and goes on, `PBARW` sends its wait and waits (R383-R385). -/
def Obligations.BarriersOfEachLevel : Prop :=
  ∀ (f : Fields) (s : State),
    (mayRun 0x68 f s = true → let a := (src 0x68 f 0 s).toNat
      let b := src 0x68 f 1 s
      let batch := bitOf f.func.toNat 0
      (s.th.bars ≤ a → exec (.bar f) s = .next (raise 0x04 0 s)) ∧
      (a < s.th.bars → batch = true → 4 ≤ b.toNat → exec (.bar f) s = .next (raise 0x06 b s)) ∧
      (a < s.th.bars → (batch = true → b.toNat < 4) → exec (.bar f) s = .next (State.onTh (s.putWg { s.wg with
        bar := vset s.wg.bar a { s.wg.barOf a with
          arrived := (s.wg.barOf a).arrived + 1
          bmask := if batch then (s.wg.barOf a).bmask ||| (1 <<< b.toNat) else (s.wg.barOf a).bmask } })
        (fun t => { t with status := .joining, wait := .bar a (if batch then some b.toNat else none) (fbits f.func 3 1) })))) ∧
    (mayRun 0x69 f s = true → let h := s.headOf s.th.launch s.th.gang
      exec (.gbar f) s = .next (State.onTh (s.putWg { h with gbarArr := h.gbarArr + 1 }) (fun t => { t with status := .joining, wait := .gbar }))) ∧
    (mayRun 0x6A f s = true → let a := src 0x6A f 0 s
      let d := s.die (dieOf s.th.core)
      (a.toNat = 0 ∨ 65535 < a.toNat → exec (.pbari f) s = .next (raise 0x06 a s)) ∧
      (0 < a.toNat → a.toNat ≤ 65535 →
        (freeIndex (d.barriers.map ModBarrier.index) 65535 = none → exec (.pbari f) s = .next (finishQ f 0 s)) ∧
        (∀ k, freeIndex (d.barriers.map ModBarrier.index) 65535 = some k → d.syeBytes + 32 ≤ syeRoom →
          k ≠ 0 ∧ (∀ b ∈ d.barriers, b.index ≠ k) ∧ (∀ j, 0 < j → j < k → ∃ b ∈ d.barriers, b.index = j) ∧
          ∃ u : State, exec (.pbari f) s = .next (finishQ f (BitVec.ofNat 64 (dieOf s.th.core * 2 ^ 28 + k)) u) ∧ u = { s with dies := u.dies } ∧
            (u.die (dieOf s.th.core)).barrier? k = some
              { index := k, asid := s.th.asid, job := s.th.job, parties := a.toNat, arrivals := 0, phase := 0, broken := false, last := none,
                records := [], waiters := [] }))) ∧
    (∀ id b, syeIdBad id = false → (s.die (syeDie id)).barrier? (syeIndex id) = some b → b.asid = s.th.asid → s.sawLoss (syeDie id) = false →
      let sent := fun (op : Nat) => s.send s.th.core (64 * syeDie id) 2 (.barrier op b.index b.asid s.th.identity s.th.tid)
      (mayRun 0x6B f s = true → id = src 0x6B f 0 s → exec (.pbara f) s = .next (finishU f (sent 0))) ∧
      (mayRun 0x6C f s = true → id = src 0x6C f 0 s → exec (.pbarw f) s = .next (awaitAnswer id (.release (pDst f) (lenBytes f.len)) (sent 1))))

/-- `NBPOST`, `NBVIEW`, `NBLOAD` and `NBGEN` of a board of the thread's ASID send their request to its synchronisation engine and wait for the reply;
a slot beyond the board is 0x06, another ASID's or no board 0x08; `NBMASK` reads the thread's own view (R387-R392). -/
def Obligations.BoardInstructions : Prop :=
  ∀ (f : Fields) (s : State), let k := Fin.ofNat 4 (vmOf f)
    let asks := fun (id : W64) (op slot : Nat) (v : W64) (g : BitVec 16) (m : W64) (c : Cont) =>
      awaitAnswer id c (s.send s.th.core (64 * syeDie id) 2 (.board op (syeIndex id) s.th.asid slot v s.th.tid g m))
    (∀ id x, syeIdBad id = false → (s.die (syeDie id)).board? (syeIndex id) = some x → x.asid = s.th.asid → s.sawLoss (syeDie id) = false →
      (mayRun 0x78 f s = true → id = src 0x78 f 0 s → let b := src 0x78 f 1 s
        (x.n ≤ b.toNat → exec (.nbpost f) s = .next (raise 0x06 b s)) ∧
        (b.toNat < x.n → exec (.nbpost f) s = .next (asks id 0 b.toNat (src 0x78 f 2 s) 0 0 (.view k f.dst (lenBytes f.len))))) ∧
      (mayRun 0x7A f s = true → id = src 0x7A f 0 s → exec (.nbview f) s = .next (asks id 1 0 0 0 0 (.view k f.dst (lenBytes f.len)))) ∧
      (mayRun 0x79 f s = true → id = (viewOf s (vmOf f)).board.zeroExtend 64 → (viewOf s (vmOf f)).board ≠ 0 → let a := src 0x79 f 0 s
        (x.n ≤ a.toNat → exec (.nbload f) s = .next (raise 0x06 a s)) ∧
        (a.toNat < x.n → exec (.nbload f) s = .next
          (asks id 2 a.toNat 0 (viewOf s (vmOf f)).gen (viewOf s (vmOf f)).mask (.slot k f.dst (lenBytes f.len))))) ∧
      (mayRun 0x7C f s = true → id = src 0x7C f 0 s → (s.job? s.th.job).map (fun j => (j.asid, indexOf j.image)) = some (x.asid, indexOf x.image) →
        let cond := bitOf f.func.toNat 0
        (cond = true → (src 0x7C f 1 s).toNat < 2 ^ 16) →
        exec (.nbgen f) s = .next (asks id 3 0 (if cond then 1 else 0) (BitVec.ofNat 16 (src 0x7C f 1 s).toNat) 0 (.gen (lenBytes f.len))))) ∧
    (mayRun 0x7A f s = true → let id := src 0x7A f 0 s
      (syeIdBad id = true → exec (.nbview f) s = .next (raise 0x06 id s)) ∧
      (syeIdBad id = false → (∀ x, (s.die (syeDie id)).board? (syeIndex id) = some x → x.asid ≠ s.th.asid) → exec (.nbview f) s = .next (raise 0x08 id s))) ∧
    (mayRun 0x7B f s = true → let v := viewOf s (vmOf f)
      exec (.nbmask f) s = .next (finishQ f (if fbits f.func 3 2 = 0 then v.mask else if fbits f.func 3 2 = 1 then v.level.zeroExtend 64
        else if fbits f.func 3 2 = 2 then v.gen.zeroExtend 64 else v.status.zeroExtend 64) s))

/-- `MIGR` sends the thread's context to a core, or to the home of a handle, and does nothing where that is the thread's own; a core that no
configuration has is 0x06. `HOME` gives the home. `SPAWN` makes a thread with b and c in N0 and N1 and sends it to the home of a, its write
outstanding; `SPAWN.P` puts it in the plaza's spawn queue (R111-R114). That a spawn by a thread of a peer's job is counted there by a message is the
model's choice (log entry 111), and so is the one byte that `SPAWN.AT` checks (log entry 35). -/
def Obligations.MigrateHomeAndSpawn : Prop :=
  ∀ (f : Fields) (s : State),
    (mayRun 0x70 f s = true → let a := src 0x70 f 0 s
      (bitOf f.func.toNat 0 = false →
        (512 ≤ a.toNat → exec (.migr f) s = .next (raise 0x06 a s)) ∧
        (a.toNat = s.th.core → a.toNat < 512 → exec (.migr f) s = .next (finishU f s)) ∧
        (a.toNat < 512 → a.toNat ≠ s.th.core → s.th.hnd = false → s.dieUp (dieOf a.toNat) = true → s.th.writes = [] → s.th.fwd = [] →
          ∃ t : State, exec (.migr f) s = .next t ∧ t.th.status = .outbound ∧ t.th.core = s.th.core ∧ t.th.pc = s.th.pc ∧ t.th.q = s.th.q ∧
            t.th.n = s.th.n ∧ t.mem = s.mem ∧ t.threads = s.threads ∧ (∀ p ∈ t.ports, ∀ r ∈ p.resv, r.1 ≠ s.th.tid) ∧
            t.net = s.net ++ [⟨s.th.core, a.toNat, 0, !s.th.spawned && a.toNat == s.th.anchor, .context s.th.tid, .moving⟩])) ∧
      (bitOf f.func.toNat 0 = true → ∀ h e, effAddr a (disp f) = some h → lookupDesc s h = .hit e → let l := homeLoc s.conf.lc e (offsetOf h)
        (e.tier = 2 → exec (.migr f) s = .next (raise 0x07 h s)) ∧
        (e.tier ≤ 1 → exec (.migr f) s = .next (if l.home = s.th.core then finishU f s else migrate l.home h s)))) ∧
    (mayRun 0x73 f s = true → ∀ e, let a := src 0x73 f 0 s
      lookupDesc s a = .hit e → e.tier ≤ 2 → exec (.home f) s = .next (finishQ f (BitVec.ofNat 64 (homeLoc s.conf.lc e (offsetOf a)).home) s)) ∧
    (mayRun 0x71 f s = true → let child := fun (u : Thread) => u.pc = pcAdd s.th.pc (4 * disp f) ∧ u.n[0] = src 0x71 f 1 s ∧ u.n[1] = src 0x71 f 2 s ∧
        (∀ k : Fin 32, 2 ≤ k.val → u.n[k] = 0) ∧ u.q = Vector.replicate 16 0 ∧ u.spawned = true ∧ u.tid = s.nextTid ∧ u.asid = s.th.asid ∧
        u.launch = s.th.launch ∧ u.nbud = s.th.snbud ∧ u.vbud = s.th.svbud ∧ u.hnd = false
      let counts := fun (net : List Msg) (w : State) => (s.th.job < 2 ^ 24 → w.net = net) ∧ (2 ^ 24 ≤ s.th.job → s.job? s.th.job = none →
        w.net = net ++ [⟨s.th.core, 1024 * (s.th.job / 2 ^ 24), 2, false, .awaySpawn s.th.job s.th.launch true, .moving⟩])
      (bitOf f.func.toNat 0 = true → let p := s.plaza (plazaOf s.th.core)
        (1024 ≤ p.spawnQ.length → exec (.spawn f) s = .next (block .waiting (.spawnQueue (plazaOf s.th.core)) s)) ∧
        (p.spawnQ.length < 1024 → ∃ u w, child u ∧ exec (.spawn f) s = .next (finishU f w) ∧ w.th = s.th ∧ w.mem = s.mem ∧ counts s.net w ∧
          (w.plaza (plazaOf s.th.core)).spawnQ = p.spawnQ ++ [u] ∧ w.nextTid = s.nextTid + 1)) ∧
      (bitOf f.func.toNat 0 = false → ∀ e, let a := src 0x71 f 0 s
        lookupDesc s a = .hit e → let home := (homeLoc s.conf.lc e (offsetOf a)).home
        (e.length ≤ offsetOf a → exec (.spawn f) s = .next (raise 0x06 a s)) ∧
        (offsetOf a < e.length → 2 ≤ e.tier → exec (.spawn f) s = .next (raise 0x07 a s)) ∧
        (offsetOf a < e.length → e.tier ≤ 1 → homeDead s e home = false → ∃ u w, child u ∧ exec (.spawn f) s = .next (finishU f w) ∧
          counts (s.net ++ [⟨s.th.core, home, 0, false, .spawn u s.nextId s.th.tid, .moving⟩]) w ∧ w.mem = s.mem ∧
          w.th = { s.th with writes := s.th.writes ++ [⟨s.nextId, .spawn, s.th.core, home, false, a, .sent⟩] })))

/-- `LAUNCH` of a kernel of the job's image, with no write outstanding and its argument words at hand: a launch with the next number joins the graph, its
request goes to the active hub, and the number is the Result. `CANCEL` marks the level it names; `CWAIT`, with no write outstanding, waits for an
object that is not complete, and gives whether a complete one ended without cancellation or error (R115-R118). That the number is taken as the
instruction executes, and that the argument block is aligned to 8, are the model's choices (log entries 49, 50). -/
def Obligations.LaunchCancelAndWait : Prop :=
  ∀ (f : Fields) (s : State) (j : Job), s.job? s.th.job = some j →
    (mayRun 0x72 f s = true → let a := src 0x72 f 0 s
      let c := src 0x72 f 2 s
      ((s.imageOf j).bind (fun i => i.kdesc? a) = none → exec (.launch f) s = .next (raise 0x08 a s)) ∧
      (∀ k, (s.imageOf j).bind (fun i => i.kdesc? a) = some k →
        (2 ^ 32 ≤ c.toNat → exec (.launch f) s = .next (raise 0x06 c s)) ∧
        (c.toNat < 2 ^ 32 → s.th.writes = [] → s.th.fwd = [] → ∀ (ws : List W64) (s2 : State), let b := src 0x72 f 1 s
          let n := bits f.ext.toNat 4 0
          (n = 0 → ws = [] ∧ s2 = s) → (n ≠ 0 → offsetOf b % 8 = 0 ∧ ∃ bs, (∀ k, readHandle b (8 * n) k s = k bs s2) ∧
            ws = (List.range n).map (fun q => BitVec.ofNat 64 (leNat ((bs.drop (8 * q)).take 8)))) → s2 = { s with ports := s2.ports, dies := s2.dies } → (j.tcbs.filter (fun t => !t.complete)).length < 4096 →
          j.tcbs.length < 65536 → ∃ u : State, exec (.launch f) s = .next (finishQ f (BitVec.ofNat 64 s.gs.nextLaunch) u) ∧ u.th = s.th ∧ u.mem = s.mem ∧
            u.gs.nextLaunch = s.gs.nextLaunch + 1 ∧ u.net = s.net ++ [⟨s.th.core, 0x200 + 64 * s.activeHub, 0, false, .hub 0 j.num j.tcbs.length, .moving⟩] ∧
            ∃ t j', u.job? j.num = some j' ∧ j'.tcbs = j.tcbs ++ [t] ∧ t.launch = s.gs.nextLaunch ∧ t.kdesc = a ∧ t.args = b ∧ t.words = ws ∧
              t.gangs = c.toNat ∧ t.child = true ∧ t.built = false ∧ t.index = j.tcbs.length))) ∧
    (mayRun 0x74 f s = true → ∃ u : State, exec (.cancel f) s = .next (finishU f u) ∧ u.th = s.th ∧ u.mem = s.mem ∧ u.net = s.net ∧
      ∃ j', u.job? j.num = some j' ∧ j'.tcbs = j.tcbs.map (fun t =>
          if !t.complete && (fbits f.func 1 0 != 0 || t.launch == (src 0x74 f 0 s).toNat % 2 ^ 32) then { t with cancel := true } else t) ∧
        (fbits f.func 1 0 = 0 → j'.cancelGraph = j.cancelGraph ∧ j'.cancelJob = j.cancelJob) ∧
        (fbits f.func 1 0 = 1 ∨ fbits f.func 1 0 = 2 → j'.cancelGraph = true ∧ j'.cancelJob = j.cancelJob) ∧
        (fbits f.func 1 0 = 3 → j'.cancelGraph = true ∧ j'.cancelJob = true)) ∧
    (mayRun 0x75 f s = true → let a := src 0x75 f 0 s
      (fbits f.func 1 0 = 0 → (2 ^ 32 ≤ a.toNat → exec (.cwait f) s = .next (raise 0x06 a s)) ∧
        (a.toNat < 2 ^ 32 → s.th.writes = [] → s.th.fwd = [] → (a.toNat = s.th.launch ∨ j.tcbOf a.toNat = none → exec (.cwait f) s = .next (raise 0x08 a s)) ∧
          (∀ t, a.toNat ≠ s.th.launch → j.tcbOf a.toNat = some t →
            exec (.cwait f) s = .next (if t.complete then finishP f (t.state == 3) s else block .waiting .object s)))) ∧
      (fbits f.func 1 0 = 3 → ∀ k, a.toNat < 2 ^ 24 → s.th.writes = [] → s.th.fwd = [] → s.job? a.toNat = some k → k.asid = s.th.asid → k.num ≠ s.th.job →
        (k.stage ≠ 4 → exec (.cwait f) s = .next (block .waiting .object s)) ∧
        (k.stage = 4 → s.laterDone k < 256 → exec (.cwait f) s = .next (finishP f (k.outcome == 0) s))))

/-! ## Floating point (R221-R247) -/

/-- The exact results that are rounded: a sum of finite terms, a product, a product with an addend is the number itself; a quotient is the number or,
with the sticky mark, lies below the next multiple of its last bit, and so do a square root and its reciprocal; powers of two and their logarithms
are exact; a minimum or maximum is one of its operands; ∞ − ∞, 0 · ∞, 0 / 0, ∞ / ∞ and roots and logarithms of negative numbers are invalid and a
finite number over 0 divides by zero (R242, R243). `FADD`, `FSUB`, `FMUL`, `FMA`, `FDIV`, `FSQRT`, `FRCP`, `FRSQ`, `FEX2`, `FLG2`, `FMIN` and `FMAX`
complete: the sources decoded under TYPE, the exact result of the operation, rounded once to TYPE in the mode of RM, NV for a signalling NaN added,
the code in the low bits of the Result and the flags OR-ed into FPFLAGS (R239, R242). -/
def Obligations.FloatArithmeticResults : Prop :=
  ((∀ (rm : Nat) (l : List Val), (∀ v ∈ l, ∃ b m e, v = .fin b m e) →
     ∃ b m e, sumVals rm l = ⟨.fin b m e, false, 0⟩ ∧ (Val.fin b m e).rat = (l.map Val.rat).sum) ∧
   (∀ (b b' : Bool) (m m' : Nat) (e e' : Int), ∃ c k g, mulVal (.fin b m e) (.fin b' m' e') = ⟨.fin c k g, false, 0⟩ ∧
     (Val.fin c k g).rat = (Val.fin b m e).rat * (Val.fin b' m' e').rat) ∧
   (∀ (rm : Nat) (b b' b'' : Bool) (m m' m'' : Nat) (e e' e'' : Int),
     ∃ c k g, fmaVal rm (.fin b m e) (.fin b' m' e') (.fin b'' m'' e'') = ⟨.fin c k g, false, 0⟩ ∧
       (Val.fin c k g).rat = (Val.fin b m e).rat * (Val.fin b' m' e').rat + (Val.fin b'' m'' e'').rat) ∧
   (∀ (b b' : Bool) (m m' : Nat) (e e' : Int), m' ≠ 0 → ∃ k g st, divVal (.fin b m e) (.fin b' m' e') = ⟨.fin (b != b') k g, st, 0⟩ ∧
     (Val.fin false k g).rat ≤ (Val.fin false m e).rat / (Val.fin false m' e').rat ∧
     (Val.fin false m e).rat / (Val.fin false m' e').rat < (Val.fin false (k + 1) g).rat ∧
     (st = false ↔ (Val.fin false k g).rat = (Val.fin false m e).rat / (Val.fin false m' e').rat)) ∧
   (∀ (rm : Nat) (b : Bool) (m : Nat) (e : Int), sumVals rm [.inf b, .inf !b] = ⟨.nan false, false, flagNV⟩ ∧
     mulVal (.inf b) (.fin b 0 e) = ⟨.nan false, false, flagNV⟩ ∧ divVal (.fin b 0 e) (.fin b 0 e) = ⟨.nan false, false, flagNV⟩ ∧
     divVal (.inf b) (.inf b) = ⟨.nan false, false, flagNV⟩ ∧ (m ≠ 0 → divVal (.fin b m e) (.fin false 0 e) = ⟨.inf b, false, flagDZ⟩)) ∧
   (∀ (m : Nat) (e : Int), m ≠ 0 →
     (∃ k g st, sqrtVal (.fin false m e) = ⟨.fin false k g, st, 0⟩ ∧ (Val.fin false k g).rat ^ 2 ≤ (Val.fin false m e).rat ∧
       (Val.fin false m e).rat < (Val.fin false (k + 1) g).rat ^ 2 ∧ (st = false ↔ (Val.fin false k g).rat ^ 2 = (Val.fin false m e).rat)) ∧
     (∃ k g st, rsqVal (.fin false m e) = ⟨.fin false k g, st, 0⟩ ∧ (Val.fin false k g).rat ^ 2 * (Val.fin false m e).rat ≤ 1 ∧
       1 < (Val.fin false (k + 1) g).rat ^ 2 * (Val.fin false m e).rat ∧
       (st = false ↔ (Val.fin false k g).rat ^ 2 * (Val.fin false m e).rat = 1)) ∧
     sqrtVal (.fin true m e) = ⟨.nan false, false, flagNV⟩ ∧ rsqVal (.fin true m e) = ⟨.nan false, false, flagNV⟩ ∧
     log2Val (.fin true m e) = ⟨.nan false, false, flagNV⟩) ∧
   (∀ (b : Bool) (e : Int), sqrtVal (.fin b 0 e) = ⟨.fin b 0 0, false, 0⟩ ∧ rsqVal (.fin b 0 e) = ⟨.inf b, false, flagDZ⟩ ∧
     log2Val (.fin b 0 e) = ⟨.inf true, false, flagDZ⟩ ∧ exp2Val (.inf b) = ⟨if b then .fin false 0 0 else .inf false, false, 0⟩) ∧
   (∀ (b : Bool) (m k : Nat), m * 2 ^ k ≤ 2000 →
     exp2Val (.fin b m (k : Int)) = ⟨.fin false 1 (if b then -((m * 2 ^ k : Nat) : Int) else ((m * 2 ^ k : Nat) : Int)), false, 0⟩) ∧
   (∀ (k : Nat) (e : Int), ∃ c m g, log2Val (.fin false (2 ^ k) e) = ⟨.fin c m g, false, 0⟩ ∧ (Val.fin c m g).rat = ((e + k : Int) : ℚ)) ∧
   (∀ (b b' : Bool) (m m' : Nat) (e e' : Int), let u := Val.fin b m e; let v := Val.fin b' m' e'
     (minVal u v = u ∨ minVal u v = v) ∧ (minVal u v).rat ≤ u.rat ∧ (minVal u v).rat ≤ v.rat ∧
     (maxVal u v = u ∨ maxVal u v = v) ∧ u.rat ≤ (maxVal u v).rat ∧ v.rat ≤ (maxVal u v).rat) ∧
   (∀ (v : Val) (g : Bool), v.isNan = false → minVal (.nan g) v = v ∧ minVal v (.nan g) = v ∧ maxVal (.nan g) v = v ∧ maxVal v (.nan g) = v)) ∧
  (∀ (f : Fields) (s : State),
     let gives := fun (op n : Nat) (i : Instr) (r : List Val → Exact) => mayRun op f s = true →
       let l := (List.range n).map (fun k => floatSrc op f (stdFmt (tyOf f)) (fziOf f) k s)
       let c := Exact.round { r l with flags := (r l).flags ||| (if l.any Val.isSig then flagNV else 0) } (stdFmt (tyOf f)) (rmOf f) (fzoOf f) false
       exec i s = .next (finishQ f (BitVec.ofNat 64 c.1) { s with th := { s.th with fpflags := s.th.fpflags ||| c.2 } })
     gives 0x80 2 (.fadd f) (fun l => sumVals (rmOf f) [arg l 0, arg l 1]) ∧
     gives 0x81 2 (.fsub f) (fun l => sumVals (rmOf f) [arg l 0, (arg l 1).neg]) ∧
     gives 0x82 2 (.fmul f) (fun l => mulVal (arg l 0) (arg l 1)) ∧
     gives 0x83 3 (.fma f) (fun l => fmaVal (rmOf f) (arg l 0) (arg l 1) (arg l 2)) ∧
     gives 0x84 2 (.fdiv f) (fun l => divVal (arg l 0) (arg l 1)) ∧
     gives 0x85 1 (.fsqrt f) (fun l => sqrtVal (arg l 0)) ∧
     gives 0x86 1 (.frcp f) (fun l => divVal (.fin false 1 0) (arg l 0)) ∧
     gives 0x87 1 (.frsq f) (fun l => rsqVal (arg l 0)) ∧
     gives 0x88 1 (.fex2 f) (fun l => exp2Val (arg l 0)) ∧
     gives 0x89 1 (.flg2 f) (fun l => log2Val (arg l 0)) ∧
     gives 0x8A 2 (.fmin f) (fun l => exactVal (minVal (arg l 0) (arg l 1))) ∧
     gives 0x8B 2 (.fmax f) (fun l => exactVal (maxVal (arg l 0) (arg l 1))))

/-- `FCMP`, `FCLS` and the conversions, for every format the thread has: compare by COND with NV for a signalling NaN and for any NaN under an
ordering, one class bit, one rounding of the source's value; `FMTR` reads and `FMTW` writes, at the end of the cc, a format register
(R244-R247, R260). -/
def Obligations.CompareClassConvertAndFormats : Prop :=
  ∀ (f : Fields) (s : State), let F := stdFmt (tyOf f)
    let flags := fun (x : BitVec 7) => { s with th := { s.th with fpflags := s.th.fpflags ||| x } }
    (mayRun 0x8C f s = true → let cond := fbits f.func 8 5
      let a := floatSrc 0x8C f F (bitOf f.func.toNat 9) 0 s
      let b := floatSrc 0x8C f F (bitOf f.func.toNat 9) 1 s
      exec (.fcmp f) s = .next (finishP f (condFloat cond (cmpVal a b)) (flags
        (if a.isSig || b.isSig || ((a.isNan || b.isNan) && 2 ≤ cond && cond ≤ 5) then flagNV else 0)))) ∧
    (mayRun 0x8D f s = true → ∃ k : Nat, k < 10 ∧ exec (.fcls f) s = .next (finishQ f (BitVec.ofNat 64 (2 ^ k)) s) ∧
      let v := floatSrc 0x8D f F (fziOf f) 0 s
      (v = .nan true → k = 0) ∧ (v = .nan false → k = 1) ∧ (v = .inf true → k = 2) ∧ (v = .inf false → k = 9) ∧
      (∀ b e, v = .fin b 0 e → k = if b then 5 else 6) ∧
      (∀ b m e, v = .fin b m e → m ≠ 0 → (k = (if b then 3 else 8) ∨ k = (if b then 4 else 7)) ∧
        (k = (if b then 4 else 7) ↔ (Val.fin false m e).rat < (Val.fin false 1 (1 - F.bias)).rat))) ∧
    (mayRun 0x8E f s = true → ∀ ts td, s.fmtFor (srcTypeOf f) = some ts → s.fmtFor (tyOf f) = some td → let v := floatSrc 0x8E f ts (fziOf f) 0 s
      let c := roundVal td (rmOf f) (fzoOf f) (satOf f) v
      exec (.fcvt f) s = .next (finishQ f (BitVec.ofNat 64 c.1) (flags (c.2 ||| (if v.isSig then flagNV else 0))))) ∧
    (mayRun 0x8F f s = true → ∀ td, s.fmtFor (tyOf f) = some td →
      let c := roundVal td (rmOf f) (fzoOf f) false (intVal (narrow (srcTypeOf f) (src 0x8F f 0 s)))
      exec (.icvf f) s = .next (finishQ f (BitVec.ofNat 64 c.1) (flags c.2))) ∧
    (mayRun 0x90 f s = true → ∀ ts, s.fmtFor (srcTypeOf f) = some ts → let v := floatSrc 0x90 f ts (fziOf f) 0 s
      let c := floatToInt (tyOf f) (rmOf f) (satOf f) v
      exec (.fcvi f) s = .next (finishQ f (extend (tyOf f) c.1) (flags c.2))) ∧
    (mayRun 0xB8 f s = true → exec (.fmtw f) s = .next (finishU f (s.putWg { s.wg with
      fPend := s.wg.fPend ++ [(Fin.ofNat 8 (fbits f.func 2 0), if bitOf f.func.toNat 3 then src 0xB8 f 0 s else f.ext)] }))) ∧
    (mayRun 0xB9 f s = true → s.th.spawned = false →
      (s.th.core = s.th.anchor → exec (.fmtr f) s = .next (finishQ f (vget s.wg.f (fbits f.func 2 0) 0) s)) ∧
      (s.th.core ≠ s.th.anchor → s.th.images = [] → exec (.fmtr f) s = .next (block .waiting (.answer (.image (Fin.ofNat 8 (fbits f.func 2 0))))
        (s.send s.th.core s.th.anchor 0 (.imageRead s.th.tid s.wg.wid (Fin.ofNat 8 (fbits f.func 2 0)))))))

/-! ## Vectors (R251-R258) -/

/-- `VADD` to `VABS`, element by element: an integer element is the exact result modulo 2^w, a float element rounded once as the scalar instruction
rounds; a source whose tag is another TYPE is 0x05; bits behind the last element are 0 (R44, R50, R251). -/
def Obligations.VectorArithmeticResults : Prop :=
  ∀ (f : Fields) (s : State) (i : Instr) (op : Nat) (os : List Opnd) (gi : List Int → Int) (gf : List Val → Exact) (T : VTy),
    (i, op, os, gi, gf) ∈ [
      (Instr.vadd f, 0xA4, [f.a, f.b], fun l => iarg l 0 + iarg l 1, fun l => sumVals (rmOf f) [arg l 0, arg l 1]),
      (Instr.vsub f, 0xA5, [f.a, f.b], fun l => iarg l 0 - iarg l 1, fun l => sumVals (rmOf f) [arg l 0, (arg l 1).neg]),
      (Instr.vmul f, 0xA6, [f.a, f.b], fun l => iarg l 0 * iarg l 1, fun l => mulVal (arg l 0) (arg l 1)),
      (Instr.vfma f, 0xA7, [f.a, f.b, f.c], fun l => iarg l 0 * iarg l 1 + iarg l 2, fun l => fmaVal (rmOf f) (arg l 0) (arg l 1) (arg l 2)),
      (Instr.vmin f, 0xA8, [f.a, f.b], fun l => min (iarg l 0) (iarg l 1), fun l => exactVal (minVal (arg l 0) (arg l 1))),
      (Instr.vmax f, 0xA9, [f.a, f.b], fun l => max (iarg l 0) (iarg l 1), fun l => exactVal (maxVal (arg l 0) (arg l 1))),
      (Instr.vabs f, 0xAA, [f.a], fun l => ((iarg l 0).natAbs : Int), fun l => exactVal (arg l 0).abs)] →
    mayRun op f s = true → s.vtyFor (tyOf f) = some T →
    (s.tagged os (tyOf f) → let row := fun (j : Nat) => os.map (fun o => s.th.v[vReg o].toNat / 2 ^ (T.w * j) % 2 ^ T.w)
      let float := fun (j : Nat) => let vs := (row j).map (decodeVal T.fmt (fziOf f))
        Exact.round { gf vs with flags := (gf vs).flags ||| sigFlags vs } T.fmt (rmOf f) (fzoOf f) false
      ∃ (v : W256) (fl : BitVec 7), exec i s = .next (finishV f v (tagOf (tyOf f)) { s with th := { s.th with fpflags := s.th.fpflags ||| fl } }) ∧
        v.toNat < 2 ^ (T.w * T.n) ∧
        (isInt (tyOf f) = true → fl = 0 ∧ ∀ j, j < T.n → ((v.toNat / 2 ^ (T.w * j) % 2 ^ T.w : Nat) : Int) = gi ((row j).map (intElem T.t)) % 2 ^ T.w) ∧
        (isInt (tyOf f) = false → (∀ j, j < T.n → v.toNat / 2 ^ (T.w * j) % 2 ^ T.w = (float j).1 % 2 ^ T.w) ∧
          ∀ b : Fin 7, fl[b] = true ↔ ∃ j, j < T.n ∧ (float j).2[b] = true)) ∧
    (¬ s.tagged os (tyOf f) → exec i s = .next (raise 0x05 0 s))

/-- Reductions, dot products, element moves, compare and select: sums of integers modulo 2^64, of floats exact with one rounding (`VDOT` to f32);
`VEXT` and `VINS` beyond the last element are 0x06; `VPRM` gives 0 for an index beyond the last element; `VCMP` gives all ones or 0; `VSEL` takes b
where a is not 0; `VTAG` keeps the elements under the tag of TYPE (R252-R255, R259). That SY_FADDR is 0 for an index is the model's choice (log entry
121). -/
def Obligations.VectorReductionsAndMoves : Prop :=
  ∀ (f : Fields) (s : State) (T : VTy), s.vtyFor (tyOf f) = some T →
    let at_ := fun (o : Opnd) (j : Nat) => s.th.v[vReg o].toNat / 2 ^ (T.w * j) % 2 ^ T.w
    let els := fun (o : Opnd) => (List.range T.n).map (at_ o)
    let vals := fun (o : Opnd) => (els o).map (decodeVal T.fmt (fziOf f))
    let gives := fun (i : Instr) (t : Nat) (g : Nat → Nat) => ∃ (v : W256) (fl : BitVec 7),
      exec i s = .next (finishV f v (tagOf t) { s with th := { s.th with fpflags := s.th.fpflags ||| fl } }) ∧ v.toNat < 2 ^ (T.w * T.n) ∧
      ∀ j, j < T.n → v.toNat / 2 ^ (T.w * j) % 2 ^ T.w = g j % 2 ^ T.w
    (mayRun 0xAB f s = true → s.tagged [f.a] (tyOf f) → let o := fbits f.func 11 10
      let ints := (els f.a).map (intElem (tyOf f))
      (isInt (tyOf f) = true → ∃ r : Int, exec (.vred f) s = .next (finishQ f (extend (tyOf f) r) s) ∧ (o = 0 → r = ints.sum) ∧
        (o = 1 → T.n ≠ 0 → r ∈ ints ∧ ∀ x ∈ ints, r ≤ x) ∧ (2 ≤ o → T.n ≠ 0 → r ∈ ints ∧ ∀ x ∈ ints, x ≤ r)) ∧
      (isInt (tyOf f) = false → ∃ x : Exact, (o = 0 → x = sumVals (rmOf f) (vals f.a)) ∧
        (o = 1 → ∀ v vs, vals f.a = v :: vs → x = ⟨vs.foldl minVal v, false, 0⟩) ∧
        (o = 2 → ∀ v vs, vals f.a = v :: vs → x = ⟨vs.foldl maxVal v, false, 0⟩) ∧
        (o = 3 → ∀ v vs, (vals f.a).map Val.abs = v :: vs → x = ⟨vs.foldl maxVal v, false, 0⟩) ∧
        let c := Exact.round { x with flags := x.flags ||| sigFlags (vals f.a) } T.fmt (rmOf f) (fzoOf f) false
        exec (.vred f) s = .next (finishQ f (BitVec.ofNat 64 c.1) { s with th := { s.th with fpflags := s.th.fpflags ||| c.2 } }))) ∧
    (mayRun 0xAC f s = true → s.tagged [f.a, f.b] (tyOf f) → isInt (tyOf f) = true →
      exec (.vdot f) s = .next (finishQ f (ofInt64 ((src 0xAC f 2 s).toInt +
        ((List.range T.n).map (fun j => intElem (tyOf f) (at_ f.a j) * intElem (tyOf f) (at_ f.b j))).sum)) s)) ∧
    (mayRun 0xAC f s = true → s.tagged [f.a, f.b] (tyOf f) → isInt (tyOf f) = false → let x := floatSrc 0xAC f fmtF32 (fziOf f) 2 s
      let e := dotVals (rmOf f) x ((vals f.a).zip (vals f.b))
      let c := Exact.round { e with flags := e.flags ||| sigFlags (x :: (vals f.a ++ vals f.b)) } fmtF32 (rmOf f) (fzoOf f) false
      exec (.vdot f) s = .next (finishQ f (BitVec.ofNat 64 c.1) { s with th := { s.th with fpflags := s.th.fpflags ||| c.2 } })) ∧
    (mayRun 0xAD f s = true → gives (.vbcs f) (tyOf f) (fun _ => scalarElem 0xAD f T 0 s)) ∧
    (mayRun 0xAE f s = true → (tyOf f ≠ 7 → s.tagged [f.a] (tyOf f)) → let b := (src 0xAE f 1 s).toNat
      (T.n ≤ b → exec (.vext f) s = .next (raise 0x06 0 s)) ∧
      (b < T.n → exec (.vext f) s = .next (finishQ f (if isInt (tyOf f) then extend (tyOf f) (at_ f.a b) else BitVec.ofNat 64 (at_ f.a b)) s))) ∧
    (mayRun 0xAF f s = true → (tyOf f ≠ 7 → s.tagged [f.a] (tyOf f)) → let c := (src 0xAF f 2 s).toNat
      (T.n ≤ c → exec (.vins f) s = .next (raise 0x06 0 s)) ∧
      (c < T.n → gives (.vins f) (tyOf f) (fun j => if j = c then scalarElem 0xAF f T 1 s else at_ f.a j))) ∧
    (mayRun 0xB0 f s = true → isNarrow (tyOf f) = false ∨ T.w = 8 → s.tagged [f.a] (tyOf f) → s.tagged [f.b] 4 →
      gives (.vprm f) (tyOf f) (fun j => let k := s.th.v[vReg f.b].toNat / 2 ^ (8 * j) % 2 ^ 8
        if k < T.n then at_ f.a k else 0)) ∧
    (mayRun 0xB5 f s = true → s.tagged [f.a, f.b] (tyOf f) → let cond := fbits f.func 8 5
      gives (.vcmp f) (zType T.w) (fun j =>
        if (if isInt (tyOf f) then condInt cond (intElem (tyOf f) (at_ f.a j)) (intElem (tyOf f) (at_ f.b j))
          else condFloat cond (cmpVal (decodeVal T.fmt (bitOf f.func.toNat 9) (at_ f.a j)) (decodeVal T.fmt (bitOf f.func.toNat 9) (at_ f.b j)))) = true
        then 2 ^ T.w - 1 else 0)) ∧
    (mayRun 0xB6 f s = true → s.tagged [f.a] (zType T.w) → s.tagged [f.b, f.c] (tyOf f) →
      gives (.vsel f) (tyOf f) (fun j => if at_ f.a j ≠ 0 then at_ f.b j else at_ f.c j)) ∧
    (mayRun 0xB4 f s = true → gives (.vtag f) (tyOf f) (at_ f.a))

/-- `VCVT` to as many or fewer elements takes part b of the source, to more puts part b into its place and keeps the other elements, or zeros for
part 0; a part beyond the last is 0x06. `VQNT` of standard elements writes block b's codes, or its scale byte, under the smallest scale that holds
the largest magnitude; `VDQN` gives the values of part p's codes under their blocks' scales and formats (R237, R256-R258). The order of the checks of
`VQNT` and `VDQN`, and SY_FADDR 0 for a part, are the model's choices (log entries 14, 121). -/
def Obligations.VectorConversions : Prop :=
  ∀ (f : Fields) (s : State),
    (mayRun 0xB1 f s = true → ∀ ts td, s.vtyFor (srcTypeOf f) = some ts → s.vtyFor (tyOf f) = some td → s.tagged [f.a] (srcTypeOf f) →
      0 < ts.n → 0 < td.n → let p := (src 0xB1 f 1 s).toNat
      let old := fun (j : Nat) => if p = 0 then 0 else (match f.dst with | .v k => s.th.v[k] | _ => s.th.v[(0 : Fin 8)]).toNat / 2 ^ (td.w * j) % 2 ^ td.w
      let src := fun (j : Nat) => s.th.v[vReg f.a].toNat / 2 ^ (ts.w * j) % 2 ^ ts.w
      ((max ts.n td.n + min ts.n td.n - 1) / min ts.n td.n ≤ p → exec (.vcvt f) s = .next (raise 0x06 0 s)) ∧
      (p < (max ts.n td.n + min ts.n td.n - 1) / min ts.n td.n →
        (∀ k, f.dst = .v k → ts.n < td.n → p ≠ 0 → (s.th.vtag[k]).toNat = 0x20 + tyOf f) → (∃ k, f.dst = .v k) →
        ∃ (v : W256) (fl : BitVec 7), exec (.vcvt f) s = .next (finishV f v (tagOf (tyOf f)) { s with th := { s.th with fpflags := s.th.fpflags ||| fl } }) ∧
          (td.n ≤ ts.n → ∀ j, j < td.n → v.toNat / 2 ^ (td.w * j) % 2 ^ td.w =
            (if p * td.n + j < ts.n then (convElem f ts td (src (p * td.n + j))).1 % 2 ^ td.w else 0)) ∧
          (ts.n < td.n → ∀ j, j < td.n → v.toNat / 2 ^ (td.w * j) % 2 ^ td.w =
            (if p * ts.n ≤ j ∧ j < p * ts.n + ts.n then (convElem f ts td (src (j - p * ts.n))).1 % 2 ^ td.w else old j)))) ∧
    (mayRun 0xB2 f s = true → ∀ K F, let k := tyOf f - 16
      let c := (src 0xB2 f 2 s).toNat
      let ts := srcTypeOf f
      s.th.spawned = false → (4 ≤ c → exec (.vqnt f) s = .next (raise 0x06 0 s)) ∧
      (c < 4 → s.format k = some K → s.format ((k + c) % 8) = some F →
        (F.fmt.width ≠ K.fmt.width ∨ F.bs ≠ K.bs → exec (.vqnt f) s = .next (raise 0x05 0 s)) ∧
        (F.fmt.width = K.fmt.width → F.bs = K.bs → let q := F.bs * width ts / 256
          (s.th.vbud < (vReg f.a).val + q → exec (.vqnt f) s = .next (raise 0x04 0 s)) ∧
          ((vReg f.a).val + q ≤ s.th.vbud → (∀ j, j < q → (vget s.th.vtag ((vReg f.a).val + j) 0).toNat = 0x20 + ts) →
            let p := (src 0xB2 f 1 s).toNat
            let n := codesOf K.fmt.width
            let xs := (((List.range q).map (fun j => elems (width ts) (256 / width ts) (vget s.th.v ((vReg f.a).val + j) 0))).flatten).map
              (decodeVal (stdFmt ts) (fziOf f))
            let r := quantBlock F.fmt (fzoOf f) (satOf f) xs
            ∀ d, f.dst = .v d →
            (fbits f.func 11 10 = 1 → p < 32 → (p ≠ 0 → (s.th.vtag[d]).toNat = 0x20 + 4) →
              exec (.vqnt f) s = .next (finishV f (packV 8 ((if p = 0 then List.replicate 32 0 else elems 8 32 s.th.v[d]).set p r.1)) (tagOf 4) s)) ∧
            (fbits f.func 11 10 ≠ 1 → p < n / F.bs → (p ≠ 0 → (s.th.vtag[d]).toNat = 0x20 + tyOf f) →
              exec (.vqnt f) s = .next (finishV f (packV K.fmt.width ((List.range n).map (fun i =>
                  if p * F.bs ≤ i ∧ i < p * F.bs + F.bs then r.2.1.getD (i - p * F.bs) 0
                  else if p = 0 then 0 else s.th.v[d].toNat / 2 ^ (K.fmt.width * i) % 2 ^ K.fmt.width))) (tagOf (tyOf f))
                { s with th := { s.th with fpflags := s.th.fpflags ||| r.2.2 } })))))) ∧
    (mayRun 0xB3 f s = true → ∀ K, let k := srcTypeOf f - 16
      let c := (src 0xB3 f 2 s).toNat
      let n := codesOf K.fmt.width
      let nd := 256 / width (tyOf f)
      let F := stdFmt (tyOf f)
      let p := bits c 23 16
      s.th.spawned = false → s.format k = some K → c < 2 ^ 24 → s.tagged [f.a] (srcTypeOf f) → p * nd < n → ∀ Fs : Nat → Narrow,
        (∀ j, j < (n + K.bs - 1) / K.bs → s.format ((k + bits c (2 * j + 1) (2 * j)) % 8) = some (Fs j) ∧ (Fs j).fmt.width = K.fmt.width ∧ (Fs j).bs = K.bs) →
        ∃ (v : W256) (fl : BitVec 7), exec (.vdqn f) s = .next (finishV f v (tagOf (tyOf f)) { s with th := { s.th with fpflags := s.th.fpflags ||| fl } }) ∧
          ∀ j, j < nd → v.toNat / 2 ^ (width (tyOf f) * j) % 2 ^ width (tyOf f) = (let e := p * nd + j
            if e < n then (roundVal F (rmOf f) (fzoOf f) false (scaledVal (Fs (e / K.bs)).fmt (fziOf f) (bits (src 0xB3 f 1 s).toNat (8 * (e / K.bs) + 7) (8 * (e / K.bs)))
              (s.th.v[vReg f.a].toNat / 2 ^ (K.fmt.width * e) % 2 ^ K.fmt.width))).1 % 2 ^ width (tyOf f) else 0))

/-! ## Tiles and the matrix sequencer (R171-R196, R215-R219) -/

/-- A tile, multiply, unfold or step-cache instruction whose issue checks pass enters the open batch at the end of the sequencer's queue with its
operands, format images and pc captured, takes the next place in the plaza's order, and changes the issue view of the register it defines; memory
and the registers stay. A full queue waits, and one that is full and stopped is 0x12 (R172-R175, R177, R189, R190, R267-R269, R431). That this is tested
before the other checks of the issue is the model's choice (log entry 51). -/
def Obligations.SequencerInstructionsEnterTheQueue : Prop :=
  ∀ (f : Fields) (s : State), let w := s.wg
    let q := w.seq
    let enters := fun (i : Instr) (op parts : Nat) (view : Sequencer → Sequencer) => ∃ (u : State) (x : SeqInstr),
      exec i s = .next (finishU f u) ∧ u.th = s.th ∧ u.mem = s.mem ∧ u.lmem = s.lmem ∧ u.tmem = s.tmem ∧ u.net = s.net ∧
      (u.wgBy w.wid).seq = view { q with queue := q.queue ++ [x], openLen := q.openLen + 1 } ∧ x.op.toNat = op ∧ x.func = f.func ∧ x.imm11 = f.imm11 ∧
      x.ext = f.ext ∧ x.a = src op f 0 s ∧ x.b = src op f 1 s ∧ x.imgs = w.f ∧ x.pc = s.th.pc ∧ x.batch = none ∧ x.pos = q.openLen ∧ x.parts = parts ∧
      x.serial = (s.plaza (plazaOf w.anchor)).nextSerial
    let t := tileReg f.imm11
    let stored := fun (go : Stored → Prop) => tileOff f.ext % 4 = 0 → tilePitch f.ext % 4 = 0 → ∀ K, s.typeFor (typeOf f.func) = some K →
      let g := tileStored w f.func f.ext K
      g.check s w = none → go g
    (mayRun 0xC0 f s = true → 64 ≤ q.queue.length →
      exec (.tdef f) s = .next (if q.stopped then raise 0x12 0 s else block .waiting .sequencer s)) ∧
    (q.queue.length < 64 → s.th.fwd = [] →
      (mayRun 0xC0 f s = true → s.th.tiles ≤ t → exec (.tdef f) s = .next (raise 0x04 0 s)) ∧
      (t < s.th.tiles →
        (mayRun 0xC0 f s = true → enters (.tdef f) 0xC0 1 (fun q => q.setView t ⟨tdefRows f.ext, tdefCols f.ext, BitVec.ofNat 6 (0x20 + typeOf f.func)⟩)) ∧
        (mayRun 0xC1 f s = true → ((q.viewOf t).tag = 0 → exec (.tzero f) s = .next (raise 0x05 0 s)) ∧
          ((q.viewOf t).tag ≠ 0 → enters (.tzero f) 0xC1 1 (fun q => q))) ∧
        (mayRun 0xC2 f s = true → stored (fun _ =>
          enters (.tld f) 0xC2 1 (fun q => q.setView t ⟨tileRows f.ext, tileCols f.ext, accTag (typeOf f.func)⟩))) ∧
        (mayRun 0xC3 f s = true → (q.viewOf t).tag = accTag (typeOf f.func) → tileRows f.ext ≤ (q.viewOf t).rows →
          tileCols f.ext ≤ (q.viewOf t).cols → stored (fun _ => enters (.tst f) 0xC3 1 (fun q => q))) ∧
        (mayRun 0xC4 f s = true → let v := q.viewOf (tileSrc f.imm11)
          tileSrc f.imm11 < s.th.tiles → (v.tag ≠ tcvtSrcTag f.func → exec (.tcvt f) s = .next (raise 0x05 0 s)) ∧
          (v.tag = tcvtSrcTag f.func → enters (.tcvt f) 0xC4 1 (fun q => q.setView t { v with tag := BitVec.ofNat 6 (0x20 + typeOf f.func) })))) ∧
      (mayRun 0xC7 f s = true → let d := (BitVec.ofNat 5 (typeOf f.func), src 0xC7 f 0 s, src 0xC7 f 1 s, f.ext)
        let u := parseUnfold d
        (u.W = 0 ∨ u.H = 0 ∨ u.CH = 0 ∨ u.N = 0 ∨ u.outH < 1 ∨ u.outW < 1 → exec (.ufdef f) s = .next (raise 0x06 0 s)) ∧
        (u.W ≠ 0 → u.H ≠ 0 → u.CH ≠ 0 → u.N ≠ 0 → 1 ≤ u.outH → 1 ≤ u.outW → u.base + u.bytes ≤ w.localLen →
          (s.plaza (plazaOf w.anchor)).badBank (w.lbase + u.base) u.bytes = none → enters (.ufdef f) 0xC7 1 (fun q => { q with issueUf := some d }))) ∧
      (∀ i op KA KB, (i, op) ∈ [(Instr.mma f, 0xC8), (Instr.mmau f, 0xC9), (Instr.mmas f, 0xCA), (Instr.mtrans f, 0xCB), (Instr.mperm f, 0xCC),
          (Instr.mrsum f, 0xCD), (Instr.mscale f, 0xCE)] → mayRun op f s = true →
        s.typeFor (mulTA f.func) = some KA → s.typeFor (mulTB f.func) = some KB → let m : Mul := ⟨op, f.func, f.imm11, f.ext, KA, KB⟩
        (m.cls ≠ widthClass (typeWidth (mulTB f.func) KB) → exec i s = .next (raise 0x05 0 s)) ∧
        (m.cls = widthClass (typeWidth (mulTB f.func) KB) → mulD f.imm11 < s.th.tiles → (mulCV f.imm11 = true → mulC f.imm11 < s.th.tiles) →
          mulScalar m (src op f 0 s) q = none → mulSplit m w = none → mulRegions m s w = none →
          mulCheckC m q = none →
          enters i op ((mulN f.ext + 127) / 128) (fun q => q.setView (mulD f.imm11) ⟨mulM f.imm11, min (mulN f.ext) 128, accTag (mulTA f.func)⟩))) ∧
      (mayRun 0xD8 f s = true → let a := src 0xD8 f 0 s
        (a = 0 → tauOk (src 0xD8 f 1 s) = true → enters (.sccfg f) 0xD8 1 (fun q => q)) ∧
        (a ≠ 0 → ∀ e, lookupDesc s a = .hit e → srcCheck e (offsetOf a) 1 0 = none → e.wr = true → offsetOf a % cfgSize f.ext.toNat = 0 →
          offsetOf a + cfgSlots f.ext.toNat * cfgSize f.ext.toNat ≤ e.length → tauOk (src 0xD8 f 1 s) = true → enters (.sccfg f) 0xD8 1 (fun q => q))) ∧
      (mayRun 0xD9 f s = true → (2 ^ 32 ≤ (src 0xD9 f 0 s).toNat → exec (.sctag f) s = .next (raise 0x06 0 s)) ∧
        ((src 0xD9 f 0 s).toNat < 2 ^ 32 → enters (.sctag f) 0xD9 1 (fun q => q))) ∧
      (mayRun 0xDA f s = true → (fbits f.func 1 0 = 1 → (src 0xDA f 0 s).toNat < 2 ^ 16) → enters (.scinv f) 0xDA 1 (fun q => q)))

/-- Direct access to tile cells and the control of the sequencer: `TGET` extends and `TSET` writes one cell of a register that no queued instruction
names; `MCOMMIT` gives the open batch the next number, `MWAIT` answers for a batch, `MSTAT` reads the status word, the stopped pc or the flags,
`MCLEAR` empties a stopped sequencer, `MRESUME` lets it run on, `MPARK` and `MUNPARK` set it aside and, once no batch runs, back with the tiles; `SCSTAT` reads a
counter of an idle sequencer (R174, R176, R191-R194, R270). -/
def Obligations.SequencerControl : Prop :=
  ∀ (f : Fields) (s : State), let w := s.wg
    let q := w.seq
    let free := fun (op : Nat) => tileReg f.imm11 < s.th.tiles ∧ (q.stopped = true ∨ q.queue.any (fun i => i.names (tileReg f.imm11)) = false) ∧
      (w.park = none → q.parts.any (fun p => p.begun && p.instr.names (tileReg f.imm11)) = false) ∧
      (q.shapeOf (tileReg f.imm11)).tag ≠ 0 ∧ (src op f 0 s).toNat < (q.shapeOf (tileReg f.imm11)).rows ∧
      (src op f 1 s).toNat < (q.shapeOf (tileReg f.imm11)).cols
    (mayRun 0xC5 f s = true → free 0xC5 → s.tileBad w (tileReg f.imm11) (src 0xC5 f 0 s).toNat (src 0xC5 f 1 s).toNat 1 = false →
      let v := memNat s.tmem (cellAt w (tileReg f.imm11) (src 0xC5 f 0 s).toNat (src 0xC5 f 1 s).toNat) 4
      exec (.tget f) s = .next (finishQ f (if (q.shapeOf (tileReg f.imm11)).tag = 0x22 then sext64 32 v else BitVec.ofNat 64 (v % 2 ^ 32)) s)) ∧
    (mayRun 0xC6 f s = true → free 0xC6 → ∃ u : State, exec (.tset f) s = .next (finishU f u) ∧ u.th = s.th ∧ u.mem = s.mem ∧ u.lmem = s.lmem ∧ u.wgs = s.wgs ∧
      u.tmem = memWrite s.tmem (cellAt w (tileReg f.imm11) (src 0xC6 f 0 s).toNat (src 0xC6 f 1 s).toNat) (leBytes 4 ((src 0xC6 f 2 s).toNat % 2 ^ 32))) ∧
    (mayRun 0xD0 f s = true → let n := q.nextNo
      (q.holds n = true → exec (.mcommit f) s = .next (block .waiting .sequencer s)) ∧
      (q.holds n = false → exec (.mcommit f) s = .next (finishQ f (BitVec.ofNat 64 n) (s.putSeq w q.commit)) ∧
        q.commit.last = n ∧ q.commit.lvalid = true ∧ q.commit.openLen = 0 ∧
        q.commit.queue = q.queue.map (fun i => if i.batch.isNone then { i with batch := some n } else i))) ∧
    (mayRun 0xD1 f s = true → let st := q.state ((src 0xD1 f 0 s).toNat % 4)
      (st = 1 → q.stopped = false → exec (.mwait f) s = .next (block .waiting .sequencer s)) ∧
      (st ≠ 1 ∨ q.stopped = true → exec (.mwait f) s = .next (finishP f (st == 2) s))) ∧
    (mayRun 0xD2 f s = true → (fbits f.func 1 0 = 0 → exec (.mstat f) s = .next (finishQ f q.statusWord s)) ∧
      (fbits f.func 1 0 = 1 → exec (.mstat f) s = .next (finishQ f q.spc s)) ∧
      (fbits f.func 1 0 = 2 → exec (.mstat f) s = .next (finishQ f (q.mflags.zeroExtend 64) s)) ∧
      (fbits f.func 1 0 = 3 → exec (.mstat f) s = .next (finishQ f (q.mflags.zeroExtend 64) (s.putWg { w with seq := { q with mflags := 0 } })))) ∧
    (mayRun 0xD3 f s = true → (q.stopped = false → exec (.mclear f) s = .next (finishU f s)) ∧
      (q.stopped = true → ∃ u : State, exec (.mclear f) s = .next (finishU f u) ∧ u.mem = s.mem ∧ u.lmem = s.lmem ∧ u.tmem = s.tmem ∧
        (u.wgBy w.wid).seq.queue = [] ∧ (u.wgBy w.wid).seq.stopped = false)) ∧
    (mayRun 0xD4 f s = true → (q.stopped = false ∨ q.queue = [] → exec (.mresume f) s = .next (raise 0x12 0 s)) ∧
      (q.stopped = true → q.queue ≠ [] → ∃ u : State, exec (.mresume f) s = .next (finishU f u) ∧ u.mem = s.mem ∧ u.lmem = s.lmem ∧ u.tmem = s.tmem ∧
        (u.wgBy w.wid).seq.queue = q.queue ∧ (u.wgBy w.wid).seq.stopped = false)) ∧
    (mayRun 0xD5 f s = true → (s.th.hnd = false → exec (.mpark f) s = .next (raise 0x0E 0 s)) ∧
      (s.th.hnd = true → w.park ≠ none → exec (.mpark f) s = .next (raise 0x12 0 s)) ∧
      (s.th.hnd = true → w.park = none → s.seqFlight w.wid = false → s.takeArea w ≠ none → ∃ (u : State) (p : Sequencer),
        exec (.mpark f) s = .next (finishU f u) ∧ u.th = s.th ∧ u.tmem = s.tmem ∧ (u.wgBy w.wid).park = some p ∧ p.queue = q.queue ∧ p.batches = q.batches ∧
        (u.wgBy w.wid).seq.queue = [] ∧ (u.wgBy w.wid).seq.stopped = false ∧
        (u.wgBy w.wid).parkTiles = memCut s.tmem (tileAt w.anchor w.tbase) (65536 * w.tiles))) ∧
    (mayRun 0xD6 f s = true → (s.th.hnd = false → exec (.munpark f) s = .next (raise 0x0E 0 s)) ∧
      (s.th.hnd = true → w.park ≠ none → q.batches.any (· == 1) = true → exec (.munpark f) s = .next (block .waiting .sequencer s)) ∧
      (∀ p, s.th.hnd = true → w.park = some p → q.batches.any (· == 1) = false → ∃ u : State,
        exec (.munpark f) s = .next (finishU f u) ∧ u.th.q = s.th.q ∧ u.mem = s.mem ∧ (u.wgBy w.wid).park = none ∧ (u.wgBy w.wid).seq.queue = p.queue ∧
        (u.wgBy w.wid).seq.batches = p.batches ∧ u.tmem = memPaste s.tmem (tileAt w.anchor w.tbase) (65536 * w.tiles) w.parkTiles)) ∧
    (mayRun 0xDB f s = true → (q.stopped = false → q.queue ≠ [] → exec (.scstat f) s = .next (block .waiting .sequencer s)) ∧
      (q.stopped = true ∨ q.queue = [] → exec (.scstat f) s = .next (finishQ f ((w.sc.sel (fbits f.func 2 0)).zeroExtend 64) s)))

/-! ## Engine jobs (R308-R325) -/

/-- At the anchor's plaza: `CPYGO` with a good job card and region table and no write of its scope outstanding makes the job with the workgroup's next
id; a card not aligned to 32 is 0x0A, a bad header 0x06 once the card is read. `ENGWAIT` waits for a live job and tells whether it completed, `ENGSTAT` gives its status word, `ENGCAN` ends
one that has nothing in flight, `CBRD` reads 64 bits of a completion bitmap or counts it, `CBRST` restarts a job that has failed, which queues behind
four that run, which is the model's choice (R319, R322-R325, log entry 140). -/
def Obligations.EngineInstructions : Prop :=
  ∀ (f : Fields) (s : State), s.th.spawned = false → plazaOf s.th.core = plazaOf s.th.anchor → let w := s.wg
    let plaza := plazaOf s.th.anchor
    let find := fun (op : Nat) => findJob s w.wid (jobId (src op f 0 s))
    (mayRun 0xE0 f s = true → let a := src 0xE0 f 0 s
      (a.toNat % 32 ≠ 0 → exec (.cpygo f) s = .next (raise 0x0A a s)) ∧
      (a.toNat % 32 = 0 → ∀ bs rest s1 s2, let h := bitOf f.func.toNat 0
        let ws := (List.range 4).map (wordAt bs)
        let x := ws.getD 0 0
        let ents := (bits x 10 8 + bits x 13 11 + 1) / 2
        (∀ k, readCard h a 0 32 k s = k bs s1) → (ents = 0 → rest = [] ∧ s2 = s1) → (ents ≠ 0 → ∀ k, readCard h a 1 (32 * ents) k s1 = k rest s2) →
        (cardBad ws = true → exec (.cpygo f) s = .next (raise 0x06 a s2)) ∧
        (cardBad ws = false → s2 = { s with ports := s2.ports, dies := s2.dies } →
          ∀ l s3, scanChain (cardWord h a) 65536 (1 + ents) s2 = .ok (l, s3) → s3 = { s with ports := s3.ports, dies := s3.dies } → ∀ rs,
          cardRegions w (bits x 10 8) (bits x 10 8 + bits x 13 11) 0 ((List.range (2 * ents)).map (fun k => (wordAt rest (2 * k), wordAt rest (2 * k + 1)))) = .ok rs →
          s.th.writes = [] → s.th.fwd = [] → (((s.plaza plaza).jobs.filter (fun j => j.wid == w.wid)).filter EngJob.unfinished).length < 16 →
          ((s.plaza plaza).jobs.filter EngJob.unfinished).length < 64 → (∀ j ∈ (s.plaza plaza).jobs, j.key < s.nextId) →
          (bitOf x 18 = true → ∀ j ∈ (s.plaza plaza).jobs, j.wid = w.wid → j.cb = some (Fin.ofNat 4 (bits x 17 16)) → j.live = false) →
          ∃ (u : State) (v : W64) (j : EngJob), exec (.cpygo f) s = .next (finishQ f v u) ∧ u.th = s.th ∧ u.mem = s.mem ∧ u.lmem = s.lmem ∧
            j ∈ (u.plaza plaza).jobs ∧ j.id = w.nextJob ∧ j.wid = w.wid ∧ j.chain = a ∧ j.isLocal = !h ∧ j.regions = rs ∧ j.prio = bits x 23 20 ∧
            j.state = 1 ∧ v.toNat / 2 ^ 56 = w.nextJob.toNat ∧ (u.wgBy w.wid).nextJob = w.nextJob + 1))) ∧
    (mayRun 0xE1 f s = true →
      (∀ j, find 0xE1 = some j → exec (.engwait f) s = .next (if j.live then block .waiting .engine s else finishP f (j.state == 4) s)) ∧
      (find 0xE1 = none → exec (.engwait f) s = .next (finishP f (vget w.outcomes (jobId (src 0xE1 f 0 s)).toNat 0 == 1) s))) ∧
    (mayRun 0xE2 f s = true → fbits f.func 1 0 = 0 →
      (∀ j, find 0xE2 = some j → exec (.engstat f) s = .next (finishQ f (BitVec.ofNat 64
        (j.entry % 65536 * 2 ^ 16 + (if j.state = 3 ∨ j.state = 5 then j.cause else 0) * 2 ^ 8 + j.state)) s))) ∧
    (mayRun 0xE2 f s = true → 2 ≤ fbits f.func 1 0 →
      (∀ j, find 0xE2 = some j → exec (.engstat f) s = .next (finishQ f (BitVec.ofNat 64 (s.left j)) s) ∧
        (j.unfinished = false → exec (.engstat f) s = .next (finishQ f 0 s))) ∧
      (find 0xE2 = none → exec (.engstat f) s = .next (finishQ f 0 s))) ∧
    (mayRun 0xE2 f s = true → fbits f.func 1 0 = 1 → ∃ v : W64, exec (.engstat f) s = .next (finishQ f v s) ∧
      v.toNat / 2 ^ 56 = (jobId (src 0xE2 f 0 s)).toNat ∧
      (find 0xE2 = none → v.toNat % 2 ^ 56 = (s.dtcOf (plaza / 8)).toNat % 2 ^ 56)) ∧
    (mayRun 0xE3 f s = true → (find 0xE3 = none → exec (.engcan f) s = .next (finishU f s)) ∧
      (∀ j, find 0xE3 = some j → j.unfinished = false → exec (.engcan f) s = .next (finishU f s)) ∧
      (∀ j, find 0xE3 = some j → j.unfinished = true → j.live = true → s.inFlight plaza j.key = true →
        exec (.engcan f) s = .next (block .waiting .engine (s.setJob plaza { j with stopping := 256 }))) ∧
      (∀ j, find 0xE3 = some j → j.unfinished = true → j.live = false ∨ s.inFlight plaza j.key = false →
        exec (.engcan f) s = .next (finishU f (finishJob plaza j 7 0 s)))) ∧
    (mayRun 0xE4 f s = true → let v := (vget w.cb (fbits f.func 1 0) 0).toNat
      let a := src 0xE4 f 0 s
      (bitOf f.func.toNat 2 = true → exec (.cbrd f) s = .next (finishQ f (BitVec.ofNat 64 ((List.range 256).filter (fun k => v.testBit k)).length) s)) ∧
      (bitOf f.func.toNat 2 = false → a.toNat < 4 → exec (.cbrd f) s = .next (finishQ f (BitVec.ofNat 64 (v / 2 ^ (64 * a.toNat) % 2 ^ 64)) s)) ∧
      (bitOf f.func.toNat 2 = false → 4 ≤ a.toNat → exec (.cbrd f) s = .next (raise 0x06 a s))) ∧
    (mayRun 0xE5 f s = true → (find 0xE5 = none → exec (.cbrst f) s = .next (finishU f s)) ∧
      (∀ j, find 0xE5 = some j → (j.state ≠ 5 ∨ j.cb = none ∨ j.restartable = false → exec (.cbrst f) s = .next (finishU f s)) ∧
        (j.state = 5 → j.cb ≠ none → j.restartable = true → s.th.writes = [] → s.th.fwd = [] → exec (.cbrst f) s = .next (finishU f
          (s.setJob plaza { j with
            state := if 4 ≤ ((s.plaza plaza).jobs.filter (fun k => k.state == 2 || k.state == 3)).length then 1 else 2
            cause := 0, started := false, idxs := [], got := [], resume := true, moved := 0 })))))

/-! ## Module events -/

/-- The issue of a group: while none is issuing, a running core on a running die chooses threads that may issue, at one pc of one buffer space and
one to a lane, and changes nothing but its counters; with no such thread its cc ends. A sleeping thread wakes as its time comes, a thread that waits
for writes once none of those that it waits for is outstanding; a descriptor that has been read serves every thread of the core that waits for it
(R21, R84, R97, R109, R287). -/
def Obligations.IssueAndWakeEvents : Prop :=
  ∀ (s : State), let woken := fun (t : Thread) => { t with status := t.running, wait := .none, since := (s.core t.core).ccnt.toNat + 1 }
    (∀ core, s.issuing = [] → (s.core core).stopped = false → s.dieUp (dieOf core) = true →
      let can := fun (t : Thread) => t.canIssue core (s.core core).ccnt.toNat && !s.savingAt t
      ((∃ t ∈ s.threads, can t = true) → ∃ (u : State) (g : List Thread), exec (.issueGroupSelect core) s = .next u ∧ u.issuing = g.map Thread.tid ∧
        g ≠ [] ∧ (∀ t ∈ g, t ∈ s.threads ∧ can t = true ∧ ∀ t' ∈ g, t.pc = t'.pc ∧ t.asid = t'.asid) ∧ (g.map Thread.lane).Nodup ∧
        u.threads = s.threads ∧ u.th = s.th ∧ u.mem = s.mem ∧ u.lmem = s.lmem ∧ u.wgs = s.wgs) ∧
      ((∀ t ∈ s.threads, can t = false) → ∃ u : State, exec (.issueGroupSelect core) s = .next u ∧ u.issuing = [] ∧ u.mem = s.mem ∧
        (u.core core).ccnt = (s.core core).ccnt + 1)) ∧
    (∀ tid t, s.thread? tid = some t →
      (t.wait = .sleep → t.status = .sleeping → t.smode ≤ 1 →
        (t.wake.toNat ≤ (s.dtcOf t.wdie).toNat → exec (.sleepWake tid) s = .next (s.putThread (woken { t with smode := 0, kick0 := none }))) ∧
        ((s.dtcOf t.wdie).toNat < t.wake.toNat → exec (.sleepWake tid) s = .next s)) ∧
      (t.wait = .writes → t.status = .waiting →
        ((∀ w ∈ t.writes, w.id ∈ t.awaited → w.pending (s.dtcOf (dieOf t.core)) = false) →
          exec (.writeDrainInterlock tid) s = .next (s.putThread (woken t))) ∧
        ((∃ w ∈ t.writes, w.id ∈ t.awaited ∧ w.state = .sent) → (∀ w ∈ t.writes, ∀ c, w.state ≠ .failed c) →
          exec (.writeDrainInterlock tid) s = .next s)) ∧
      (∀ asid slot e, t.wait = .descriptor asid slot → t.status = .waiting → s.tableEntry asid slot = some e → ∃ u : State,
        exec (.descriptorCacheFill tid) s = .next u ∧ findDesc (u.core t.core).desc asid slot = some e ∧ u.mem = s.mem ∧
        ∀ x ∈ s.threads, x.core = t.core → x.wait = .descriptor asid slot → x.status = .waiting →
          { x with status := x.running, wait := .none, since := (u.core x.core).ccnt.toNat + 1 } ∈ u.threads))

/-- The travel of contexts, where no core is saving: a context or a spawn message that comes in takes a free landing slot of its lane and is
accepted, or is held in the staging while no slot is free, or stays in the link while the staging is full; one that follows a held one is staged
behind it; one held for 4,096 cc takes a general entry, and counts once as LANDING-FULL if there is none; the entry holds its words, and no other
byte of memory changes; a free landing slot takes the first waiting context, anchor returns first, a free thread slot the oldest landed thread; the
acceptance frees the source slot; a thread in PARKED-MONITOR may be swapped out, its entry with its status (R27-R33, R85, R108, R112, R113). Where an entry
lies in memory is the model's choice (log entry 132), and so are the oldest landed thread and the first of two contexts of one cc (log entries 134, 150)
and that an arriving context does not pass those of its lane that wait (log entry 69). -/
def Obligations.ContextTravelEvents : Prop :=
  ∀ (s : State), s.savesNothing → Memory.wf s.mem = true →
    let lands := fun (u : State) (t : Thread) (core j : Nat) => ∃ x, u.thread? t.tid = some x ∧ x.core = core ∧ x.place = .landing j ∧ x.status = t.running ∧
      x.pc = t.pc ∧ x.q = t.q ∧ x.n = t.n ∧ x.v = t.v ∧ x.p = t.p ∧ x.trapbase = t.kernTrap ∧ x.wait = .none
    let stored := fun (v u : State) (t : Thread) (core : Nat) (r : Bool) (st : Status) => ∃ x e, u.thread? t.tid = some x ∧ x.core = core ∧
      x.place = .area r e ∧ x.status = st ∧ x.pc = t.pc ∧ x.q = t.q ∧ x.n = t.n ∧ x.v = t.v ∧ x.p = t.p ∧ e ∉ v.areaUsed core r ∧ (r = false → 8192 ≤ e) ∧
      (let ws := t.contextWords (if st = .overflow then .ready else st)
       ∀ k, k < ws.length → memNat u.mem (v.areaByte core e + 8 * k) 8 = (ws.getD k 0).toNat) ∧
      ∀ a, a < v.areaByte core e ∨ v.areaByte core e + 1024 ≤ a → memByte u.mem a = memByte v.mem a
    (∀ k m s1 tid t, s.take k = some (m, s1) → m.body = .context tid → s1.thread? tid = some t → t.tid = tid →
      s1.launchCancelled t = false →
      let s2 := if m.src < 512 then holdSlot t s1 else s1
      let waiting := s2.landingWaits m.dst t.lane m.aret
      (∀ j, waiting = false → s2.freeLanding m.dst t.lane (if m.aret then [0, 1, 2, 3] else [0, 1, 2]) = some j →
        ∃ u : State, exec (.contextArrival k) s = .next u ∧ lands u t m.dst j ∧ ⟨m.dst, m.src, 2, false, .accepted tid, .moving⟩ ∈ u.net ∧ u.mem = s.mem) ∧
      (waiting = true ∨ s2.freeLanding m.dst t.lane (if m.aret then [0, 1, 2, 3] else [0, 1, 2]) = none →
        (m.aret = true → ∃ u : State, exec (.contextArrival k) s = .next u ∧ stored s2 u t m.dst true .overflow ∧
          ⟨m.dst, m.src, 2, false, .accepted tid, .moving⟩ ∈ u.net) ∧
        (m.aret = false → m.spot = .moving → s2.staging m.dst + t.cells ≤ 256 → ∃ u : State, exec (.contextArrival k) s = .next u ∧
          (∃ x, u.thread? tid = some x ∧ x.core = m.dst ∧ x.place = .staged m.src (s2.core m.dst).ccnt.toNat ∧ x.pc = t.pc ∧ x.q = t.q ∧ x.n = t.n) ∧
          u.net = s1.net ∧ vget (u.core m.dst).ctr 3 0 = vget (s2.core m.dst).ctr 3 0 + 1) ∧
        (m.aret = false → 256 < s2.staging m.dst + t.cells → ∃ u : State, exec (.contextArrival k) s = .next u ∧ u.threads = s.threads ∧ u.mem = s.mem ∧
          (m.isMoving = true → u.net = s.net.set k { m with spot := .link (m.arrived (s.core m.dst).ccnt.toNat) }) ∧ (m.isMoving = false → u = s)))) ∧
    (∀ k m, s.net[k]? = some m → (∃ tid, m.body = .context tid) → s.reachable m.dst = true → m.spot = .moving → s.comesIn k m = true →
      s.follows k m = true → ∃ u : State, exec (.contextArrival k) s = .next u ∧ u.threads = s.threads ∧ u.mem = s.mem ∧ u.net = s.net.set k { m with
        spot := if s.staging m.dst + m.cells s ≤ 256 then .staged (s.core m.dst).ccnt.toNat else .link (s.core m.dst).ccnt.toNat }) ∧
    (∀ k m s1 t wid parent j, s.take k = some (m, s1) → m.body = .spawn t wid parent → s1.launchCancelled t = false →
      s1.landingWaits m.dst t.lane false = false → m.aret = false → s1.freeLanding m.dst t.lane [0, 1, 2] = some j →
      ∃ u : State, exec (.spawnMessage k) s = .next u ∧ lands u t m.dst j ∧ (∃ x, u.thread? t.tid = some x ∧ x.anchor = m.dst) ∧
        ⟨m.dst, m.src, 2, false, .ack parent wid 0 0, .moving⟩ ∈ u.net) ∧
    (∀ core tid t src since, s.thread? tid = some t → t.tid = tid → t.place = .staged src since → t.core = core → since + 4096 ≤ (s.core core).ccnt.toNat →
      s.launchCancelled t = false → let due := fun (x : Thread) => x.core == core && x.place.held.isSome && x.since + 4096 ≤ (s.core core).ccnt.toNat
      (s.areaRoom core = true → (firstArrived s due).map Thread.tid = some tid → ∃ u : State, exec (.holdTimeout core tid) s = .next u ∧ stored s u t core false .overflow ∧
        ⟨core, src, 2, false, .accepted tid, .moving⟩ ∈ u.net) ∧
      (s.areaRoom core = false → t.stalled = false → ∃ u : State, exec (.holdTimeout core tid) s = .next u ∧ u.mem = s.mem ∧ u.net = s.net ∧
        vget (u.core core).ctr 4 0 = vget (s.core core).ctr 4 0 + 1 ∧ u.thread? tid = some { t with stalled := true }) ∧
      (s.areaRoom core = false → t.stalled = true → exec (.holdTimeout core tid) s = .next s)) ∧
    (∀ core tid k h, s.heldPlaced core tid = none → s.heldInLink core = some (k, h) → h.t.tid = tid → h.since + 4096 ≤ (s.core core).ccnt.toNat →
      (∀ x ∈ s.allThreads, x.core = core → x.place.held = none) →
      (s.areaRoom core = true → exec (.holdTimeout core tid) s = .next h.toArea) ∧
      (s.areaRoom core = false → h.t.stalled = true → exec (.holdTimeout core tid) s = .next s)) ∧
    (∀ core t src since, firstArrived s (fun t => t.core == core && t.stalled && t.place.held.isSome) = some t → s.thread? t.tid = some t →
      t.place = .staged src since → s.launchCancelled t = false → s.areaRoom core = true → ∃ u : State, exec (.overflowEntryFree core) s = .next u ∧
        stored s u t core false .overflow ∧ ⟨core, src, 2, false, .accepted t.tid, .moving⟩ ∈ u.net) ∧
    (∀ core lane slot t, slot ≤ 3 → s.slotTaken core lane (24 + slot) = false → s.nextHeld core = false →
      firstArrived s (fun t => t.waitsLanding core lane && t.isReturn) = some t → (∃ r e, t.place = .area r e) →
      ∃ u : State, exec (.landingSlotRefill core lane slot) s = .next u ∧ lands u t core slot ∧ u.net = s.net) ∧
    (∀ core lane k t, (List.range 24).find? (fun k => !s.slotTaken core lane k) = some k →
      firstArrived s (fun t => t.core == core && t.lane == lane && t.status != .outbound && (match t.place with | .landing _ => true | _ => false)) = some t →
      exec (.landedThreadMove core lane) s = .next (s.putThread { t with place := .slot k })) ∧
    (∀ k m s1 tid, s.take k = some (m, s1) → m.body = .accepted tid → ((s1.core m.dst).leaving.filter (fun y => y.1 == tid)).length ≤ 1 →
      ∃ u : State, exec (.contextAcceptance k) s = .next u ∧ (u.core m.dst).leaving = (s1.core m.dst).leaving.filter (fun y => y.1 != tid) ∧
        u.threads = s.threads ∧ u.mem = s.mem) ∧
    (∀ plaza lane t c j, (s.plaza plaza).spawnQ.find? (fun t => t.lane == lane) = some t →
      (List.range 8).find? (fun c => (s.freeLanding (8 * plaza + c) lane [0, 1, 2]).isSome &&
        !s.landingWaits (8 * plaza + c) lane false) = some c → s.freeLanding (8 * plaza + c) lane [0, 1, 2] = some j →
      s.launchCancelled t = false → ∃ u : State, exec (.spawnQueuePlace plaza lane) s = .next u ∧ lands u t (8 * plaza + c) j ∧
        (u.plaza plaza).spawnQ = (s.plaza plaza).spawnQ.eraseP (fun x => x.tid == t.tid)) ∧
    (∀ tid t, s.thread? tid = some t → t.tid = tid → t.status = .parkedMonitor → t.slotNo.isSome = true → s.areaRoom t.core = true → ∃ u : State,
      exec (.parkedThreadSwapOut tid) s = .next u ∧ stored s u t t.core false .parkedMonitor ∧ u.net = s.net ∧
        vget (u.core t.core).ctr 5 0 = vget (s.core t.core).ctr 5 0 + 1)

/-- Requests at a home port on a page that is present, of tier HBM and held by nothing, where no core is saving: a read sends its bytes, a store
writes them and is acknowledged, an atomic does both, a lease fill sends the bytes with the end of the lease it grants, an arm wakes its thread at
once where the condition holds and enters a monitor where it does not (R88, R91, R92, R105, R108, R293). -/
def Obligations.PortRequestEvents : Prop :=
  ∀ (s s1 : State) (k : Nat) (m : Msg) (r : Request) (tid : Nat) (e : BufEntry) (key : PageKey) (p : Pme) (lam a : Nat),
    s.savesNothing → Memory.wf s.mem = true → s.take k = some (m, s1) → r.who = .thread tid → r.trans = none → m.dst < 512 →
    m.src < 512 → translate s1 m.dst r.asid r.handle r.right r.size = .page e key p lam → p.tier = 0 → p.core = m.dst → p.wb = false → e.leased = false →
    a = p.byteAt lam → a / 2 ^ 31 = m.dst → (s1.port m.dst).holdQ.any (fun x => x.1 == key) = false →
    (s1.port m.dst).walking.any (fun x => x.1 == key) = false → (s1.port m.dst).wbQ.any (fun x => x.1 == key) = false →
    (s1.port m.dst).throttledIn (rowsAt a r.size) = none → s1.poisoned a r.size = false →
    (m.body = .read r → r.kind = .read → r.monitor = false → r.lease = false → ∃ u : State, exec (.remoteReadRequest k) s = .next u ∧ u.mem = s.mem ∧
      u.threads = s.threads ∧ u.net = s1.net ++ [⟨m.dst, m.src, 1, false, .data tid r.wid (memRead s.mem a r.size) 0 0, .moving⟩]) ∧
    (m.body = .store r → r.kind = .write → r.data.length = r.size → ∃ u : State, exec (.storeRequest k) s = .next u ∧
      (∀ x, memByte u.mem x = if a ≤ x ∧ x < a + r.size then r.data.getD (x - a) 0 else memByte s.mem x) ∧ u.lmem = s.lmem ∧ u.tmem = s.tmem ∧
      ⟨m.dst, m.src, 2, false, .ack tid r.wid 0 0, .moving⟩ ∈ u.net) ∧
    (m.body = .atomic r → r.kind = .atomic → let old := BitVec.ofNat 64 (memNat s.mem a r.size)
      let x := atomNew r.op r.ty ((s1.port m.dst).holds r.who (a / 64)) old r.b r.c
      ∃ u : State, exec (.atomicRequest k) s = .next u ∧ u.lmem = s.lmem ∧ (x.1 = none → u.mem = s.mem) ∧
        (∀ v, x.1 = some v → u.mem = memWrite s.mem a (leBytes r.size v)) ∧
        (if r.post then ⟨m.dst, m.src, 2, false, .ack tid r.wid 0 0, .moving⟩
          else ⟨m.dst, m.src, 1, false, .result tid old x.2.1 x.2.2 0 r.wid, .moving⟩) ∈ u.net) ∧
    (m.body = .fill r → r.kind = .read → r.monitor = false → r.lease = true → (s1.die (dieOf m.dst)).dlease ≠ 0 → (s1.port m.dst).leases = [] →
      let stop := s1.dtcOf (dieOf m.dst) + (s1.die (dieOf m.dst)).dlease.zeroExtend 64
      ∃ u : State, exec (.leaseFillRequest k) s = .next u ∧ u.mem = s.mem ∧ (r.asid, indexOf r.handle, lineOf r.handle, stop) ∈ (u.port m.dst).leases ∧
        u.net = s1.net ++ [⟨m.dst, m.src, 1, false, .data tid r.wid (memRead s.mem a r.size) stop 0, .moving⟩]) ∧
    (m.body = .arm r → r.kind = .read → r.monitor = true → s1.armWanted r.who = true →
      (condHolds r.cond.toNat r.ty.toNat (BitVec.ofNat 64 (memNat s.mem a r.size)) r.b = true →
        ∃ u : State, exec (.monitorArm k) s = .next u ∧ u.mem = s.mem ∧ u.net = s1.net ++ [⟨m.dst, m.src, 2, false, .wake tid 0, .moving⟩]) ∧
      (condHolds r.cond.toNat r.ty.toNat (BitVec.ofNat 64 (memNat s.mem a r.size)) r.b = false → (s1.port m.dst).monitors.length < 4096 →
        ∃ u : State, exec (.monitorArm k) s = .next u ∧ u.mem = s.mem ∧ u.net = s1.net ∧ (∀ t ∈ u.threads, t.tid = tid → t.status = .parkedMonitor) ∧
          ⟨tid, m.src, a, key, r.ty, r.cond, r.b⟩ ∈ (u.port m.dst).monitors))

/-- Answers at the thread that waits for them, where no core is saving: load data are extended into the destination and pushed, the result of an
atomic too with its flags, `SCOND` sets its predicate, a code is the fault of the access; a barrier's release sets its predicate, a board's reply the
view and the Result; a wake ends a `WAITC`. In each case the thread goes on behind its instruction (R89, R91, R105, R107, R108, R385, R389). The bytes of a
load that its thread has gone on behind take their place in its register and in the queue (R360, log entry 30). That a woken `WAITC` of 96 bits goes on
behind itself is the model's choice (log entry 139). -/
def Obligations.AnswerEvents : Prop :=
  (∀ (s s1 : State) (k tid fill : Nat) (m : Msg) (t : Thread) (c : Cont), s.take k = some (m, s1) → s1.waiter tid m.dst = some (t, c) →
     s.savesNothing → t.late = none → let since := (s1.core t.core).ccnt.toNat + 1
     let goes := fun (x : Thread) (len : Nat) => s1.putThread { x with
       pc := pcAdd t.pc len, status := t.running, wait := .none, badIndex := none, images := [], got := [], since := since }
     (∀ (r : Fin 32) ty len bs, (s1.core t.core).fills = [] → m.body = .data tid fill bs 0 0 → c = .load (.n r) ty len → bs.length = width ty.toNat / 8 →
       let v := extend ty.toNat (leNat bs)
       exec (.readData k) s = .next (goes { t with n := t.n.set r v, q := pushQ t.q v } len)) ∧
     (∀ (r : Fin 8) ty b len bs, (s1.core t.core).fills = [] → m.body = .data tid fill bs 0 0 → c = .vload r ty b len → bs.length = 32 →
       exec (.readData k) s = .next (goes { t with v := t.v.set r (BitVec.ofNat 256 (leNat bs % 2 ^ b)), vtag := t.vtag.set r (tagOf ty.toNat) } len)) ∧
     (∀ bs stop code, (s1.core t.core).fills = [] → m.body = .data tid fill bs stop code → code ≠ 0 → exec (.readData k) s = .next (s1.raiseAt t code 0 t.pendH).saveSweep) ∧
     (∀ ty len old ok fl wid, m.body = .result tid old ok fl 0 wid → c = .atomic .queue ty len →
       exec (.atomicResult k) s = .next (goes { t with q := pushQ t.q (extend ty.toNat old.toNat), fpflags := t.fpflags ||| fl } len)) ∧
     (∀ (p : Fin 7) len old ok fl wid, m.body = .result tid old ok fl 0 wid → c = .scond p len →
       exec (.atomicResult k) s = .next (goes { t with p := t.p.set (p.val + 1) ok } len)) ∧
     (∀ (p : Fin 7) len ok, m.body = .release tid ok → c = .release p len →
       exec (.barrierRelease k) s = .next (goes { t with p := t.p.set (p.val + 1) ok } len)) ∧
     (∀ (vm : Fin 4) len v x level, m.body = .boardReply tid v x level → c = .view vm .queue len →
       exec (.boardReply k) s = .next (goes { t with vm := t.vm.set vm v, q := pushQ t.q (BitVec.ofNat 64 level) } len)) ∧
     (∀ (vm : Fin 4) len v x level, m.body = .boardReply tid v x level → c = .slot vm .queue len → v.status.toNat < 2 →
       exec (.boardReply k) s = .next (goes { t with q := pushQ t.q x } len)) ∧
     (∀ len nap, tid < 2 ^ 64 → m.body = .wake tid nap → c = .monitor len → (∀ r e, t.place ≠ .area r e) → t.status = .waiting →
       exec (.wake k) s = .next (goes t len))) ∧
  (∀ (s s1 : State) (k tid fill : Nat) (m : Msg) (t : Thread) (l : Late) (bs : List Byte), s.take k = some (m, s1) → s.savesNothing →
    s1.lateAt tid m.dst = some (t, l) → t.wait ≠ .late → (s1.core m.dst).fills = [] → m.body = .data tid fill bs 0 0 →
    ∀ (r : Fin 32) ty len, l.cont = .load (.n r) ty len → bs.length = width ty.toNat / 8 →
      let v := extend ty.toNat (leNat bs)
      exec (.readData k) s = .next (s1.putThread { t with n := t.n.set r v, q := vset t.q l.depth v, late := none }))

/-- Acknowledgements, queue messages, barriers, boards, kicks and notices, where no core is saving: an acknowledged write is complete, a failed one
is kept with its code; an entry goes to the tail of its bank and is acknowledged; a grant enters the credit table, a credit adds to it, a revoke takes
the entry out and answers; the last arrival at a barrier releases its waiters and starts the next phase; a post fills an empty slot; an increment of
a kick counts; an exit notice makes an index absent (R88, R100, R101, R206, R293, R296, R378-R392, R398). -/
def Obligations.MessageEvents : Prop :=
  ∀ (s : State), s.savesNothing →
    (∀ (k : Nat) (m : Msg) (s1 : State), s.take k = some (m, s1) →
      (∀ tid wid t w, m.body = .ack tid wid 0 0 → s1.thread? tid = some t → w ∈ t.writes → w.id = wid → t.status = .ready →
        ∃ u : State, exec (.writeAcknowledgement k) s = .next u ∧ u.thread? tid = some { t with writes := t.writes.filter (fun x => x.id != wid) } ∧
          u.mem = s.mem ∧ u.net = s1.net) ∧
      (∀ tid wid code t, m.body = .ack tid wid 0 code → code ≠ 0 → s1.thread? tid = some t → t.status = .ready → t.wait = .none →
        (∃ w, t.writes.find? (fun x => x.id == wid) = some w ∧ w.core = t.core) → exec (.writeAcknowledgement k) s = .next (s1.putThread
          { t with writes := t.writes.map (fun x => if x.id = wid then { x with state := .failed code } else x) })) ∧
      (∀ plaza bank bs tid wid z n head tail fill p, m.body = .entry plaza bank bs tid wid → m.src < 1024 →
        (s1.plaza plaza).mode bank = .fifo z n head tail fill p → (∀ t ∈ s1.allThreads, t.wait ≠ .entry plaza bank) → ∃ u : State,
          exec (.queueEntry k) s = .next u ∧ u.lmem = memWrite s.lmem (localAt plaza (bank * 0x8000 + tail * z)) (bs.take z) ∧ u.mem = s.mem ∧
          (u.plaza plaza).mode bank = .fifo z n head ((tail + 1) % n) (fill + 1) p ∧ u.net = s1.net ++ [⟨m.dst, m.src, 2, false, .ack tid wid 0 0, .moving⟩]) ∧
      (∀ d z n c plaza bank, m.body = .grant d z n c plaza bank true → (s1.core m.dst).credit? d = none → (s1.core m.dst).credits.length < 32 →
        ∃ u : State, exec (.grant k) s = .next u ∧ (∃ place, place < 32 ∧
            (∀ e ∈ (s1.core m.dst).credits, e.place ≠ place) ∧ (u.core m.dst).credit? d = some ⟨place, d, z, n, c, 0, 0⟩) ∧
          u.net = s1.net ++ [⟨m.dst, m.src, 2, false, .grantAck plaza bank true, .moving⟩]) ∧
      (∀ d e, m.body = .credit d → (s1.core m.dst).credit? d = some e → ∃ u : State, exec (.credit k) s = .next u ∧ u.mem = s.mem ∧
        (u.core m.dst).credit? d = some { e with credits := e.credits + 1 }) ∧
      (∀ d plaza bank, m.body = .revoke d plaza bank true → ∃ u : State, exec (.revoke k) s = .next u ∧ (u.core m.dst).credit? d = none ∧
        u.net = s1.net ++ [⟨m.dst, m.src, 0, false, .revokeReply plaza bank, .moving⟩]) ∧
      (∀ plaza bank z n head tail p who next, m.body = .revokeReply plaza bank → (s1.plaza plaza).mode bank = .fifo z n head tail 0 p →
        (s1.plaza plaza).stage? bank = some (who, .revoking next) → next = .scratch ∨ next = .cache →
        ∃ u : State, exec (.revokeReply k) s = .next u ∧ (u.plaza plaza).mode bank = next ∧ (u.plaza plaza).stage? bank = some (who, .done) ∧ u.mem = s.mem) ∧
      (∀ index asid ident tid b, m.body = .barrier 0 index asid ident tid → s.syeBehind k m = false → (s1.die (dieOf m.dst)).barriers.find? (fun b => b.index == index && b.asid == asid) = some b →
        (s1.die (dieOf m.dst)).syeFull.contains (barrierObject b.index) = false → b.broken = false → b.arrivals + 1 = b.parties →
        (s1.die (dieOf m.dst)).barrier? index = some b → ∃ u : State,
        exec (.barrierRequest k) s = .next u ∧ u.mem = s.mem ∧ (∀ w ∈ b.waiters, ⟨64 * dieOf m.dst, w.2, 2, false, .release w.1 true, .moving⟩ ∈ u.net) ∧
          (u.die (dieOf m.dst)).barrier? index =
            some { b with last := some true, phase := b.phase + 1, arrivals := 0, records := [], waiters := [] }) ∧
      (∀ index asid slot v tid g mask b, m.body = .board 0 index asid slot v tid g mask → s.syeBehind k m = false → m.dst < 512 →
        (s1.die (dieOf m.dst)).boards.find? (fun b => b.index == index && b.asid == asid) = some b → (s1.die (dieOf m.dst)).board? index = some b →
        (s1.die (dieOf m.dst)).syeFull.contains (boardObject index) = false → bitOf b.mask.toNat slot = false → ∃ (u : State) (b1 : Board),
        exec (.boardRequest k) s = .next u ∧ (u.die (dieOf m.dst)).board? index = some b1 ∧
          b1 = { b with slots := b.slots.set slot v, mask := b.mask ||| (1 <<< slot), level := b.level + 1 } ∧
          u.net = s1.net ++ [⟨64 * dieOf m.dst, m.src, 2, false, .boardReply tid (b1.view (dieOf m.dst) 0) 0 b1.level, .moving⟩]) ∧
      (∀ wid tid nap, m.body = .kick wid true tid nap → (s1.wgBy wid).wid = wid → ∃ u : State, exec (.kick k) s = .next u ∧ u.mem = s.mem ∧
        (u.wgBy wid).kick = (s1.wgBy wid).kick + 1) ∧
      (∀ wid index, m.body = .exitNotice wid index → wid ≠ 0 → (s1.wgBy wid).wid = wid → ∃ u : State, exec (.exitNotice k) s = .next u ∧ u.mem = s.mem ∧
        index ∈ (u.wgBy wid).exited ∧ ∀ x ∈ (s1.wgBy wid).exited, x ∈ (u.wgBy wid).exited)) ∧
    (∀ tid t, s.thread? tid = some t → t.status = .ready → (∀ w ∈ t.writes, ∃ u, w.state = .until u ∧ u.toNat ≤ (s.dtcOf (dieOf w.core)).toNat) →
      ∃ u : State, exec (.leasedWriteComplete tid) s = .next u ∧ u.thread? tid = some { t with writes := [] } ∧ u.mem = s.mem) ∧
    (∀ core, (s.port core).ackHold = [] → ∃ u : State, exec (.leaseExpiry core) s = .next u ∧ u.net = s.net ∧ u.mem = s.mem ∧
      (u.port core).leases = (s.port core).leases.filter (fun x => (s.dtcOf (dieOf core)).toNat < x.2.2.2.toNat)) ∧
    (∀ die o, (s.die die).syeFull = [o] → ∃ u : State, exec (.syeOverflow die o) s = .next u ∧ o ∉ (u.die die).syeFull ∧
      (u.die die).barriers = (s.die die).barriers ∧ (u.die die).boards = (s.die die).boards) ∧
    (∀ w n, let g := s.wgBy w
      s.suspends g = false → g.wid = w → n < 16 → (g.barOf n).arrived ≠ 0 → g.wgsize ≤ (g.barOf n).arrived + g.exited.length →
      (∀ b, b < 4 → bitOf (g.barOf n).bmask.toNat b = true → g.seq.state b ≠ 1) → ∃ u : State, exec (.barrierPhaseEnd w n) s = .next u ∧ u.mem = s.mem ∧
        (u.wgBy w).barOf n = ⟨(g.barOf n).phase + 1, 0, 0⟩ ∧
        ∀ t ∈ s.threads, g.is t = true → t.spawned = false → t.atBar n = true → ∃ t' ∈ u.threads, t'.tid = t.tid ∧ t'.status = t.running ∧
          t'.pc = pcAdd t.pc 8 ∧ t'.q = t.q ∧ t'.n = t.n)

/-- Translation and page movement, where no core is saving: a walk that finds the page present fills the MTLB, one that does not parks every thread that
waits for it and posts the record of the first; a record that finds the queue full is tried again after 1,000 ns; an invalidation waits for the
requests that were translated, then the covered pages leave the unit's MTLB and it answers, and the last answer completes the command; of a move
request a reserved DTIER gives 0x81, a pinned page 0x82, a tier-CAP page that is to go to CAP 0x02, no free frame 0x80, and otherwise WB is set and the
home is told; STATE is written once the home has answered, and when nothing translated before is outstanding the page is switched, and the request
ends when what was held has drained. A ring without a new request is watched (R279, R298, R301-R305; which page a handle of a ring names is log entry
79, that an access of a ring which fails is left out 143). -/
def Obligations.PagingEvents : Prop :=
  ∀ (s : State), s.savesNothing → Memory.wf s.mem = true →
    (∀ core key, (s.port core).walking = [] →
      (∀ p, s.walkPme core key = some p → ∃ u : State, exec (.pageMapWalk core key) s = .next u ∧ (u.port core).lookup key = some p ∧ u.mem = s.mem ∧
        (∀ t ∈ s.threads, t.walks core key = true → t.status = .waiting → ∃ t' ∈ u.threads, t'.tid = t.tid ∧ t'.status = t.running ∧ t'.pc = t.pc)) ∧
      (s.walkPme core key = none → ∃ u : State, exec (.pageMapWalk core key) s = .next u ∧
        (∀ t ∈ s.threads, t.walks core key = true → ∃ t' ∈ u.threads, t'.tid = t.tid ∧ t'.status = .parkedFault ∧ t'.pc = t.pc) ∧
        (∀ t h acc e, s.allThreads.find? (fun t => t.walks core key) = some t → t.wait = .walk core key h acc → s.portEntry core key.asid key.buf = some e →
          (s.port core).records.contains key = false → let bs := recordBytes core key h (posOf s.conf.lc e core) acc 0
          key ∈ (u.port core).records ∧ (∀ v, s.postBytes bs = some v → u.mem = v.mem) ∧
            (s.postBytes bs = none → u.mem = s.mem ∧ (key, bs, s.dtcOf (dieOf core) + 1000) ∈ (u.port core).unposted)))) ∧
    (∀ core, let now := s.dtcOf (dieOf core)
      ((∀ x ∈ (s.port core).unposted, now.toNat < x.2.2.toNat) → exec (.faultPostRetry core) s = .next s) ∧
      (∀ key bs t, (s.port core).unposted = [(key, bs, t)] → t.toNat ≤ now.toNat →
        (∀ v, s.postBytes bs = some v → ∃ u : State, exec (.faultPostRetry core) s = .next u ∧ u.mem = v.mem ∧ (u.port core).unposted = []) ∧
        (s.postBytes bs = none → ∃ u : State, exec (.faultPostRetry core) s = .next u ∧ u.mem = s.mem ∧
          (u.port core).unposted = [(key, bs, now + 1000)]))) ∧
    (∀ (k : Nat) (m : Msg) (s1 : State), s.take k = some (m, s1) →
      (∀ hub asid level h n, m.body = .inval hub asid level h n →
        (s1.heldFor (covers s1 m.dst asid level h n) (· == m.dst) = true ∨ (s1.port m.dst).writingBack = true → exec (.invalidation k) s = .next s) ∧
        (∀ s2, s1.heldFor (covers s1 m.dst asid level h n) (· == m.dst) = false → (s1.port m.dst).writingBack = false →
          applyInval hub m.dst asid level h n s1 = .ok s2 →
          ∃ u : State, exec (.invalidation k) s = .next u ∧ ⟨m.dst, 0x200 + 64 * hub, 2, false, .invalAnswer hub asid, .moving⟩ ∈ u.net ∧
            ∀ x ∈ (u.port m.dst).mtlb, covers s1 m.dst asid level h n x.1 = false)) ∧
      (∀ hub asid p, m.body = .invalAnswer hub asid → hub < 2 → (s1.hub hub).inval = some p → p.bases = none → ∃ u : State,
        exec (.invalidationAnswer k) s = .next u ∧ u.mem = s.mem ∧
        (1 < p.left → (u.hub hub).inval = some { p with left := p.left - 1 } ∧ u.host = s.host) ∧
        (p.left ≤ 1 → (u.hub hub).inval = none ∧ u.host = .completion hub p.tag 0 :: s.host)) ∧
      (∀ hub key p, m.body = .wbNotice hub key → s1.pageOf m.dst key = some p → ∃ u : State, exec (.wbNotice k) s = .next u ∧
        (u.port m.dst).lookup key = some { p with wb := true } ∧ u.net = s1.net ++ [⟨m.dst, 0x200 + 64 * hub, 2, false, .wbAck hub, .moving⟩]) ∧
      (∀ hub v, hub < 2 → m.body = .wbAck hub → (s1.hub hub).move = some v →
        (v.mapOut = true → ∃ u : State, exec (.wbNotice k) s = .next u ∧ u.mem = s.mem ∧ (u.hub hub).move = some { v with stage := 1 }) ∧
        (∀ s2, v.mapOut = false → moveState hub v.asid v.ring v.index (v.new.frame % 2 ^ 31) 1 s1 = .ok s2 → ∃ u : State,
          exec (.wbNotice k) s = .next u ∧ u.mem = s2.mem ∧ (u.hub hub).move = some { v with stage := 1 })) ∧
      (∀ index sector bs, m.body = .sector index sector bs → bs.length = 2048 → (s1.port m.dst).mscWait = [] → ∃ u : State,
        exec (.sectorData k) s = .next u ∧ (u.port m.dst).line index = (true, false, BitVec.ofNat 20 (sector / (s1.port m.dst).sectors), true) ∧
          memRead u.mem ((s1.port m.dst).sectorAt index 0) 2048 = bs) ∧
      (∀ index, m.body = .writeBackAck index → (s1.port m.dst).mscBusy.find? (fun y => y.1 == index) = none → ∃ u : State,
        exec (.sectorWriteBackAck k) s = .next u ∧ ((u.port m.dst).line index).2.1 = false ∧ ((u.port m.dst).line index).1 = ((s1.port m.dst).line index).1) ∧
      (∀ r src page off tid x, m.body = .hostRead r src page off → r.who = .thread tid → r.kind = .read → r.monitor = false → r.lease = false →
        r.trans = some x →
        (s.portCarries (dieOf m.dst - 8) = false → exec (.cxlCacheCompletion k) s = .next s) ∧
        (s.portCarries (dieOf m.dst - 8) = true → (s1.hub (dieOf m.dst - 8)).trackers = [] → s1.poisoned (hostAt page off) r.size = false →
          (s1.port x.port).wbQ.any (fun y => y.1 == x.key) = false → ∃ u : State, exec (.cxlCacheCompletion k) s = .next u ∧ u.mem = s.mem ∧
          u.net = s1.net ++ [⟨x.unit, x.src, 1, false, .data tid r.wid (memRead s.mem (hostAt page off) r.size) 0 0, .moving⟩]))) ∧
    (∀ hub asid, ((s.hub hub).moveHold.isSome = true ∨ (s.hub hub).move.isSome = true → exec (.moveRequestTake hub asid) s = .next s) ∧
      (∀ ring, (s.hub hub).moveHold = none → (s.hub hub).move = none → (s.hub hub).request = none →
        (s.hub hub).rings.find? (fun r => r.1 == asid) = some (asid, ring) →
        ((s.hub hub).armed.contains asid = true → exec (.moveRequestTake hub asid) s = .next s) ∧
        (∀ hd s1, (s.hub hub).armed.contains asid = false → s.readBuf (.hub hub) asid ring 16 = .ok (hd, s1) →
          (wordAt hd 0 = wordAt hd 1 → exec (.moveRequestTake hub asid) s = .next (armRing hub asid ring (wordAt hd 1) s1)) ∧
          (∀ bs s2, wordAt hd 0 ≠ wordAt hd 1 → s1.readBuf (.hub hub) asid (handleAdd ring (0x40 + 32 * (wordAt hd 1 % 16))) 32 = .ok (bs, s2) →
            exec (.moveRequestTake hub asid) s =
              .next (takeMove hub ⟨asid, ring, wordAt hd 1, BitVec.ofNat 64 (wordAt bs 0), wordAt bs 1, wordAt bs 2⟩ s2))))) ∧
    (∀ hub (rq : MoveRequest) e, hub < 2 → (s.hub hub).moveHold = none → (s.hub hub).move = none → (s.hub hub).request = some rq →
      s.tableEntry rq.asid (indexOf rq.h) = some e → offsetOf rq.h < e.length → e.tier = 1 → rq.w1 / 2 ^ 12 = 0 →
      let l := homeLoc s.conf.lc e (offsetOf rq.h)
      let key : PageKey := ⟨rq.asid, indexOf rq.h, l.page⟩
      let ends := fun (st : Nat) => ∀ v, finishMove hub rq.asid rq.ring rq.index (bits rq.w2 39 8) st s = .ok v → ∃ u : State,
        exec (.moveRequestTake hub rq.asid) s = .next u ∧ u.mem = v.mem ∧ (u.hub hub).request = none ∧ (u.hub hub).move = (v.hub hub).move
      (2 ≤ bits rq.w1 11 10 → ends 0x81) ∧
      ∀ p a, s.pageOf l.home key = some p →
        s.pmeAt rq.asid (key.buf % 4096) (key.page * setSize s.conf.lc e + posOf s.conf.lc e l.home) = some a → bits rq.w1 11 10 < 2 →
        (p.pin = true → ends 0x82) ∧ (p.pin = false → bits rq.w1 11 10 = 1 → ends 0x02) ∧
        (p.pin = false → bits rq.w1 11 10 = 0 → pickFrame s rq.asid (bits rq.w1 9 0) 0 p false = none → ends 0x80) ∧
        (∀ from_ f new, p.pin = false → bits rq.w1 11 10 = 0 → pickFrame s rq.asid (bits rq.w1 9 0) 0 p false = some (from_, f, new) →
          ∃ u : State, exec (.moveRequestTake hub rq.asid) s = .next u ∧ u.mem = memWrite s.mem a (leBytes 8 (memNat s.mem a 8 ||| 32)) ∧
            (u.hub hub).move = some ⟨rq.asid, rq.ring, rq.index, l.home, key, a, p, new, 0, false, rq.h⟩ ∧ (u.hub hub).request = none ∧
            u.net = s.net ++ [⟨0x200 + 64 * hub, l.home, 2, false, .wbNotice hub key, .moving⟩])) ∧
    (∀ hub v, hub < 2 → (s.hub hub).move = some v →
      ((s.hub hub).moveHold.isSome = true ∨ v.stage = 0 ∨
        (v.stage = 1 ∧ (s.heldFor (· == v.key) (fun _ => true) = true ∨ v.sectorBusy s = true)) ∨
        (v.stage = 4 ∧ ((s.port v.port).wbQ.any (fun x => x.1 == v.key) = true ∨ s.writesAhead v.port v.key = true)) →
        exec (.pageCopyDone hub) s = .next s) ∧
      (∀ cur s1, (s.hub hub).moveHold = none → v.stage = 1 → v.mapOut = false → s.heldFor (· == v.key) (fun _ => true) = false → v.sectorBusy s = false →
        parsePme v.old.core (memNat s.mem v.pmeAt 8) = some cur → switchPage (.hub hub) v cur s = .ok s1 → s1.savesNothing →
        let s2 := s1.putHub hub { s1.hub hub with move := some { v with stage := 4 } }
        let drained := !(s2.port v.port).wbQ.any (fun x => x.1 == v.key) && !s2.writesAhead v.port v.key
        (drained = false → exec (.pageCopyDone hub) s = .next s2) ∧
        (∀ s3, drained = true → finishMove hub v.asid v.ring v.index (v.new.frame % 2 ^ 31) 2 s2 = .ok s3 → s3.savesNothing → ∃ u : State,
          exec (.pageCopyDone hub) s = .next u ∧ u.mem = s3.mem ∧ u.net = s3.net ∧ (u.hub hub).move = none)))

/-- The memory-side cache, rows, layers and the commands of the privileged queues, where no core is saving: an index in error answers 0x0D, one
whose CHECK fails becomes poisoned and counts, a hit reads its sector, a miss asks the hub for it; a throttled row is read when its time has come; at
the end of a window the counts and throttles of a die's rows are gone; a layer with too many errors is mapped out while more than 12 are left, one
page after the other, and then it leaves MCONF; a running hub that is not busy answers an unknown code with 0x01, set reserved bits with 0x02, an
ASID without bases with 0x03, a core that is not admitted or a buffer that is not there with 0x04, and otherwise carries its command out and completes
it, or broadcasts it to every unit (R301, R302, R303, R340, R342, R346, R347, R348, R349, R350, R416; that a layer is 1,536 frames is log entry 82,
which commands the ASID is checked for 85). -/
def Obligations.MemorySideAndCommandEvents : Prop :=
  ∀ (s : State), s.savesNothing →
    (∀ core index, (s.port core).sectorFirst index = none → exec (.memorySideCacheAccess core index) s = .next s) ∧
    (∀ core index src r x tid, let q := s.port core
      q.sectorFirst index = some (src, r, x) → r.who = .thread tid → r.kind = .read → r.monitor = false → r.lease = false → x.unit = core → x.p.tier = 1 →
      let a := x.cell - 2 ^ 42
      a / 2048 % q.sectors = index →
      (q.poisonIdx.contains index = true → ∃ u : State, exec (.memorySideCacheAccess core index) s = .next u ∧ u.mem = s.mem ∧
        u.net = s.net ++ [⟨x.unit, src, 1, false, .data tid r.wid [] 0 0x0D, .moving⟩]) ∧
      (q.poisonIdx.contains index = false → (q.line index).2.2.2 = false → q.poisonIdx.length < 64 → ∃ u : State,
        exec (.memorySideCacheAccess core index) s = .next u ∧ u.mem = s.mem ∧ index ∈ (u.port core).poisonIdx ∧
        ⟨x.unit, src, 1, false, .data tid r.wid [] 0 0x0D, .moving⟩ ∈ u.net ∧ vget (u.port core).ctrs 5 0 = vget q.ctrs 5 0 + 1) ∧
      (q.poisonIdx.contains index = false → (q.line index).2.2.2 = true → q.mscBusy.any (fun x => x.1 == index) = true →
        exec (.memorySideCacheAccess core index) s = .next s) ∧
      (∀ tag, q.poisonIdx.contains index = false → q.mscBusy.any (fun x => x.1 == index) = false → q.caches a = false →
        q.line index = (false, false, tag, true) → s.capUp a = true → (s.port (q.sectorAt index 0 / 2 ^ 31)).throttled = [] →
        ∃ u : State, exec (.memorySideCacheAccess core index) s = .next u ∧ u.mem = s.mem ∧ (index, a / 2048, 1) ∈ (u.port core).mscBusy ∧
          u.net = s.net ++ [⟨core, capHub a, 0, false, .sectorFill index (a / 2048), .moving⟩]) ∧
      (∀ pa, pa = s.phys x.p x.lam →
        q.poisonIdx.contains index = false → (q.line index).2.2.2 = true → q.mscBusy.any (fun x => x.1 == index) = false → q.caches a = true →
        x.p.core = core → q.throttledIn (rowsAt pa r.size) = none → s.poisoned pa r.size = false →
        (s.port x.port).wbQ.any (fun y => y.1 == x.key) = false → ∃ u : State, exec (.memorySideCacheAccess core index) s = .next u ∧ u.mem = s.mem ∧
          u.net = s.net ++ [⟨x.unit, x.src, 1, false, .data tid r.wid (memRead s.mem pa r.size) 0 0, .moving⟩])) ∧
    (∀ die, (s.rowWindow die = (s.die die).window → exec (.rowWindow die) s = .next s) ∧
      (s.rowWindow die ≠ (s.die die).window → (∀ q ∈ s.ports, q.rowHold = []) → ∃ u : State, exec (.rowWindow die) s = .next u ∧ u.mem = s.mem ∧
        (u.die die).window = s.rowWindow die ∧
        ∀ q ∈ s.ports, dieOf q.id = die → q.id < 512 → (u.port q.id).rows = [] ∧ (u.port q.id).throttled = [])) ∧
    (∀ core row t, (s.port core).rowNext.find? (fun x => x.1 == row) = some (row, t) →
      ((s.port core).rowHold.filter (fun x => x.1 == row)) = [] ∨ (s.dtcOf (dieOf core)).toNat < t.toNat →
      exec (.throttledActivation core row) s = .next s) ∧
    (∀ core row t src r y, (s.port core).rowNext.find? (fun x => x.1 == row) = some (row, t) → (s.port core).rowHold = [(row, src, r)] →
      t.toNat ≤ (s.dtcOf (dieOf core)).toNat → ∀ tid, r.who = .thread tid → r.kind = .read → r.monitor = false → r.lease = false →
      r.trans = some y → y.unit = core → y.p.tier = 0 → rowsAt (y.p.byteAt y.lam) r.size = [row] → s.poisoned (y.p.byteAt y.lam) r.size = false → (s.port y.port).wbQ.any (fun x => x.1 == y.key) = false →
      ∃ u : State, exec (.throttledActivation core row) s = .next u ∧ (u.port core).rowHold = [] ∧ u.mem = s.mem ∧
        u.net = s.net ++ [⟨y.unit, y.src, 1, false, .data tid r.wid (memRead s.mem (y.p.byteAt y.lam) r.size) 0 0, .moving⟩]) ∧
    (∀ stack, ∃ u : State, exec (.layerEvaluation stack) s = .next u ∧ u = { s with agenda := u.agenda } ∧
      (layersLeft (s.mgmt.stack stack).2 ≤ 12 → u = s) ∧
      (∀ l, l < 16 → (s.mgmt.stack stack).2.getLsbD l = true → (∃ c ∈ stackCores stack, 4 ≤ (vget (s.port c).uel l 0).toNat) →
        layersLeft (s.mgmt.stack stack).2 = 16 → (∀ j, j < l → ∀ c ∈ stackCores stack, (vget (s.port c).uel j 0).toNat < 4 ∧ (vget (s.port c).cel j 0).toNat < 65536) →
        Turn.event (.layerMapOut stack l) ∈ u.agenda)) ∧
    (∀ stack layer, s.mgmt.mapOut = none →
      (layersLeft (s.mgmt.stack stack).2 ≤ 12 ∨ (s.mgmt.stack stack).2.getLsbD layer = false → exec (.layerMapOut stack layer) s = .next s) ∧
      (12 < layersLeft (s.mgmt.stack stack).2 → (s.mgmt.stack stack).2.getLsbD layer = true →
        (∀ c ∈ stackCores stack, (s.port c).msc = [] ∧ s.resIn c layer = []) →
        exec (.layerMapOut stack layer) s = .next { s with mgmt := { s.mgmt with mapOut := some (stack, layer, true) } })) ∧
    (∀ stack layer, s.mgmt.mapOut = some (stack, layer, true) → (∀ h ∈ s.hubs, h.move = none) →
      let goes := fun (x : PageKey × W64 × Nat × Nat × Pme) => x.2.2.2.2.tier == 0 && (stackCores stack).contains x.2.2.2.2.core && x.2.2.2.2.frame / 1536 == layer
      (∀ key h home a p from_ f new, s.presentPages.find? goes = some (key, h, home, a, p) → let hub := s.hubOf (dieOf p.core)
        hub < 2 → (s.hub hub).request = none → (s.hub hub).moveHold = none → newFrame s key.asid p = some (from_, f, new) → ∃ u : State,
        exec (.layerMapOut stack layer) s = .next u ∧ u.mem = memWrite s.mem a (leBytes 8 (memNat s.mem a 8 ||| 32)) ∧
          (u.hub hub).move = some ⟨key.asid, 0, 0, home, key, a, p, new, 0, true, h⟩ ∧
          u.net = s.net ++ [⟨0x200 + 64 * hub, home, 2, false, .wbNotice hub key, .moving⟩]) ∧
      (s.presentPages.find? goes = none → ∃ u : State, exec (.layerMapOut stack layer) s = .next u ∧ u.mem = s.mem ∧ u.mgmt.mapOut = none ∧
        (u.mgmt.stack stack).2.getLsbD layer = false ∧ (u.mgmt.stack stack).1 = (s.mgmt.stack stack).1 - 3072 ∧ u.writeConf = u ∧
        (let e : RasEvent := ⟨0x12, stack / 2, BitVec.ofNat 64 (stack * 16 + layer)⟩
         u.mgmt.events = s.mgmt.events ++ [e] ∧ u.host = .event e :: s.host))) ∧
    (∀ (c : Command) (i : Instr) (code : Nat), s.hubUp c.hub = true → s.hubBusy c.hub = false →
      (i, code) ∈ [(Instr.inval c, 0x01), (Instr.faultdone c, 0x02), (Instr.regasid c, 0x03), (Instr.track c, 0x04), (Instr.pool c, 0x05),
        (Instr.faultq c, 0x06), (Instr.suspend c, 0x07), (Instr.resume c, 0x08), (Instr.lease c, 0x09), (Instr.movering c, 0x0A), (Instr.peertab c, 0x0B)] →
      let answers := fun (st : Nat) => exec i s = .next { s with host := .completion c.hub c.tag st :: s.host }
      let asid := bits c.w0.toNat 19 8
      (bits c.w0.toNat 7 0 = 0 ∨ 0x0B < bits c.w0.toNat 7 0 → answers 0x01) ∧
      (bits c.w0.toNat 7 0 = code → bits c.w0.toNat 63 22 ≠ 0 → answers 0x02) ∧
      (bits c.w0.toNat 7 0 = code → bits c.w0.toNat 63 22 = 0 → s.bases asid = none → code ≠ 0x03 → code ≠ 0x09 → answers 0x03)) ∧
    (∀ (c : Command), s.hubUp c.hub = true → s.hubBusy c.hub = false → bits c.w0.toNat 63 22 = 0 → let code := bits c.w0.toNat 7 0
      let asid := bits c.w0.toNat 19 8
      let done := fun (u : State) => u.host = .completion c.hub c.tag 0 :: s.host ∧ u.mem = s.mem ∧ u.threads = s.threads
      (code = 0x03 → s.bases asid = none → ∃ u, exec (.regasid c) s = .next u ∧ done u ∧ u.bases asid = some (c.arg.toNat, c.param.toNat)) ∧
      (code = 0x09 → bits c.arg.toNat 3 0 < 8 → s.conf.admitted.getLsbD (bits c.arg.toNat 3 0) = true →
        ∃ u, exec (.lease c) s = .next u ∧ done u ∧ (u.die (bits c.arg.toNat 3 0)).dlease = BitVec.ofNat 16 c.param.toNat) ∧
      (s.bases asid ≠ none →
        (code = 0x01 → let level := bits c.w0.toNat 21 20
          (level = 3 → exec (.inval c) s = .next { s with host := .completion c.hub c.tag 0x02 :: s.host }) ∧
          (level < 2 → s.namesBuffer asid c.arg = false → exec (.inval c) s = .next { s with host := .completion c.hub c.tag 0x04 :: s.host }) ∧
          (level < 3 → level = 2 ∨ s.namesBuffer asid c.arg = true → ∃ u, exec (.inval c) s = .next u ∧ u.host = s.host ∧
            (∀ x ∈ s.units, ⟨0x200 + 64 * c.hub, x, 2, false, .inval c.hub asid level c.arg (max 1 c.param.toNat), .moving⟩ ∈ u.net) ∧
            (u.hub c.hub).inval = some ⟨c.tag, asid, s.units.length, none⟩)) ∧
        (code = 0x02 → let port := bits c.param.toNat 9 0
          (s.unitOk port = false ∨ s.portEntry port asid (indexOf c.arg) = none → exec (.faultdone c) s = .next { s with host := .completion c.hub c.tag 0x04 :: s.host }) ∧
          (∀ e, s.unitOk port = true → s.portEntry port asid (indexOf c.arg) = some e → let key : PageKey := ⟨asid, indexOf c.arg, (homeLoc s.conf.lc e (offsetOf c.arg)).page⟩
            (s.port port).holdQ = [] → (s.port port).readHold = [] → (s.port port).walking = [] → (∀ t ∈ s.threads, t.walks port key = false) → s.th.tid = 0 →
            ∃ u, exec (.faultdone c) s = .next u ∧ u.mem = s.mem ∧ u.host = .completion c.hub c.tag 0 :: s.host ∧ key ∉ (u.port port).records ∧ (∀ x ∈ (u.port port).unposted, x.1 ≠ key) ∧
              ∀ t ∈ s.threads, t.wait = .fault port key → t.status = .parkedFault → ∃ t' ∈ u.threads, t'.tid = t.tid ∧ t'.status = t.running)) ∧
        (code = 0x04 → let threshold := bits c.param.toNat 15 0
          (threshold = 0 → ∃ u, exec (.track c) s = .next u ∧ done u ∧ ∀ t ∈ (u.hub c.hub).trackers, t.asid ≠ asid) ∧
          (threshold ≠ 0 → s.namesBuffer asid c.arg = false → exec (.track c) s = .next { s with host := .completion c.hub c.tag 0x04 :: s.host }) ∧
          (threshold ≠ 0 → s.namesBuffer asid c.arg = true → ∃ u, exec (.track c) s = .next u ∧ done u ∧
            (u.hub c.hub).trackers.find? (fun t => t.asid == asid) = some ⟨asid, c.arg, threshold, bits c.param.toNat 31 16, [], [], []⟩)) ∧
        (code = 0x05 → let unit := bits c.param.toNat 25 16
          let n := bits c.param.toNat 15 0
          (s.unitOk unit = false → exec (.pool c) s = .next { s with host := .completion c.hub c.tag 0x04 :: s.host }) ∧
          (s.unitOk unit = true → ∃ u, exec (.pool c) s = .next u ∧ done u ∧
            (unit < 512 → poolOf (u.port unit).pools asid = (List.range n).map (· + c.arg.toNat % 2 ^ 31 / 65536)) ∧
            (512 ≤ unit → poolOf (u.hub ((unit - 512) / 64)).capPools asid = (List.range n).map (· + c.arg.toNat % 2 ^ 40 / 65536)))) ∧
        (code = 0x06 → ∃ u, exec (.faultq c) s = .next u ∧ done u ∧ (u.hub c.hub).faultBase = c.arg.toNat ∧ (u.hub c.hub).faultLen = bits c.param.toNat 15 0) ∧
        (code = 0x0A →
          (c.arg = 0 → ∃ u, exec (.movering c) s = .next u ∧ done u ∧ ∀ r ∈ (u.hub c.hub).rings, r.1 ≠ asid) ∧
          (c.arg ≠ 0 → s.namesBuffer asid c.arg = false → exec (.movering c) s = .next { s with host := .completion c.hub c.tag 0x04 :: s.host }) ∧
          (c.arg ≠ 0 → s.namesBuffer asid c.arg = true → ∃ u, exec (.movering c) s = .next u ∧ done u ∧
            (u.hub c.hub).rings.find? (fun r => r.1 == asid) = some (asid, c.arg))) ∧
        (code = 0x0B → ∃ u, exec (.peertab c) s = .next u ∧ done u ∧ ∀ h : Fin 2,
          u.hubs[h].peers.find? (fun p => p.1 == asid) = if c.arg = 0 then none else some (asid, c.arg.toNat, min 4096 (bits c.param.toNat 12 0))) ∧
        (code = 0x07 → s.job? (bits c.arg.toNat 23 0) = none → exec (.suspend c) s = .next { s with host := .completion c.hub c.tag 0x04 :: s.host }) ∧
        (∀ j, code = 0x07 → s.job? (bits c.arg.toNat 23 0) = some j → j.asid = asid → j.tcbs = [] → j.stage ≠ 4 → (∀ g ∈ s.gs.gangs, g.job ≠ j.num) →
          s.gs.suspends = [] → ∃ u, exec (.suspend c) s = .next u ∧ done u ∧ (u.job? j.num).map Job.suspended = some true) ∧
        (code = 0x08 → s.job? (bits c.arg.toNat 23 0) = none → exec (.resume c) s = .next { s with host := .completion c.hub c.tag 0x04 :: s.host }) ∧
        (∀ j, code = 0x08 → s.job? (bits c.arg.toNat 23 0) = some j → j.asid = asid →
          (j.suspended = false → exec (.resume c) s = .next { s with host := .completion c.hub c.tag 0 :: s.host }) ∧
          (j.suspended = true → s.gs.resumes = [] → let waits := s.gs.gangs.any (fun g => g.job == j.num && g.state == .saved && g.target.isNone)
            ∃ u, exec (.resume c) s = .next u ∧ u.mem = s.mem ∧ u.threads = s.threads ∧ (u.job? j.num).map Job.suspended = some false ∧
              (waits = false → u.host = .completion c.hub c.tag 0 :: s.host ∧ u.gs.resumes = []) ∧
              (waits = true → u.host = s.host ∧ u.gs.resumes = [(c.hub, j.num, c.tag)])))))

/-! ## Steps of the sequencer and the engine (R183-R196, R311-R329) -/

/-- One step of the instruction at the head of a running gang's sequencer, where nothing earlier in the plaza conflicts: `TDEF` gives the register its
shape and tag, `TZERO` clears its cells, `TLD` and `TST` of `.f32` copy cells, `UFDEF` defines the descriptor; a step of `MMA` adds the products of
its k-step to every cell of D, for integers modulo 2^32; a fetch fault stops the instruction before the step has any effect. The open batch of an
issuer that has exited is committed once its number is free (R183, R184, R187, R191, R196). -/
def Obligations.SequencerStepEvents : Prop :=
  ∀ (s : State) (w : Nat), let x := s.wgBy w
    x.wid = w →
    (x.seq.pendingCommit = true → x.seq.holds x.seq.nextNo = false → exec (.issuerExitCommit w) s = .next (s.putSeq x x.seq.commit)) ∧
    (x.seq.pendingCommit = false ∨ x.seq.holds x.seq.nextNo = true → exec (.issuerExitCommit w) s = .next s) ∧
    ∀ (g : Gang) (i : SeqInstr) (rest : List SeqInstr), s.gangOf x = some g → g.state = .running → nextPart x = none →
      x.seq.queue = i :: rest → x.seq.held = false → x.seq.fault = none → x.seq.ownDone = false → s.seqFlight w = false → x.seq.probe.writes = [] → i.parts = 1 → i.partsDone = 0 →
      Memory.wf s.lmem = true → Memory.wf s.tmem = true →
      let plaza := plazaOf x.anchor
      let t := tileReg i.imm11
      let runs := fun (go : State → Prop) => ∃ u : State, exec (.kStep w) s = .next u ∧ u.mem = s.mem ∧ u.net = s.net ∧ go u
      let ended := fun (u : State) => (u.wgBy w).seq.queue = rest ∧ (u.wgBy w).seq.step = 0 ∧ (u.wgBy w).seq.begun = false ∧
        (∀ n, i.batch = some n → x.seq.state n = 1 → (∀ m, x.seq.holds m = true → m = n) → (∀ j ∈ rest, j.batch ≠ some n) → (u.wgBy w).seq.state n = 2)
      let cell := fun (m : Memory) (t r c : Nat) => memNat m (cellAt x t r c) 4
      (x.seq.begun = false → x.seq.step = 0 → x.mixes i = false → (s.plaza plaza).doomed.contains i.serial = false →
        (∀ it ∈ (s.plaza plaza).items, i.serial ≤ it.serial) → (∀ j ∈ (s.plaza plaza).jobs, j.unfinished = true → i.serial ≤ j.serial) →
        let gr := tileStored x i.func i.ext Narrow.std
        (i.op = 0xC0 → runs (fun u => ended u ∧ u.tmem = s.tmem ∧ u.lmem = s.lmem ∧
          (u.wgBy w).seq.shapeOf t = ⟨tdefRows i.ext, tdefCols i.ext, BitVec.ofNat 6 (0x20 + typeOf i.func)⟩)) ∧
        (i.op = 0xC1 → let sh := x.seq.shapeOf t
          runs (fun u => ended u ∧ u.lmem = s.lmem ∧ (∀ r c, r < sh.rows → c < sh.cols → cell u.tmem t r c = 0) ∧
            ∀ a, (∀ r c, r < sh.rows → c < sh.cols → a < cellAt x t r c ∨ cellAt x t r c + 4 ≤ a) → memByte u.tmem a = memByte s.tmem a)) ∧
        (i.op = 0xC2 → typeOf i.func = 8 → ctlBit i.func 7 = false → ∀ row : Nat → List Byte,
          (∀ r, r < gr.rows → fetchLocal s plaza (gr.base + r * gr.pitch) (4 * gr.len) = .ok (row r)) →
          runs (fun u => ended u ∧ u.lmem = s.lmem ∧ (u.wgBy w).seq.shapeOf t = ⟨gr.rows, gr.len, 0x28⟩ ∧
            ∀ r c, r < gr.rows → c < gr.len → cell u.tmem t r c = leNat (((row r).drop (4 * c)).take 4))) ∧
        (i.op = 0xC3 → typeOf i.func = 8 → 4 * gr.len ≤ gr.pitch → (∀ r, r < gr.rows → s.tileBad x t r 0 gr.len = false) →
          (∀ r, r < gr.rows → (s.plaza plaza).badBank (gr.base + r * gr.pitch) (4 * gr.len) = none) →
          runs (fun u => ended u ∧ u.tmem = s.tmem ∧ ∀ r c, r < gr.rows → c < gr.len →
            memNat u.lmem (localAt plaza (gr.base + r * gr.pitch + 4 * c)) 4 = cell s.tmem t r c)) ∧
        (i.op = 0xC7 → runs (fun u => ended u ∧ u.tmem = s.tmem ∧ u.lmem = s.lmem ∧
          (u.wgBy w).seq.unfold = some (BitVec.ofNat 5 (typeOf i.func), i.a, i.b, i.ext))) ∧
        (∀ c, 0xC0 ≤ i.op.toNat → i.op.toNat ≤ 0xC4 → runTileStep x i s = .error c → c ≠ 0 → x.issuerGone = false → x.seq.stopped = false →
          runs (fun u => u.tmem = s.tmem ∧ u.lmem = s.lmem ∧ (u.wgBy w).seq.queue = i :: rest ∧ (u.wgBy w).seq.cause = c ∧ (u.wgBy w).seq.sstep = 0 ∧
            (u.wgBy w).seq.sidx = i.pos ∧ (u.wgBy w).seq.spc = i.pc ∧ (u.wgBy w).seq.spos = 0))) ∧
      (i.op = 0xC8 → x.seq.begun = true → x.seq.step < mulSteps i.ext → mulN i.ext ≤ 128 → let m := i.mul
        let d := mulD i.imm11
        let n := mulN i.ext
        let k0 := x.seq.step * m.ks
        (∀ r, r < mulM i.imm11 → s.tileBad x d r 0 n = false) → ∀ A B : Nat → Nat → Val,
        (∀ r, r < mulM i.imm11 → fetchRow s plaza (m.regA x.lbase) i.imgs false r k0 (k0 + m.ks) = .ok ((List.range m.ks).map (A r))) →
        (if mulBT i.imm11 then ∀ c, c < n → fetchRow s plaza (m.regB x.lbase) i.imgs false c k0 (k0 + m.ks) = .ok ((List.range m.ks).map (fun k => B k c))
          else ∀ k, k < m.ks → fetchRow s plaza (m.regB x.lbase) i.imgs false (k + k0) 0 n = .ok ((List.range n).map (B k))) →
        runs (fun u => u.lmem = s.lmem ∧
          (x.seq.step + 1 < mulSteps i.ext → (u.wgBy w).seq.queue = i :: rest ∧ (u.wgBy w).seq.step = x.seq.step + 1) ∧
          (x.seq.step + 1 = mulSteps i.ext → ended u) ∧
          ∀ r c, r < mulM i.imm11 → c < n → let old := cell s.tmem d r c
            cell u.tmem d r c = (foldGroups (isInt (mulTA i.func)) (groupOf m.cls) old ((List.range m.ks).map (fun k => (A r k, B k c)))).1 % 2 ^ 32 ∧
            (isInt (mulTA i.func) = true → (cell u.tmem d r c : Int) =
              (toSigned 32 old + ((List.range m.ks).map (fun k => valInt (A r k) * valInt (B k c))).sum) % 2 ^ 32)))

/-- The engine of a plaza: of the jobs whose waits are over the one with the highest PRIO, then the earliest, starts while fewer than 4 run. The entry
that a job has reached is performed: END completes it, an unknown code fails it with 0x01, LOOP goes back while iterations are left, COND tests or
waits, SIGNAL stores, adds, sets a bit or kicks, a COPY row moves its bytes; a fetched row of a GATHER is written to its position, engine data is
written at its home; a COND that holds goes on and one whose time has passed ends its job (R311-R319, R328). That a COPY of one dimension moves its bytes in
one event is log entry 38, which words of an entry take deltas 44. -/
def Obligations.EngineJobEvents : Prop :=
  ∀ (s : State) (plaza : Nat), let p := s.plaza plaza
    (4 ≤ (p.jobs.filter (fun j => j.state == 2 || j.state == 3)).length → exec (.engineJobStart plaza) s = .next s) ∧
    (∀ j ∈ p.jobs, (p.jobs.filter (fun j => j.state == 2 || j.state == 3)).length < 4 → j.state = 1 → p.blocked j.serial j.regions = false →
      (∀ k ∈ p.jobs, k.state = 1 → p.blocked k.serial k.regions = false → k ≠ j → k.prio < j.prio ∨ (k.prio = j.prio ∧ j.serial < k.serial)) →
      exec (.engineJobStart plaza) s = .next (s.setJob plaza { j with state := 2 })) ∧
    ∀ (key : Nat) (j : EngJob), p.job? key = some j → j.state = 2 → j.cause = 0 → let w := s.wgBy j.wid
      let fails := fun (i : Instr) (c : Nat) => exec i s = .next (finishJob plaza j 5 c s)
      (j.watch = none → exec (.condEvaluate plaza key) s = .next s ∧ exec (.condTimeout plaza key) s = .next s) ∧
      (∀ a n c v, j.watch = some (a, n, c, v) →
        (j.met = true → exec (.condEvaluate plaza key) s = .next (s.setJob plaza { j with watch := none })) ∧
        (j.met = false → p.badBank a n ≠ none → fails (.condEvaluate plaza key) 0x0F) ∧
        (j.met = false → p.badBank a n = none → s.localRead plaza a n = none → fails (.condEvaluate plaza key) 0x0D) ∧
        (j.met = false → p.badBank a n = none → s.localRead plaza a n ≠ none → exec (.condEvaluate plaza key) s = .next s) ∧
        (j.met = false → j.deadline.toNat ≤ (s.dtcOf (plaza / 8)).toNat → exec (.condTimeout plaza key) s = .next (finishJob plaza j 6 0 s)) ∧
        ((s.dtcOf (plaza / 8)).toNat < j.deadline.toNat → exec (.condTimeout plaza key) s = .next s)) ∧
      (j.heldKey = none → s.inFlight plaza key = false → j.stopping = 0 → j.landed = [] →
        (j.started = true → j.todo = [] → j.watch = none → exec (.chainEntry plaza key) s =
          .next (s.setJob plaza { j with entry := j.after, started := false, idxs := [], got := [], resume := false, moved := 0 })) ∧
        (∀ pos bs y s1, j.started = true → (j.words.getD 0 0).toNat % 256 = 0x11 → pos < 256 → j.todo.filter (fun m => j.idxs.getD m 0 == j.idxs.getD pos 0) = [pos] →
          let x := (j.words.getD 0 0).toNat
          let to_ := j.words.getD 2 0 + BitVec.ofNat 64 (pos * bits x 31 16)
          engCardRead plaza w j false (baseAdd false (j.words.getD 3 0) ((j.idxs.getD pos 0 * bits x 63 32 : Nat) : Int)) (bits x 31 16) s = .ok (bs, s1) →
          s1 = { s with ports := s1.ports, dies := s1.dies } → bs.length = bits x 31 16 → inCard j w true true to_ bs.length = true → engLocal s plaza w to_.toInt bs.length = .ok y → w.wid = j.wid →
          ∃ (u : State) (j1 : EngJob), exec (.dedupeFetch plaza key pos) s = .next u ∧ u.lmem = memWrite s.lmem (localAt plaza y) bs ∧ u.mem = s.mem ∧
            (u.plaza plaza).job? key = some j1 ∧ j1.served = j.served ++ [pos] ∧ j1.moved = j.moved + bits x 31 16 ∧
            (∀ k, j.cb = some k → (u.wgBy j.wid).cb[k].getLsbD pos = true)) ∧
        (j.started = false → j.entry < 65536 → ∀ x w1 w2 w3 s1, chainAt plaza w j j.entry s = .ok ([x, w1, w2, w3], s1) →
          s1 = { s with ports := s1.ports, dies := s1.dies } →
          let a := withDeltas j.loops j.entry false w1
          let b := withDeltas j.loops j.entry true w2
          let goes := fun (u : State) => exec (.chainEntry plaza key) s = .next u
          (x = 0 → w1 = 0 → w2 = 0 → w3 = 0 → ∃ u : State, goes u ∧ u = finishJob plaza j 4 0 s1 ∧ u.mem = s.mem ∧ u.lmem = s.lmem ∧
            ((u.plaza plaza).job? key).map EngJob.state = some 4 ∧ (w.wid = j.wid → vget (u.wgBy j.wid).outcomes j.id.toNat 0 = 1)) ∧
          (x % 256 ∉ [0, 0x10, 0x11, 0x12, 0x20, 0x21, 0x22] → goes (finishJob plaza j 5 0x01 s1)) ∧
          (x % 256 = 0x20 → bits x 15 8 = 0 → w2 = 0 → w3 = 0 → bits x 63 32 ≠ 0 → j.first ≤ bits x 31 16 → bits x 31 16 < j.entry →
            let c := ((j.loops.find? (fun l => l.1 == j.entry)).map (fun l => l.2.2.1)).getD 0 + 1
            let others := j.loops.filter (fun l => l.1 != j.entry)
            (bits x 63 32 ≤ c → goes (s1.setJob plaza { j.goTo (j.entry + 1) with loops := others })) ∧
            (c < bits x 63 32 → c ≠ 1 ∨ others = [] → goes (s1.setJob plaza
              { j.goTo (bits x 31 16) with loops := (j.entry, bits x 31 16, c, BitVec.ofNat 64 w1) :: others }))) ∧
          (x % 256 = 0x21 → bits x 11 8 ≤ 5 → bits x 31 13 = 0 → bits x 63 32 ≠ 0 → w3 = 0 → let n := if bitOf x 12 then 8 else 4
            a.toNat % n = 0 → ∀ y v, condValue plaza w j a n s1 = .ok (y, v) → let r := w2 % 2 ^ 64 % 2 ^ (8 * n)
            let holds := [v == r, v != r, decide (v < r), decide (v ≤ r), decide (r < v), decide (r ≤ v)].getD (bits x 11 8) false
            (holds = true → goes (s1.setJob plaza (j.goTo (j.entry + 1)))) ∧
            (holds = false → goes (s1.setJob plaza { j.begin [] (j.entry + 1) with
              watch := some (y, n, bits x 11 8, r), deadline := timeAfter (s1.dtcOf (plaza / 8)) (BitVec.ofNat 64 (bits x 63 32)) }))) ∧
          (x % 256 = 0x22 → bits x 63 10 = 0 → w3 = 0 → let next := j.goTo (j.entry + 1)
            let v := w2 % 2 ^ 64
            (bits x 9 8 = 3 → goes ((kickArrives j.wid true 0 0 s1).setJob plaza next)) ∧
            (bits x 9 8 = 2 → (j.cb = none → goes (finishJob plaza j 5 0x01 s1)) ∧
              (j.cb ≠ none → goes ((setCb j.wid j.cb [v % 256] s1).setJob plaza next))) ∧
            (∀ y, a.toNat % 8 = 0 → engLocal s1 plaza w a.toInt 8 = .ok y → inCard j w true true a 8 = true →
              (bits x 9 8 = 0 → goes ((s1.setJob plaza next).localWrite plaza y (leBytes 8 v))) ∧
              (∀ bs, bits x 9 8 = 1 → s1.localRead plaza y 8 = some bs → goes ((s1.setJob plaza next).localWrite plaza y (leBytes 8 ((leNat bs + v) % 2 ^ 64)))))) ∧
          (x % 256 = 0x10 → bits x 63 12 = bits x 31 16 * 2 ^ 4 → bits x 9 8 = 0 → bitOf x 10 = true → bitOf x 11 = true → w3 = 0 → let n := bits x 31 16 + 1
            ∀ bs y, engCardRead plaza w j true a n s1 = .ok (bs, s1) → inCard j w true true b bs.length = true → engLocal s1 plaza w b.toInt bs.length = .ok y →
            ∃ (u : State) (j1 : EngJob), goes u ∧ u.lmem = memWrite s.lmem (localAt plaza y) bs ∧ u.mem = s.mem ∧ (u.plaza plaza).job? key = some j1 ∧
              j1.started = true ∧ j1.after = j.entry + 1 ∧ j1.moved = n))) ∧
      (∀ k m gone asid h bs s1, s.take k = some (m, gone) → m.body = .engine plaza key asid none h bs → j.heldKey = none →
        writePiece (.engine plaza key) asid h bs s = .ok s1 → ∀ j1, (s1.plaza plaza).job? key = some j1 → exec (.engineData k) s =
          .next (({ s1 with net := s1.net.eraseIdx k } : State).setJob plaza { j1 with moved := j1.moved + bs.length }))

/-! ## Jobs, graphs and gangs (R148-R170, R209-R213) -/

/-- The graph scheduler: a job record is checked in its order and becomes a job at its first phase; the size word of a phase chooses its graph; the
launches of a graph take as predecessors the earlier ones whose regions meet theirs or that an edge names, and are ready where there are none; the
first of the ready queue is handed on to a die, which ends what the scheduler processes at that DTC value (log entry 145); a completed launch counts
down its successors and cancels them if it failed, and the last one ends the phase; the status of a job goes to NOTIFY, and the completion to the
host once that write is complete (R136, R144, R152, R156-R170, R340, R341). The order of the checks of a record is log entry 91, that a phase fails whose
size word cannot be read 92. -/
def Obligations.JobEvents : Prop :=
  ∀ (s : State),
    (∀ hub (r : JobRecord), s.hubUp hub = true → let w := r.w0.toNat
      let rejects := fun (st : Nat) => exec (.jobSubmit hub r) s = .next { s with host := .jobQueue st 0 :: s.host }
      (r.w3 ≠ 0 ∨ bits w 31 18 ≠ 0 ∨ bits w 15 12 ≠ 0 → rejects 0x02) ∧
      (r.w3 = 0 → bits w 31 18 = 0 → bits w 15 12 = 0 →
        (bits w 11 0 ≠ r.queueAsid → rejects 0x04) ∧
        (bits w 11 0 = r.queueAsid →
          ((∀ i ∈ s.gs.images, i.asid = r.queueAsid → indexOf i.code ≠ indexOf r.image) → rejects 0x01) ∧
          (∀ i, s.gs.images.find? (fun i => i.asid == r.queueAsid && indexOf i.code == indexOf r.image) = some i →
            (bits w 63 48 = 0 ∨ i.phases.length < bits w 47 32 + bits w 63 48 → rejects 0x03) ∧
            (1 ≤ bits w 63 48 → bits w 47 32 + bits w 63 48 ≤ i.phases.length → ∃ (u : State) (j : Job), exec (.jobSubmit hub r) s = .next u ∧
              u.job? s.gs.nextJob = some j ∧ j.asid = r.queueAsid ∧ j.stage = 1 ∧ j.image = r.image ∧ j.notify = r.notify ∧ j.cpol = bits w 17 16 ∧
              j.phase0 = bits w 47 32 ∧ j.nphase = bits w 63 48 ∧ j.phase = 0 ∧ j.tcbs = [] ∧ u.gs.nextJob = s.gs.nextJob + 1 ∧ u.host = s.host ∧
              u.mem = s.mem))))) ∧
    (∀ num j, s.job? num = some j → j.stage = 1 →
      let ends := fun (m : Memory) (o : Nat) => ∃ u : State, exec (.phaseStart num) s = .next u ∧ u.mem = m ∧
        u.job? num = some { j with phases := j.phases ++ [o], stage := 3 }
      (j.cancelJob = true → ends s.mem 1) ∧
      (∀ p, j.cancelJob = false → (s.imageOf j).bind (fun i => i.phases[j.phase0 + j.phase]?) = some p →
        (∀ c s1, s.schedRead j p.sizew 4 = .ok (.error c, s1) → ends s1.mem 2) ∧
        (∀ bs s1, s.schedRead j p.sizew 4 = .ok (.ok bs, s1) →
          (∀ c, p.classes.find? (fun c => leNat bs ≤ c.1) = some c →
            exec (.phaseStart num) s = .next ((s1.forgetAnswers num).putJob { j with stage := 2, graph := c.2 })) ∧
          ((∀ c ∈ p.classes, c.1 < leNat bs) → ends s1.mem 2)))) ∧
    (∀ num j, s.job? num = some j → j.stage = 2 → s.handedNow = true → exec (.graphStart num) s = .next s) ∧
    (∀ num j img l s1, s.job? num = some j → j.stage = 2 → s.handedNow = false → j.cancelGraph = false → s.imageOf j = some img →
      let n := img.tcbCount j.graph
      startTcbs j img ((List.range n).map (fun k => img.tcbAt j.graph (s.gs.nextLaunch + k) k)) s = .ok (l, [], s1) →
      ∃ (u : State) (j1 : Job), exec (.graphStart num) s = .next u ∧ u.mem = s1.mem ∧ u.job? num = some j1 ∧ j1.stage = 3 ∧ j1.tcbs.length = n ∧
        u.gs.nextLaunch = s.gs.nextLaunch + n ∧ ∀ t ∈ j1.tcbs, t.counter = t.pred.length ∧ (t.pred = [] → t.state = 1) ∧ (t.pred ≠ [] → t.state = 0) ∧
          ∀ p, p ∈ t.pred ↔ ∃ e ∈ j1.tcbs, e.index = p ∧ p < t.index ∧ (regionsMeet e.regions t.regions = true ∨ (p, t.index) ∈ img.edges j.graph)) ∧
    (∀ k (m : Msg) s1, s.take k = some (m, s1) →
      (∀ index sector, m.body = .sectorFill index sector →
        exec (.hubRequest k) s = .next (s1.send m.dst m.src 3 (.sector index sector (memRead s1.mem (capAt (2048 * sector)) 2048)))) ∧
      (∀ index sector bs, m.body = .writeBack index sector bs → Memory.wf s.mem = true → ∃ u : State, exec (.hubRequest k) s = .next u ∧
        memRead u.mem (capAt (2048 * sector)) bs.length = bs ∧ u.net = s1.net ++ [⟨m.dst, m.src, 2, false, .writeBackAck index, .moving⟩]) ∧
      (∀ req num idx j, m.body = .hub req num idx → s.handedNow = false → s1.job? num = some j → (∃ t ∈ j.tcbs, t.index = idx ∧ t.built = false) → ∃ (u : State) (j1 : Job),
        exec (.hubRequest k) s = .next u ∧ u.mem = s.mem ∧ u.job? num = some j1 ∧ ∀ t ∈ j1.tcbs, t.index = idx → t.built = true ∧ t.counter = t.pred.length)) ∧
    (s.offers = [] → exec .readyHandOn s = .next s) ∧
    (∀ o j t k, s.offers = [o] → o.back = false → s.launch? o.launch = some (j, t) → (s.imageOf j).bind (fun i => i.kdesc? t.kdesc) = some k →
      (s.dieFor (t.launch, o.gang) k.need t.prio (s.candidateDies t.diemask) = none → exec .readyHandOn s = .next s) ∧
      (∀ die, s.dieFor (t.launch, o.gang) k.need t.prio (s.candidateDies t.diemask) = some die → ∃ u : State, exec .readyHandOn s = .next u ∧ u.mem = s.mem ∧
        (u.die die).queue = (s.die die).queue ++ [(t.launch, o.gang)] ∧ u.gs.lastDie = die ∧
        ∃ g ∈ u.gs.gangs, g.launch = t.launch ∧ g.gang = o.gang ∧ g.state = .queued ∧ g.prio = t.prio ∧ g.die = die)) ∧
    (∀ num j idx t, s.job? num = some j → j.tcbs.find? (fun t => t.index == idx) = some t →
      (s.launchDone t = false ∨ s.handedNow = true → exec (.launchCompletion num idx) s = .next s) ∧
      (s.launchDone t = true → s.handedNow = false → ∃ (u : State) (j1 : Job), exec (.launchCompletion num idx) s = .next u ∧ u.mem = s.mem ∧ u.job? num = some j1 ∧
        (∀ g ∈ u.gs.gangs, g.launch ≠ t.launch) ∧
        ((∃ x ∈ j.tcbs, x.index ≠ idx ∧ x.complete = false) → j1.stage = j.stage ∧ (∀ x ∈ j1.tcbs, x.index = idx → x.complete = true) ∧
          ∀ x ∈ j.tcbs, x.index ≠ idx → x.complete = false → idx ∈ x.pred → ∃ y ∈ j1.tcbs, y.index = x.index ∧ y.counter = x.counter - 1 ∧
            (x.counter = 1 → x.built = true → x.state = 0 → y.state = 1) ∧ (t.state = 5 ∨ t.cancel = true → y.cancel = true)) ∧
        ((∀ x ∈ j.tcbs, x.index ≠ idx → x.complete = true) → ∃ o, j1.phases = j.phases ++ [o] ∧
          (t.state = 5 ∨ (∃ x ∈ j.tcbs, x.index ≠ idx ∧ x.state = 5) → o = 2) ∧
          (t.state ≠ 5 → (∀ x ∈ j.tcbs, x.index ≠ idx → x.state ≠ 5) → o = if j.cancelGraph || j.cancelJob then 1 else 0) ∧
          (o = 0 → j.phase + 1 < j.nphase → j1.phase = j.phase + 1 ∧ j1.stage = 1) ∧ (o ≠ 0 ∨ j.nphase ≤ j.phase + 1 → j1.stage = 3)))) ∧
    (∀ num j, s.job? num = some j → let o := if j.tcbs.any (fun t => t.state == 5) then 2 else j.phases.getLast?.getD 2
      let completes := fun (v : State) => ∃ u : State, exec (.jobCompletion num) s = .next u ∧ u.mem = v.mem ∧ u.host = .jobQueue 0 j.num :: v.host ∧
        u.job? num = some { j with stage := 4, outcome := o, doneOrder := v.gs.order } ∧ ∀ d ∈ u.dies, ∀ b ∈ d.barriers, b.job ≠ j.num
      (j.ended = false → j.stage ≠ 5 → exec (.jobCompletion num) s = .next s) ∧
      (∀ v, j.ended = true →
        s.writeBuf s.scheduler j.asid j.notify (leBytes 8 (j.num % 2 ^ 24 + o * 2 ^ 24 + j.cause * 2 ^ 32 + j.canc * 2 ^ 40)) = .ok v →
        (v.owes v.scheduler = true → exec (.jobCompletion num) s = .next (v.putJob { j with stage := 5 })) ∧ (v.owes v.scheduler = false → completes v)) ∧
      (j.stage = 5 → s.owes s.scheduler = false → completes s)) ∧
    (s.gs.active ≠ 0 ∨ s.hubUp 1 = false → exec .schedulerTakeover s = .next s) ∧
    (s.gs.active = 0 → s.hubUp 1 = true → ∃ u : State, exec .schedulerTakeover s = .next u ∧ u = { s with gs := u.gs } ∧ u.gs.active = 1 ∧
      u.gs.gangs = s.gs.gangs ∧ ∀ j ∈ u.gs.jobs, ∀ t ∈ j.tcbs, t.state = 1 ∨ t.state = 2 → t.early = true) ∧
    (∀ num j idx t, s.job? num = some j → j.tcbs.find? (fun t => t.index == idx) = some t →
      (t.cancel = false ∨ t.complete = true → exec (.launchCancellation num idx) s = .next s) ∧
      (t.cancel = true → t.complete = false → ∃ u : State, exec (.launchCancellation num idx) s = .next u ∧ u.mem = s.mem ∧
        ∀ g ∈ u.gs.gangs, g.launch = t.launch → g.state ≠ .queued))

/-- Gangs: the head of a distributor's queue starts on the first run that can take it, every thread at its kernel's entry with the registers zero; a
gang whose threads have all exited retires and its workgroups go, once the producers of its FIFO banks have answered; a saved gang whose launch is
not cancelled is restored at its target, each thread where it was; a gang that stands in the way of the head of a queue is saved for relocation, one
for each head; notices of saved threads are counted (R149-R155, R209-R213, R289). That a FIFO bank's producer is revoked first is log entry 87. -/
def Obligations.GangEvents : Prop :=
  ∀ (s : State), s.th.tid = 0 → 0 < s.nextTid → (∀ t ∈ s.threads, 0 < t.tid ∧ t.tid < s.nextTid) → (s.threads.map Thread.tid).Nodup →
    (∀ die L G rest g j t img k, (s.die die).queue = (L, G) :: rest → s.gang? L G = some g → g.state = .queued → s.launch? L = some (j, t) →
      t.cancel = false → s.relocating die = false → s.imageOf j = some img → img.kdesc? t.kdesc = some k →
      (s.findRun k.need die (fun _ => true) = none → exec (.gangPlacement die) s = .next s) ∧
      (∀ first bases, s.findRun k.need die (fun _ => true) = some (first, bases) → ∃ u : State, exec (.gangPlacement die) s = .next u ∧ u.mem = s.mem ∧
        (u.die die).queue = rest ∧ (u.gang? L G).map (fun g => (g.state, g.run, g.width)) = some (.running, first, k.gangw) ∧
        ∀ p i, p < k.gangw → i < k.wgsize → ∃ x ∈ u.threads, x.launch = t.launch ∧ x.gang = G ∧ x.wgpos = p ∧ x.index = i ∧ x.anchor = first + p ∧
          x.core = first + p ∧ x.status = .ready ∧ x.pc = handleOf (indexOf img.code) k.entry ∧ x.q = Vector.replicate 16 0 ∧
          x.n = Vector.replicate 32 0 ∧ x.nbud = k.nbud ∧ x.vbud = k.vbud)) ∧
    (∀ die, (s.die die).queue = [] → exec (.gangPlacement die) s = .next s ∧ exec (.relocation die) s = .next s) ∧
    (∀ die g n, (s.die die).queue.head?.bind (fun x => s.gang? x.1 x.2) = some g → s.needOf g = some n →
      (g.helped = true ∨ s.relocating die = true ∨ (s.findRun n die (fun _ => true)).isSome = true → exec (.relocation die) s = .next s) ∧
      (∀ r x target, g.helped = false → s.relocating die = false → s.findRun n die (fun _ => true) = none →
        s.relocation (g.launch, g.gang) n g.prio die = some (r, x, target) → (r.launch, r.gang) ≠ (g.launch, g.gang) →
        (s.startSave r 0 (some target) = none → exec (.relocation die) s = .next (s.putGang { r with barred := some (g.launch, g.gang) })) ∧
        (∀ u, s.startSave r 0 (some target) = some u → exec (.relocation die) s = .next (u.putGang { g with helped := true }) ∧
          (u.gang? r.launch r.gang).map (fun g => (g.state, g.target)) = some (.saving, some target)))) ∧
    (∀ L G g, s.gang? L G = some g → let s1 := if g.stands && s.gangExited g then s.cancelFaulted g else s
      (s.gangExited g = false → exec (.gangRetire L G) s = .next s) ∧
      (s1.canRetire g = false → exec (.gangRetire L G) s = .next s1) ∧
      (s1.canRetire g = true → (g.stands = true → ∀ w ∈ s1.gangWgs g, s1.unrevoked w = []) → ∃ u : State, exec (.gangRetire L G) s = .next u ∧
        (u.gang? L G).map Gang.state = some .retired ∧ (∀ w ∈ u.wgs, w.launch = L → w.gang ≠ G) ∧
        ((∀ x ∈ s.gs.gangs, x.state = .running → ((s.job? x.job).map Job.suspended).getD false = false) → u.mem = s.mem)) ∧
      (∀ w b pd, s1.canRetire g = true → g.stands = true → s1.gangWgs g = [w] → s1.unrevoked w = [(b, pd)] →
        (s1.plaza (plazaOf w.anchor)).stage? b = none → ∃ u : State, exec (.gangRetire L G) s = .next u ∧ u.gs = s.gs ∧ u.mem = s.mem ∧ u.net = s.net ++
          [⟨bankCore (plazaOf w.anchor) b, (parseDesc pd).dst w.asid, 2, false, .revoke (bankDesc (plazaOf w.anchor) b) (plazaOf w.anchor) b true, .moving⟩]) ∧
      (∀ w rest c, s.gangWgs g = w :: rest → g.target = some c →
        (g.state ≠ .saved ∨ s.dieUp g.die = false ∨ s.gangCancelled g = true ∨ s.runAt (s.gangNeed g w) c = none →
          exec (.gangRestore L G) s = .next s) ∧
        (∀ bases, g.state = .saved → s.dieUp g.die = true → s.gangCancelled g = false → s.runAt (s.gangNeed g w) c = some bases → ∃ u : State, exec (.gangRestore L G) s = .next u ∧
          u.mem = s.mem ∧ (u.gang? L G).map (fun g => (g.state, g.run)) = some (.running, c) ∧
          ∀ t ∈ s.threads, g.owns t = true → t.status = .saved → ∃ t' ∈ u.threads, t'.tid = t.tid ∧ t'.status ≠ .saved ∧ t'.pc = t.pc ∧ t'.q = t.q ∧
            t'.n = t.n ∧ t'.v = t.v ∧ t'.p = t.p))) ∧
    (∀ k (m : Msg) s1, s.take k = some (m, s1) →
      (∀ L G, m.body = .saveNotice L G → m.src < 1024 → exec (.gangSaveNotice k) s = .next s1.saveSweep) ∧
      (∀ L G g, m.body = .savedNotice L G → s1.gang? L G = some g → g.savedN + 1 < ((s1.gangWgs g).map (fun w => w.wgsize - w.exited.length)).sum →
        ∃ u : State, exec (.savedNotice k) s = .next u ∧ u.threads = s.threads ∧ u.wgs = s.wgs ∧ u.net = s1.net ∧
          (u.gang? L G).map Gang.savedN = some (g.savedN + 1)))

/-! ## Links, clocks and errors of the module (R343, R405-R410, R427) -/

/-- A flit that comes good and in turn takes its cell one link further, or loses its message where the header that arrived is none; a bad one is kept and
answered with a NAK, and nothing is taken until it is sent again; a NAK sends again what is kept, and after 16 the link retrains; the third retrain that
fails takes the link down, which is fatal to the die behind it; M8 changes the rate of a link by one and sets the clock of a die; M4 stops issue, drains
and changes the module clock; a hot die is reported and slowed by one step, and stopped at 105 C; a channel retrain that fails is fatal (R343, R402,
R404, R405, R408-R410, R427; that a flit is one step, and its cell moves with it, is log entry 103). -/
def Obligations.LinkAndClockEvents : Prop :=
  ∀ (s : State),
    (∀ k l, s.link? k = some l →
      (l.up = false → ∀ a b x, exec (.flitReceive ⟨k, a⟩ ⟨b, x⟩) s = .next s ∧ exec (.linkRetrain k b) s = .next s ∧ exec (.linkDown k) s = .next s) ∧
      (l.up = true → l.training = true → ∀ a b x, exec (.flitReceive ⟨k, a⟩ ⟨b, x⟩) s = .next s) ∧
      (∀ fromA, let d := l.dir fromA
        let x := l.ends fromA
        (d.nak = false → exec (.nak ⟨k, fromA⟩) s = .next s) ∧
        (l.up = true → l.training = false →
          (d.replay = [] → s.nextCell x = none → ∀ good flip, exec (.flitReceive ⟨k, fromA⟩ ⟨good, flip⟩) s = .next s) ∧
          (d.nak = false → d.replay ≠ [] → ∀ flip, exec (.flitReceive ⟨k, fromA⟩ ⟨false, flip⟩) s = .next (s.putLink (l.setDir fromA { d with nak := true }))) ∧
          (∀ k1 m flip, d.replay = [] → s.nextCell x = some (k1, m) → exec (.flitReceive ⟨k, fromA⟩ ⟨false, flip⟩) s = .next (s.putLink (l.setDir fromA
            { d with nak := true, txSeq := d.txSeq + 1, replay := [(d.txSeq, m.header s d.txSeq.toNat m.gone.2)] }))) ∧
          (d.nak = true → 256 ≤ d.replay.length → ∀ good flip, exec (.flitReceive ⟨k, fromA⟩ ⟨good, flip⟩) s = .next s) ∧
          (∀ k1 m flip, d.nak = false → d.replay ≠ [] ∨ s.nextCell x ≠ none → flip.extractLsb' 32 16 = (0 : BitVec 16) →
            let seq := (d.replay.head?.map (fun y => y.1)).getD d.txSeq
            let s1 := s.putLink (l.setDir fromA { d with
              rxSeq := d.rxSeq + 1, naks := 0, replay := d.replay.tail, txSeq := if d.replay.isEmpty then d.txSeq + 1 else d.txSeq })
            s1.nextCell x = some (k1, m) →
            (badCell (m.header s seq.toNat m.gone.2 ^^^ flip) = false → exec (.flitReceive ⟨k, fromA⟩ ⟨true, flip⟩) s = .next (s1.crossCell k1 m)) ∧
            (badCell (m.header s seq.toNat m.gone.2 ^^^ flip) = true → ∃ u : State, exec (.flitReceive ⟨k, fromA⟩ ⟨true, flip⟩) s = .next u ∧
              u.net = s.net.eraseIdx k1 ∧ (u.die x.2).linkErr = (s.die x.2).linkErr + 1 ∧ u.host = .event ⟨0x13, x.2, 1⟩ :: s.host))) ∧
        (d.nak = true → 16 ≤ d.naks + 1 → exec (.nak ⟨k, fromA⟩) s = .next (s.putLink { l.setDir fromA { d with nak := false, naks := 0 } with training := true })) ∧
        (d.nak = true → d.naks + 1 < 16 → ∃ u : State, exec (.nak ⟨k, fromA⟩) s = .next u ∧ u.mem = s.mem ∧ u.net = s.net ∧
          u.link? k = some (l.setDir fromA { d with nak := false, naks := d.naks + 1 }) ∧
          (x.1 < 8 → vget (u.die x.1).ctr 8 0 = vget (s.die x.1).ctr 8 0 + BitVec.ofNat 64 d.replay.length))) ∧
      (l.up = true →
        (∃ u : State, exec (.linkRetrain k true) s = .next u ∧ u.mem = s.mem ∧ u.net = s.net ∧
          u.link? k = some { l with training := false, failed := 0, ab := { l.ab with naks := 0, nak := false }, ba := { l.ba with naks := 0, nak := false } }) ∧
        (l.failed < 2 → exec (.linkRetrain k false) s = .next (s.putLink { l with training := true, failed := l.failed + 1 })) ∧
        (2 ≤ l.failed → exec (.linkRetrain k false) s =
          .next ((s.putLink { l with training := true, failed := l.failed + 1 }).raiseEvent (.linkDown k))) ∧
        (l.failed < 3 → exec (.linkDown k) s = .next s) ∧
        (3 ≤ l.failed → ∃ u : State, exec (.linkDown k) s = .next u ∧ u.mem = s.mem ∧ (u.link? k).map Link.up = some false ∧
          u.agenda = .event (.dieFatalError (if l.endA < 8 ∧ l.endB < 8 then max l.endA l.endB else min l.endA l.endB) 1) :: s.agenda) ∧
        (s.conf.m8 = false → ∀ b, exec (.linkRateStep k b) s = .next s) ∧
        (s.conf.m8 = true → ∀ lo hi, (lo, hi) ∈ [(16, 24), (24, 32), (32, 48)] →
          (l.rate = lo → exec (.linkRateStep k true) s = .next (s.putLink { l with rate := hi, training := true })) ∧
          (l.rate = hi → exec (.linkRateStep k false) s = .next (s.putLink { l with rate := lo, training := true }))))) ∧
    (∀ die step, (s.conf.booted = false → exec (.frequencyChange ⟨die, step⟩) s = .next s) ∧
      (s.conf.m8 = true ∨ s.mgmt.clockTo = none → step < 6 ∨ 12 < step → exec (.frequencyChange ⟨die, step⟩) s = .next s) ∧
      (s.conf.booted = true → s.conf.m8 = true → 6 ≤ step → step ≤ 12 → exec (.frequencyChange ⟨die, step⟩) s =
        .next (if s.dieUp die then s.putDie { s.die die with clock := step } else s)) ∧
      (s.conf.booted = true → s.conf.m8 = false → s.issuing ≠ [] → exec (.frequencyChange ⟨die, step⟩) s = .next s) ∧
      (s.conf.booted = true → s.conf.m8 = false → s.issuing = [] →
        (s.mgmt.clockTo = none → 6 ≤ step → step ≤ 12 → ∃ u : State, exec (.frequencyChange ⟨die, step⟩) s = .next u ∧ u.mem = s.mem ∧ u.threads = s.threads ∧
          u.mgmt.clockTo = some step ∧ ∀ c ∈ s.allCores, (u.core c).stopped = true) ∧
        (∀ c, s.mgmt.clockTo = some c → s.linksBusy = true → exec (.frequencyChange ⟨die, step⟩) s = .next s) ∧
        (∀ c, s.mgmt.clockTo = some c → s.linksBusy = false → ∃ u : State, exec (.frequencyChange ⟨die, step⟩) s = .next u ∧ u.mem = s.mem ∧
          u.threads = s.threads ∧ u.mgmt.clockTo = none ∧ (∀ c ∈ s.allCores, (u.core c).stopped = false) ∧ ∀ d, s.dieUp d = true → (u.die d).clock = c))) ∧
    (∀ die, s.unitUp die = true → let hot := s.rasEvent 0x18 die (BitVec.ofNat 64 (s.die die).temp)
      (s.conf.m8 = true → 950 ≤ (s.die die).temp → exec (.thermalStep die) s =
        .next (if die < 8 then hot.putDie { s.die die with clock := max 6 ((s.die die).clock - 1) } else hot)) ∧
      (s.conf.m8 = false → s.mgmt.clockTo = none → 950 ≤ (s.die die).temp → exec (.thermalStep die) s =
        .next (moduleClock (max 6 ((s.die (s.moduleDie die)).clock - 1)) hot)) ∧
      (s.conf.m8 = false → s.mgmt.clockTo ≠ none → exec (.thermalStep die) s = .next (moduleClock 6 s)) ∧
      (s.conf.m8 = true → (s.die die).temp < 950 → s.mgmt.cap < s.mgmt.power → die < 8 → exec (.thermalStep die) s =
        .next ((s.rasEvent 0x19 die (BitVec.ofNat 64 s.mgmt.power)).putDie { s.die die with clock := max 6 ((s.die die).clock - 1) })) ∧
      (s.conf.m8 = true ∨ s.mgmt.clockTo = none → (s.die die).temp < 950 → s.mgmt.power ≤ s.mgmt.cap → exec (.thermalStep die) s = .next s) ∧
      ((s.die die).temp < 1050 → exec (.thermalTrip die) s = .next s) ∧
      (1050 ≤ (s.die die).temp → exec (.thermalTrip die) s =
        .next (s.raiseEvent (if die < 8 then .dieFatalError die 5 else .hubFatalError (die - 8) 5)))) ∧
    (∀ core, s.dieUp (dieOf core) = true → ∀ ok, ∃ u : State, exec (.hbmChannelRetrain core ok) s = .next u ∧ u.mem = s.mem ∧ u.threads = s.threads ∧
      vget (u.port core).ctrs 3 0 = vget (s.port core).ctrs 3 0 + 8 ∧
      u.agenda = if ok then s.agenda else .event (.dieFatalError (dieOf core) 2) :: s.agenda)

/-! ## The host and the peers (R373, R411-R418, R430) -/

/-- Where no core is saving: a port that fails is carried by the other hub, where that runs, until it has trained; a snoop finds nothing; a CXL.mem access is
performed at its home and a write clears the reservations of its units, a register is read through CXL.io, an access of a throttled row joins that row's
queue; a peer's message enters only where a peer table names its sender and its ASID, with the local ASID in its place, and is counted otherwise; what
leaves for a peer bears its ASID there, and an acknowledgement from the peer comes back to the writer as a message, moves the thread (a guest that has
left is no thread here any more) or raises 0x0D; when a connection fails an event is recorded and what was outstanding on it fails with 0x0D (R23, R350,
R373, R411-R418, R430; what stands at a peer when its connection fails is log entry 106, that its threads' launches are cancelled 113). -/
def Obligations.HostAndPeerEvents : Prop :=
  ∀ (s : State), s.savesNothing →
    (∀ hub rate, hub ≤ 1 → s.hubUp hub = true → let x := s.hub hub
      (x.up = false → exec (.portFailure hub) s = .next s) ∧ (x.up = true → exec (.portTrained ⟨hub, rate⟩) s = .next s) ∧
      (x.up = true → ∃ u : State, exec (.portFailure hub) s = .next u ∧ u.mem = s.mem ∧ u.net = s.net ∧ (u.hub hub).up = false ∧
        (u.hub hub).fwd = s.hubUp (1 - hub) ∧ (u.hub (1 - hub)).carry = s.hubUp (1 - hub) ∧
        u.mgmt.events = s.mgmt.events ++ [⟨0x14, 8 + hub, BitVec.ofNat 64 hub⟩]) ∧
      (x.up = false → ∃ u : State, exec (.portTrained ⟨hub, rate⟩) s = .next u ∧ u.mem = s.mem ∧ u.net = s.net ∧ (u.hub hub).up = true ∧ (u.hub hub).fwd = false ∧
        (u.hub hub).rate = rate % 256 ∧ (u.hub hub).retrains = min 255 (x.retrains + 1) ∧ (u.hub (1 - hub)).carry = false ∧
        u.mgmt.events = s.mgmt.events ++ [⟨0x15, 8 + hub, BitVec.ofNat 64 hub⟩])) ∧
    (∀ hub a, exec (.cxlSnoop hub a) s = .next (if s.portCarries hub then { s with host := .snoop :: s.host } else s)) ∧
    (s.conf.booted = true →
      (∀ a n, s.mpaOk a n = true → s.heldPage a = none → (s.port (a / 2 ^ 31)).throttledIn (rowsAt a n) = none → ∃ u : State,
        exec (.cxlMemAccess (.read a n)) s = .next u ∧ u.mem = s.mem ∧ u.net = s.net ∧ u.threads = s.threads ∧
          u.host = .data (memRead s.mem a n) (s.poisoned a n) :: s.host) ∧
      (∀ a n, s.mpaOk a n = false → exec (.cxlMemAccess (.read a n)) s = .next { s with host := .data (List.replicate n 0) true :: s.host }) ∧
      (∀ a n row, s.mpaOk a n = true → (s.port (a / 2 ^ 31)).throttledIn (rowsAt a n) = some row → ∃ u : State, exec (.cxlMemAccess (.read a n)) s = .next u ∧
        u.mem = s.mem ∧ u.host = s.host ∧ u.net = s.net ∧ (u.port (a / 2 ^ 31)).rowHold.length = (s.port (a / 2 ^ 31)).rowHold.length + 1) ∧
      (∀ a bs mask, s.mpaOk a bs.length = false → exec (.cxlMemAccess (.write a bs)) s = .next { s with host := .writeDone true :: s.host } ∧
        exec (.cxlMemAccess (.writePart a bs mask)) s = .next { s with host := .writeDone true :: s.host }) ∧
      (∀ a bs, bs ≠ [] → s.mpaOk a bs.length = true → s.heldPage a = none → (s.port (a / 2 ^ 31)).leases = [] →
        (s.port (a / 2 ^ 31)).throttledIn (rowsAt a bs.length) = none →
        (∃ u : State, exec (.cxlMemAccess (.write a bs)) s = .next u ∧ u.mem = memWrite s.mem a bs ∧
          u.host = .writeDone false :: s.host ∧ ∀ r ∈ (u.port (a / 2 ^ 31)).resv, r.2 < a / 64 ∨ (a + bs.length - 1) / 64 < r.2) ∧
        ∀ mask : List Bool, let r : Request := { Request.blank with
            data := bs, post := true, c := BitVec.ofNat 64 ((mask.zipIdx.map (fun x => if x.1 then 2 ^ x.2 else 0)).sum) }
          ∃ u : State, exec (.cxlMemAccess (.writePart a bs mask)) s = .next u ∧ u.host = .writeDone false :: s.host ∧
            u.mem = r.runs.foldl (fun m y => memWrite m (a + y.1) y.2) s.mem) ∧
      (∀ hub reg, exec (.cxlMemAccess (.io hub reg)) s =
        .next (if s.hubUp hub && (s.hub hub).up then { s with host := .io (s.ioRead reg) :: s.host } else s))) ∧
    (∀ hub (m : PeerMessage), s.hubUp hub = true →
      (s.peerOf hub m.asid m.addrHi m.addrLo = none ∨ s.reachable (m.dst % 1024) = false → exec (.peerMessageIn hub m) s = .next (s.discardCell (8 + hub)) ∧
        (s.discardCell (8 + hub)).net = s.net ∧ (s.discardCell (8 + hub)).threads = s.threads) ∧
      (∀ asid i, s.peerOf hub m.asid m.addrHi m.addrLo = some (asid, i) → s.reachable (m.dst % 1024) = true → let src := peerCore asid i (m.src % 1024)
        let enters := fun (b : Body) => exec (.peerMessageIn hub m) s = .next { s with net := s.net ++ [⟨src, m.dst % 1024, 0, false, b, .moving⟩] }
        (∀ h bs, m.body = .store h bs → enters (.store { peerRequest src asid 0 h bs.length .write with data := bs })) ∧
        (∀ h n tag, m.body = .read h n tag → enters (.read (peerRequest src asid tag h n .read))) ∧
        (∀ core bank bs, m.body = .entry core bank bs → enters (.entry (plazaOf core) (32 * (core % 8) + bank) bs 0 0)))) ∧
    (∀ k (m : Msg) code bs, s.net[k]? = some m → 1024 ≤ m.dst → s.hubUp m.peerHub = true → s.deliverable k m = true →
      let s1 : State := { s with
        net := s.net.eraseIdx k
        host := .peerSent m.peerHub m.peerPort (s.remoteAsid m.peerHub m.dst) (m.header s 0 0) :: s.host }
      (∀ r tid, m.body = .store r → r.who = .thread tid → r.kind = .write →
        exec (.peerAcknowledgement k code bs) s = .next (s1.send m.dst m.src 2 (.ack tid r.wid 0 code))) ∧
      (∀ r tid, m.body = .read r → r.who = .thread tid → r.kind = .read → r.post = false → r.monitor = false →
        exec (.peerAcknowledgement k code bs) s = .next (s1.send m.dst m.src 1 (.data tid 0 (bs.map (BitVec.ofNat 8)) 0 code))) ∧
      (∀ tid t, m.body = .context tid → s.thread? tid = some t →
        (t.anchor < 1024 → exec (.peerAcknowledgement k 0 bs) s =
          .next (((holdSlot t s1).putThread { t with core := m.dst, place := .gone }).send m.dst m.src 2 (.accepted tid))) ∧
        (1024 ≤ t.anchor → t.anchor / 1024 = m.dst / 1024 → ∃ u : State, exec (.peerAcknowledgement k 0 bs) s = .next u ∧
          u.threads = s.threads.filter (fun x => x.tid != tid) ∧ u.net = s1.net ++ [⟨m.dst, m.src, 2, false, .accepted tid, .moving⟩]) ∧
        (code ≠ 0 → exec (.peerAcknowledgement k code bs) s = .next (s1.raiseAt t 0x0D 0 t.pendH)))) ∧
    (∀ hub port hi lo, (1 < hub ∨ 3 < port ∨ s.hubUp hub = false → exec (.rodTimeout ⟨hub, port⟩ ⟨hi, lo⟩) s = .next s) ∧
      (∀ own base n i, hub ≤ 1 → port ≤ 3 → s.hubUp hub = true → (s.hub hub).peers = [(own, base, n)] →
        (List.range n).find? (fun i => peerWord s base i 0 == hi.toNat && peerWord s base i 8 == lo.toNat) = some i →
        (∀ t ∈ s.allThreads, t.core < 1024 ∧ ∀ c len, t.wait = .monitor c len → c < 1024) →
        let mine := s.net.filter (fun m => decide (1024 ≤ m.dst) && m.peerHub == hub && m.dst % 4 == port && s.behind hub hi lo m.dst)
        (mine = [] → exec (.rodTimeout ⟨hub, port⟩ ⟨hi, lo⟩) s = .next (s.rasEvent 0x16 (8 + hub) (BitVec.ofNat 64 i))) ∧
        (∀ m r tid t, mine = [m] → m.body = .store r → r.who = .thread tid → r.kind = .write → s.thread? tid = some t → t.status = .ready → t.wait = .none →
          (∃ w, t.writes.find? (fun x => x.id == r.wid) = some w ∧ w.core = t.core) →
          exec (.rodTimeout ⟨hub, port⟩ ⟨hi, lo⟩) s = .next ((({ s with net := s.net.erase m } : State).putThread
            { t with writes := t.writes.map (fun x => if x.id = r.wid then { x with state := .failed 0x0D } else x) }).rasEvent 0x16 (8 + hub)
            (BitVec.ofNat 64 i)))))

/-! ## Boot, attestation, management and images (R140, R141, R419-R427) -/

/-- A cold boot with a bad image or without a hub stays off with FW_BAD; otherwise the dies that pass are admitted, the others are named in
DIE_EXCLUDED, the interleave list holds the admitted cores in order, and each port takes RPTH, RPEN and CARVE from its MCFG word; with CD5 failing
its authentication MCONF and MCAP are as in the worked example, before and after CD3 is fenced. An SPDM request is answered with its block; a
firmware update invalidates the image until it is activated; the power cap is bounded; three missed heartbeats hand over. An image that is loaded
answers 0, one that is rejected creates nothing, and an unload frees its buffers, of which no descriptor stays cached (R128, R140, R141, R283, R336,
R419, R421, R422, R423, R424, R425, R427; that a cap out of bounds takes the bound is log entry 105, the DIE of a module's event 118, what a boot input
names 119, the coolant's sensor 163). -/
def Obligations.BootAndManagementEvents : Prop :=
  (∀ (s : State) (b : BootInput), let good := fun d => b.check.getD d false && b.auth.getD d false
    let n := if b.m8 then 8 else 4
    (s.mgmt.imageValid = false ∨ b.imageOk = false → exec (.coldBoot b) s = .next (s.powered.rasEvent 0x03 8 0)) ∧
    (s.mgmt.imageValid = true → b.imageOk = true → good 8 = false → good 9 = false → exec (.coldBoot b) s = .next (s.powered.rasEvent 0x03 8 1)) ∧
    (s.mgmt.imageValid = true → b.imageOk = true → good 8 = true ∨ good 9 = true → ∃ u : State, exec (.coldBoot b) s = .next u ∧
      u.conf.booted = true ∧ u.conf.m8 = b.m8 ∧ u.conf.fenced = 0 ∧ u.threads = [] ∧
      (∀ d, d < 8 → u.conf.admitted.getLsbD d = (decide (d < n) && good d)) ∧ (∀ h, h < 2 → u.conf.hubs.getLsbD h = good (8 + h)) ∧
      (∀ c ∈ u.conf.lc, let w := ((b.mcfgs.find? (fun x => x.1 == c)).map (fun x => x.2)).getD b.mcfg
        (u.port c).rpth = w.extractLsb' 16 16 ∧ (u.port c).rpen = w.getLsbD 2 ∧
        (u.port c).carve = (if w.extractLsb' 0 2 = 3 then 0 else w.extractLsb' 0 2)) ∧
      (∀ c, c ∈ u.conf.lc ↔ dieOf c < n ∧ good (dieOf c) = true) ∧ u.conf.lc.Pairwise (· < ·) ∧ u.writeConf = u ∧
      (∀ d, d < n ∨ d = 8 ∨ d = 9 → good d = false → ⟨0x02, d, if b.check.getD d false then 2 else 1⟩ ∈ u.mgmt.events) ∧
      ∃ l, u.mgmt.events = l ++ [⟨0x01, if good 8 then 8 else 9, u.conf.mconf⟩])) ∧
  (∃ u v : State, exec (.coldBoot { defaultBoot with auth := (List.replicate 10 true).set 5 false }) State.reset = .next u ∧
    u.conf.mconf = 0x000001C0070700DF ∧ u.conf.mcap = 0x00000800000A3A00 ∧ exec (.dieFatalError 3 1) u = .next v ∧
    v.conf.mconf = 0x00000180060708DF ∧ v.conf.mcap = 0x000008000008C400) ∧
  ∀ (s : State),
    (∀ block (bs : List Nat), (block = 1 ∧ bs = byteNats 64 (Config.sha512 s.mgmt.flash).toNat) ∨
        (block = 2 ∧ bs = byteNats 8 s.conf.mconf.toNat ++ byteNats 8 s.conf.mcap.toNat) ∨
        (∃ d, d < 10 ∧ block = 3 + d ∧ bs = if s.trusts d then byteNats 64 (Config.sha512 (Config.certificate d)).toNat else List.replicate 64 0) →
      exec (.spdmRequest block) s = .next { s with host := .report bs (Config.sha512 bs) (Config.signature bs) :: s.host }) ∧
    (∀ image, exec (.firmwareUpdate image) s = .next { s with mgmt := { s.mgmt with flash := image, imageValid := false, updating := true } }) ∧
    (∀ good, exec (.activateFirmware good) s =
      .next (if s.mgmt.updating then { s with mgmt := { s.mgmt with updating := false, imageValid := good } } else s)) ∧
    (∀ watts, exec (.powerCapEffecter (.setCap watts)) s = .next { s with mgmt := { s.mgmt with cap := min watts (if s.conf.m8 then 3400 else 1900) } }) ∧
    (∀ c v, (c, v) ∈ [(Pldm.discovery, [0, 2, 5]), (.getCap, [s.mgmt.cap]), (.modulePower, [s.mgmt.power]), (.coolant, [s.mgmt.coolant])] ∨
        (∃ d, (c = .dieTemp d ∧ v = [(s.die d).temp]) ∨ (c = .diePower d ∧ v = [(s.die d).power])) →
      exec (.powerCapEffecter c) s = .next { s with host := .pldm v :: s.host }) ∧
    (s.mgmt.activeCtl = 0 → exec (.heartbeatCheck true) s = .next { s with mgmt := { s.mgmt with misses := 0 } } ∧
      (s.mgmt.misses < 2 → exec (.heartbeatCheck false) s = .next { s with mgmt := { s.mgmt with misses := s.mgmt.misses + 1 } }) ∧
      (2 ≤ s.mgmt.misses → ∃ u : State, exec (.heartbeatCheck false) s = .next u ∧ u = { s with mgmt := u.mgmt, host := .event ⟨0x17, 9, 0⟩ :: s.host } ∧
        u.mgmt.activeCtl = 1 ∧
        u.mgmt.updating = false ∧ (s.mgmt.updating = true → u.mgmt.imageValid = false) ∧ u.mgmt.events = s.mgmt.events ++ [⟨0x17, 9, 0⟩])) ∧
    (s.conf.booted = true → ∀ asid (image : List Nat),
      let bs := image.map (BitVec.ofNat 8)
      (bs.length < 64 ∨ leNat (bs.take 4) ≠ 0x1A464F47 → exec (.imageLoad asid image) s = .next { s with host := .loader 0x01 :: s.host }) ∧
      (∀ st, loadImage asid bs s = .error st → exec (.imageLoad asid image) s = .next { s with host := .loader st :: s.host }) ∧
      (∀ u, loadImage asid bs s = .ok u → exec (.imageLoad asid image) s = .next { u with host := .loader 0 :: u.host } ∧
        ∃ i, u.gs.images = s.gs.images ++ [i] ∧ i.asid = asid)) ∧
    (∀ asid code i, s.gs.images.find? (fun i => i.asid == asid && indexOf i.code == indexOf code) = some i →
      let used := s.gs.jobs.any (fun j => j.asid == asid && indexOf j.image == indexOf i.code && j.tcbs.any (fun t => !t.complete))
      (used = true → exec (.imageUnload asid code) s = .next { s with host := .loader 0x0C :: s.host }) ∧
      (used = false → Memory.wf s.mem = true → (∀ q ∈ s.ports, q.msc = []) → ∃ u : State, exec (.imageUnload asid code) s = .next u ∧ u.host = .loader 0 :: s.host ∧
        (∀ x ∈ u.gs.images, x.asid = asid → indexOf x.code ≠ indexOf code) ∧
        (∀ h ∈ [some i.code, i.rodata, i.chain].filterMap id, ∀ c ∈ u.cores, ∀ x ∈ c.desc, x.1 = asid → x.2.1 % 4096 ≠ indexOf h % 4096) ∧
        ∀ h ∈ [some i.code, i.rodata, i.chain].filterMap id, memNat u.mem (((s.bases asid).map (fun x => x.1)).getD 0 + 64 * (indexOf h % 4096) + 8) 8 = 0))

/-! ## The loss of a die or a hub (R37, R168, R354, R426) -/

/-- Where no core is saving: a die that fails is fenced, nothing runs on it, MCONF and MCAP are written, every surviving die and every surviving hub but the
one that tells it is sent a notice and the event is recorded; a hub that fails is no longer up, the other takes its scheduler and controller and tells
the dies; a die that has the notice breaks the incomplete barriers of the jobs that were present there and releases their waiters (R170, R354, R421, R425,
R426). -/
def Obligations.LossEvents : Prop :=
  ∀ (s : State), s.savesNothing →
    (∀ die cause, s.dieUp die = false → exec (.dieFatalError die cause) s = .next s) ∧
    (∀ die cause, s.dieUp die = true → ∃ u : State, exec (.dieFatalError die cause) s = .next u ∧ u.dieUp die = false ∧
      u.conf.fenced = s.conf.fenced ||| ((1 : BitVec 8) <<< die) ∧ u.conf.admitted = s.conf.admitted ∧ u.writeConf = u ∧
      (u.die die).queue = [] ∧ ⟨0x10, die, BitVec.ofNat 64 cause⟩ ∈ u.mgmt.events ∧
      (∀ d, d ≠ die → s.dieUp d = true → ⟨0x200 + 64 * s.mgmt.activeCtl, 64 * d, 2, false, .dieLoss die, .moving⟩ ∈ u.net) ∧
      (∀ h, s.hubUp h = true → h ≠ s.mgmt.activeCtl →
        ⟨0x200 + 64 * s.mgmt.activeCtl, 0x200 + 64 * h, 2, false, .dieLoss die, .moving⟩ ∈ u.net) ∧
      (s.th.tid = 0 → (∀ t ∈ s.threads, t.tid ≠ 0) → (s.threads.map Thread.tid).Nodup → ∀ t ∈ u.threads, t.status ≠ .exited → t.core < 512 →
        dieOf t.core ≠ die)) ∧
    (∀ hub cause, s.hubUp hub = false → exec (.hubFatalError hub cause) s = .next s) ∧
    (∀ hub cause, s.hubUp hub = true → ∃ u : State, exec (.hubFatalError hub cause) s = .next u ∧ u.hubUp hub = false ∧ u.writeConf = u ∧
      u.gs.active = (if s.gs.active = hub ∧ s.hubUp (1 - hub) = true then 1 - hub else s.gs.active) ∧
      u.mgmt.activeCtl = (if s.mgmt.activeCtl = hub ∧ s.hubUp (1 - hub) = true then 1 - hub else s.mgmt.activeCtl) ∧
      (s.hubUp (1 - hub) = true → ∀ d, s.dieUp d = true → ⟨0x200 + 64 * u.mgmt.activeCtl, 64 * d, 2, false, .dieLoss (8 + hub), .moving⟩ ∈ u.net) ∧
      ⟨0x11, 8 + hub, BitVec.ofNat 64 cause⟩ ∈ u.mgmt.events) ∧
    (∀ k (m : Msg) s1 lost, s.take k = some (m, s1) → m.body = .dieLoss lost → let d := dieOf m.dst
      (512 ≤ m.dst → exec (.dieLossNotice k) s = .next s1) ∧
      (m.dst < 512 → ∃ u : State, exec (.dieLossNotice k) s = .next u ∧ u.mem = s.mem ∧ (u.die d).lossSeen = lost :: (s.die d).lossSeen ∧
        ∀ jobs b, s.gs.present.find? (fun x => x.1 == lost) = some (lost, jobs) → b ∈ (s.die d).barriers → b.job ∈ jobs → b.broken = false →
          0 < b.arrivals ∨ b.last = none →
          (∃ b1 ∈ (u.die d).barriers, b1.index = b.index ∧ b1.broken = true) ∧ ∀ w ∈ b.waiters, ⟨64 * d, w.2, 2, false, .release w.1 false, .moving⟩ ∈ u.net))

/-! ## Reset and the memories -/

/-- After reset nothing has booted and no thread or message exists; every memory is canonical; the registers and units that come into being hold the
values the spec gives: a thread its queue and registers 0, tags 0x00, P0 true and P1 to P7 false; a workgroup its barriers, completion bitmaps and
counters 0 and every batch NONE; a memory port RPTH 4096, RPEN 1, CARVE 0; a die DLEASE 2000 and its core clock 3.3 GHz, counters 0 (R2, R44, R85,
R149, R194, R268, R292, R336). -/
def Obligations.ResetLeavesTheSpecValues : Prop :=
  let s := State.reset
  s.conf.booted = false ∧ s.threads = [] ∧ s.wgs = [] ∧ s.net = [] ∧ s.issuing = [] ∧ s.conf.fenced = 0 ∧
  Memory.wf s.mem = true ∧ Memory.wf s.lmem = true ∧ Memory.wf s.tmem = true ∧
  (∀ tid w i, let t := newThread tid w i
    t.q = Vector.replicate 16 0 ∧ t.n = Vector.replicate 32 0 ∧ t.v = Vector.replicate 8 0 ∧ t.vtag = Vector.replicate 8 0 ∧
    (∀ k : Fin 8, t.p[k] = (k == 0)) ∧ t.hnd = false ∧ t.fpflags = 0 ∧ t.pc = w.entry ∧ t.status = .ready) ∧
  (∀ s j t img k gang pos core lbase, let w := newWorkgroup s j t img k gang pos core lbase
    (∀ i : Fin 16, w.bar[i] = ⟨0, 0, 0⟩ ∧ w.w[i] = t.words.getD i.val 0) ∧ (∀ i : Fin 8, w.f[i] = k.finit.getD i.val 0) ∧
    w.cb = Vector.replicate 4 0 ∧ w.kick = 0 ∧ w.seq.queue = [] ∧ w.seq.batches = Vector.replicate 4 0 ∧ w.seq.mflags = 0 ∧ w.sc.cfg = 0 ∧ w.sc.hit = 0 ∧
    w.exited = []) ∧
  (∀ c, (s.port c).rpth = 4096 ∧ (s.port c).rpen = true ∧ (s.port c).carve = 0 ∧ (s.port c).ctrs = Vector.replicate 7 0 ∧
    (s.core c).ctr = Vector.replicate 9 0) ∧
  (∀ d, (s.die d).dlease = 2000 ∧ (s.die d).clock = 12 ∧ (s.die d).ctr = Vector.replicate 10 0)

/-- Whatever a step of the module does (an instruction, an event, a command, the passing of time), main, local and tile memory keep their canonical
form: addresses strictly rising, and no entry for a byte that reads as one that is not listed. The form is the model's own choice (log entry 2). -/
def Obligations.EveryStepKeepsTheMemoriesCanonical : Prop :=
  ∀ (s t : State), core.step s = .next t → Memory.wf s.mem = true → Memory.wf s.lmem = true → Memory.wf s.tmem = true →
    Memory.wf t.mem = true ∧ Memory.wf t.lmem = true ∧ Memory.wf t.tmem = true
end

