-- ==== Sys2Proof/Laws/Decode.lean ====
section
/-! SUPPORT. The codes of operands, destinations and guards read back, and so do the nine fields of the base word. -/

namespace Sys2Proof

open Machine

theorem lenOf_lenCode (l : Len) (r : Nat) : lenOf (lenCode l + 4 * r) = some l := by
  cases l <;> simp [lenOf, lenCode, Nat.add_mul_mod_self_left]

theorem opndCode_lt (o : Opnd) : opndCode o < 128 := by
  cases o <;> simp only [opndCode] <;> omega

theorem opndOf_opndCode (o : Opnd) : opndOf (opndCode o) = some o := by
  cases o <;> (rename_i k; revert k; decide)

theorem dstCode_lt (d : Dst) : dstCode d < 64 := by
  cases d <;> simp only [dstCode] <;> omega

theorem dstOf_dstCode (d : Dst) : dstOf (dstCode d) = some d := by
  cases d with
  | queue => rfl
  | _ k => revert k; decide

theorem guardCode_lt (g : Guard) : guardCode g < 16 := by
  have := g.p.isLt; unfold guardCode; split <;> omega

theorem guardOf_guardCode (g : Guard) : guardOf (guardCode g) = g := by
  obtain ⟨n, p⟩ := g
  revert n p; decide

/-- An operand that its position accepts reads back. -/
theorem readPos_opndCode (p : Pos) (o : Opnd) (h : p.accepts o = true) : readPos p (opndCode o) = some o := by
  cases p with
  | unread => simp only [Pos.accepts, beq_iff_eq] at h; subst h; rfl
  | _ => simp [readPos, opndOf_opndCode, h]

theorem readDst_dstCode (r : Res) (d : Dst) (h : r.accepts d = true) : readDst r (dstCode d) = some d := by
  cases r with
  | unit => simp only [Res.accepts, beq_iff_eq] at h; subst h; rfl
  | _ => simp [readDst, dstOf_dstCode, h]

/-- Dividing a number laid out as a low part below `m` and a high part gives the high part. -/
theorem split_div (a m r n : Nat) (h : a < m) : (a + m * r) / (m * n) = r / n := by
  rw [← Nat.div_div_eq_div_mul, Nat.add_mul_div_left _ _ (by omega), Nat.div_eq_of_lt h, Nat.zero_add]

theorem split_mod (a m r : Nat) (h : a < m) : (a + m * r) % m = a := by
  rw [Nat.add_mul_mod_self_left, Nat.mod_eq_of_lt h]

/-- The fields of the base word read back: OP, GUARD, DST, A, B, C, FUNC, IMM11 (R41). -/
theorem nine_fields (l op g d a b c u m : Nat) (hl : l < 4) (ho : op < 2 ^ 8) (hg : g < 2 ^ 4) (hd : d < 2 ^ 6)
    (ha : a < 2 ^ 7) (hb : b < 2 ^ 7) (hc : c < 2 ^ 7) (hu : u < 2 ^ 12) (hm : m < 2 ^ 11) (w : Nat)
    (hw : w = l + 4 * (op + 2 ^ 8 * (g + 2 ^ 4 * (d + 2 ^ 6 * (a + 2 ^ 7 * (b + 2 ^ 7 * (c + 2 ^ 7 * (u + 2 ^ 12 * m)))))))) :
    w / 4 % 256 = op ∧ w / 2 ^ 10 % 16 = g ∧ w / 2 ^ 14 % 64 = d ∧ w / 2 ^ 20 % 128 = a ∧ w / 2 ^ 27 % 128 = b ∧
    w / 2 ^ 34 % 128 = c ∧ w / 2 ^ 41 % 2 ^ 12 = u ∧ w / 2 ^ 53 % 2 ^ 11 = m ∧ w < 2 ^ 64 := by
  have e1 : w / 4 = op + 2 ^ 8 * (g + 2 ^ 4 * (d + 2 ^ 6 * (a + 2 ^ 7 * (b + 2 ^ 7 * (c + 2 ^ 7 * (u + 2 ^ 12 * m)))))) := by
    have := split_div l 4 (op + 2 ^ 8 * (g + 2 ^ 4 * (d + 2 ^ 6 * (a + 2 ^ 7 * (b + 2 ^ 7 * (c + 2 ^ 7 * (u + 2 ^ 12 * m)))))))
      1 hl
    rw [hw]; simpa using this
  have step : ∀ k x n r : Nat, x < 2 ^ n → w / 2 ^ k = x + 2 ^ n * r → w / 2 ^ (k + n) = r := by
    intro k x n r hx h
    have := split_div x (2 ^ n) r 1 hx
    rw [Nat.pow_add, ← Nat.div_div_eq_div_mul, h]
    simpa using this
  have e2 := step 2 _ 8 _ ho e1
  have e3 := step 10 _ 4 _ hg e2
  have e4 := step 14 _ 6 _ hd e3
  have e5 := step 20 _ 7 _ ha e4
  have e6 := step 27 _ 7 _ hb e5
  have e7 := step 34 _ 7 _ hc e6
  have e8 := step 41 _ 12 _ hu e7
  simp only [Nat.reduceAdd] at e2 e3 e4 e5 e6 e7 e8
  refine ⟨?_, ?_, ?_, ?_, ?_, ?_, ?_, ?_, ?_⟩
  · rw [e1]; exact split_mod _ (2 ^ 8) _ ho
  · rw [e2]; exact split_mod _ (2 ^ 4) _ hg
  · rw [e3]; exact split_mod _ (2 ^ 6) _ hd
  · rw [e4]; exact split_mod _ (2 ^ 7) _ ha
  · rw [e5]; exact split_mod _ (2 ^ 7) _ hb
  · rw [e6]; exact split_mod _ (2 ^ 7) _ hc
  · rw [e7]; exact split_mod _ (2 ^ 12) _ hu
  · rw [e8]; exact Nat.mod_eq_of_lt hm
  · clear step e1 e2 e3 e4 e5 e6 e7 hw hl ho hg hd ha hb hc hu; omega

theorem lenCode_lt (l : Len) : lenCode l < 4 := by cases l <;> decide

theorem baseWord_fields (op : Nat) (f : Fields) (h : op < 256) :
    baseWord op f / 4 % 256 = op ∧ baseWord op f / 2 ^ 10 % 16 = guardCode f.guard ∧
    baseWord op f / 2 ^ 14 % 64 = dstCode f.dst ∧ baseWord op f / 2 ^ 20 % 128 = opndCode f.a ∧
    baseWord op f / 2 ^ 27 % 128 = opndCode f.b ∧ baseWord op f / 2 ^ 34 % 128 = opndCode f.c ∧
    baseWord op f / 2 ^ 41 % 2 ^ 12 = f.func.toNat ∧ baseWord op f / 2 ^ 53 % 2 ^ 11 = f.imm11.toNat ∧
    baseWord op f < 2 ^ 64 :=
  nine_fields _ _ _ _ _ _ _ _ _ (lenCode_lt _) h (guardCode_lt _) (dstCode_lt _) (opndCode_lt _) (opndCode_lt _)
    (opndCode_lt _) f.func.isLt f.imm11.isLt _ rfl

end Sys2Proof
end

