-- ==== Sys2Proof/Laws/State.lean ====
section
/-! SUPPORT. What the shared updates of the state leave unchanged, one lemma per field and update, and what a record reads after it has been
replaced. -/

namespace Sys2Proof.Machine

/-! ## Records by key -/

theorem lookupBy_putBy_self {α : Type} (key : α → Nat) (x d : α) (l : List α) : lookupBy key (key x) d (putBy key x l) = x := by
  induction l with
  | nil => simp [putBy, lookupBy]
  | cons y ys ih =>
    simp only [putBy]
    split
    · simp [lookupBy]
    · rename_i h; simp [lookupBy, h, ih]

theorem lookupBy_putBy_ne {α : Type} (key : α → Nat) (x d : α) (k : Nat) (l : List α) (h : key x ≠ k) :
    lookupBy key k d (putBy key x l) = lookupBy key k d l := by
  induction l with
  | nil => simp [putBy, lookupBy, h]
  | cons y ys ih =>
    simp only [putBy]
    split
    · rename_i h1; simp [lookupBy, h, h1 ▸ h]
    · simp [lookupBy, ih]

@[simp] theorem State.core_putCore (s : State) (x : CoreSt) : (s.putCore x).core x.id = x := lookupBy_putBy_self _ _ _ _
@[simp] theorem State.port_putPort (s : State) (x : PortSt) : (s.putPort x).port x.id = x := lookupBy_putBy_self _ _ _ _
@[simp] theorem State.plaza_putPlaza (s : State) (x : PlazaSt) : (s.putPlaza x).plaza x.id = x := lookupBy_putBy_self _ _ _ _
@[simp] theorem State.die_putDie (s : State) (x : DieSt) : (s.putDie x).die x.id = x := lookupBy_putBy_self _ _ _ _
theorem State.core_putCore_ne (s : State) (x : CoreSt) (c : Nat) (h : x.id ≠ c) : (s.putCore x).core c = s.core c :=
  lookupBy_putBy_ne _ _ _ _ _ h
theorem State.port_putPort_ne (s : State) (x : PortSt) (c : Nat) (h : x.id ≠ c) : (s.putPort x).port c = s.port c :=
  lookupBy_putBy_ne _ _ _ _ _ h
theorem State.plaza_putPlaza_ne (s : State) (x : PlazaSt) (c : Nat) (h : x.id ≠ c) : (s.putPlaza x).plaza c = s.plaza c :=
  lookupBy_putBy_ne _ _ _ _ _ h
theorem State.die_putDie_ne (s : State) (x : DieSt) (c : Nat) (h : x.id ≠ c) : (s.putDie x).die c = s.die c :=
  lookupBy_putBy_ne _ _ _ _ _ h

/-! ## `State.putCore` -/

@[simp] theorem State.putCore_th (s : State) (x : CoreSt) : (s.putCore x).th = s.th := rfl
@[simp] theorem State.putCore_threads (s : State) (x : CoreSt) : (s.putCore x).threads = s.threads := rfl
@[simp] theorem State.putCore_wgs (s : State) (x : CoreSt) : (s.putCore x).wgs = s.wgs := rfl
@[simp] theorem State.putCore_ports (s : State) (x : CoreSt) : (s.putCore x).ports = s.ports := rfl
@[simp] theorem State.putCore_plazas (s : State) (x : CoreSt) : (s.putCore x).plazas = s.plazas := rfl
@[simp] theorem State.putCore_dies (s : State) (x : CoreSt) : (s.putCore x).dies = s.dies := rfl
@[simp] theorem State.putCore_dtc (s : State) (x : CoreSt) : (s.putCore x).dtc = s.dtc := rfl
@[simp] theorem State.putCore_hubs (s : State) (x : CoreSt) : (s.putCore x).hubs = s.hubs := rfl
@[simp] theorem State.putCore_gs (s : State) (x : CoreSt) : (s.putCore x).gs = s.gs := rfl
@[simp] theorem State.putCore_conf (s : State) (x : CoreSt) : (s.putCore x).conf = s.conf := rfl
@[simp] theorem State.putCore_mgmt (s : State) (x : CoreSt) : (s.putCore x).mgmt = s.mgmt := rfl
@[simp] theorem State.putCore_mem (s : State) (x : CoreSt) : (s.putCore x).mem = s.mem := rfl
@[simp] theorem State.putCore_lmem (s : State) (x : CoreSt) : (s.putCore x).lmem = s.lmem := rfl
@[simp] theorem State.putCore_tmem (s : State) (x : CoreSt) : (s.putCore x).tmem = s.tmem := rfl
@[simp] theorem State.putCore_net (s : State) (x : CoreSt) : (s.putCore x).net = s.net := rfl
@[simp] theorem State.putCore_links (s : State) (x : CoreSt) : (s.putCore x).links = s.links := rfl
@[simp] theorem State.putCore_owed (s : State) (x : CoreSt) : (s.putCore x).owed = s.owed := rfl
@[simp] theorem State.putCore_host (s : State) (x : CoreSt) : (s.putCore x).host = s.host := rfl
@[simp] theorem State.putCore_agenda (s : State) (x : CoreSt) : (s.putCore x).agenda = s.agenda := rfl
@[simp] theorem State.putCore_issuing (s : State) (x : CoreSt) : (s.putCore x).issuing = s.issuing := rfl
@[simp] theorem State.putCore_group (s : State) (x : CoreSt) : (s.putCore x).group = s.group := rfl
@[simp] theorem State.putCore_groupCore (s : State) (x : CoreSt) : (s.putCore x).groupCore = s.groupCore := rfl
@[simp] theorem State.putCore_nextTid (s : State) (x : CoreSt) : (s.putCore x).nextTid = s.nextTid := rfl
@[simp] theorem State.putCore_nextId (s : State) (x : CoreSt) : (s.putCore x).nextId = s.nextId := rfl
@[simp] theorem State.putCore_fresh (s : State) (x : CoreSt) : (s.putCore x).fresh = s.fresh := rfl

/-! ## `State.putPort` -/

@[simp] theorem State.putPort_th (s : State) (x : PortSt) : (s.putPort x).th = s.th := rfl
@[simp] theorem State.putPort_threads (s : State) (x : PortSt) : (s.putPort x).threads = s.threads := rfl
@[simp] theorem State.putPort_wgs (s : State) (x : PortSt) : (s.putPort x).wgs = s.wgs := rfl
@[simp] theorem State.putPort_cores (s : State) (x : PortSt) : (s.putPort x).cores = s.cores := rfl
@[simp] theorem State.putPort_plazas (s : State) (x : PortSt) : (s.putPort x).plazas = s.plazas := rfl
@[simp] theorem State.putPort_dies (s : State) (x : PortSt) : (s.putPort x).dies = s.dies := rfl
@[simp] theorem State.putPort_dtc (s : State) (x : PortSt) : (s.putPort x).dtc = s.dtc := rfl
@[simp] theorem State.putPort_hubs (s : State) (x : PortSt) : (s.putPort x).hubs = s.hubs := rfl
@[simp] theorem State.putPort_gs (s : State) (x : PortSt) : (s.putPort x).gs = s.gs := rfl
@[simp] theorem State.putPort_conf (s : State) (x : PortSt) : (s.putPort x).conf = s.conf := rfl
@[simp] theorem State.putPort_mgmt (s : State) (x : PortSt) : (s.putPort x).mgmt = s.mgmt := rfl
@[simp] theorem State.putPort_mem (s : State) (x : PortSt) : (s.putPort x).mem = s.mem := rfl
@[simp] theorem State.putPort_lmem (s : State) (x : PortSt) : (s.putPort x).lmem = s.lmem := rfl
@[simp] theorem State.putPort_tmem (s : State) (x : PortSt) : (s.putPort x).tmem = s.tmem := rfl
@[simp] theorem State.putPort_net (s : State) (x : PortSt) : (s.putPort x).net = s.net := rfl
@[simp] theorem State.putPort_links (s : State) (x : PortSt) : (s.putPort x).links = s.links := rfl
@[simp] theorem State.putPort_owed (s : State) (x : PortSt) : (s.putPort x).owed = s.owed := rfl
@[simp] theorem State.putPort_host (s : State) (x : PortSt) : (s.putPort x).host = s.host := rfl
@[simp] theorem State.putPort_agenda (s : State) (x : PortSt) : (s.putPort x).agenda = s.agenda := rfl
@[simp] theorem State.putPort_issuing (s : State) (x : PortSt) : (s.putPort x).issuing = s.issuing := rfl
@[simp] theorem State.putPort_group (s : State) (x : PortSt) : (s.putPort x).group = s.group := rfl
@[simp] theorem State.putPort_groupCore (s : State) (x : PortSt) : (s.putPort x).groupCore = s.groupCore := rfl
@[simp] theorem State.putPort_nextTid (s : State) (x : PortSt) : (s.putPort x).nextTid = s.nextTid := rfl
@[simp] theorem State.putPort_nextId (s : State) (x : PortSt) : (s.putPort x).nextId = s.nextId := rfl
@[simp] theorem State.putPort_fresh (s : State) (x : PortSt) : (s.putPort x).fresh = s.fresh := rfl

/-! ## `State.putPlaza` -/

@[simp] theorem State.putPlaza_th (s : State) (x : PlazaSt) : (s.putPlaza x).th = s.th := rfl
@[simp] theorem State.putPlaza_threads (s : State) (x : PlazaSt) : (s.putPlaza x).threads = s.threads := rfl
@[simp] theorem State.putPlaza_wgs (s : State) (x : PlazaSt) : (s.putPlaza x).wgs = s.wgs := rfl
@[simp] theorem State.putPlaza_cores (s : State) (x : PlazaSt) : (s.putPlaza x).cores = s.cores := rfl
@[simp] theorem State.putPlaza_ports (s : State) (x : PlazaSt) : (s.putPlaza x).ports = s.ports := rfl
@[simp] theorem State.putPlaza_dies (s : State) (x : PlazaSt) : (s.putPlaza x).dies = s.dies := rfl
@[simp] theorem State.putPlaza_dtc (s : State) (x : PlazaSt) : (s.putPlaza x).dtc = s.dtc := rfl
@[simp] theorem State.putPlaza_hubs (s : State) (x : PlazaSt) : (s.putPlaza x).hubs = s.hubs := rfl
@[simp] theorem State.putPlaza_gs (s : State) (x : PlazaSt) : (s.putPlaza x).gs = s.gs := rfl
@[simp] theorem State.putPlaza_conf (s : State) (x : PlazaSt) : (s.putPlaza x).conf = s.conf := rfl
@[simp] theorem State.putPlaza_mgmt (s : State) (x : PlazaSt) : (s.putPlaza x).mgmt = s.mgmt := rfl
@[simp] theorem State.putPlaza_mem (s : State) (x : PlazaSt) : (s.putPlaza x).mem = s.mem := rfl
@[simp] theorem State.putPlaza_lmem (s : State) (x : PlazaSt) : (s.putPlaza x).lmem = s.lmem := rfl
@[simp] theorem State.putPlaza_tmem (s : State) (x : PlazaSt) : (s.putPlaza x).tmem = s.tmem := rfl
@[simp] theorem State.putPlaza_net (s : State) (x : PlazaSt) : (s.putPlaza x).net = s.net := rfl
@[simp] theorem State.putPlaza_links (s : State) (x : PlazaSt) : (s.putPlaza x).links = s.links := rfl
@[simp] theorem State.putPlaza_owed (s : State) (x : PlazaSt) : (s.putPlaza x).owed = s.owed := rfl
@[simp] theorem State.putPlaza_host (s : State) (x : PlazaSt) : (s.putPlaza x).host = s.host := rfl
@[simp] theorem State.putPlaza_agenda (s : State) (x : PlazaSt) : (s.putPlaza x).agenda = s.agenda := rfl
@[simp] theorem State.putPlaza_issuing (s : State) (x : PlazaSt) : (s.putPlaza x).issuing = s.issuing := rfl
@[simp] theorem State.putPlaza_group (s : State) (x : PlazaSt) : (s.putPlaza x).group = s.group := rfl
@[simp] theorem State.putPlaza_groupCore (s : State) (x : PlazaSt) : (s.putPlaza x).groupCore = s.groupCore := rfl
@[simp] theorem State.putPlaza_nextTid (s : State) (x : PlazaSt) : (s.putPlaza x).nextTid = s.nextTid := rfl
@[simp] theorem State.putPlaza_nextId (s : State) (x : PlazaSt) : (s.putPlaza x).nextId = s.nextId := rfl
@[simp] theorem State.putPlaza_fresh (s : State) (x : PlazaSt) : (s.putPlaza x).fresh = s.fresh := rfl

/-! ## `State.putDie` -/

@[simp] theorem State.putDie_th (s : State) (x : DieSt) : (s.putDie x).th = s.th := rfl
@[simp] theorem State.putDie_threads (s : State) (x : DieSt) : (s.putDie x).threads = s.threads := rfl
@[simp] theorem State.putDie_wgs (s : State) (x : DieSt) : (s.putDie x).wgs = s.wgs := rfl
@[simp] theorem State.putDie_cores (s : State) (x : DieSt) : (s.putDie x).cores = s.cores := rfl
@[simp] theorem State.putDie_ports (s : State) (x : DieSt) : (s.putDie x).ports = s.ports := rfl
@[simp] theorem State.putDie_plazas (s : State) (x : DieSt) : (s.putDie x).plazas = s.plazas := rfl
@[simp] theorem State.putDie_dtc (s : State) (x : DieSt) : (s.putDie x).dtc = s.dtc := rfl
@[simp] theorem State.putDie_hubs (s : State) (x : DieSt) : (s.putDie x).hubs = s.hubs := rfl
@[simp] theorem State.putDie_gs (s : State) (x : DieSt) : (s.putDie x).gs = s.gs := rfl
@[simp] theorem State.putDie_conf (s : State) (x : DieSt) : (s.putDie x).conf = s.conf := rfl
@[simp] theorem State.putDie_mgmt (s : State) (x : DieSt) : (s.putDie x).mgmt = s.mgmt := rfl
@[simp] theorem State.putDie_mem (s : State) (x : DieSt) : (s.putDie x).mem = s.mem := rfl
@[simp] theorem State.putDie_lmem (s : State) (x : DieSt) : (s.putDie x).lmem = s.lmem := rfl
@[simp] theorem State.putDie_tmem (s : State) (x : DieSt) : (s.putDie x).tmem = s.tmem := rfl
@[simp] theorem State.putDie_net (s : State) (x : DieSt) : (s.putDie x).net = s.net := rfl
@[simp] theorem State.putDie_links (s : State) (x : DieSt) : (s.putDie x).links = s.links := rfl
@[simp] theorem State.putDie_owed (s : State) (x : DieSt) : (s.putDie x).owed = s.owed := rfl
@[simp] theorem State.putDie_host (s : State) (x : DieSt) : (s.putDie x).host = s.host := rfl
@[simp] theorem State.putDie_agenda (s : State) (x : DieSt) : (s.putDie x).agenda = s.agenda := rfl
@[simp] theorem State.putDie_issuing (s : State) (x : DieSt) : (s.putDie x).issuing = s.issuing := rfl
@[simp] theorem State.putDie_group (s : State) (x : DieSt) : (s.putDie x).group = s.group := rfl
@[simp] theorem State.putDie_groupCore (s : State) (x : DieSt) : (s.putDie x).groupCore = s.groupCore := rfl
@[simp] theorem State.putDie_nextTid (s : State) (x : DieSt) : (s.putDie x).nextTid = s.nextTid := rfl
@[simp] theorem State.putDie_nextId (s : State) (x : DieSt) : (s.putDie x).nextId = s.nextId := rfl
@[simp] theorem State.putDie_fresh (s : State) (x : DieSt) : (s.putDie x).fresh = s.fresh := rfl

/-! ## `State.putHub` -/

@[simp] theorem State.putHub_th (s : State) (h : Nat) (x : HubSt) : (s.putHub h x).th = s.th := rfl
@[simp] theorem State.putHub_threads (s : State) (h : Nat) (x : HubSt) : (s.putHub h x).threads = s.threads := rfl
@[simp] theorem State.putHub_wgs (s : State) (h : Nat) (x : HubSt) : (s.putHub h x).wgs = s.wgs := rfl
@[simp] theorem State.putHub_cores (s : State) (h : Nat) (x : HubSt) : (s.putHub h x).cores = s.cores := rfl
@[simp] theorem State.putHub_ports (s : State) (h : Nat) (x : HubSt) : (s.putHub h x).ports = s.ports := rfl
@[simp] theorem State.putHub_plazas (s : State) (h : Nat) (x : HubSt) : (s.putHub h x).plazas = s.plazas := rfl
@[simp] theorem State.putHub_dies (s : State) (h : Nat) (x : HubSt) : (s.putHub h x).dies = s.dies := rfl
@[simp] theorem State.putHub_dtc (s : State) (h : Nat) (x : HubSt) : (s.putHub h x).dtc = s.dtc := rfl
@[simp] theorem State.putHub_gs (s : State) (h : Nat) (x : HubSt) : (s.putHub h x).gs = s.gs := rfl
@[simp] theorem State.putHub_conf (s : State) (h : Nat) (x : HubSt) : (s.putHub h x).conf = s.conf := rfl
@[simp] theorem State.putHub_mgmt (s : State) (h : Nat) (x : HubSt) : (s.putHub h x).mgmt = s.mgmt := rfl
@[simp] theorem State.putHub_mem (s : State) (h : Nat) (x : HubSt) : (s.putHub h x).mem = s.mem := rfl
@[simp] theorem State.putHub_lmem (s : State) (h : Nat) (x : HubSt) : (s.putHub h x).lmem = s.lmem := rfl
@[simp] theorem State.putHub_tmem (s : State) (h : Nat) (x : HubSt) : (s.putHub h x).tmem = s.tmem := rfl
@[simp] theorem State.putHub_net (s : State) (h : Nat) (x : HubSt) : (s.putHub h x).net = s.net := rfl
@[simp] theorem State.putHub_links (s : State) (h : Nat) (x : HubSt) : (s.putHub h x).links = s.links := rfl
@[simp] theorem State.putHub_owed (s : State) (h : Nat) (x : HubSt) : (s.putHub h x).owed = s.owed := rfl
@[simp] theorem State.putHub_host (s : State) (h : Nat) (x : HubSt) : (s.putHub h x).host = s.host := rfl
@[simp] theorem State.putHub_agenda (s : State) (h : Nat) (x : HubSt) : (s.putHub h x).agenda = s.agenda := rfl
@[simp] theorem State.putHub_issuing (s : State) (h : Nat) (x : HubSt) : (s.putHub h x).issuing = s.issuing := rfl
@[simp] theorem State.putHub_group (s : State) (h : Nat) (x : HubSt) : (s.putHub h x).group = s.group := rfl
@[simp] theorem State.putHub_groupCore (s : State) (h : Nat) (x : HubSt) : (s.putHub h x).groupCore = s.groupCore := rfl
@[simp] theorem State.putHub_nextTid (s : State) (h : Nat) (x : HubSt) : (s.putHub h x).nextTid = s.nextTid := rfl
@[simp] theorem State.putHub_nextId (s : State) (h : Nat) (x : HubSt) : (s.putHub h x).nextId = s.nextId := rfl
@[simp] theorem State.putHub_fresh (s : State) (h : Nat) (x : HubSt) : (s.putHub h x).fresh = s.fresh := rfl

/-! ## `State.putWg` -/

@[simp] theorem State.putWg_th (s : State) (w : Workgroup) : (s.putWg w).th = s.th := rfl
@[simp] theorem State.putWg_threads (s : State) (w : Workgroup) : (s.putWg w).threads = s.threads := rfl
@[simp] theorem State.putWg_cores (s : State) (w : Workgroup) : (s.putWg w).cores = s.cores := rfl
@[simp] theorem State.putWg_ports (s : State) (w : Workgroup) : (s.putWg w).ports = s.ports := rfl
@[simp] theorem State.putWg_plazas (s : State) (w : Workgroup) : (s.putWg w).plazas = s.plazas := rfl
@[simp] theorem State.putWg_dies (s : State) (w : Workgroup) : (s.putWg w).dies = s.dies := rfl
@[simp] theorem State.putWg_dtc (s : State) (w : Workgroup) : (s.putWg w).dtc = s.dtc := rfl
@[simp] theorem State.putWg_hubs (s : State) (w : Workgroup) : (s.putWg w).hubs = s.hubs := rfl
@[simp] theorem State.putWg_gs (s : State) (w : Workgroup) : (s.putWg w).gs = s.gs := rfl
@[simp] theorem State.putWg_conf (s : State) (w : Workgroup) : (s.putWg w).conf = s.conf := rfl
@[simp] theorem State.putWg_mgmt (s : State) (w : Workgroup) : (s.putWg w).mgmt = s.mgmt := rfl
@[simp] theorem State.putWg_mem (s : State) (w : Workgroup) : (s.putWg w).mem = s.mem := rfl
@[simp] theorem State.putWg_lmem (s : State) (w : Workgroup) : (s.putWg w).lmem = s.lmem := rfl
@[simp] theorem State.putWg_tmem (s : State) (w : Workgroup) : (s.putWg w).tmem = s.tmem := rfl
@[simp] theorem State.putWg_net (s : State) (w : Workgroup) : (s.putWg w).net = s.net := rfl
@[simp] theorem State.putWg_links (s : State) (w : Workgroup) : (s.putWg w).links = s.links := rfl
@[simp] theorem State.putWg_owed (s : State) (w : Workgroup) : (s.putWg w).owed = s.owed := rfl
@[simp] theorem State.putWg_host (s : State) (w : Workgroup) : (s.putWg w).host = s.host := rfl
@[simp] theorem State.putWg_agenda (s : State) (w : Workgroup) : (s.putWg w).agenda = s.agenda := rfl
@[simp] theorem State.putWg_issuing (s : State) (w : Workgroup) : (s.putWg w).issuing = s.issuing := rfl
@[simp] theorem State.putWg_group (s : State) (w : Workgroup) : (s.putWg w).group = s.group := rfl
@[simp] theorem State.putWg_groupCore (s : State) (w : Workgroup) : (s.putWg w).groupCore = s.groupCore := rfl
@[simp] theorem State.putWg_nextTid (s : State) (w : Workgroup) : (s.putWg w).nextTid = s.nextTid := rfl
@[simp] theorem State.putWg_nextId (s : State) (w : Workgroup) : (s.putWg w).nextId = s.nextId := rfl
@[simp] theorem State.putWg_fresh (s : State) (w : Workgroup) : (s.putWg w).fresh = s.fresh := rfl

/-! ## `State.onTh` -/

@[simp] theorem State.onTh_threads (s : State) (g : Thread → Thread) : (s.onTh g).threads = s.threads := rfl
@[simp] theorem State.onTh_wgs (s : State) (g : Thread → Thread) : (s.onTh g).wgs = s.wgs := rfl
@[simp] theorem State.onTh_cores (s : State) (g : Thread → Thread) : (s.onTh g).cores = s.cores := rfl
@[simp] theorem State.onTh_ports (s : State) (g : Thread → Thread) : (s.onTh g).ports = s.ports := rfl
@[simp] theorem State.onTh_plazas (s : State) (g : Thread → Thread) : (s.onTh g).plazas = s.plazas := rfl
@[simp] theorem State.onTh_dies (s : State) (g : Thread → Thread) : (s.onTh g).dies = s.dies := rfl
@[simp] theorem State.onTh_dtc (s : State) (g : Thread → Thread) : (s.onTh g).dtc = s.dtc := rfl
@[simp] theorem State.onTh_hubs (s : State) (g : Thread → Thread) : (s.onTh g).hubs = s.hubs := rfl
@[simp] theorem State.onTh_gs (s : State) (g : Thread → Thread) : (s.onTh g).gs = s.gs := rfl
@[simp] theorem State.onTh_conf (s : State) (g : Thread → Thread) : (s.onTh g).conf = s.conf := rfl
@[simp] theorem State.onTh_mgmt (s : State) (g : Thread → Thread) : (s.onTh g).mgmt = s.mgmt := rfl
@[simp] theorem State.onTh_mem (s : State) (g : Thread → Thread) : (s.onTh g).mem = s.mem := rfl
@[simp] theorem State.onTh_lmem (s : State) (g : Thread → Thread) : (s.onTh g).lmem = s.lmem := rfl
@[simp] theorem State.onTh_tmem (s : State) (g : Thread → Thread) : (s.onTh g).tmem = s.tmem := rfl
@[simp] theorem State.onTh_net (s : State) (g : Thread → Thread) : (s.onTh g).net = s.net := rfl
@[simp] theorem State.onTh_links (s : State) (g : Thread → Thread) : (s.onTh g).links = s.links := rfl
@[simp] theorem State.onTh_owed (s : State) (g : Thread → Thread) : (s.onTh g).owed = s.owed := rfl
@[simp] theorem State.onTh_host (s : State) (g : Thread → Thread) : (s.onTh g).host = s.host := rfl
@[simp] theorem State.onTh_agenda (s : State) (g : Thread → Thread) : (s.onTh g).agenda = s.agenda := rfl
@[simp] theorem State.onTh_issuing (s : State) (g : Thread → Thread) : (s.onTh g).issuing = s.issuing := rfl
@[simp] theorem State.onTh_group (s : State) (g : Thread → Thread) : (s.onTh g).group = s.group := rfl
@[simp] theorem State.onTh_groupCore (s : State) (g : Thread → Thread) : (s.onTh g).groupCore = s.groupCore := rfl
@[simp] theorem State.onTh_nextTid (s : State) (g : Thread → Thread) : (s.onTh g).nextTid = s.nextTid := rfl
@[simp] theorem State.onTh_nextId (s : State) (g : Thread → Thread) : (s.onTh g).nextId = s.nextId := rfl
@[simp] theorem State.onTh_fresh (s : State) (g : Thread → Thread) : (s.onTh g).fresh = s.fresh := rfl

/-! ## `State.send` -/

@[simp] theorem State.send_th (s : State) (src dst vc : Nat) (b : Body) : (s.send src dst vc b).th = s.th := rfl
@[simp] theorem State.send_threads (s : State) (src dst vc : Nat) (b : Body) : (s.send src dst vc b).threads = s.threads := rfl
@[simp] theorem State.send_wgs (s : State) (src dst vc : Nat) (b : Body) : (s.send src dst vc b).wgs = s.wgs := rfl
@[simp] theorem State.send_cores (s : State) (src dst vc : Nat) (b : Body) : (s.send src dst vc b).cores = s.cores := rfl
@[simp] theorem State.send_ports (s : State) (src dst vc : Nat) (b : Body) : (s.send src dst vc b).ports = s.ports := rfl
@[simp] theorem State.send_plazas (s : State) (src dst vc : Nat) (b : Body) : (s.send src dst vc b).plazas = s.plazas := rfl
@[simp] theorem State.send_dies (s : State) (src dst vc : Nat) (b : Body) : (s.send src dst vc b).dies = s.dies := rfl
@[simp] theorem State.send_dtc (s : State) (src dst vc : Nat) (b : Body) : (s.send src dst vc b).dtc = s.dtc := rfl
@[simp] theorem State.send_hubs (s : State) (src dst vc : Nat) (b : Body) : (s.send src dst vc b).hubs = s.hubs := rfl
@[simp] theorem State.send_gs (s : State) (src dst vc : Nat) (b : Body) : (s.send src dst vc b).gs = s.gs := rfl
@[simp] theorem State.send_conf (s : State) (src dst vc : Nat) (b : Body) : (s.send src dst vc b).conf = s.conf := rfl
@[simp] theorem State.send_mgmt (s : State) (src dst vc : Nat) (b : Body) : (s.send src dst vc b).mgmt = s.mgmt := rfl
@[simp] theorem State.send_mem (s : State) (src dst vc : Nat) (b : Body) : (s.send src dst vc b).mem = s.mem := rfl
@[simp] theorem State.send_lmem (s : State) (src dst vc : Nat) (b : Body) : (s.send src dst vc b).lmem = s.lmem := rfl
@[simp] theorem State.send_tmem (s : State) (src dst vc : Nat) (b : Body) : (s.send src dst vc b).tmem = s.tmem := rfl
@[simp] theorem State.send_links (s : State) (src dst vc : Nat) (b : Body) : (s.send src dst vc b).links = s.links := rfl
@[simp] theorem State.send_owed (s : State) (src dst vc : Nat) (b : Body) : (s.send src dst vc b).owed = s.owed := rfl
@[simp] theorem State.send_host (s : State) (src dst vc : Nat) (b : Body) : (s.send src dst vc b).host = s.host := rfl
@[simp] theorem State.send_agenda (s : State) (src dst vc : Nat) (b : Body) : (s.send src dst vc b).agenda = s.agenda := rfl
@[simp] theorem State.send_issuing (s : State) (src dst vc : Nat) (b : Body) : (s.send src dst vc b).issuing = s.issuing := rfl
@[simp] theorem State.send_group (s : State) (src dst vc : Nat) (b : Body) : (s.send src dst vc b).group = s.group := rfl
@[simp] theorem State.send_groupCore (s : State) (src dst vc : Nat) (b : Body) : (s.send src dst vc b).groupCore = s.groupCore := rfl
@[simp] theorem State.send_nextTid (s : State) (src dst vc : Nat) (b : Body) : (s.send src dst vc b).nextTid = s.nextTid := rfl
@[simp] theorem State.send_nextId (s : State) (src dst vc : Nat) (b : Body) : (s.send src dst vc b).nextId = s.nextId := rfl
@[simp] theorem State.send_fresh (s : State) (src dst vc : Nat) (b : Body) : (s.send src dst vc b).fresh = s.fresh := rfl

/-! ## `State.putJob` -/

@[simp] theorem State.putJob_th (s : State) (j : Job) : (s.putJob j).th = s.th := rfl
@[simp] theorem State.putJob_threads (s : State) (j : Job) : (s.putJob j).threads = s.threads := rfl
@[simp] theorem State.putJob_wgs (s : State) (j : Job) : (s.putJob j).wgs = s.wgs := rfl
@[simp] theorem State.putJob_cores (s : State) (j : Job) : (s.putJob j).cores = s.cores := rfl
@[simp] theorem State.putJob_ports (s : State) (j : Job) : (s.putJob j).ports = s.ports := rfl
@[simp] theorem State.putJob_plazas (s : State) (j : Job) : (s.putJob j).plazas = s.plazas := rfl
@[simp] theorem State.putJob_dies (s : State) (j : Job) : (s.putJob j).dies = s.dies := rfl
@[simp] theorem State.putJob_dtc (s : State) (j : Job) : (s.putJob j).dtc = s.dtc := rfl
@[simp] theorem State.putJob_hubs (s : State) (j : Job) : (s.putJob j).hubs = s.hubs := rfl
@[simp] theorem State.putJob_conf (s : State) (j : Job) : (s.putJob j).conf = s.conf := rfl
@[simp] theorem State.putJob_mgmt (s : State) (j : Job) : (s.putJob j).mgmt = s.mgmt := rfl
@[simp] theorem State.putJob_mem (s : State) (j : Job) : (s.putJob j).mem = s.mem := rfl
@[simp] theorem State.putJob_lmem (s : State) (j : Job) : (s.putJob j).lmem = s.lmem := rfl
@[simp] theorem State.putJob_tmem (s : State) (j : Job) : (s.putJob j).tmem = s.tmem := rfl
@[simp] theorem State.putJob_net (s : State) (j : Job) : (s.putJob j).net = s.net := rfl
@[simp] theorem State.putJob_links (s : State) (j : Job) : (s.putJob j).links = s.links := rfl
@[simp] theorem State.putJob_owed (s : State) (j : Job) : (s.putJob j).owed = s.owed := rfl
@[simp] theorem State.putJob_host (s : State) (j : Job) : (s.putJob j).host = s.host := rfl
@[simp] theorem State.putJob_agenda (s : State) (j : Job) : (s.putJob j).agenda = s.agenda := rfl
@[simp] theorem State.putJob_issuing (s : State) (j : Job) : (s.putJob j).issuing = s.issuing := rfl
@[simp] theorem State.putJob_group (s : State) (j : Job) : (s.putJob j).group = s.group := rfl
@[simp] theorem State.putJob_groupCore (s : State) (j : Job) : (s.putJob j).groupCore = s.groupCore := rfl
@[simp] theorem State.putJob_nextTid (s : State) (j : Job) : (s.putJob j).nextTid = s.nextTid := rfl
@[simp] theorem State.putJob_nextId (s : State) (j : Job) : (s.putJob j).nextId = s.nextId := rfl
@[simp] theorem State.putJob_fresh (s : State) (j : Job) : (s.putJob j).fresh = s.fresh := rfl

/-! ## `State.countCore` -/

@[simp] theorem State.countCore_th (s : State) (c k : Nat) : (s.countCore c k).th = s.th := rfl
@[simp] theorem State.countCore_threads (s : State) (c k : Nat) : (s.countCore c k).threads = s.threads := rfl
@[simp] theorem State.countCore_wgs (s : State) (c k : Nat) : (s.countCore c k).wgs = s.wgs := rfl
@[simp] theorem State.countCore_ports (s : State) (c k : Nat) : (s.countCore c k).ports = s.ports := rfl
@[simp] theorem State.countCore_plazas (s : State) (c k : Nat) : (s.countCore c k).plazas = s.plazas := rfl
@[simp] theorem State.countCore_dies (s : State) (c k : Nat) : (s.countCore c k).dies = s.dies := rfl
@[simp] theorem State.countCore_dtc (s : State) (c k : Nat) : (s.countCore c k).dtc = s.dtc := rfl
@[simp] theorem State.countCore_hubs (s : State) (c k : Nat) : (s.countCore c k).hubs = s.hubs := rfl
@[simp] theorem State.countCore_gs (s : State) (c k : Nat) : (s.countCore c k).gs = s.gs := rfl
@[simp] theorem State.countCore_conf (s : State) (c k : Nat) : (s.countCore c k).conf = s.conf := rfl
@[simp] theorem State.countCore_mgmt (s : State) (c k : Nat) : (s.countCore c k).mgmt = s.mgmt := rfl
@[simp] theorem State.countCore_mem (s : State) (c k : Nat) : (s.countCore c k).mem = s.mem := rfl
@[simp] theorem State.countCore_lmem (s : State) (c k : Nat) : (s.countCore c k).lmem = s.lmem := rfl
@[simp] theorem State.countCore_tmem (s : State) (c k : Nat) : (s.countCore c k).tmem = s.tmem := rfl
@[simp] theorem State.countCore_net (s : State) (c k : Nat) : (s.countCore c k).net = s.net := rfl
@[simp] theorem State.countCore_links (s : State) (c k : Nat) : (s.countCore c k).links = s.links := rfl
@[simp] theorem State.countCore_owed (s : State) (c k : Nat) : (s.countCore c k).owed = s.owed := rfl
@[simp] theorem State.countCore_host (s : State) (c k : Nat) : (s.countCore c k).host = s.host := rfl
@[simp] theorem State.countCore_agenda (s : State) (c k : Nat) : (s.countCore c k).agenda = s.agenda := rfl
@[simp] theorem State.countCore_issuing (s : State) (c k : Nat) : (s.countCore c k).issuing = s.issuing := rfl
@[simp] theorem State.countCore_group (s : State) (c k : Nat) : (s.countCore c k).group = s.group := rfl
@[simp] theorem State.countCore_groupCore (s : State) (c k : Nat) : (s.countCore c k).groupCore = s.groupCore := rfl
@[simp] theorem State.countCore_nextTid (s : State) (c k : Nat) : (s.countCore c k).nextTid = s.nextTid := rfl
@[simp] theorem State.countCore_nextId (s : State) (c k : Nat) : (s.countCore c k).nextId = s.nextId := rfl
@[simp] theorem State.countCore_fresh (s : State) (c k : Nat) : (s.countCore c k).fresh = s.fresh := rfl

/-! ## `State.countDie` -/

@[simp] theorem State.countDie_th (s : State) (d k : Nat) : (s.countDie d k).th = s.th := rfl
@[simp] theorem State.countDie_threads (s : State) (d k : Nat) : (s.countDie d k).threads = s.threads := rfl
@[simp] theorem State.countDie_wgs (s : State) (d k : Nat) : (s.countDie d k).wgs = s.wgs := rfl
@[simp] theorem State.countDie_cores (s : State) (d k : Nat) : (s.countDie d k).cores = s.cores := rfl
@[simp] theorem State.countDie_ports (s : State) (d k : Nat) : (s.countDie d k).ports = s.ports := rfl
@[simp] theorem State.countDie_plazas (s : State) (d k : Nat) : (s.countDie d k).plazas = s.plazas := rfl
@[simp] theorem State.countDie_dtc (s : State) (d k : Nat) : (s.countDie d k).dtc = s.dtc := rfl
@[simp] theorem State.countDie_hubs (s : State) (d k : Nat) : (s.countDie d k).hubs = s.hubs := rfl
@[simp] theorem State.countDie_gs (s : State) (d k : Nat) : (s.countDie d k).gs = s.gs := rfl
@[simp] theorem State.countDie_conf (s : State) (d k : Nat) : (s.countDie d k).conf = s.conf := rfl
@[simp] theorem State.countDie_mgmt (s : State) (d k : Nat) : (s.countDie d k).mgmt = s.mgmt := rfl
@[simp] theorem State.countDie_mem (s : State) (d k : Nat) : (s.countDie d k).mem = s.mem := rfl
@[simp] theorem State.countDie_lmem (s : State) (d k : Nat) : (s.countDie d k).lmem = s.lmem := rfl
@[simp] theorem State.countDie_tmem (s : State) (d k : Nat) : (s.countDie d k).tmem = s.tmem := rfl
@[simp] theorem State.countDie_net (s : State) (d k : Nat) : (s.countDie d k).net = s.net := rfl
@[simp] theorem State.countDie_links (s : State) (d k : Nat) : (s.countDie d k).links = s.links := rfl
@[simp] theorem State.countDie_owed (s : State) (d k : Nat) : (s.countDie d k).owed = s.owed := rfl
@[simp] theorem State.countDie_host (s : State) (d k : Nat) : (s.countDie d k).host = s.host := rfl
@[simp] theorem State.countDie_agenda (s : State) (d k : Nat) : (s.countDie d k).agenda = s.agenda := rfl
@[simp] theorem State.countDie_issuing (s : State) (d k : Nat) : (s.countDie d k).issuing = s.issuing := rfl
@[simp] theorem State.countDie_group (s : State) (d k : Nat) : (s.countDie d k).group = s.group := rfl
@[simp] theorem State.countDie_groupCore (s : State) (d k : Nat) : (s.countDie d k).groupCore = s.groupCore := rfl
@[simp] theorem State.countDie_nextTid (s : State) (d k : Nat) : (s.countDie d k).nextTid = s.nextTid := rfl
@[simp] theorem State.countDie_nextId (s : State) (d k : Nat) : (s.countDie d k).nextId = s.nextId := rfl
@[simp] theorem State.countDie_fresh (s : State) (d k : Nat) : (s.countDie d k).fresh = s.fresh := rfl

@[simp] theorem State.onTh_th (s : State) (g : Thread → Thread) : (s.onTh g).th = g s.th := rfl
@[simp] theorem State.send_net (s : State) (src dst vc : Nat) (b : Body) : (s.send src dst vc b).net = s.net ++ [⟨src, dst, vc, false, b, .moving⟩] := rfl

/-! ## `State.putThread` -/

@[simp] theorem State.putThread_wgs (s : State) (t : Thread) : (s.putThread t).wgs = s.wgs := by unfold State.putThread; split <;> rfl
@[simp] theorem State.putThread_cores (s : State) (t : Thread) : (s.putThread t).cores = s.cores := by unfold State.putThread; split <;> rfl
@[simp] theorem State.putThread_ports (s : State) (t : Thread) : (s.putThread t).ports = s.ports := by unfold State.putThread; split <;> rfl
@[simp] theorem State.putThread_plazas (s : State) (t : Thread) : (s.putThread t).plazas = s.plazas := by unfold State.putThread; split <;> rfl
@[simp] theorem State.putThread_dies (s : State) (t : Thread) : (s.putThread t).dies = s.dies := by unfold State.putThread; split <;> rfl
@[simp] theorem State.putThread_dtc (s : State) (t : Thread) : (s.putThread t).dtc = s.dtc := by unfold State.putThread; split <;> rfl
@[simp] theorem State.putThread_hubs (s : State) (t : Thread) : (s.putThread t).hubs = s.hubs := by unfold State.putThread; split <;> rfl
@[simp] theorem State.putThread_gs (s : State) (t : Thread) : (s.putThread t).gs = s.gs := by unfold State.putThread; split <;> rfl
@[simp] theorem State.putThread_conf (s : State) (t : Thread) : (s.putThread t).conf = s.conf := by unfold State.putThread; split <;> rfl
@[simp] theorem State.putThread_mgmt (s : State) (t : Thread) : (s.putThread t).mgmt = s.mgmt := by unfold State.putThread; split <;> rfl
@[simp] theorem State.putThread_mem (s : State) (t : Thread) : (s.putThread t).mem = s.mem := by unfold State.putThread; split <;> rfl
@[simp] theorem State.putThread_lmem (s : State) (t : Thread) : (s.putThread t).lmem = s.lmem := by unfold State.putThread; split <;> rfl
@[simp] theorem State.putThread_tmem (s : State) (t : Thread) : (s.putThread t).tmem = s.tmem := by unfold State.putThread; split <;> rfl
@[simp] theorem State.putThread_net (s : State) (t : Thread) : (s.putThread t).net = s.net := by unfold State.putThread; split <;> rfl
@[simp] theorem State.putThread_links (s : State) (t : Thread) : (s.putThread t).links = s.links := by unfold State.putThread; split <;> rfl
@[simp] theorem State.putThread_owed (s : State) (t : Thread) : (s.putThread t).owed = s.owed := by unfold State.putThread; split <;> rfl
@[simp] theorem State.putThread_host (s : State) (t : Thread) : (s.putThread t).host = s.host := by unfold State.putThread; split <;> rfl
@[simp] theorem State.putThread_agenda (s : State) (t : Thread) : (s.putThread t).agenda = s.agenda := by unfold State.putThread; split <;> rfl
@[simp] theorem State.putThread_issuing (s : State) (t : Thread) : (s.putThread t).issuing = s.issuing := by unfold State.putThread; split <;> rfl
@[simp] theorem State.putThread_group (s : State) (t : Thread) : (s.putThread t).group = s.group := by unfold State.putThread; split <;> rfl
@[simp] theorem State.putThread_groupCore (s : State) (t : Thread) : (s.putThread t).groupCore = s.groupCore := by unfold State.putThread; split <;> rfl
@[simp] theorem State.putThread_nextTid (s : State) (t : Thread) : (s.putThread t).nextTid = s.nextTid := by unfold State.putThread; split <;> rfl
@[simp] theorem State.putThread_nextId (s : State) (t : Thread) : (s.putThread t).nextId = s.nextId := by unfold State.putThread; split <;> rfl
@[simp] theorem State.putThread_fresh (s : State) (t : Thread) : (s.putThread t).fresh = s.fresh := by unfold State.putThread; split <;> rfl

/-- The record of the executing thread replaced. -/
theorem State.putThread_self (s : State) (t : Thread) (h : s.th.tid = t.tid) : s.putThread t = { s with th := t } := by
  simp [State.putThread, h]

/-! ## `State.writeW` -/

@[simp] theorem State.writeW_th (s : State) (d : Dst) (v : W64) : (s.writeW d v).th = s.th := by cases d <;> rfl
@[simp] theorem State.writeW_threads (s : State) (d : Dst) (v : W64) : (s.writeW d v).threads = s.threads := by cases d <;> rfl
@[simp] theorem State.writeW_cores (s : State) (d : Dst) (v : W64) : (s.writeW d v).cores = s.cores := by cases d <;> rfl
@[simp] theorem State.writeW_ports (s : State) (d : Dst) (v : W64) : (s.writeW d v).ports = s.ports := by cases d <;> rfl
@[simp] theorem State.writeW_plazas (s : State) (d : Dst) (v : W64) : (s.writeW d v).plazas = s.plazas := by cases d <;> rfl
@[simp] theorem State.writeW_dies (s : State) (d : Dst) (v : W64) : (s.writeW d v).dies = s.dies := by cases d <;> rfl
@[simp] theorem State.writeW_dtc (s : State) (d : Dst) (v : W64) : (s.writeW d v).dtc = s.dtc := by cases d <;> rfl
@[simp] theorem State.writeW_hubs (s : State) (d : Dst) (v : W64) : (s.writeW d v).hubs = s.hubs := by cases d <;> rfl
@[simp] theorem State.writeW_gs (s : State) (d : Dst) (v : W64) : (s.writeW d v).gs = s.gs := by cases d <;> rfl
@[simp] theorem State.writeW_conf (s : State) (d : Dst) (v : W64) : (s.writeW d v).conf = s.conf := by cases d <;> rfl
@[simp] theorem State.writeW_mgmt (s : State) (d : Dst) (v : W64) : (s.writeW d v).mgmt = s.mgmt := by cases d <;> rfl
@[simp] theorem State.writeW_mem (s : State) (d : Dst) (v : W64) : (s.writeW d v).mem = s.mem := by cases d <;> rfl
@[simp] theorem State.writeW_lmem (s : State) (d : Dst) (v : W64) : (s.writeW d v).lmem = s.lmem := by cases d <;> rfl
@[simp] theorem State.writeW_tmem (s : State) (d : Dst) (v : W64) : (s.writeW d v).tmem = s.tmem := by cases d <;> rfl
@[simp] theorem State.writeW_net (s : State) (d : Dst) (v : W64) : (s.writeW d v).net = s.net := by cases d <;> rfl
@[simp] theorem State.writeW_links (s : State) (d : Dst) (v : W64) : (s.writeW d v).links = s.links := by cases d <;> rfl
@[simp] theorem State.writeW_owed (s : State) (d : Dst) (v : W64) : (s.writeW d v).owed = s.owed := by cases d <;> rfl
@[simp] theorem State.writeW_host (s : State) (d : Dst) (v : W64) : (s.writeW d v).host = s.host := by cases d <;> rfl
@[simp] theorem State.writeW_agenda (s : State) (d : Dst) (v : W64) : (s.writeW d v).agenda = s.agenda := by cases d <;> rfl
@[simp] theorem State.writeW_issuing (s : State) (d : Dst) (v : W64) : (s.writeW d v).issuing = s.issuing := by cases d <;> rfl
@[simp] theorem State.writeW_group (s : State) (d : Dst) (v : W64) : (s.writeW d v).group = s.group := by cases d <;> rfl
@[simp] theorem State.writeW_groupCore (s : State) (d : Dst) (v : W64) : (s.writeW d v).groupCore = s.groupCore := by cases d <;> rfl
@[simp] theorem State.writeW_nextTid (s : State) (d : Dst) (v : W64) : (s.writeW d v).nextTid = s.nextTid := by cases d <;> rfl
@[simp] theorem State.writeW_nextId (s : State) (d : Dst) (v : W64) : (s.writeW d v).nextId = s.nextId := by cases d <;> rfl
@[simp] theorem State.writeW_fresh (s : State) (d : Dst) (v : W64) : (s.writeW d v).fresh = s.fresh := by cases d <;> rfl

/-! ## The ends of instructions -/

@[simp] theorem finishU_threads (f : Fields) (s : State) : (finishU f s).threads = s.threads := rfl
@[simp] theorem finishU_wgs (f : Fields) (s : State) : (finishU f s).wgs = s.wgs := rfl
@[simp] theorem finishU_cores (f : Fields) (s : State) : (finishU f s).cores = s.cores := rfl
@[simp] theorem finishU_ports (f : Fields) (s : State) : (finishU f s).ports = s.ports := rfl
@[simp] theorem finishU_plazas (f : Fields) (s : State) : (finishU f s).plazas = s.plazas := rfl
@[simp] theorem finishU_dies (f : Fields) (s : State) : (finishU f s).dies = s.dies := rfl
@[simp] theorem finishU_dtc (f : Fields) (s : State) : (finishU f s).dtc = s.dtc := rfl
@[simp] theorem finishU_hubs (f : Fields) (s : State) : (finishU f s).hubs = s.hubs := rfl
@[simp] theorem finishU_gs (f : Fields) (s : State) : (finishU f s).gs = s.gs := rfl
@[simp] theorem finishU_conf (f : Fields) (s : State) : (finishU f s).conf = s.conf := rfl
@[simp] theorem finishU_mgmt (f : Fields) (s : State) : (finishU f s).mgmt = s.mgmt := rfl
@[simp] theorem finishU_mem (f : Fields) (s : State) : (finishU f s).mem = s.mem := rfl
@[simp] theorem finishU_lmem (f : Fields) (s : State) : (finishU f s).lmem = s.lmem := rfl
@[simp] theorem finishU_tmem (f : Fields) (s : State) : (finishU f s).tmem = s.tmem := rfl
@[simp] theorem finishU_net (f : Fields) (s : State) : (finishU f s).net = s.net := rfl
@[simp] theorem finishU_links (f : Fields) (s : State) : (finishU f s).links = s.links := rfl
@[simp] theorem finishU_owed (f : Fields) (s : State) : (finishU f s).owed = s.owed := rfl
@[simp] theorem finishU_host (f : Fields) (s : State) : (finishU f s).host = s.host := rfl
@[simp] theorem finishU_agenda (f : Fields) (s : State) : (finishU f s).agenda = s.agenda := rfl
@[simp] theorem finishU_issuing (f : Fields) (s : State) : (finishU f s).issuing = s.issuing := rfl
@[simp] theorem finishU_group (f : Fields) (s : State) : (finishU f s).group = s.group := rfl
@[simp] theorem finishU_groupCore (f : Fields) (s : State) : (finishU f s).groupCore = s.groupCore := rfl
@[simp] theorem finishU_nextTid (f : Fields) (s : State) : (finishU f s).nextTid = s.nextTid := rfl
@[simp] theorem finishU_nextId (f : Fields) (s : State) : (finishU f s).nextId = s.nextId := rfl
@[simp] theorem finishU_fresh (f : Fields) (s : State) : (finishU f s).fresh = s.fresh := rfl

@[simp] theorem finishQ_threads (f : Fields) (v : W64) (s : State) : (finishQ f v s).threads = s.threads := by simp only [finishQ, State.onTh_threads, State.writeW_threads]
@[simp] theorem finishQ_cores (f : Fields) (v : W64) (s : State) : (finishQ f v s).cores = s.cores := by simp only [finishQ, State.onTh_cores, State.writeW_cores]
@[simp] theorem finishQ_ports (f : Fields) (v : W64) (s : State) : (finishQ f v s).ports = s.ports := by simp only [finishQ, State.onTh_ports, State.writeW_ports]
@[simp] theorem finishQ_plazas (f : Fields) (v : W64) (s : State) : (finishQ f v s).plazas = s.plazas := by simp only [finishQ, State.onTh_plazas, State.writeW_plazas]
@[simp] theorem finishQ_dies (f : Fields) (v : W64) (s : State) : (finishQ f v s).dies = s.dies := by simp only [finishQ, State.onTh_dies, State.writeW_dies]
@[simp] theorem finishQ_dtc (f : Fields) (v : W64) (s : State) : (finishQ f v s).dtc = s.dtc := by simp only [finishQ, State.onTh_dtc, State.writeW_dtc]
@[simp] theorem finishQ_hubs (f : Fields) (v : W64) (s : State) : (finishQ f v s).hubs = s.hubs := by simp only [finishQ, State.onTh_hubs, State.writeW_hubs]
@[simp] theorem finishQ_gs (f : Fields) (v : W64) (s : State) : (finishQ f v s).gs = s.gs := by simp only [finishQ, State.onTh_gs, State.writeW_gs]
@[simp] theorem finishQ_conf (f : Fields) (v : W64) (s : State) : (finishQ f v s).conf = s.conf := by simp only [finishQ, State.onTh_conf, State.writeW_conf]
@[simp] theorem finishQ_mgmt (f : Fields) (v : W64) (s : State) : (finishQ f v s).mgmt = s.mgmt := by simp only [finishQ, State.onTh_mgmt, State.writeW_mgmt]
@[simp] theorem finishQ_mem (f : Fields) (v : W64) (s : State) : (finishQ f v s).mem = s.mem := by simp only [finishQ, State.onTh_mem, State.writeW_mem]
@[simp] theorem finishQ_lmem (f : Fields) (v : W64) (s : State) : (finishQ f v s).lmem = s.lmem := by simp only [finishQ, State.onTh_lmem, State.writeW_lmem]
@[simp] theorem finishQ_tmem (f : Fields) (v : W64) (s : State) : (finishQ f v s).tmem = s.tmem := by simp only [finishQ, State.onTh_tmem, State.writeW_tmem]
@[simp] theorem finishQ_net (f : Fields) (v : W64) (s : State) : (finishQ f v s).net = s.net := by simp only [finishQ, State.onTh_net, State.writeW_net]
@[simp] theorem finishQ_links (f : Fields) (v : W64) (s : State) : (finishQ f v s).links = s.links := by simp only [finishQ, State.onTh_links, State.writeW_links]
@[simp] theorem finishQ_owed (f : Fields) (v : W64) (s : State) : (finishQ f v s).owed = s.owed := by simp only [finishQ, State.onTh_owed, State.writeW_owed]
@[simp] theorem finishQ_host (f : Fields) (v : W64) (s : State) : (finishQ f v s).host = s.host := by simp only [finishQ, State.onTh_host, State.writeW_host]
@[simp] theorem finishQ_agenda (f : Fields) (v : W64) (s : State) : (finishQ f v s).agenda = s.agenda := by simp only [finishQ, State.onTh_agenda, State.writeW_agenda]
@[simp] theorem finishQ_issuing (f : Fields) (v : W64) (s : State) : (finishQ f v s).issuing = s.issuing := by simp only [finishQ, State.onTh_issuing, State.writeW_issuing]
@[simp] theorem finishQ_group (f : Fields) (v : W64) (s : State) : (finishQ f v s).group = s.group := by simp only [finishQ, State.onTh_group, State.writeW_group]
@[simp] theorem finishQ_groupCore (f : Fields) (v : W64) (s : State) : (finishQ f v s).groupCore = s.groupCore := by simp only [finishQ, State.onTh_groupCore, State.writeW_groupCore]
@[simp] theorem finishQ_nextTid (f : Fields) (v : W64) (s : State) : (finishQ f v s).nextTid = s.nextTid := by simp only [finishQ, State.onTh_nextTid, State.writeW_nextTid]
@[simp] theorem finishQ_nextId (f : Fields) (v : W64) (s : State) : (finishQ f v s).nextId = s.nextId := by simp only [finishQ, State.onTh_nextId, State.writeW_nextId]
@[simp] theorem finishQ_fresh (f : Fields) (v : W64) (s : State) : (finishQ f v s).fresh = s.fresh := by simp only [finishQ, State.onTh_fresh, State.writeW_fresh]

@[simp] theorem finishP_threads (f : Fields) (b : Bool) (s : State) : (finishP f b s).threads = s.threads := rfl
@[simp] theorem finishP_wgs (f : Fields) (b : Bool) (s : State) : (finishP f b s).wgs = s.wgs := rfl
@[simp] theorem finishP_cores (f : Fields) (b : Bool) (s : State) : (finishP f b s).cores = s.cores := rfl
@[simp] theorem finishP_ports (f : Fields) (b : Bool) (s : State) : (finishP f b s).ports = s.ports := rfl
@[simp] theorem finishP_plazas (f : Fields) (b : Bool) (s : State) : (finishP f b s).plazas = s.plazas := rfl
@[simp] theorem finishP_dies (f : Fields) (b : Bool) (s : State) : (finishP f b s).dies = s.dies := rfl
@[simp] theorem finishP_dtc (f : Fields) (b : Bool) (s : State) : (finishP f b s).dtc = s.dtc := rfl
@[simp] theorem finishP_hubs (f : Fields) (b : Bool) (s : State) : (finishP f b s).hubs = s.hubs := rfl
@[simp] theorem finishP_gs (f : Fields) (b : Bool) (s : State) : (finishP f b s).gs = s.gs := rfl
@[simp] theorem finishP_conf (f : Fields) (b : Bool) (s : State) : (finishP f b s).conf = s.conf := rfl
@[simp] theorem finishP_mgmt (f : Fields) (b : Bool) (s : State) : (finishP f b s).mgmt = s.mgmt := rfl
@[simp] theorem finishP_mem (f : Fields) (b : Bool) (s : State) : (finishP f b s).mem = s.mem := rfl
@[simp] theorem finishP_lmem (f : Fields) (b : Bool) (s : State) : (finishP f b s).lmem = s.lmem := rfl
@[simp] theorem finishP_tmem (f : Fields) (b : Bool) (s : State) : (finishP f b s).tmem = s.tmem := rfl
@[simp] theorem finishP_net (f : Fields) (b : Bool) (s : State) : (finishP f b s).net = s.net := rfl
@[simp] theorem finishP_links (f : Fields) (b : Bool) (s : State) : (finishP f b s).links = s.links := rfl
@[simp] theorem finishP_owed (f : Fields) (b : Bool) (s : State) : (finishP f b s).owed = s.owed := rfl
@[simp] theorem finishP_host (f : Fields) (b : Bool) (s : State) : (finishP f b s).host = s.host := rfl
@[simp] theorem finishP_agenda (f : Fields) (b : Bool) (s : State) : (finishP f b s).agenda = s.agenda := rfl
@[simp] theorem finishP_issuing (f : Fields) (b : Bool) (s : State) : (finishP f b s).issuing = s.issuing := rfl
@[simp] theorem finishP_group (f : Fields) (b : Bool) (s : State) : (finishP f b s).group = s.group := rfl
@[simp] theorem finishP_groupCore (f : Fields) (b : Bool) (s : State) : (finishP f b s).groupCore = s.groupCore := rfl
@[simp] theorem finishP_nextTid (f : Fields) (b : Bool) (s : State) : (finishP f b s).nextTid = s.nextTid := rfl
@[simp] theorem finishP_nextId (f : Fields) (b : Bool) (s : State) : (finishP f b s).nextId = s.nextId := rfl
@[simp] theorem finishP_fresh (f : Fields) (b : Bool) (s : State) : (finishP f b s).fresh = s.fresh := rfl

@[simp] theorem finishV_threads (f : Fields) (v : W256) (tag : BitVec 6) (s : State) : (finishV f v tag s).threads = s.threads := rfl
@[simp] theorem finishV_wgs (f : Fields) (v : W256) (tag : BitVec 6) (s : State) : (finishV f v tag s).wgs = s.wgs := rfl
@[simp] theorem finishV_cores (f : Fields) (v : W256) (tag : BitVec 6) (s : State) : (finishV f v tag s).cores = s.cores := rfl
@[simp] theorem finishV_ports (f : Fields) (v : W256) (tag : BitVec 6) (s : State) : (finishV f v tag s).ports = s.ports := rfl
@[simp] theorem finishV_plazas (f : Fields) (v : W256) (tag : BitVec 6) (s : State) : (finishV f v tag s).plazas = s.plazas := rfl
@[simp] theorem finishV_dies (f : Fields) (v : W256) (tag : BitVec 6) (s : State) : (finishV f v tag s).dies = s.dies := rfl
@[simp] theorem finishV_dtc (f : Fields) (v : W256) (tag : BitVec 6) (s : State) : (finishV f v tag s).dtc = s.dtc := rfl
@[simp] theorem finishV_hubs (f : Fields) (v : W256) (tag : BitVec 6) (s : State) : (finishV f v tag s).hubs = s.hubs := rfl
@[simp] theorem finishV_gs (f : Fields) (v : W256) (tag : BitVec 6) (s : State) : (finishV f v tag s).gs = s.gs := rfl
@[simp] theorem finishV_conf (f : Fields) (v : W256) (tag : BitVec 6) (s : State) : (finishV f v tag s).conf = s.conf := rfl
@[simp] theorem finishV_mgmt (f : Fields) (v : W256) (tag : BitVec 6) (s : State) : (finishV f v tag s).mgmt = s.mgmt := rfl
@[simp] theorem finishV_mem (f : Fields) (v : W256) (tag : BitVec 6) (s : State) : (finishV f v tag s).mem = s.mem := rfl
@[simp] theorem finishV_lmem (f : Fields) (v : W256) (tag : BitVec 6) (s : State) : (finishV f v tag s).lmem = s.lmem := rfl
@[simp] theorem finishV_tmem (f : Fields) (v : W256) (tag : BitVec 6) (s : State) : (finishV f v tag s).tmem = s.tmem := rfl
@[simp] theorem finishV_net (f : Fields) (v : W256) (tag : BitVec 6) (s : State) : (finishV f v tag s).net = s.net := rfl
@[simp] theorem finishV_links (f : Fields) (v : W256) (tag : BitVec 6) (s : State) : (finishV f v tag s).links = s.links := rfl
@[simp] theorem finishV_owed (f : Fields) (v : W256) (tag : BitVec 6) (s : State) : (finishV f v tag s).owed = s.owed := rfl
@[simp] theorem finishV_host (f : Fields) (v : W256) (tag : BitVec 6) (s : State) : (finishV f v tag s).host = s.host := rfl
@[simp] theorem finishV_agenda (f : Fields) (v : W256) (tag : BitVec 6) (s : State) : (finishV f v tag s).agenda = s.agenda := rfl
@[simp] theorem finishV_issuing (f : Fields) (v : W256) (tag : BitVec 6) (s : State) : (finishV f v tag s).issuing = s.issuing := rfl
@[simp] theorem finishV_group (f : Fields) (v : W256) (tag : BitVec 6) (s : State) : (finishV f v tag s).group = s.group := rfl
@[simp] theorem finishV_groupCore (f : Fields) (v : W256) (tag : BitVec 6) (s : State) : (finishV f v tag s).groupCore = s.groupCore := rfl
@[simp] theorem finishV_nextTid (f : Fields) (v : W256) (tag : BitVec 6) (s : State) : (finishV f v tag s).nextTid = s.nextTid := rfl
@[simp] theorem finishV_nextId (f : Fields) (v : W256) (tag : BitVec 6) (s : State) : (finishV f v tag s).nextId = s.nextId := rfl
@[simp] theorem finishV_fresh (f : Fields) (v : W256) (tag : BitVec 6) (s : State) : (finishV f v tag s).fresh = s.fresh := rfl

@[simp] theorem block_threads (st : Status) (w : Wait) (s : State) : (block st w s).threads = s.threads := rfl
@[simp] theorem block_wgs (st : Status) (w : Wait) (s : State) : (block st w s).wgs = s.wgs := rfl
@[simp] theorem block_cores (st : Status) (w : Wait) (s : State) : (block st w s).cores = s.cores := rfl
@[simp] theorem block_ports (st : Status) (w : Wait) (s : State) : (block st w s).ports = s.ports := rfl
@[simp] theorem block_plazas (st : Status) (w : Wait) (s : State) : (block st w s).plazas = s.plazas := rfl
@[simp] theorem block_dies (st : Status) (w : Wait) (s : State) : (block st w s).dies = s.dies := rfl
@[simp] theorem block_dtc (st : Status) (w : Wait) (s : State) : (block st w s).dtc = s.dtc := rfl
@[simp] theorem block_hubs (st : Status) (w : Wait) (s : State) : (block st w s).hubs = s.hubs := rfl
@[simp] theorem block_gs (st : Status) (w : Wait) (s : State) : (block st w s).gs = s.gs := rfl
@[simp] theorem block_conf (st : Status) (w : Wait) (s : State) : (block st w s).conf = s.conf := rfl
@[simp] theorem block_mgmt (st : Status) (w : Wait) (s : State) : (block st w s).mgmt = s.mgmt := rfl
@[simp] theorem block_mem (st : Status) (w : Wait) (s : State) : (block st w s).mem = s.mem := rfl
@[simp] theorem block_lmem (st : Status) (w : Wait) (s : State) : (block st w s).lmem = s.lmem := rfl
@[simp] theorem block_tmem (st : Status) (w : Wait) (s : State) : (block st w s).tmem = s.tmem := rfl
@[simp] theorem block_net (st : Status) (w : Wait) (s : State) : (block st w s).net = s.net := rfl
@[simp] theorem block_links (st : Status) (w : Wait) (s : State) : (block st w s).links = s.links := rfl
@[simp] theorem block_owed (st : Status) (w : Wait) (s : State) : (block st w s).owed = s.owed := rfl
@[simp] theorem block_host (st : Status) (w : Wait) (s : State) : (block st w s).host = s.host := rfl
@[simp] theorem block_agenda (st : Status) (w : Wait) (s : State) : (block st w s).agenda = s.agenda := rfl
@[simp] theorem block_issuing (st : Status) (w : Wait) (s : State) : (block st w s).issuing = s.issuing := rfl
@[simp] theorem block_group (st : Status) (w : Wait) (s : State) : (block st w s).group = s.group := rfl
@[simp] theorem block_groupCore (st : Status) (w : Wait) (s : State) : (block st w s).groupCore = s.groupCore := rfl
@[simp] theorem block_nextTid (st : Status) (w : Wait) (s : State) : (block st w s).nextTid = s.nextTid := rfl
@[simp] theorem block_nextId (st : Status) (w : Wait) (s : State) : (block st w s).nextId = s.nextId := rfl
@[simp] theorem block_fresh (st : Status) (w : Wait) (s : State) : (block st w s).fresh = s.fresh := rfl

/-! ## Threads -/

@[simp] theorem Thread.next_tid (t : Thread) (len : Nat) : (t.next len).tid = t.tid := rfl
@[simp] theorem Thread.next_asid (t : Thread) (len : Nat) : (t.next len).asid = t.asid := rfl
@[simp] theorem Thread.next_job (t : Thread) (len : Nat) : (t.next len).job = t.job := rfl
@[simp] theorem Thread.next_launch (t : Thread) (len : Nat) : (t.next len).launch = t.launch := rfl
@[simp] theorem Thread.next_gang (t : Thread) (len : Nat) : (t.next len).gang = t.gang := rfl
@[simp] theorem Thread.next_wgpos (t : Thread) (len : Nat) : (t.next len).wgpos = t.wgpos := rfl
@[simp] theorem Thread.next_index (t : Thread) (len : Nat) : (t.next len).index = t.index := rfl
@[simp] theorem Thread.next_spawned (t : Thread) (len : Nat) : (t.next len).spawned = t.spawned := rfl
@[simp] theorem Thread.next_sser (t : Thread) (len : Nat) : (t.next len).sser = t.sser := rfl
@[simp] theorem Thread.next_anchor (t : Thread) (len : Nat) : (t.next len).anchor = t.anchor := rfl
@[simp] theorem Thread.next_core (t : Thread) (len : Nat) : (t.next len).core = t.core := rfl
@[simp] theorem Thread.next_place (t : Thread) (len : Nat) : (t.next len).place = t.place := rfl
@[simp] theorem Thread.next_q (t : Thread) (len : Nat) : (t.next len).q = t.q := rfl
@[simp] theorem Thread.next_n (t : Thread) (len : Nat) : (t.next len).n = t.n := rfl
@[simp] theorem Thread.next_v (t : Thread) (len : Nat) : (t.next len).v = t.v := rfl
@[simp] theorem Thread.next_vtag (t : Thread) (len : Nat) : (t.next len).vtag = t.vtag := rfl
@[simp] theorem Thread.next_p (t : Thread) (len : Nat) : (t.next len).p = t.p := rfl
@[simp] theorem Thread.next_vm (t : Thread) (len : Nat) : (t.next len).vm = t.vm := rfl
@[simp] theorem Thread.next_fpflags (t : Thread) (len : Nat) : (t.next len).fpflags = t.fpflags := rfl
@[simp] theorem Thread.next_nbud (t : Thread) (len : Nat) : (t.next len).nbud = t.nbud := rfl
@[simp] theorem Thread.next_vbud (t : Thread) (len : Nat) : (t.next len).vbud = t.vbud := rfl
@[simp] theorem Thread.next_snbud (t : Thread) (len : Nat) : (t.next len).snbud = t.snbud := rfl
@[simp] theorem Thread.next_svbud (t : Thread) (len : Nat) : (t.next len).svbud = t.svbud := rfl
@[simp] theorem Thread.next_bars (t : Thread) (len : Nat) : (t.next len).bars = t.bars := rfl
@[simp] theorem Thread.next_tiles (t : Thread) (len : Nat) : (t.next len).tiles = t.tiles := rfl
@[simp] theorem Thread.next_localLen (t : Thread) (len : Nat) : (t.next len).localLen = t.localLen := rfl
@[simp] theorem Thread.next_epc (t : Thread) (len : Nat) : (t.next len).epc = t.epc := rfl
@[simp] theorem Thread.next_cause (t : Thread) (len : Nat) : (t.next len).cause = t.cause := rfl
@[simp] theorem Thread.next_faddr (t : Thread) (len : Nat) : (t.next len).faddr = t.faddr := rfl
@[simp] theorem Thread.next_trapbase (t : Thread) (len : Nat) : (t.next len).trapbase = t.trapbase := rfl
@[simp] theorem Thread.next_kernTrap (t : Thread) (len : Nat) : (t.next len).kernTrap = t.kernTrap := rfl
@[simp] theorem Thread.next_hnd (t : Thread) (len : Nat) : (t.next len).hnd = t.hnd := rfl
@[simp] theorem Thread.next_frameQ (t : Thread) (len : Nat) : (t.next len).frameQ = t.frameQ := rfl
@[simp] theorem Thread.next_frameP (t : Thread) (len : Nat) : (t.next len).frameP = t.frameP := rfl
@[simp] theorem Thread.next_since (t : Thread) (len : Nat) : (t.next len).since = t.since := rfl
@[simp] theorem Thread.next_depA (t : Thread) (len : Nat) : (t.next len).depA = t.depA := rfl
@[simp] theorem Thread.next_depB (t : Thread) (len : Nat) : (t.next len).depB = t.depB := rfl
@[simp] theorem Thread.next_depC (t : Thread) (len : Nat) : (t.next len).depC = t.depC := rfl
@[simp] theorem Thread.next_smode (t : Thread) (len : Nat) : (t.next len).smode = t.smode := rfl
@[simp] theorem Thread.next_wake (t : Thread) (len : Nat) : (t.next len).wake = t.wake := rfl
@[simp] theorem Thread.next_wdie (t : Thread) (len : Nat) : (t.next len).wdie = t.wdie := rfl
@[simp] theorem Thread.next_wjob (t : Thread) (len : Nat) : (t.next len).wjob = t.wjob := rfl
@[simp] theorem Thread.next_kick0 (t : Thread) (len : Nat) : (t.next len).kick0 = t.kick0 := rfl
@[simp] theorem Thread.next_wcode (t : Thread) (len : Nat) : (t.next len).wcode = t.wcode := rfl
@[simp] theorem Thread.next_wfail (t : Thread) (len : Nat) : (t.next len).wfail = t.wfail := rfl
@[simp] theorem Thread.next_writes (t : Thread) (len : Nat) : (t.next len).writes = t.writes := rfl
@[simp] theorem Thread.next_awaited (t : Thread) (len : Nat) : (t.next len).awaited = t.awaited := rfl
@[simp] theorem Thread.next_images (t : Thread) (len : Nat) : (t.next len).images = [] := rfl
@[simp] theorem Thread.next_got (t : Thread) (len : Nat) : (t.next len).got = [] := rfl
@[simp] theorem Thread.next_badIndex (t : Thread) (len : Nat) : (t.next len).badIndex = none := rfl
@[simp] theorem Thread.next_nap (t : Thread) (len : Nat) : (t.next len).nap = t.nap := rfl
@[simp] theorem Thread.next_fwd (t : Thread) (len : Nat) : (t.next len).fwd = t.fwd := rfl
@[simp] theorem Thread.next_stalled (t : Thread) (len : Nat) : (t.next len).stalled = t.stalled := rfl
@[simp] theorem Thread.next_late (t : Thread) (len : Nat) : (t.next len).late = t.late := rfl
@[simp] theorem Thread.next_wgsize (t : Thread) (len : Nat) : (t.next len).wgsize = t.wgsize := rfl
@[simp] theorem Thread.next_gangw (t : Thread) (len : Nat) : (t.next len).gangw = t.gangw := rfl
@[simp] theorem Thread.next_issuer (t : Thread) (len : Nat) : (t.next len).issuer = t.issuer := rfl
@[simp] theorem Thread.next_pendH (t : Thread) (len : Nat) : (t.next len).pendH = t.pendH := rfl

@[simp] theorem Thread.setN_tid (t : Thread) (k : Fin 32) (v : W64) : (t.setN k v).tid = t.tid := rfl
@[simp] theorem Thread.setN_asid (t : Thread) (k : Fin 32) (v : W64) : (t.setN k v).asid = t.asid := rfl
@[simp] theorem Thread.setN_job (t : Thread) (k : Fin 32) (v : W64) : (t.setN k v).job = t.job := rfl
@[simp] theorem Thread.setN_launch (t : Thread) (k : Fin 32) (v : W64) : (t.setN k v).launch = t.launch := rfl
@[simp] theorem Thread.setN_gang (t : Thread) (k : Fin 32) (v : W64) : (t.setN k v).gang = t.gang := rfl
@[simp] theorem Thread.setN_wgpos (t : Thread) (k : Fin 32) (v : W64) : (t.setN k v).wgpos = t.wgpos := rfl
@[simp] theorem Thread.setN_index (t : Thread) (k : Fin 32) (v : W64) : (t.setN k v).index = t.index := rfl
@[simp] theorem Thread.setN_spawned (t : Thread) (k : Fin 32) (v : W64) : (t.setN k v).spawned = t.spawned := rfl
@[simp] theorem Thread.setN_sser (t : Thread) (k : Fin 32) (v : W64) : (t.setN k v).sser = t.sser := rfl
@[simp] theorem Thread.setN_anchor (t : Thread) (k : Fin 32) (v : W64) : (t.setN k v).anchor = t.anchor := rfl
@[simp] theorem Thread.setN_core (t : Thread) (k : Fin 32) (v : W64) : (t.setN k v).core = t.core := rfl
@[simp] theorem Thread.setN_place (t : Thread) (k : Fin 32) (v : W64) : (t.setN k v).place = t.place := rfl
@[simp] theorem Thread.setN_status (t : Thread) (k : Fin 32) (v : W64) : (t.setN k v).status = t.status := rfl
@[simp] theorem Thread.setN_pc (t : Thread) (k : Fin 32) (v : W64) : (t.setN k v).pc = t.pc := rfl
@[simp] theorem Thread.setN_q (t : Thread) (k : Fin 32) (v : W64) : (t.setN k v).q = t.q := rfl
@[simp] theorem Thread.setN_v (t : Thread) (k : Fin 32) (v : W64) : (t.setN k v).v = t.v := rfl
@[simp] theorem Thread.setN_vtag (t : Thread) (k : Fin 32) (v : W64) : (t.setN k v).vtag = t.vtag := rfl
@[simp] theorem Thread.setN_p (t : Thread) (k : Fin 32) (v : W64) : (t.setN k v).p = t.p := rfl
@[simp] theorem Thread.setN_vm (t : Thread) (k : Fin 32) (v : W64) : (t.setN k v).vm = t.vm := rfl
@[simp] theorem Thread.setN_fpflags (t : Thread) (k : Fin 32) (v : W64) : (t.setN k v).fpflags = t.fpflags := rfl
@[simp] theorem Thread.setN_nbud (t : Thread) (k : Fin 32) (v : W64) : (t.setN k v).nbud = t.nbud := rfl
@[simp] theorem Thread.setN_vbud (t : Thread) (k : Fin 32) (v : W64) : (t.setN k v).vbud = t.vbud := rfl
@[simp] theorem Thread.setN_snbud (t : Thread) (k : Fin 32) (v : W64) : (t.setN k v).snbud = t.snbud := rfl
@[simp] theorem Thread.setN_svbud (t : Thread) (k : Fin 32) (v : W64) : (t.setN k v).svbud = t.svbud := rfl
@[simp] theorem Thread.setN_bars (t : Thread) (k : Fin 32) (v : W64) : (t.setN k v).bars = t.bars := rfl
@[simp] theorem Thread.setN_tiles (t : Thread) (k : Fin 32) (v : W64) : (t.setN k v).tiles = t.tiles := rfl
@[simp] theorem Thread.setN_localLen (t : Thread) (k : Fin 32) (v : W64) : (t.setN k v).localLen = t.localLen := rfl
@[simp] theorem Thread.setN_epc (t : Thread) (k : Fin 32) (v : W64) : (t.setN k v).epc = t.epc := rfl
@[simp] theorem Thread.setN_cause (t : Thread) (k : Fin 32) (v : W64) : (t.setN k v).cause = t.cause := rfl
@[simp] theorem Thread.setN_faddr (t : Thread) (k : Fin 32) (v : W64) : (t.setN k v).faddr = t.faddr := rfl
@[simp] theorem Thread.setN_trapbase (t : Thread) (k : Fin 32) (v : W64) : (t.setN k v).trapbase = t.trapbase := rfl
@[simp] theorem Thread.setN_kernTrap (t : Thread) (k : Fin 32) (v : W64) : (t.setN k v).kernTrap = t.kernTrap := rfl
@[simp] theorem Thread.setN_hnd (t : Thread) (k : Fin 32) (v : W64) : (t.setN k v).hnd = t.hnd := rfl
@[simp] theorem Thread.setN_frameQ (t : Thread) (k : Fin 32) (v : W64) : (t.setN k v).frameQ = t.frameQ := rfl
@[simp] theorem Thread.setN_frameP (t : Thread) (k : Fin 32) (v : W64) : (t.setN k v).frameP = t.frameP := rfl
@[simp] theorem Thread.setN_since (t : Thread) (k : Fin 32) (v : W64) : (t.setN k v).since = t.since := rfl
@[simp] theorem Thread.setN_wait (t : Thread) (k : Fin 32) (v : W64) : (t.setN k v).wait = t.wait := rfl
@[simp] theorem Thread.setN_depA (t : Thread) (k : Fin 32) (v : W64) : (t.setN k v).depA = t.depA := rfl
@[simp] theorem Thread.setN_depB (t : Thread) (k : Fin 32) (v : W64) : (t.setN k v).depB = t.depB := rfl
@[simp] theorem Thread.setN_depC (t : Thread) (k : Fin 32) (v : W64) : (t.setN k v).depC = t.depC := rfl
@[simp] theorem Thread.setN_smode (t : Thread) (k : Fin 32) (v : W64) : (t.setN k v).smode = t.smode := rfl
@[simp] theorem Thread.setN_wake (t : Thread) (k : Fin 32) (v : W64) : (t.setN k v).wake = t.wake := rfl
@[simp] theorem Thread.setN_wdie (t : Thread) (k : Fin 32) (v : W64) : (t.setN k v).wdie = t.wdie := rfl
@[simp] theorem Thread.setN_wjob (t : Thread) (k : Fin 32) (v : W64) : (t.setN k v).wjob = t.wjob := rfl
@[simp] theorem Thread.setN_kick0 (t : Thread) (k : Fin 32) (v : W64) : (t.setN k v).kick0 = t.kick0 := rfl
@[simp] theorem Thread.setN_wcode (t : Thread) (k : Fin 32) (v : W64) : (t.setN k v).wcode = t.wcode := rfl
@[simp] theorem Thread.setN_wfail (t : Thread) (k : Fin 32) (v : W64) : (t.setN k v).wfail = t.wfail := rfl
@[simp] theorem Thread.setN_writes (t : Thread) (k : Fin 32) (v : W64) : (t.setN k v).writes = t.writes := rfl
@[simp] theorem Thread.setN_awaited (t : Thread) (k : Fin 32) (v : W64) : (t.setN k v).awaited = t.awaited := rfl
@[simp] theorem Thread.setN_nap (t : Thread) (k : Fin 32) (v : W64) : (t.setN k v).nap = t.nap := rfl
@[simp] theorem Thread.setN_fwd (t : Thread) (k : Fin 32) (v : W64) : (t.setN k v).fwd = t.fwd := rfl
@[simp] theorem Thread.setN_stalled (t : Thread) (k : Fin 32) (v : W64) : (t.setN k v).stalled = t.stalled := rfl
@[simp] theorem Thread.setN_late (t : Thread) (k : Fin 32) (v : W64) : (t.setN k v).late = t.late := rfl
@[simp] theorem Thread.setN_wgsize (t : Thread) (k : Fin 32) (v : W64) : (t.setN k v).wgsize = t.wgsize := rfl
@[simp] theorem Thread.setN_gangw (t : Thread) (k : Fin 32) (v : W64) : (t.setN k v).gangw = t.gangw := rfl
@[simp] theorem Thread.setN_issuer (t : Thread) (k : Fin 32) (v : W64) : (t.setN k v).issuer = t.issuer := rfl
@[simp] theorem Thread.setN_images (t : Thread) (k : Fin 32) (v : W64) : (t.setN k v).images = t.images := rfl
@[simp] theorem Thread.setN_got (t : Thread) (k : Fin 32) (v : W64) : (t.setN k v).got = t.got := rfl
@[simp] theorem Thread.setN_pendH (t : Thread) (k : Fin 32) (v : W64) : (t.setN k v).pendH = t.pendH := rfl
@[simp] theorem Thread.setN_badIndex (t : Thread) (k : Fin 32) (v : W64) : (t.setN k v).badIndex = t.badIndex := rfl

@[simp] theorem Thread.setP_tid (t : Thread) (k : Fin 7) (b : Bool) : (t.setP k b).tid = t.tid := rfl
@[simp] theorem Thread.setP_asid (t : Thread) (k : Fin 7) (b : Bool) : (t.setP k b).asid = t.asid := rfl
@[simp] theorem Thread.setP_job (t : Thread) (k : Fin 7) (b : Bool) : (t.setP k b).job = t.job := rfl
@[simp] theorem Thread.setP_launch (t : Thread) (k : Fin 7) (b : Bool) : (t.setP k b).launch = t.launch := rfl
@[simp] theorem Thread.setP_gang (t : Thread) (k : Fin 7) (b : Bool) : (t.setP k b).gang = t.gang := rfl
@[simp] theorem Thread.setP_wgpos (t : Thread) (k : Fin 7) (b : Bool) : (t.setP k b).wgpos = t.wgpos := rfl
@[simp] theorem Thread.setP_index (t : Thread) (k : Fin 7) (b : Bool) : (t.setP k b).index = t.index := rfl
@[simp] theorem Thread.setP_spawned (t : Thread) (k : Fin 7) (b : Bool) : (t.setP k b).spawned = t.spawned := rfl
@[simp] theorem Thread.setP_sser (t : Thread) (k : Fin 7) (b : Bool) : (t.setP k b).sser = t.sser := rfl
@[simp] theorem Thread.setP_anchor (t : Thread) (k : Fin 7) (b : Bool) : (t.setP k b).anchor = t.anchor := rfl
@[simp] theorem Thread.setP_core (t : Thread) (k : Fin 7) (b : Bool) : (t.setP k b).core = t.core := rfl
@[simp] theorem Thread.setP_place (t : Thread) (k : Fin 7) (b : Bool) : (t.setP k b).place = t.place := rfl
@[simp] theorem Thread.setP_status (t : Thread) (k : Fin 7) (b : Bool) : (t.setP k b).status = t.status := rfl
@[simp] theorem Thread.setP_pc (t : Thread) (k : Fin 7) (b : Bool) : (t.setP k b).pc = t.pc := rfl
@[simp] theorem Thread.setP_q (t : Thread) (k : Fin 7) (b : Bool) : (t.setP k b).q = t.q := rfl
@[simp] theorem Thread.setP_n (t : Thread) (k : Fin 7) (b : Bool) : (t.setP k b).n = t.n := rfl
@[simp] theorem Thread.setP_v (t : Thread) (k : Fin 7) (b : Bool) : (t.setP k b).v = t.v := rfl
@[simp] theorem Thread.setP_vtag (t : Thread) (k : Fin 7) (b : Bool) : (t.setP k b).vtag = t.vtag := rfl
@[simp] theorem Thread.setP_vm (t : Thread) (k : Fin 7) (b : Bool) : (t.setP k b).vm = t.vm := rfl
@[simp] theorem Thread.setP_fpflags (t : Thread) (k : Fin 7) (b : Bool) : (t.setP k b).fpflags = t.fpflags := rfl
@[simp] theorem Thread.setP_nbud (t : Thread) (k : Fin 7) (b : Bool) : (t.setP k b).nbud = t.nbud := rfl
@[simp] theorem Thread.setP_vbud (t : Thread) (k : Fin 7) (b : Bool) : (t.setP k b).vbud = t.vbud := rfl
@[simp] theorem Thread.setP_snbud (t : Thread) (k : Fin 7) (b : Bool) : (t.setP k b).snbud = t.snbud := rfl
@[simp] theorem Thread.setP_svbud (t : Thread) (k : Fin 7) (b : Bool) : (t.setP k b).svbud = t.svbud := rfl
@[simp] theorem Thread.setP_bars (t : Thread) (k : Fin 7) (b : Bool) : (t.setP k b).bars = t.bars := rfl
@[simp] theorem Thread.setP_tiles (t : Thread) (k : Fin 7) (b : Bool) : (t.setP k b).tiles = t.tiles := rfl
@[simp] theorem Thread.setP_localLen (t : Thread) (k : Fin 7) (b : Bool) : (t.setP k b).localLen = t.localLen := rfl
@[simp] theorem Thread.setP_epc (t : Thread) (k : Fin 7) (b : Bool) : (t.setP k b).epc = t.epc := rfl
@[simp] theorem Thread.setP_cause (t : Thread) (k : Fin 7) (b : Bool) : (t.setP k b).cause = t.cause := rfl
@[simp] theorem Thread.setP_faddr (t : Thread) (k : Fin 7) (b : Bool) : (t.setP k b).faddr = t.faddr := rfl
@[simp] theorem Thread.setP_trapbase (t : Thread) (k : Fin 7) (b : Bool) : (t.setP k b).trapbase = t.trapbase := rfl
@[simp] theorem Thread.setP_kernTrap (t : Thread) (k : Fin 7) (b : Bool) : (t.setP k b).kernTrap = t.kernTrap := rfl
@[simp] theorem Thread.setP_hnd (t : Thread) (k : Fin 7) (b : Bool) : (t.setP k b).hnd = t.hnd := rfl
@[simp] theorem Thread.setP_frameQ (t : Thread) (k : Fin 7) (b : Bool) : (t.setP k b).frameQ = t.frameQ := rfl
@[simp] theorem Thread.setP_frameP (t : Thread) (k : Fin 7) (b : Bool) : (t.setP k b).frameP = t.frameP := rfl
@[simp] theorem Thread.setP_since (t : Thread) (k : Fin 7) (b : Bool) : (t.setP k b).since = t.since := rfl
@[simp] theorem Thread.setP_wait (t : Thread) (k : Fin 7) (b : Bool) : (t.setP k b).wait = t.wait := rfl
@[simp] theorem Thread.setP_depA (t : Thread) (k : Fin 7) (b : Bool) : (t.setP k b).depA = t.depA := rfl
@[simp] theorem Thread.setP_depB (t : Thread) (k : Fin 7) (b : Bool) : (t.setP k b).depB = t.depB := rfl
@[simp] theorem Thread.setP_depC (t : Thread) (k : Fin 7) (b : Bool) : (t.setP k b).depC = t.depC := rfl
@[simp] theorem Thread.setP_smode (t : Thread) (k : Fin 7) (b : Bool) : (t.setP k b).smode = t.smode := rfl
@[simp] theorem Thread.setP_wake (t : Thread) (k : Fin 7) (b : Bool) : (t.setP k b).wake = t.wake := rfl
@[simp] theorem Thread.setP_wdie (t : Thread) (k : Fin 7) (b : Bool) : (t.setP k b).wdie = t.wdie := rfl
@[simp] theorem Thread.setP_wjob (t : Thread) (k : Fin 7) (b : Bool) : (t.setP k b).wjob = t.wjob := rfl
@[simp] theorem Thread.setP_kick0 (t : Thread) (k : Fin 7) (b : Bool) : (t.setP k b).kick0 = t.kick0 := rfl
@[simp] theorem Thread.setP_wcode (t : Thread) (k : Fin 7) (b : Bool) : (t.setP k b).wcode = t.wcode := rfl
@[simp] theorem Thread.setP_wfail (t : Thread) (k : Fin 7) (b : Bool) : (t.setP k b).wfail = t.wfail := rfl
@[simp] theorem Thread.setP_writes (t : Thread) (k : Fin 7) (b : Bool) : (t.setP k b).writes = t.writes := rfl
@[simp] theorem Thread.setP_awaited (t : Thread) (k : Fin 7) (b : Bool) : (t.setP k b).awaited = t.awaited := rfl
@[simp] theorem Thread.setP_nap (t : Thread) (k : Fin 7) (b : Bool) : (t.setP k b).nap = t.nap := rfl
@[simp] theorem Thread.setP_fwd (t : Thread) (k : Fin 7) (b : Bool) : (t.setP k b).fwd = t.fwd := rfl
@[simp] theorem Thread.setP_stalled (t : Thread) (k : Fin 7) (b : Bool) : (t.setP k b).stalled = t.stalled := rfl
@[simp] theorem Thread.setP_late (t : Thread) (k : Fin 7) (b : Bool) : (t.setP k b).late = t.late := rfl
@[simp] theorem Thread.setP_wgsize (t : Thread) (k : Fin 7) (b : Bool) : (t.setP k b).wgsize = t.wgsize := rfl
@[simp] theorem Thread.setP_gangw (t : Thread) (k : Fin 7) (b : Bool) : (t.setP k b).gangw = t.gangw := rfl
@[simp] theorem Thread.setP_issuer (t : Thread) (k : Fin 7) (b : Bool) : (t.setP k b).issuer = t.issuer := rfl
@[simp] theorem Thread.setP_images (t : Thread) (k : Fin 7) (b : Bool) : (t.setP k b).images = t.images := rfl
@[simp] theorem Thread.setP_got (t : Thread) (k : Fin 7) (b : Bool) : (t.setP k b).got = t.got := rfl
@[simp] theorem Thread.setP_pendH (t : Thread) (k : Fin 7) (b : Bool) : (t.setP k b).pendH = t.pendH := rfl
@[simp] theorem Thread.setP_badIndex (t : Thread) (k : Fin 7) (b : Bool) : (t.setP k b).badIndex = t.badIndex := rfl

@[simp] theorem Thread.setV_tid (t : Thread) (k : Fin 8) (v : W256) (tag : BitVec 6) : (t.setV k v tag).tid = t.tid := rfl
@[simp] theorem Thread.setV_asid (t : Thread) (k : Fin 8) (v : W256) (tag : BitVec 6) : (t.setV k v tag).asid = t.asid := rfl
@[simp] theorem Thread.setV_job (t : Thread) (k : Fin 8) (v : W256) (tag : BitVec 6) : (t.setV k v tag).job = t.job := rfl
@[simp] theorem Thread.setV_launch (t : Thread) (k : Fin 8) (v : W256) (tag : BitVec 6) : (t.setV k v tag).launch = t.launch := rfl
@[simp] theorem Thread.setV_gang (t : Thread) (k : Fin 8) (v : W256) (tag : BitVec 6) : (t.setV k v tag).gang = t.gang := rfl
@[simp] theorem Thread.setV_wgpos (t : Thread) (k : Fin 8) (v : W256) (tag : BitVec 6) : (t.setV k v tag).wgpos = t.wgpos := rfl
@[simp] theorem Thread.setV_index (t : Thread) (k : Fin 8) (v : W256) (tag : BitVec 6) : (t.setV k v tag).index = t.index := rfl
@[simp] theorem Thread.setV_spawned (t : Thread) (k : Fin 8) (v : W256) (tag : BitVec 6) : (t.setV k v tag).spawned = t.spawned := rfl
@[simp] theorem Thread.setV_sser (t : Thread) (k : Fin 8) (v : W256) (tag : BitVec 6) : (t.setV k v tag).sser = t.sser := rfl
@[simp] theorem Thread.setV_anchor (t : Thread) (k : Fin 8) (v : W256) (tag : BitVec 6) : (t.setV k v tag).anchor = t.anchor := rfl
@[simp] theorem Thread.setV_core (t : Thread) (k : Fin 8) (v : W256) (tag : BitVec 6) : (t.setV k v tag).core = t.core := rfl
@[simp] theorem Thread.setV_place (t : Thread) (k : Fin 8) (v : W256) (tag : BitVec 6) : (t.setV k v tag).place = t.place := rfl
@[simp] theorem Thread.setV_status (t : Thread) (k : Fin 8) (v : W256) (tag : BitVec 6) : (t.setV k v tag).status = t.status := rfl
@[simp] theorem Thread.setV_pc (t : Thread) (k : Fin 8) (v : W256) (tag : BitVec 6) : (t.setV k v tag).pc = t.pc := rfl
@[simp] theorem Thread.setV_q (t : Thread) (k : Fin 8) (v : W256) (tag : BitVec 6) : (t.setV k v tag).q = t.q := rfl
@[simp] theorem Thread.setV_n (t : Thread) (k : Fin 8) (v : W256) (tag : BitVec 6) : (t.setV k v tag).n = t.n := rfl
@[simp] theorem Thread.setV_p (t : Thread) (k : Fin 8) (v : W256) (tag : BitVec 6) : (t.setV k v tag).p = t.p := rfl
@[simp] theorem Thread.setV_vm (t : Thread) (k : Fin 8) (v : W256) (tag : BitVec 6) : (t.setV k v tag).vm = t.vm := rfl
@[simp] theorem Thread.setV_fpflags (t : Thread) (k : Fin 8) (v : W256) (tag : BitVec 6) : (t.setV k v tag).fpflags = t.fpflags := rfl
@[simp] theorem Thread.setV_nbud (t : Thread) (k : Fin 8) (v : W256) (tag : BitVec 6) : (t.setV k v tag).nbud = t.nbud := rfl
@[simp] theorem Thread.setV_vbud (t : Thread) (k : Fin 8) (v : W256) (tag : BitVec 6) : (t.setV k v tag).vbud = t.vbud := rfl
@[simp] theorem Thread.setV_snbud (t : Thread) (k : Fin 8) (v : W256) (tag : BitVec 6) : (t.setV k v tag).snbud = t.snbud := rfl
@[simp] theorem Thread.setV_svbud (t : Thread) (k : Fin 8) (v : W256) (tag : BitVec 6) : (t.setV k v tag).svbud = t.svbud := rfl
@[simp] theorem Thread.setV_bars (t : Thread) (k : Fin 8) (v : W256) (tag : BitVec 6) : (t.setV k v tag).bars = t.bars := rfl
@[simp] theorem Thread.setV_tiles (t : Thread) (k : Fin 8) (v : W256) (tag : BitVec 6) : (t.setV k v tag).tiles = t.tiles := rfl
@[simp] theorem Thread.setV_localLen (t : Thread) (k : Fin 8) (v : W256) (tag : BitVec 6) : (t.setV k v tag).localLen = t.localLen := rfl
@[simp] theorem Thread.setV_epc (t : Thread) (k : Fin 8) (v : W256) (tag : BitVec 6) : (t.setV k v tag).epc = t.epc := rfl
@[simp] theorem Thread.setV_cause (t : Thread) (k : Fin 8) (v : W256) (tag : BitVec 6) : (t.setV k v tag).cause = t.cause := rfl
@[simp] theorem Thread.setV_faddr (t : Thread) (k : Fin 8) (v : W256) (tag : BitVec 6) : (t.setV k v tag).faddr = t.faddr := rfl
@[simp] theorem Thread.setV_trapbase (t : Thread) (k : Fin 8) (v : W256) (tag : BitVec 6) : (t.setV k v tag).trapbase = t.trapbase := rfl
@[simp] theorem Thread.setV_kernTrap (t : Thread) (k : Fin 8) (v : W256) (tag : BitVec 6) : (t.setV k v tag).kernTrap = t.kernTrap := rfl
@[simp] theorem Thread.setV_hnd (t : Thread) (k : Fin 8) (v : W256) (tag : BitVec 6) : (t.setV k v tag).hnd = t.hnd := rfl
@[simp] theorem Thread.setV_frameQ (t : Thread) (k : Fin 8) (v : W256) (tag : BitVec 6) : (t.setV k v tag).frameQ = t.frameQ := rfl
@[simp] theorem Thread.setV_frameP (t : Thread) (k : Fin 8) (v : W256) (tag : BitVec 6) : (t.setV k v tag).frameP = t.frameP := rfl
@[simp] theorem Thread.setV_since (t : Thread) (k : Fin 8) (v : W256) (tag : BitVec 6) : (t.setV k v tag).since = t.since := rfl
@[simp] theorem Thread.setV_wait (t : Thread) (k : Fin 8) (v : W256) (tag : BitVec 6) : (t.setV k v tag).wait = t.wait := rfl
@[simp] theorem Thread.setV_depA (t : Thread) (k : Fin 8) (v : W256) (tag : BitVec 6) : (t.setV k v tag).depA = t.depA := rfl
@[simp] theorem Thread.setV_depB (t : Thread) (k : Fin 8) (v : W256) (tag : BitVec 6) : (t.setV k v tag).depB = t.depB := rfl
@[simp] theorem Thread.setV_depC (t : Thread) (k : Fin 8) (v : W256) (tag : BitVec 6) : (t.setV k v tag).depC = t.depC := rfl
@[simp] theorem Thread.setV_smode (t : Thread) (k : Fin 8) (v : W256) (tag : BitVec 6) : (t.setV k v tag).smode = t.smode := rfl
@[simp] theorem Thread.setV_wake (t : Thread) (k : Fin 8) (v : W256) (tag : BitVec 6) : (t.setV k v tag).wake = t.wake := rfl
@[simp] theorem Thread.setV_wdie (t : Thread) (k : Fin 8) (v : W256) (tag : BitVec 6) : (t.setV k v tag).wdie = t.wdie := rfl
@[simp] theorem Thread.setV_wjob (t : Thread) (k : Fin 8) (v : W256) (tag : BitVec 6) : (t.setV k v tag).wjob = t.wjob := rfl
@[simp] theorem Thread.setV_kick0 (t : Thread) (k : Fin 8) (v : W256) (tag : BitVec 6) : (t.setV k v tag).kick0 = t.kick0 := rfl
@[simp] theorem Thread.setV_wcode (t : Thread) (k : Fin 8) (v : W256) (tag : BitVec 6) : (t.setV k v tag).wcode = t.wcode := rfl
@[simp] theorem Thread.setV_wfail (t : Thread) (k : Fin 8) (v : W256) (tag : BitVec 6) : (t.setV k v tag).wfail = t.wfail := rfl
@[simp] theorem Thread.setV_writes (t : Thread) (k : Fin 8) (v : W256) (tag : BitVec 6) : (t.setV k v tag).writes = t.writes := rfl
@[simp] theorem Thread.setV_awaited (t : Thread) (k : Fin 8) (v : W256) (tag : BitVec 6) : (t.setV k v tag).awaited = t.awaited := rfl
@[simp] theorem Thread.setV_nap (t : Thread) (k : Fin 8) (v : W256) (tag : BitVec 6) : (t.setV k v tag).nap = t.nap := rfl
@[simp] theorem Thread.setV_fwd (t : Thread) (k : Fin 8) (v : W256) (tag : BitVec 6) : (t.setV k v tag).fwd = t.fwd := rfl
@[simp] theorem Thread.setV_stalled (t : Thread) (k : Fin 8) (v : W256) (tag : BitVec 6) : (t.setV k v tag).stalled = t.stalled := rfl
@[simp] theorem Thread.setV_late (t : Thread) (k : Fin 8) (v : W256) (tag : BitVec 6) : (t.setV k v tag).late = t.late := rfl
@[simp] theorem Thread.setV_wgsize (t : Thread) (k : Fin 8) (v : W256) (tag : BitVec 6) : (t.setV k v tag).wgsize = t.wgsize := rfl
@[simp] theorem Thread.setV_gangw (t : Thread) (k : Fin 8) (v : W256) (tag : BitVec 6) : (t.setV k v tag).gangw = t.gangw := rfl
@[simp] theorem Thread.setV_issuer (t : Thread) (k : Fin 8) (v : W256) (tag : BitVec 6) : (t.setV k v tag).issuer = t.issuer := rfl
@[simp] theorem Thread.setV_images (t : Thread) (k : Fin 8) (v : W256) (tag : BitVec 6) : (t.setV k v tag).images = t.images := rfl
@[simp] theorem Thread.setV_got (t : Thread) (k : Fin 8) (v : W256) (tag : BitVec 6) : (t.setV k v tag).got = t.got := rfl
@[simp] theorem Thread.setV_pendH (t : Thread) (k : Fin 8) (v : W256) (tag : BitVec 6) : (t.setV k v tag).pendH = t.pendH := rfl
@[simp] theorem Thread.setV_badIndex (t : Thread) (k : Fin 8) (v : W256) (tag : BitVec 6) : (t.setV k v tag).badIndex = t.badIndex := rfl

@[simp] theorem Thread.push_tid (t : Thread) (v : W64) : (t.push v).tid = t.tid := by simp only [Thread.push]
@[simp] theorem Thread.push_asid (t : Thread) (v : W64) : (t.push v).asid = t.asid := by simp only [Thread.push]
@[simp] theorem Thread.push_job (t : Thread) (v : W64) : (t.push v).job = t.job := by simp only [Thread.push]
@[simp] theorem Thread.push_launch (t : Thread) (v : W64) : (t.push v).launch = t.launch := by simp only [Thread.push]
@[simp] theorem Thread.push_gang (t : Thread) (v : W64) : (t.push v).gang = t.gang := by simp only [Thread.push]
@[simp] theorem Thread.push_wgpos (t : Thread) (v : W64) : (t.push v).wgpos = t.wgpos := by simp only [Thread.push]
@[simp] theorem Thread.push_index (t : Thread) (v : W64) : (t.push v).index = t.index := by simp only [Thread.push]
@[simp] theorem Thread.push_spawned (t : Thread) (v : W64) : (t.push v).spawned = t.spawned := by simp only [Thread.push]
@[simp] theorem Thread.push_sser (t : Thread) (v : W64) : (t.push v).sser = t.sser := by simp only [Thread.push]
@[simp] theorem Thread.push_anchor (t : Thread) (v : W64) : (t.push v).anchor = t.anchor := by simp only [Thread.push]
@[simp] theorem Thread.push_core (t : Thread) (v : W64) : (t.push v).core = t.core := by simp only [Thread.push]
@[simp] theorem Thread.push_place (t : Thread) (v : W64) : (t.push v).place = t.place := by simp only [Thread.push]
@[simp] theorem Thread.push_status (t : Thread) (v : W64) : (t.push v).status = t.status := by simp only [Thread.push]
@[simp] theorem Thread.push_pc (t : Thread) (v : W64) : (t.push v).pc = t.pc := by simp only [Thread.push]
@[simp] theorem Thread.push_n (t : Thread) (v : W64) : (t.push v).n = t.n := by simp only [Thread.push]
@[simp] theorem Thread.push_v (t : Thread) (v : W64) : (t.push v).v = t.v := by simp only [Thread.push]
@[simp] theorem Thread.push_vtag (t : Thread) (v : W64) : (t.push v).vtag = t.vtag := by simp only [Thread.push]
@[simp] theorem Thread.push_p (t : Thread) (v : W64) : (t.push v).p = t.p := by simp only [Thread.push]
@[simp] theorem Thread.push_vm (t : Thread) (v : W64) : (t.push v).vm = t.vm := by simp only [Thread.push]
@[simp] theorem Thread.push_fpflags (t : Thread) (v : W64) : (t.push v).fpflags = t.fpflags := by simp only [Thread.push]
@[simp] theorem Thread.push_nbud (t : Thread) (v : W64) : (t.push v).nbud = t.nbud := by simp only [Thread.push]
@[simp] theorem Thread.push_vbud (t : Thread) (v : W64) : (t.push v).vbud = t.vbud := by simp only [Thread.push]
@[simp] theorem Thread.push_snbud (t : Thread) (v : W64) : (t.push v).snbud = t.snbud := by simp only [Thread.push]
@[simp] theorem Thread.push_svbud (t : Thread) (v : W64) : (t.push v).svbud = t.svbud := by simp only [Thread.push]
@[simp] theorem Thread.push_bars (t : Thread) (v : W64) : (t.push v).bars = t.bars := by simp only [Thread.push]
@[simp] theorem Thread.push_tiles (t : Thread) (v : W64) : (t.push v).tiles = t.tiles := by simp only [Thread.push]
@[simp] theorem Thread.push_localLen (t : Thread) (v : W64) : (t.push v).localLen = t.localLen := by simp only [Thread.push]
@[simp] theorem Thread.push_epc (t : Thread) (v : W64) : (t.push v).epc = t.epc := by simp only [Thread.push]
@[simp] theorem Thread.push_cause (t : Thread) (v : W64) : (t.push v).cause = t.cause := by simp only [Thread.push]
@[simp] theorem Thread.push_faddr (t : Thread) (v : W64) : (t.push v).faddr = t.faddr := by simp only [Thread.push]
@[simp] theorem Thread.push_trapbase (t : Thread) (v : W64) : (t.push v).trapbase = t.trapbase := by simp only [Thread.push]
@[simp] theorem Thread.push_kernTrap (t : Thread) (v : W64) : (t.push v).kernTrap = t.kernTrap := by simp only [Thread.push]
@[simp] theorem Thread.push_hnd (t : Thread) (v : W64) : (t.push v).hnd = t.hnd := by simp only [Thread.push]
@[simp] theorem Thread.push_frameQ (t : Thread) (v : W64) : (t.push v).frameQ = t.frameQ := by simp only [Thread.push]
@[simp] theorem Thread.push_frameP (t : Thread) (v : W64) : (t.push v).frameP = t.frameP := by simp only [Thread.push]
@[simp] theorem Thread.push_since (t : Thread) (v : W64) : (t.push v).since = t.since := by simp only [Thread.push]
@[simp] theorem Thread.push_wait (t : Thread) (v : W64) : (t.push v).wait = t.wait := by simp only [Thread.push]
@[simp] theorem Thread.push_depA (t : Thread) (v : W64) : (t.push v).depA = t.depA := by simp only [Thread.push]
@[simp] theorem Thread.push_depB (t : Thread) (v : W64) : (t.push v).depB = t.depB := by simp only [Thread.push]
@[simp] theorem Thread.push_depC (t : Thread) (v : W64) : (t.push v).depC = t.depC := by simp only [Thread.push]
@[simp] theorem Thread.push_smode (t : Thread) (v : W64) : (t.push v).smode = t.smode := by simp only [Thread.push]
@[simp] theorem Thread.push_wake (t : Thread) (v : W64) : (t.push v).wake = t.wake := by simp only [Thread.push]
@[simp] theorem Thread.push_wdie (t : Thread) (v : W64) : (t.push v).wdie = t.wdie := by simp only [Thread.push]
@[simp] theorem Thread.push_wjob (t : Thread) (v : W64) : (t.push v).wjob = t.wjob := by simp only [Thread.push]
@[simp] theorem Thread.push_kick0 (t : Thread) (v : W64) : (t.push v).kick0 = t.kick0 := by simp only [Thread.push]
@[simp] theorem Thread.push_wcode (t : Thread) (v : W64) : (t.push v).wcode = t.wcode := by simp only [Thread.push]
@[simp] theorem Thread.push_wfail (t : Thread) (v : W64) : (t.push v).wfail = t.wfail := by simp only [Thread.push]
@[simp] theorem Thread.push_writes (t : Thread) (v : W64) : (t.push v).writes = t.writes := by simp only [Thread.push]
@[simp] theorem Thread.push_awaited (t : Thread) (v : W64) : (t.push v).awaited = t.awaited := by simp only [Thread.push]
@[simp] theorem Thread.push_nap (t : Thread) (v : W64) : (t.push v).nap = t.nap := by simp only [Thread.push]
@[simp] theorem Thread.push_fwd (t : Thread) (v : W64) : (t.push v).fwd = t.fwd := by simp only [Thread.push]
@[simp] theorem Thread.push_stalled (t : Thread) (v : W64) : (t.push v).stalled = t.stalled := by simp only [Thread.push]
@[simp] theorem Thread.push_late (t : Thread) (v : W64) : (t.push v).late = t.late := by simp only [Thread.push]
@[simp] theorem Thread.push_wgsize (t : Thread) (v : W64) : (t.push v).wgsize = t.wgsize := by simp only [Thread.push]
@[simp] theorem Thread.push_gangw (t : Thread) (v : W64) : (t.push v).gangw = t.gangw := by simp only [Thread.push]
@[simp] theorem Thread.push_issuer (t : Thread) (v : W64) : (t.push v).issuer = t.issuer := by simp only [Thread.push]
@[simp] theorem Thread.push_images (t : Thread) (v : W64) : (t.push v).images = t.images := by simp only [Thread.push]
@[simp] theorem Thread.push_got (t : Thread) (v : W64) : (t.push v).got = t.got := by simp only [Thread.push]
@[simp] theorem Thread.push_pendH (t : Thread) (v : W64) : (t.push v).pendH = t.pendH := by simp only [Thread.push]
@[simp] theorem Thread.push_badIndex (t : Thread) (v : W64) : (t.push v).badIndex = t.badIndex := by simp only [Thread.push]

@[simp] theorem Thread.flag_tid (t : Thread) (f : BitVec 7) : (t.flag f).tid = t.tid := rfl
@[simp] theorem Thread.flag_asid (t : Thread) (f : BitVec 7) : (t.flag f).asid = t.asid := rfl
@[simp] theorem Thread.flag_job (t : Thread) (f : BitVec 7) : (t.flag f).job = t.job := rfl
@[simp] theorem Thread.flag_launch (t : Thread) (f : BitVec 7) : (t.flag f).launch = t.launch := rfl
@[simp] theorem Thread.flag_gang (t : Thread) (f : BitVec 7) : (t.flag f).gang = t.gang := rfl
@[simp] theorem Thread.flag_wgpos (t : Thread) (f : BitVec 7) : (t.flag f).wgpos = t.wgpos := rfl
@[simp] theorem Thread.flag_index (t : Thread) (f : BitVec 7) : (t.flag f).index = t.index := rfl
@[simp] theorem Thread.flag_spawned (t : Thread) (f : BitVec 7) : (t.flag f).spawned = t.spawned := rfl
@[simp] theorem Thread.flag_sser (t : Thread) (f : BitVec 7) : (t.flag f).sser = t.sser := rfl
@[simp] theorem Thread.flag_anchor (t : Thread) (f : BitVec 7) : (t.flag f).anchor = t.anchor := rfl
@[simp] theorem Thread.flag_core (t : Thread) (f : BitVec 7) : (t.flag f).core = t.core := rfl
@[simp] theorem Thread.flag_place (t : Thread) (f : BitVec 7) : (t.flag f).place = t.place := rfl
@[simp] theorem Thread.flag_status (t : Thread) (f : BitVec 7) : (t.flag f).status = t.status := rfl
@[simp] theorem Thread.flag_pc (t : Thread) (f : BitVec 7) : (t.flag f).pc = t.pc := rfl
@[simp] theorem Thread.flag_q (t : Thread) (f : BitVec 7) : (t.flag f).q = t.q := rfl
@[simp] theorem Thread.flag_n (t : Thread) (f : BitVec 7) : (t.flag f).n = t.n := rfl
@[simp] theorem Thread.flag_v (t : Thread) (f : BitVec 7) : (t.flag f).v = t.v := rfl
@[simp] theorem Thread.flag_vtag (t : Thread) (f : BitVec 7) : (t.flag f).vtag = t.vtag := rfl
@[simp] theorem Thread.flag_p (t : Thread) (f : BitVec 7) : (t.flag f).p = t.p := rfl
@[simp] theorem Thread.flag_vm (t : Thread) (f : BitVec 7) : (t.flag f).vm = t.vm := rfl
@[simp] theorem Thread.flag_nbud (t : Thread) (f : BitVec 7) : (t.flag f).nbud = t.nbud := rfl
@[simp] theorem Thread.flag_vbud (t : Thread) (f : BitVec 7) : (t.flag f).vbud = t.vbud := rfl
@[simp] theorem Thread.flag_snbud (t : Thread) (f : BitVec 7) : (t.flag f).snbud = t.snbud := rfl
@[simp] theorem Thread.flag_svbud (t : Thread) (f : BitVec 7) : (t.flag f).svbud = t.svbud := rfl
@[simp] theorem Thread.flag_bars (t : Thread) (f : BitVec 7) : (t.flag f).bars = t.bars := rfl
@[simp] theorem Thread.flag_tiles (t : Thread) (f : BitVec 7) : (t.flag f).tiles = t.tiles := rfl
@[simp] theorem Thread.flag_localLen (t : Thread) (f : BitVec 7) : (t.flag f).localLen = t.localLen := rfl
@[simp] theorem Thread.flag_epc (t : Thread) (f : BitVec 7) : (t.flag f).epc = t.epc := rfl
@[simp] theorem Thread.flag_cause (t : Thread) (f : BitVec 7) : (t.flag f).cause = t.cause := rfl
@[simp] theorem Thread.flag_faddr (t : Thread) (f : BitVec 7) : (t.flag f).faddr = t.faddr := rfl
@[simp] theorem Thread.flag_trapbase (t : Thread) (f : BitVec 7) : (t.flag f).trapbase = t.trapbase := rfl
@[simp] theorem Thread.flag_kernTrap (t : Thread) (f : BitVec 7) : (t.flag f).kernTrap = t.kernTrap := rfl
@[simp] theorem Thread.flag_hnd (t : Thread) (f : BitVec 7) : (t.flag f).hnd = t.hnd := rfl
@[simp] theorem Thread.flag_frameQ (t : Thread) (f : BitVec 7) : (t.flag f).frameQ = t.frameQ := rfl
@[simp] theorem Thread.flag_frameP (t : Thread) (f : BitVec 7) : (t.flag f).frameP = t.frameP := rfl
@[simp] theorem Thread.flag_since (t : Thread) (f : BitVec 7) : (t.flag f).since = t.since := rfl
@[simp] theorem Thread.flag_wait (t : Thread) (f : BitVec 7) : (t.flag f).wait = t.wait := rfl
@[simp] theorem Thread.flag_depA (t : Thread) (f : BitVec 7) : (t.flag f).depA = t.depA := rfl
@[simp] theorem Thread.flag_depB (t : Thread) (f : BitVec 7) : (t.flag f).depB = t.depB := rfl
@[simp] theorem Thread.flag_depC (t : Thread) (f : BitVec 7) : (t.flag f).depC = t.depC := rfl
@[simp] theorem Thread.flag_smode (t : Thread) (f : BitVec 7) : (t.flag f).smode = t.smode := rfl
@[simp] theorem Thread.flag_wake (t : Thread) (f : BitVec 7) : (t.flag f).wake = t.wake := rfl
@[simp] theorem Thread.flag_wdie (t : Thread) (f : BitVec 7) : (t.flag f).wdie = t.wdie := rfl
@[simp] theorem Thread.flag_wjob (t : Thread) (f : BitVec 7) : (t.flag f).wjob = t.wjob := rfl
@[simp] theorem Thread.flag_kick0 (t : Thread) (f : BitVec 7) : (t.flag f).kick0 = t.kick0 := rfl
@[simp] theorem Thread.flag_wcode (t : Thread) (f : BitVec 7) : (t.flag f).wcode = t.wcode := rfl
@[simp] theorem Thread.flag_wfail (t : Thread) (f : BitVec 7) : (t.flag f).wfail = t.wfail := rfl
@[simp] theorem Thread.flag_writes (t : Thread) (f : BitVec 7) : (t.flag f).writes = t.writes := rfl
@[simp] theorem Thread.flag_awaited (t : Thread) (f : BitVec 7) : (t.flag f).awaited = t.awaited := rfl
@[simp] theorem Thread.flag_nap (t : Thread) (f : BitVec 7) : (t.flag f).nap = t.nap := rfl
@[simp] theorem Thread.flag_fwd (t : Thread) (f : BitVec 7) : (t.flag f).fwd = t.fwd := rfl
@[simp] theorem Thread.flag_stalled (t : Thread) (f : BitVec 7) : (t.flag f).stalled = t.stalled := rfl
@[simp] theorem Thread.flag_late (t : Thread) (f : BitVec 7) : (t.flag f).late = t.late := rfl
@[simp] theorem Thread.flag_wgsize (t : Thread) (f : BitVec 7) : (t.flag f).wgsize = t.wgsize := rfl
@[simp] theorem Thread.flag_gangw (t : Thread) (f : BitVec 7) : (t.flag f).gangw = t.gangw := rfl
@[simp] theorem Thread.flag_issuer (t : Thread) (f : BitVec 7) : (t.flag f).issuer = t.issuer := rfl
@[simp] theorem Thread.flag_images (t : Thread) (f : BitVec 7) : (t.flag f).images = t.images := rfl
@[simp] theorem Thread.flag_got (t : Thread) (f : BitVec 7) : (t.flag f).got = t.got := rfl
@[simp] theorem Thread.flag_pendH (t : Thread) (f : BitVec 7) : (t.flag f).pendH = t.pendH := rfl
@[simp] theorem Thread.flag_badIndex (t : Thread) (f : BitVec 7) : (t.flag f).badIndex = t.badIndex := rfl

@[simp] theorem Thread.setDst_tid (t : Thread) (d : Dst) (v : W64) : (t.setDst d v).tid = t.tid := by cases d <;> rfl
@[simp] theorem Thread.setDst_asid (t : Thread) (d : Dst) (v : W64) : (t.setDst d v).asid = t.asid := by cases d <;> rfl
@[simp] theorem Thread.setDst_job (t : Thread) (d : Dst) (v : W64) : (t.setDst d v).job = t.job := by cases d <;> rfl
@[simp] theorem Thread.setDst_launch (t : Thread) (d : Dst) (v : W64) : (t.setDst d v).launch = t.launch := by cases d <;> rfl
@[simp] theorem Thread.setDst_gang (t : Thread) (d : Dst) (v : W64) : (t.setDst d v).gang = t.gang := by cases d <;> rfl
@[simp] theorem Thread.setDst_wgpos (t : Thread) (d : Dst) (v : W64) : (t.setDst d v).wgpos = t.wgpos := by cases d <;> rfl
@[simp] theorem Thread.setDst_index (t : Thread) (d : Dst) (v : W64) : (t.setDst d v).index = t.index := by cases d <;> rfl
@[simp] theorem Thread.setDst_spawned (t : Thread) (d : Dst) (v : W64) : (t.setDst d v).spawned = t.spawned := by cases d <;> rfl
@[simp] theorem Thread.setDst_sser (t : Thread) (d : Dst) (v : W64) : (t.setDst d v).sser = t.sser := by cases d <;> rfl
@[simp] theorem Thread.setDst_anchor (t : Thread) (d : Dst) (v : W64) : (t.setDst d v).anchor = t.anchor := by cases d <;> rfl
@[simp] theorem Thread.setDst_core (t : Thread) (d : Dst) (v : W64) : (t.setDst d v).core = t.core := by cases d <;> rfl
@[simp] theorem Thread.setDst_place (t : Thread) (d : Dst) (v : W64) : (t.setDst d v).place = t.place := by cases d <;> rfl
@[simp] theorem Thread.setDst_status (t : Thread) (d : Dst) (v : W64) : (t.setDst d v).status = t.status := by cases d <;> rfl
@[simp] theorem Thread.setDst_pc (t : Thread) (d : Dst) (v : W64) : (t.setDst d v).pc = t.pc := by cases d <;> rfl
@[simp] theorem Thread.setDst_q (t : Thread) (d : Dst) (v : W64) : (t.setDst d v).q = t.q := by cases d <;> rfl
@[simp] theorem Thread.setDst_v (t : Thread) (d : Dst) (v : W64) : (t.setDst d v).v = t.v := by cases d <;> rfl
@[simp] theorem Thread.setDst_vtag (t : Thread) (d : Dst) (v : W64) : (t.setDst d v).vtag = t.vtag := by cases d <;> rfl
@[simp] theorem Thread.setDst_p (t : Thread) (d : Dst) (v : W64) : (t.setDst d v).p = t.p := by cases d <;> rfl
@[simp] theorem Thread.setDst_vm (t : Thread) (d : Dst) (v : W64) : (t.setDst d v).vm = t.vm := by cases d <;> rfl
@[simp] theorem Thread.setDst_fpflags (t : Thread) (d : Dst) (v : W64) : (t.setDst d v).fpflags = t.fpflags := by cases d <;> rfl
@[simp] theorem Thread.setDst_nbud (t : Thread) (d : Dst) (v : W64) : (t.setDst d v).nbud = t.nbud := by cases d <;> rfl
@[simp] theorem Thread.setDst_vbud (t : Thread) (d : Dst) (v : W64) : (t.setDst d v).vbud = t.vbud := by cases d <;> rfl
@[simp] theorem Thread.setDst_snbud (t : Thread) (d : Dst) (v : W64) : (t.setDst d v).snbud = t.snbud := by cases d <;> rfl
@[simp] theorem Thread.setDst_svbud (t : Thread) (d : Dst) (v : W64) : (t.setDst d v).svbud = t.svbud := by cases d <;> rfl
@[simp] theorem Thread.setDst_bars (t : Thread) (d : Dst) (v : W64) : (t.setDst d v).bars = t.bars := by cases d <;> rfl
@[simp] theorem Thread.setDst_tiles (t : Thread) (d : Dst) (v : W64) : (t.setDst d v).tiles = t.tiles := by cases d <;> rfl
@[simp] theorem Thread.setDst_localLen (t : Thread) (d : Dst) (v : W64) : (t.setDst d v).localLen = t.localLen := by cases d <;> rfl
@[simp] theorem Thread.setDst_epc (t : Thread) (d : Dst) (v : W64) : (t.setDst d v).epc = t.epc := by cases d <;> rfl
@[simp] theorem Thread.setDst_cause (t : Thread) (d : Dst) (v : W64) : (t.setDst d v).cause = t.cause := by cases d <;> rfl
@[simp] theorem Thread.setDst_faddr (t : Thread) (d : Dst) (v : W64) : (t.setDst d v).faddr = t.faddr := by cases d <;> rfl
@[simp] theorem Thread.setDst_trapbase (t : Thread) (d : Dst) (v : W64) : (t.setDst d v).trapbase = t.trapbase := by cases d <;> rfl
@[simp] theorem Thread.setDst_kernTrap (t : Thread) (d : Dst) (v : W64) : (t.setDst d v).kernTrap = t.kernTrap := by cases d <;> rfl
@[simp] theorem Thread.setDst_hnd (t : Thread) (d : Dst) (v : W64) : (t.setDst d v).hnd = t.hnd := by cases d <;> rfl
@[simp] theorem Thread.setDst_frameQ (t : Thread) (d : Dst) (v : W64) : (t.setDst d v).frameQ = t.frameQ := by cases d <;> rfl
@[simp] theorem Thread.setDst_frameP (t : Thread) (d : Dst) (v : W64) : (t.setDst d v).frameP = t.frameP := by cases d <;> rfl
@[simp] theorem Thread.setDst_since (t : Thread) (d : Dst) (v : W64) : (t.setDst d v).since = t.since := by cases d <;> rfl
@[simp] theorem Thread.setDst_wait (t : Thread) (d : Dst) (v : W64) : (t.setDst d v).wait = t.wait := by cases d <;> rfl
@[simp] theorem Thread.setDst_depA (t : Thread) (d : Dst) (v : W64) : (t.setDst d v).depA = t.depA := by cases d <;> rfl
@[simp] theorem Thread.setDst_depB (t : Thread) (d : Dst) (v : W64) : (t.setDst d v).depB = t.depB := by cases d <;> rfl
@[simp] theorem Thread.setDst_depC (t : Thread) (d : Dst) (v : W64) : (t.setDst d v).depC = t.depC := by cases d <;> rfl
@[simp] theorem Thread.setDst_smode (t : Thread) (d : Dst) (v : W64) : (t.setDst d v).smode = t.smode := by cases d <;> rfl
@[simp] theorem Thread.setDst_wake (t : Thread) (d : Dst) (v : W64) : (t.setDst d v).wake = t.wake := by cases d <;> rfl
@[simp] theorem Thread.setDst_wdie (t : Thread) (d : Dst) (v : W64) : (t.setDst d v).wdie = t.wdie := by cases d <;> rfl
@[simp] theorem Thread.setDst_wjob (t : Thread) (d : Dst) (v : W64) : (t.setDst d v).wjob = t.wjob := by cases d <;> rfl
@[simp] theorem Thread.setDst_kick0 (t : Thread) (d : Dst) (v : W64) : (t.setDst d v).kick0 = t.kick0 := by cases d <;> rfl
@[simp] theorem Thread.setDst_wcode (t : Thread) (d : Dst) (v : W64) : (t.setDst d v).wcode = t.wcode := by cases d <;> rfl
@[simp] theorem Thread.setDst_wfail (t : Thread) (d : Dst) (v : W64) : (t.setDst d v).wfail = t.wfail := by cases d <;> rfl
@[simp] theorem Thread.setDst_writes (t : Thread) (d : Dst) (v : W64) : (t.setDst d v).writes = t.writes := by cases d <;> rfl
@[simp] theorem Thread.setDst_awaited (t : Thread) (d : Dst) (v : W64) : (t.setDst d v).awaited = t.awaited := by cases d <;> rfl
@[simp] theorem Thread.setDst_nap (t : Thread) (d : Dst) (v : W64) : (t.setDst d v).nap = t.nap := by cases d <;> rfl
@[simp] theorem Thread.setDst_fwd (t : Thread) (d : Dst) (v : W64) : (t.setDst d v).fwd = t.fwd := by cases d <;> rfl
@[simp] theorem Thread.setDst_stalled (t : Thread) (d : Dst) (v : W64) : (t.setDst d v).stalled = t.stalled := by cases d <;> rfl
@[simp] theorem Thread.setDst_late (t : Thread) (d : Dst) (v : W64) : (t.setDst d v).late = t.late := by cases d <;> rfl
@[simp] theorem Thread.setDst_wgsize (t : Thread) (d : Dst) (v : W64) : (t.setDst d v).wgsize = t.wgsize := by cases d <;> rfl
@[simp] theorem Thread.setDst_gangw (t : Thread) (d : Dst) (v : W64) : (t.setDst d v).gangw = t.gangw := by cases d <;> rfl
@[simp] theorem Thread.setDst_issuer (t : Thread) (d : Dst) (v : W64) : (t.setDst d v).issuer = t.issuer := by cases d <;> rfl
@[simp] theorem Thread.setDst_images (t : Thread) (d : Dst) (v : W64) : (t.setDst d v).images = t.images := by cases d <;> rfl
@[simp] theorem Thread.setDst_got (t : Thread) (d : Dst) (v : W64) : (t.setDst d v).got = t.got := by cases d <;> rfl
@[simp] theorem Thread.setDst_pendH (t : Thread) (d : Dst) (v : W64) : (t.setDst d v).pendH = t.pendH := by cases d <;> rfl
@[simp] theorem Thread.setDst_badIndex (t : Thread) (d : Dst) (v : W64) : (t.setDst d v).badIndex = t.badIndex := by cases d <;> rfl

@[simp] theorem Thread.next_pc (t : Thread) (len : Nat) : (t.next len).pc = pcAdd t.pc len := rfl
@[simp] theorem Thread.next_status (t : Thread) (len : Nat) : (t.next len).status = t.running := rfl
@[simp] theorem Thread.next_wait (t : Thread) (len : Nat) : (t.next len).wait = .none := rfl
@[simp] theorem Thread.push_q (t : Thread) (v : W64) : (t.push v).q = pushQ t.q v := rfl

end Sys2Proof.Machine
end

