-- ==== Sys2Proof/Laws/Links.lean ====
section
/-! SUPPORT. What the updates of links and gangs leave unchanged, and what they read as afterwards. -/

namespace Sys2Proof.Machine

/-! ## `Link.setDir` -/

@[simp] theorem Link.dir_setDir (l : Link) (a : Bool) (d : LinkDir) : (l.setDir a d).dir a = d := by cases a <;> rfl
@[simp] theorem Link.dir_setDir_not (l : Link) (a : Bool) (d : LinkDir) : (l.setDir a d).dir (!a) = l.dir (!a) := by cases a <;> rfl
@[simp] theorem Link.setDir_id (l : Link) (a : Bool) (d : LinkDir) : (l.setDir a d).id = l.id := by cases a <;> rfl
@[simp] theorem Link.setDir_endA (l : Link) (a : Bool) (d : LinkDir) : (l.setDir a d).endA = l.endA := by cases a <;> rfl
@[simp] theorem Link.setDir_endB (l : Link) (a : Bool) (d : LinkDir) : (l.setDir a d).endB = l.endB := by cases a <;> rfl
@[simp] theorem Link.setDir_up (l : Link) (a : Bool) (d : LinkDir) : (l.setDir a d).up = l.up := by cases a <;> rfl
@[simp] theorem Link.setDir_rate (l : Link) (a : Bool) (d : LinkDir) : (l.setDir a d).rate = l.rate := by cases a <;> rfl
@[simp] theorem Link.setDir_failed (l : Link) (a : Bool) (d : LinkDir) : (l.setDir a d).failed = l.failed := by cases a <;> rfl
@[simp] theorem Link.setDir_training (l : Link) (a : Bool) (d : LinkDir) : (l.setDir a d).training = l.training := by cases a <;> rfl
@[simp] theorem Link.setDir_ends (l : Link) (a b : Bool) (d : LinkDir) : (l.setDir a d).ends b = l.ends b := by cases a <;> rfl

/-! ## `State.putLink` -/

@[simp] theorem State.putLink_th (s : State) (l : Link) : (s.putLink l).th = s.th := rfl
@[simp] theorem State.putLink_threads (s : State) (l : Link) : (s.putLink l).threads = s.threads := rfl
@[simp] theorem State.putLink_wgs (s : State) (l : Link) : (s.putLink l).wgs = s.wgs := rfl
@[simp] theorem State.putLink_cores (s : State) (l : Link) : (s.putLink l).cores = s.cores := rfl
@[simp] theorem State.putLink_ports (s : State) (l : Link) : (s.putLink l).ports = s.ports := rfl
@[simp] theorem State.putLink_plazas (s : State) (l : Link) : (s.putLink l).plazas = s.plazas := rfl
@[simp] theorem State.putLink_dies (s : State) (l : Link) : (s.putLink l).dies = s.dies := rfl
@[simp] theorem State.putLink_dtc (s : State) (l : Link) : (s.putLink l).dtc = s.dtc := rfl
@[simp] theorem State.putLink_hubs (s : State) (l : Link) : (s.putLink l).hubs = s.hubs := rfl
@[simp] theorem State.putLink_gs (s : State) (l : Link) : (s.putLink l).gs = s.gs := rfl
@[simp] theorem State.putLink_conf (s : State) (l : Link) : (s.putLink l).conf = s.conf := rfl
@[simp] theorem State.putLink_mgmt (s : State) (l : Link) : (s.putLink l).mgmt = s.mgmt := rfl
@[simp] theorem State.putLink_mem (s : State) (l : Link) : (s.putLink l).mem = s.mem := rfl
@[simp] theorem State.putLink_lmem (s : State) (l : Link) : (s.putLink l).lmem = s.lmem := rfl
@[simp] theorem State.putLink_tmem (s : State) (l : Link) : (s.putLink l).tmem = s.tmem := rfl
@[simp] theorem State.putLink_net (s : State) (l : Link) : (s.putLink l).net = s.net := rfl
@[simp] theorem State.putLink_owed (s : State) (l : Link) : (s.putLink l).owed = s.owed := rfl
@[simp] theorem State.putLink_host (s : State) (l : Link) : (s.putLink l).host = s.host := rfl
@[simp] theorem State.putLink_agenda (s : State) (l : Link) : (s.putLink l).agenda = s.agenda := rfl
@[simp] theorem State.putLink_issuing (s : State) (l : Link) : (s.putLink l).issuing = s.issuing := rfl
@[simp] theorem State.putLink_group (s : State) (l : Link) : (s.putLink l).group = s.group := rfl
@[simp] theorem State.putLink_groupCore (s : State) (l : Link) : (s.putLink l).groupCore = s.groupCore := rfl
@[simp] theorem State.putLink_nextTid (s : State) (l : Link) : (s.putLink l).nextTid = s.nextTid := rfl
@[simp] theorem State.putLink_nextId (s : State) (l : Link) : (s.putLink l).nextId = s.nextId := rfl
@[simp] theorem State.putLink_fresh (s : State) (l : Link) : (s.putLink l).fresh = s.fresh := rfl

/-- What a key names after it has been replaced. -/
theorem find_putBy_self {α : Type} (key : α → Nat) (x : α) (l : List α) : (putBy key x l).find? (fun y => key y == key x) = some x := by
  induction l with
  | nil => simp [putBy]
  | cons y ys ih =>
    simp only [putBy]
    split
    · simp
    · rename_i h; simp [h, ih]

@[simp] theorem State.link?_putLink (s : State) (l : Link) : (s.putLink l).link? l.id = some l := find_putBy_self Link.id l s.links

/-! ## `State.putGang` -/

@[simp] theorem State.putGang_th (s : State) (g : Gang) : (s.putGang g).th = s.th := rfl
@[simp] theorem State.putGang_threads (s : State) (g : Gang) : (s.putGang g).threads = s.threads := rfl
@[simp] theorem State.putGang_wgs (s : State) (g : Gang) : (s.putGang g).wgs = s.wgs := rfl
@[simp] theorem State.putGang_cores (s : State) (g : Gang) : (s.putGang g).cores = s.cores := rfl
@[simp] theorem State.putGang_ports (s : State) (g : Gang) : (s.putGang g).ports = s.ports := rfl
@[simp] theorem State.putGang_plazas (s : State) (g : Gang) : (s.putGang g).plazas = s.plazas := rfl
@[simp] theorem State.putGang_dies (s : State) (g : Gang) : (s.putGang g).dies = s.dies := rfl
@[simp] theorem State.putGang_dtc (s : State) (g : Gang) : (s.putGang g).dtc = s.dtc := rfl
@[simp] theorem State.putGang_hubs (s : State) (g : Gang) : (s.putGang g).hubs = s.hubs := rfl
@[simp] theorem State.putGang_conf (s : State) (g : Gang) : (s.putGang g).conf = s.conf := rfl
@[simp] theorem State.putGang_mgmt (s : State) (g : Gang) : (s.putGang g).mgmt = s.mgmt := rfl
@[simp] theorem State.putGang_mem (s : State) (g : Gang) : (s.putGang g).mem = s.mem := rfl
@[simp] theorem State.putGang_lmem (s : State) (g : Gang) : (s.putGang g).lmem = s.lmem := rfl
@[simp] theorem State.putGang_tmem (s : State) (g : Gang) : (s.putGang g).tmem = s.tmem := rfl
@[simp] theorem State.putGang_net (s : State) (g : Gang) : (s.putGang g).net = s.net := rfl
@[simp] theorem State.putGang_owed (s : State) (g : Gang) : (s.putGang g).owed = s.owed := rfl
@[simp] theorem State.putGang_host (s : State) (g : Gang) : (s.putGang g).host = s.host := rfl
@[simp] theorem State.putGang_agenda (s : State) (g : Gang) : (s.putGang g).agenda = s.agenda := rfl
@[simp] theorem State.putGang_issuing (s : State) (g : Gang) : (s.putGang g).issuing = s.issuing := rfl
@[simp] theorem State.putGang_group (s : State) (g : Gang) : (s.putGang g).group = s.group := rfl
@[simp] theorem State.putGang_groupCore (s : State) (g : Gang) : (s.putGang g).groupCore = s.groupCore := rfl
@[simp] theorem State.putGang_nextTid (s : State) (g : Gang) : (s.putGang g).nextTid = s.nextTid := rfl
@[simp] theorem State.putGang_nextId (s : State) (g : Gang) : (s.putGang g).nextId = s.nextId := rfl
@[simp] theorem State.putGang_fresh (s : State) (g : Gang) : (s.putGang g).fresh = s.fresh := rfl
@[simp] theorem State.putGang_links (s : State) (g : Gang) : (s.putGang g).links = s.links := rfl

end Sys2Proof.Machine
end

