-- ==== Sys2Proof/Laws/Memory.lean ====
section
/-! SUPPORT. The laws of memory: what a read gives after a write, and that every operation keeps the canonical form. -/

namespace Sys2Proof.Machine

theorem wf_tail {c : Host.Cell} {m : Memory} (h : Memory.wf (c :: m) = true) : Memory.wf m = true := by
  obtain ⟨k, v⟩ := c
  match m with
  | [] => rfl
  | (k', v') :: m => simp only [Memory.wf, Bool.and_eq_true] at h; exact h.2

/-- Every address of a canonical memory lies above its first. -/
theorem wf_lt {k : Nat} {v : Byte} {m : Memory} (h : Memory.wf ((k, v) :: m) = true) : ∀ c ∈ m, k < c.1 := by
  induction m generalizing k v with
  | nil => simp
  | cons c m ih =>
    obtain ⟨k', v'⟩ := c
    simp only [Memory.wf, Bool.and_eq_true, decide_eq_true_eq] at h
    intro c hc
    rcases List.mem_cons.1 hc with rfl | hc
    · exact h.1.2
    · exact lt_trans h.1.2 (ih h.2 c hc)

theorem wf_ne {k : Nat} {v : Byte} {m : Memory} (h : Memory.wf ((k, v) :: m) = true) : v ≠ 0 := by
  cases m with
  | nil => simpa [Memory.wf] using h
  | cons c m => obtain ⟨k', v'⟩ := c; simp only [Memory.wf, Bool.and_eq_true, bne_iff_ne] at h; exact h.1.1

/-- A canonical memory below which a cell is put. -/
theorem wf_cons {k : Nat} {v : Byte} {m : Memory} (hv : v ≠ 0) (hk : ∀ c ∈ m, k < c.1) (h : Memory.wf m = true) :
    Memory.wf ((k, v) :: m) = true := by
  cases m with
  | nil => simpa [Memory.wf] using hv
  | cons c m =>
    obtain ⟨k', v'⟩ := c
    have := hk (k', v') (by simp)
    simp only [Memory.wf, Bool.and_eq_true, bne_iff_ne, decide_eq_true_eq]
    exact ⟨⟨hv, this⟩, h⟩

/-- The addresses of a memory after one byte is written are its own and the byte's. -/
theorem memSet_keys (m : Memory) (a : Nat) (b : Byte) : ∀ c ∈ memSet m a b, c.1 = a ∨ ∃ d ∈ m, d.1 = c.1 := by
  induction m with
  | nil => intro c hc; simp only [memSet] at hc; split at hc <;> simp_all
  | cons d m ih =>
    obtain ⟨k, v⟩ := d
    intro c hc
    simp only [memSet] at hc
    split at hc
    · split at hc
      · exact .inr ⟨c, hc, rfl⟩
      · rcases List.mem_cons.1 hc with rfl | hc
        · exact .inl rfl
        · exact .inr ⟨c, hc, rfl⟩
    · split at hc
      · split at hc
        · exact .inr ⟨c, List.mem_cons_of_mem _ hc, rfl⟩
        · rcases List.mem_cons.1 hc with rfl | hc
          · exact .inr ⟨(k, v), by simp, rfl⟩
          · exact .inr ⟨c, List.mem_cons_of_mem _ hc, rfl⟩
      · rcases List.mem_cons.1 hc with rfl | hc
        · exact .inr ⟨(k, v), by simp, rfl⟩
        · rcases ih c hc with h | ⟨d, hd, h⟩
          · exact .inl h
          · exact .inr ⟨d, List.mem_cons_of_mem _ hd, h⟩

/-- Writing one byte keeps the canonical form. -/
theorem memSet_wf (m : Memory) (a : Nat) (b : Byte) (h : Memory.wf m = true) : Memory.wf (memSet m a b) = true := by
  induction m with
  | nil => simp only [memSet]; split <;> simp_all [Memory.wf]
  | cons c m ih =>
    obtain ⟨k, v⟩ := c
    have ht := wf_tail h
    simp only [memSet]
    split
    · split
      · exact h
      · rename_i hk hb
        refine wf_cons hb ?_ h
        intro c hc
        rcases List.mem_cons.1 hc with rfl | hc
        · exact hk
        · exact lt_trans hk (wf_lt h c hc)
    · split
      · split
        · exact ht
        · rename_i hb; exact wf_cons hb (wf_lt h) ht
      · rename_i h1 h2
        refine wf_cons (wf_ne h) ?_ (ih ht)
        intro c hc
        rcases memSet_keys m a b c hc with h3 | ⟨d, hd, h3⟩
        · omega
        · rw [← h3]; exact wf_lt h d hd

theorem memByte_below {m : Memory} {a : Nat} (h : ∀ c ∈ m, a < c.1) : memByte m a = 0 := by
  cases m with
  | nil => rfl
  | cons c m => obtain ⟨k, v⟩ := c; simp [memByte, h (k, v) (by simp)]

/-- A read after a write of one byte, in a canonical memory. -/
theorem memByte_memSet (m : Memory) (a x : Nat) (b : Byte) (h : Memory.wf m = true) :
    memByte (memSet m a b) x = if x = a then b else memByte m x := by
  induction m with
  | nil =>
    simp only [memSet]
    split
    · simp_all [memByte]
    · simp only [memByte]; split
      · rename_i h1; rw [if_neg (by omega)]
      · rfl
  | cons c m ih =>
    obtain ⟨k, v⟩ := c
    have hl := wf_lt h
    have ht := wf_tail h
    have h0 : x ≤ k → memByte m x = 0 := fun hx => memByte_below (fun c hc => lt_of_le_of_lt hx (hl c hc))
    simp only [memSet]
    by_cases h1 : a < k
    · rw [if_pos h1]
      by_cases h2 : b = 0
      · rw [if_pos h2, h2]
        by_cases hx : x = a
        · rw [if_pos hx, hx]; simp [memByte, h1]
        · rw [if_neg hx]
      · rw [if_neg h2]
        simp only [memByte]
        split_ifs <;> first | rfl | omega
    · rw [if_neg h1]
      by_cases h2 : a = k
      · rw [if_pos h2]
        subst h2
        by_cases h3 : b = 0
        · rw [if_pos h3, h3]
          by_cases hx : x = a
          · rw [if_pos hx, hx]; exact memByte_below hl
          · rw [if_neg hx]
            simp only [memByte]
            split_ifs with h4
            · exact h0 (le_of_lt h4)
            · rfl
        · rw [if_neg h3]
          simp only [memByte]
          split_ifs <;> first | rfl | omega
      · rw [if_neg h2]
        simp only [memByte, ih ht]
        split_ifs <;> first | rfl | omega

/-- The cells below the address written stay where they are. -/
theorem memPut_below (k : Nat) (v : Byte) (m : Memory) (a : Nat) (bs : List Byte) (h : k < a) :
    memPut ((k, v) :: m) a bs = (k, v) :: memPut m a bs := by
  induction bs generalizing m a with
  | nil => rfl
  | cons b bs ih =>
    have h1 : memSet ((k, v) :: m) a b = (k, v) :: memSet m a b := by
      simp only [memSet]; rw [if_neg (by omega), if_neg (by omega)]
    simp only [memPut, h1]
    exact ih _ _ (by omega)

/-- Writing bytes is writing each of them in turn. -/
theorem memWrite_eq (m : Memory) (a : Nat) (bs : List Byte) : memWrite m a bs = memPut m a bs := by
  induction m with
  | nil => rfl
  | cons c m ih =>
    obtain ⟨k, v⟩ := c
    simp only [memWrite]
    split
    · rename_i h; rw [ih, memPut_below _ _ _ _ _ h]
    · rfl

theorem memPut_wf (m : Memory) (a : Nat) (bs : List Byte) (h : Memory.wf m = true) : Memory.wf (memPut m a bs) = true := by
  induction bs generalizing m a with
  | nil => exact h
  | cons b bs ih => exact ih _ _ (memSet_wf m a b h)

/-- Writing bytes keeps the canonical form. -/
theorem memWrite_wf (m : Memory) (a : Nat) (bs : List Byte) (h : Memory.wf m = true) : Memory.wf (memWrite m a bs) = true := by
  rw [memWrite_eq]; exact memPut_wf m a bs h

theorem memByte_memPut (m : Memory) (a x : Nat) (bs : List Byte) (h : Memory.wf m = true) :
    memByte (memPut m a bs) x = if a ≤ x ∧ x < a + bs.length then bs.getD (x - a) 0 else memByte m x := by
  induction bs generalizing m a with
  | nil => simp [memPut]
  | cons b bs ih =>
    simp only [memPut, ih _ _ (memSet_wf m a b h), memByte_memSet m a x b h, List.length_cons]
    by_cases hx : x = a
    · subst hx; simp
    · by_cases h1 : a < x ∧ x < a + (bs.length + 1)
      · rw [if_pos ⟨by omega, by omega⟩, if_pos ⟨by omega, by omega⟩]
        have : x - a = (x - (a + 1)) + 1 := by omega
        rw [this, List.getD_cons_succ]
      · rw [if_neg (by omega), if_neg hx, if_neg (by omega)]

/-- A read after a write of bytes: the byte written there, or what stood there. -/
theorem memByte_memWrite (m : Memory) (a x : Nat) (bs : List Byte) (h : Memory.wf m = true) :
    memByte (memWrite m a bs) x = if a ≤ x ∧ x < a + bs.length then bs.getD (x - a) 0 else memByte m x := by
  rw [memWrite_eq]; exact memByte_memPut m a x bs h

theorem memByte_memSkip (m : Memory) (a x : Nat) (h : a ≤ x) : memByte (memSkip m a) x = memByte m x := by
  induction m with
  | nil => rfl
  | cons c m ih =>
    obtain ⟨k, v⟩ := c
    simp only [memSkip]
    split
    · rw [ih]; simp only [memByte]; rw [if_neg (by omega), if_neg (by omega)]
    · rfl

/-- A read of bytes is the bytes one by one. -/
theorem memRead_eq (m : Memory) (a n : Nat) : memRead m a n = (List.range n).map (fun i => memByte m (a + i)) := by
  induction n generalizing m a with
  | zero => rfl
  | succ n ih =>
    rw [memRead, ih, List.range_succ_eq_map, List.map_cons, List.map_map]
    refine congr (congrArg List.cons (memByte_memSkip m a _ (by omega))) ?_
    refine List.map_congr_left (fun i _ => ?_)
    simp only [Function.comp]
    rw [memByte_memSkip m a _ (by omega)]
    congr 1; omega

@[simp] theorem memRead_length (m : Memory) (a n : Nat) : (memRead m a n).length = n := by simp [memRead_eq]

/-- A write of bytes and a read of the same bytes. -/
theorem memRead_memWrite (m : Memory) (a : Nat) (bs : List Byte) (h : Memory.wf m = true) :
    memRead (memWrite m a bs) a bs.length = bs := by
  rw [memRead_eq]
  apply List.ext_getElem
  · simp
  · intro i h1 h2
    simp only [List.getElem_map, List.getElem_range, memByte_memWrite m a _ bs h]
    rw [if_pos ⟨by omega, by omega⟩]
    simp [List.getD_eq_getElem?_getD, h2]

theorem filter_wf (m : Memory) (p : Host.Cell → Bool) (h : Memory.wf m = true) : Memory.wf (m.filter p) = true := by
  induction m with
  | nil => rfl
  | cons c m ih =>
    obtain ⟨k, v⟩ := c
    simp only [List.filter_cons]
    split
    · exact wf_cons (wf_ne h) (fun c hc => wf_lt h c (List.mem_of_mem_filter hc)) (ih (wf_tail h))
    · exact ih (wf_tail h)

/-- Putting an image into a memory keeps the canonical form. -/
theorem memPaste_wf (m : Memory) (a n : Nat) (img : Memory) (h : Memory.wf m = true) : Memory.wf (memPaste m a n img) = true := by
  unfold memPaste
  generalize hm : m.filter (fun c => c.1 < a || a + n ≤ c.1) = m1
  have h1 : Memory.wf m1 = true := hm ▸ filter_wf _ _ h
  clear hm
  induction img generalizing m1 with
  | nil => exact h1
  | cons c img ih => exact ih _ (memSet_wf _ _ _ h1)

/-- A part of a canonical memory is canonical. -/
theorem memCut_wf (m : Memory) (a n : Nat) (h : Memory.wf m = true) : Memory.wf (memCut m a n) = true := by
  unfold memCut
  have hf := filter_wf m (fun c => a ≤ c.1 && c.1 < a + n) h
  have hk : ∀ c ∈ m.filter (fun c => a ≤ c.1 && c.1 < a + n), a ≤ c.1 := by
    intro c hc; simp only [List.mem_filter, Bool.and_eq_true, decide_eq_true_eq] at hc; exact hc.2.1
  generalize m.filter (fun c => a ≤ c.1 && c.1 < a + n) = l at hf hk
  induction l with
  | nil => rfl
  | cons c l ih =>
    obtain ⟨k, v⟩ := c
    simp only [List.map_cons]
    refine wf_cons (wf_ne hf) ?_ (ih (wf_tail hf) (fun c hc => hk c (by simp [hc])))
    intro c hc
    obtain ⟨d, hd, rfl⟩ := List.mem_map.1 hc
    have h1 := wf_lt hf d hd
    have h2 := hk (k, v) (by simp)
    have h3 := hk d (by simp [hd])
    simp only at h2 ⊢
    omega

end Sys2Proof.Machine
end

