-- ==== Sys2Proof/Laws/Ops.lean ====
section
/-! SUPPORT. What each shared operation of the meanings does, said once. -/

namespace Sys2Proof.Machine

/-! ## Running an instruction (R61) -/

theorem runOp_mayRun {op : Nat} {f : Fields} {s : State} (body : State → State) (h : mayRun op f s = true) :
    runOp op f body s = .next (body s) := by
  simp only [mayRun, Bool.and_eq_true, Option.isNone_iff_eq_none, Bool.or_eq_true, Bool.not_eq_true', beq_iff_eq] at h
  obtain ⟨⟨hg, hp⟩, ha⟩ := h
  simp only [runOp, hg, hp, Bool.not_true, Bool.false_eq_true, if_false]
  rcases ha with ha | ha
  · simp [ha]
  · simp [atAnchor, ha]

theorem runOp_off {op : Nat} {f : Fields} {s : State} (body : State → State) (h : guardTrue s.th f.guard = false) :
    runOp op f body s = .next (guardOff op f s) := by
  simp [runOp, h]

theorem runOp_check {op : Nat} {f : Fields} {s : State} {code : Nat} (body : State → State) (h : guardTrue s.th f.guard = true)
    (hc : preCheck op f s = some code) : runOp op f body s = .next (raise code 0 s) := by
  simp [runOp, h, hc]

theorem runOp_away {op : Nat} {f : Fields} {s : State} (body : State → State) (h : guardTrue s.th f.guard = true)
    (hc : preCheck op f s = none) (ha : isAnchored op f = true) (hw : s.th.core ≠ s.th.anchor) :
    runOp op f body s = .next (migrate s.th.anchor 0 s) := by
  simp [runOp, h, hc, ha, atAnchor, hw]

/-- An instruction always gives a next state. -/
theorem runOp_next (op : Nat) (f : Fields) (body : State → State) (s : State) : ∃ t, runOp op f body s = .next t := ⟨_, rfl⟩

/-! ## Faults (R198, R199) -/

theorem raise_handled {code : Nat} {faddr : W64} {s : State} (hc : code ≠ 0x0E) (h : s.th.handles = true) :
    raise code faddr s = s.trapped code 0 faddr := by
  simp only [Thread.handles, Bool.and_eq_true, Bool.not_eq_true', bne_iff_ne] at h
  simp only [raise, State.raiseAt, Thread.faulted]
  rw [if_neg (by simp [h.1, hc]; exact h.2)]
  exact State.putThread_self s _ rfl

theorem raise_unhandled {code : Nat} {faddr : W64} {s : State} (h : code = 0x0E ∨ s.th.handles = false) :
    raise code faddr s = s.launchErrorOf (s.th.faulted code 0 faddr) code := by
  simp only [raise, State.raiseAt, Thread.faulted]
  rw [if_pos]
  rcases h with h | h
  · simp [h]
  · simp only [Thread.handles, Bool.and_eq_false_iff, Bool.not_eq_false', bne_eq_false_iff_eq] at h
    rcases h with h | h <;> simp [h]

/-! ## Waiting for writes (R88, R89, R96) -/

/-- Nothing that an instruction waits for is outstanding: it goes on. -/
theorem awaitWrites_none {need : SentWrite → Bool} {loc : Bool} {k : State → State} {s : State}
    (h : s.th.writes.filter (fun w => w.core == s.th.core && need w && w.pending (s.dtcOf (dieOf s.th.core))) = [])
    (hl : (loc && !s.th.fwd.isEmpty) = false) : awaitWrites need loc k s = k s := by
  simp only [awaitWrites, h, List.find?_nil, List.any_nil, List.isEmpty_nil, Bool.not_true, Bool.false_eq_true, if_false, hl]

/-! ## Handles, homes and local memory -/

theorem withDesc_hit {h : W64} {e : BufEntry} {k : BufEntry → State → State} {bad : State → State} {s : State}
    (hd : lookupDesc s h = .hit e) : withDesc h k bad s = k e s := by simp [withDesc, hd]

theorem withHome_hit {h : W64} {e : BufEntry} {k : BufEntry → Homed → State → State} {s : State}
    (hd : lookupDesc s h = .hit e) : withHome h k s = k e (homeLoc s.conf.lc e (offsetOf h)) s := by simp [withHome, withDesc, hd]

theorem withHome_invalid {h : W64} {k : BufEntry → Homed → State → State} {s : State} (hd : lookupDesc s h = .invalid) :
    withHome h k s = raise 0x08 h s := by simp [withHome, withDesc, hd]

/-- A descriptor-cache miss waits and changes nothing else (R287). -/
theorem withHome_miss {h : W64} {k : BufEntry → Homed → State → State} {s : State} (hd : lookupDesc s h = .miss) :
    withHome h k s = block .waiting (.descriptor s.th.asid (indexOf h)) s := by simp [withHome, withDesc, hd]

theorem withHandle_ok {op : Nat} {f : Fields} {align : Nat} {k : W64 → State → State} {s : State} {h : W64}
    (he : effAddr (src op f 0 s) (disp f) = some h) (ha : offsetOf h % align = 0) : withHandle op f align k s = k h s := by
  simp [withHandle, he, ha]

theorem withHandle_misaligned {op : Nat} {f : Fields} {align : Nat} {k : W64 → State → State} {s : State} {h : W64}
    (he : effAddr (src op f 0 s) (disp f) = some h) (ha : offsetOf h % align ≠ 0) : withHandle op f align k s = raise 0x0A h s := by
  simp [withHandle, he, ha]

theorem withHandle_outside {op : Nat} {f : Fields} {align : Nat} {k : W64 → State → State} {s : State}
    (he : effAddr (src op f 0 s) (disp f) = none) : withHandle op f align k s = raise 0x06 (src op f 0 s) s := by
  simp [withHandle, he]

end Sys2Proof.Machine
end

