-- ==== Sys2Proof/Laws/Saving.lean ====
section
/-! SUPPORT. Where no core is saving a thread, the end of an event saves none. -/

namespace Sys2Proof.Machine

theorem State.saveSweep_of_savesNothing (s : State) (h : s.savesNothing) : s.saveSweep = s := by
  have hg : s.gs.gangs.any (fun g => g.state == .saving) = false := by
    simp only [List.any_eq_false, beq_iff_eq]
    exact h.1
  unfold State.saveSweep
  rw [hg, Bool.false_or, if_neg]
  intro hn
  obtain ⟨m, hm, hx⟩ := List.any_eq_true.mp hn
  split at hx
  · simp [h.2 m hm] at hx
  · simp at hx

theorem settled_of_savesNothing (s : State) (h : s.savesNothing) : settled s = .next s := by
  rw [settled, State.saveSweep_of_savesNothing s h]

/-- A state with no gang being saved and every message on its way saves nothing. -/
theorem State.savesNothing_of_moving (s : State) (hg : ∀ g ∈ s.gs.gangs, g.state ≠ .saving) (hn : ∀ m ∈ s.net, m.isMoving = true) : s.savesNothing := by
  refine ⟨hg, fun m h launch gang => ?_⟩
  have hm := hn m h
  unfold Msg.isMoving at hm
  unfold Msg.savesGuests
  split at hm <;> simp_all

end Sys2Proof.Machine
end

