-- ==== Sys2Proof/Tests/Slice0.lean ====
section
/-! SUPPORT. The tests of the model: refused ill-formed terms, words written out from the encodings of the spec, and for every statement
with hypotheses a small state that meets them. Expected values come from the examples and tables of the spec. -/
open Sys2Proof Sys2Proof.Machine
namespace Sys2Proof.Tests
set_option Elab.async false

theorem test_decode_lim : decode (leBytes 8 0x000042000141408C) =
    .ok (.lim ⟨.l64, ⟨false, 0⟩, .n 4, .n 4, .q 0, .q 0, 0x021, 0, 0⟩, 8) := by decide +kernel
theorem test_decode_plog : decode (leBytes 8 0x00018122549AC090) =
    .ok (.plog ⟨.l64, ⟨false, 0⟩, .p 2, .p 1, .p 2, .p 0, 0x0C0, 0, 0⟩, 8) := by decide +kernel
theorem test_decode_gscan : decode (leBytes 8 0x00010E037911410C) =
    .ok (.gscan ⟨.l64, ⟨false, 0⟩, .n 4, .n 1, .imm 15, .q 0, 0x087, 0, 0⟩, 8) := by decide +kernel
theorem test_decode_ld_acq : decode (leBytes 8 0x00034E0001210141 ++ leBytes 4 0x400) =
    .ok (.ld ⟨.l96, ⟨false, 0⟩, .n 3, .n 2, .q 0, .q 0, 0x1A7, 0, 0x400⟩, 12) := by decide +kernel
theorem test_decode_atom : decode (leBytes 8 0x008C0E00A1318181 ++ leBytes 4 8) =
    .ok (.atom ⟨.l96, ⟨false, 0⟩, .n 5, .n 3, .n 4, .q 0, 0x607, 4, 8⟩, 12) := by decide +kernel
theorem test_decode_fma : decode (leBytes 8 0x000010000941420C) =
    .ok (.fma ⟨.l64, ⟨false, 0⟩, .n 4, .n 4, .q 1, .q 0, 0x008, 0, 0⟩, 8) := by decide +kernel
theorem test_decode_fadd : decode (leBytes 8 0x0002500009108200) =
    .ok (.fadd ⟨.l64, ⟨false, 0⟩, .n 1, .n 1, .q 1, .q 0, 0x128, 0, 0⟩, 8) := by decide +kernel
theorem test_decode_fcvi : decode (leBytes 8 0x010044000000C240) =
    .ok (.fcvi ⟨.l64, ⟨false, 0⟩, .n 2, .q 0, .q 0, .q 0, 0x022, 8, 0⟩, 8) := by decide +kernel
theorem test_decode_vqnt : decode (leBytes 8 0x012025C3842982C8) =
    .ok (.vqnt ⟨.l64, ⟨false, 0⟩, .v 5, .v 2, .imm 16, .imm 16, 0x012, 9, 0⟩, 8) := by decide +kernel
theorem test_decode_vqnt_scale : decode (leBytes 8 0x012825C3842942C8) =
    .ok (.vqnt ⟨.l64, ⟨false, 0⟩, .v 4, .v 2, .imm 16, .imm 16, 0x412, 9, 0⟩, 8) := by decide +kernel
theorem test_decode_fmtw : decode (leBytes 8 0x00000400000002E2 ++ leBytes 8 0x80050763) =
    .ok (.fmtw ⟨.l128, ⟨false, 0⟩, .queue, .q 0, .q 0, .q 0, 0x002, 0, 0x80050763⟩, 16) := by decide +kernel
theorem test_decode_tld : decode (leBytes 8 0x000010000000070A ++ leBytes 8 0x0003C78020000000) =
    .ok (.tld ⟨.l128, ⟨false, 1⟩, .queue, .q 0, .q 0, .q 0, 0x008, 0, 0x0003C78020000000⟩, 16) := by decide +kernel
theorem test_decode_sysrd : decode (leBytes 8 0x00002000000003C8) =
    .ok (.sysrd ⟨.l64, ⟨false, 0⟩, .queue, .q 0, .q 0, .q 0, 0x010, 0, 0⟩, 8) := by decide +kernel
theorem test_decode_syswr : decode (leBytes 8 0x00002000000003CC) =
    .ok (.syswr ⟨.l64, ⟨false, 0⟩, .queue, .q 0, .q 0, .q 0, 0x010, 0, 0⟩, 8) := by decide +kernel
theorem test_decode_rte : decode (leBytes 8 0x00000000000003C4) =
    .ok (.rte ⟨.l64, ⟨false, 0⟩, .queue, .q 0, .q 0, .q 0, 0, 0, 0⟩, 8) := by decide +kernel
theorem test_decode_bar : decode (leBytes 8 0x00000000070001A0) =
    .ok (.bar ⟨.l64, ⟨false, 0⟩, .queue, .imm 16, .q 0, .q 0, 0, 0, 0⟩, 8) := by decide +kernel
theorem test_decode_bar_batch : decode (leBytes 8 0x00000E00070001A0) =
    .ok (.bar ⟨.l64, ⟨false, 0⟩, .queue, .imm 16, .q 0, .q 0, 0x007, 0, 0⟩, 8) := by decide +kernel
theorem test_decode_gbar : decode (leBytes 8 0x00000000000001A4) =
    .ok (.gbar ⟨.l64, ⟨false, 0⟩, .queue, .q 0, .q 0, .q 0, 0, 0, 0⟩, 8) := by decide +kernel
theorem test_decode_cpygo : decode (leBytes 8 0x000002000110C380) =
    .ok (.cpygo ⟨.l64, ⟨false, 0⟩, .n 2, .n 1, .q 0, .q 0, 0x001, 0, 0⟩, 8) := by decide +kernel
theorem test_decode_engwait : decode (leBytes 8 0x00000000012A4384) =
    .ok (.engwait ⟨.l64, ⟨false, 0⟩, .p 0, .n 2, .q 0, .q 0, 0, 0, 0⟩, 8) := by decide +kernel
theorem test_decode_engstat : decode (leBytes 8 0x0000000001200388) =
    .ok (.engstat ⟨.l64, ⟨false, 0⟩, .queue, .n 2, .q 0, .q 0, 0, 0, 0⟩, 8) := by decide +kernel
theorem test_decode_cbrst : decode (leBytes 8 0x0000000001200394) =
    .ok (.cbrst ⟨.l64, ⟨false, 0⟩, .queue, .n 2, .q 0, .q 0, 0, 0, 0⟩, 8) := by decide +kernel
theorem test_decode_cbrd : decode (leBytes 8 0x0000000007018390) =
    .ok (.cbrd ⟨.l64, ⟨false, 0⟩, .n 5, .imm 16, .q 0, .q 0, 0, 0, 0⟩, 8) := by decide +kernel
theorem test_decode_scstat : decode (leBytes 8 0x000006000001036C) =
    .ok (.scstat ⟨.l64, ⟨false, 0⟩, .n 3, .q 0, .q 0, .q 0, 0x003, 0, 0⟩, 8) := by decide +kernel
theorem test_decode_scinv : decode (leBytes 8 0x0000020001200368) =
    .ok (.scinv ⟨.l64, ⟨false, 0⟩, .queue, .n 2, .q 0, .q 0, 0x001, 0, 0⟩, 8) := by decide +kernel
theorem test_decode_pbari : decode (leBytes 8 0x00000000077001A8) =
    .ok (.pbari ⟨.l64, ⟨false, 0⟩, .queue, .imm 23, .q 0, .q 0, 0, 0, 0⟩, 8) := by decide +kernel
theorem test_decode_nbpost : decode (leBytes 8 0x0000004C991141E0) =
    .ok (.nbpost ⟨.l64, ⟨false, 0⟩, .n 4, .n 1, .n 3, .n 3, 0, 0, 0⟩, 8) := by decide +kernel
theorem test_decode_qpush : decode (leBytes 8 0x00001C0089200158) =
    .ok (.qpush ⟨.l64, ⟨false, 0⟩, .queue, .n 2, .n 1, .q 0, 0x00E, 0, 0⟩, 8) := by decide +kernel
theorem test_decode_mov_wide : decode (leBytes 8 0x00000E000000C08A ++ leBytes 8 0x0031000000000040) =
    .ok (.mov ⟨.l128, ⟨false, 0⟩, .n 2, .q 0, .q 0, .q 0, 0x007, 0, 0x0031000000000040⟩, 16) := by decide +kernel

/-! ## Well-formedness: each check refuses an ill-formed term -/

def fld (d : Dst) (a b c : Opnd) (func : BitVec 12) : Fields := ⟨.l64, ⟨false, 0⟩, d, a, b, c, func, 0, 0⟩

theorem test_wf_accepts : (Instr.add (fld (.n 1) (.n 2) (.n 3) (.q 0) 2)).wf = true := by decide +kernel
theorem test_wf_type : (Instr.add (fld (.n 1) (.n 2) (.n 3) (.q 0) 8)).wf = false := by decide +kernel
theorem test_wf_func : (Instr.add (fld (.n 1) (.n 2) (.n 3) (.q 0) 0x22)).wf = false := by decide +kernel
theorem test_wf_result : (Instr.add (fld (.p 1) (.n 2) (.n 3) (.q 0) 2)).wf = false := by decide +kernel
theorem test_wf_result_none : (Instr.nop (fld (.n 0) (.q 0) (.q 0) (.q 0) 0)).wf = false := by decide +kernel
theorem test_wf_scalar : (Instr.add (fld (.n 1) (.v 2) (.n 3) (.q 0) 2)).wf = false := by decide +kernel
theorem test_wf_vector : (Instr.vadd (fld (.v 1) (.n 2) (.v 3) (.q 0) 2)).wf = false := by decide +kernel
theorem test_wf_predicate : (Instr.sel (fld (.n 1) (.n 2) (.n 3) (.n 4) 2)).wf = false := by decide +kernel
theorem test_wf_unread : (Instr.neg (fld (.n 1) (.n 2) (.n 3) (.q 0) 2)).wf = false := by decide +kernel
theorem test_wf_length : (Instr.trap { fld .queue (.n 2) (.q 0) (.q 0) 0 with len := .l96 }).wf = false := by decide +kernel
theorem test_wf_ext64 : (Instr.add { fld (.n 1) (.n 2) (.n 3) (.q 0) 2 with ext := 1 }).wf = false := by decide +kernel
theorem test_wf_ext96 : (Instr.add { fld (.n 1) (.n 2) (.q 0) (.q 0) 2 with len := .l96, ext := 0x100000000 }).wf = false := by decide +kernel
theorem test_wf_order : (Instr.ld (fld (.n 1) (.n 2) (.q 0) (.q 0) 0x42)).wf = false := by decide +kernel
theorem test_wf_mode : (Instr.cas (fld (.n 1) (.n 2) (.n 3) (.n 4) 0x802)).wf = false := by decide +kernel
theorem test_wf_rounding : (Instr.fmin (fld (.n 1) (.n 2) (.n 3) (.q 0) 0x28)).wf = false := by decide +kernel
theorem test_wf_source : (Instr.fcvt { fld (.n 1) (.n 2) (.q 0) (.q 0) 8 with imm11 := 2 }).wf = false := by decide +kernel
theorem test_wf_multiply :
    (Instr.mma { fld .queue (.q 0) (.q 0) (.q 0) 8 with len := .l128, imm11 := 64, ext := 0x0080000100020040 }).wf = false := by decide +kernel
theorem test_wf_tile : (Instr.tld { fld .queue (.q 0) (.q 0) (.q 0) 8 with len := .l128, ext := 0 }).wf = false := by decide +kernel
theorem test_wf_tst : (Instr.tst { fld .queue (.q 0) (.q 0) (.q 0) 0x10 with len := .l128, ext := 0x0003C78020000000 }).wf = false := by decide +kernel
theorem test_wf_tcvt : (Instr.tcvt { fld .queue (.q 0) (.q 0) (.q 0) 0 with imm11 := 8 }).wf = false := by decide +kernel
theorem test_wf_sysreg : (Instr.sysrd (fld .queue (.q 0) (.q 0) (.q 0) 0x0A)).wf = false := by decide +kernel
theorem test_wf_command : (Instr.lease ⟨2, 9, 0, 0, 0⟩).wf = false ∧ (Instr.lease ⟨1, 9, 0, 0, 0⟩).wf = true := by decide +kernel
theorem test_wf_boot : (Instr.coldBoot { defaultBoot with mcfgs := [(512, 0)] }).wf = false ∧ (Instr.coldBoot { defaultBoot with check := [] }).wf = false ∧
    (Instr.coldBoot { defaultBoot with auth := [] }).wf = false ∧ (Instr.coldBoot defaultBoot).wf = true := by decide +kernel
theorem test_wf_hub : (Instr.portFailure 2).wf = false ∧ (Instr.portTrained ⟨2, 48⟩).wf = false ∧ (Instr.hubFatalError 2 1).wf = false := by decide +kernel

/-! ## States for the witnesses: thread 1 of a workgroup of one, at its anchor, core 0; buffer 1 holds code, 2 data at core 0, 3 data at core 1 -/

def code : W64 := handleOf 1 0x100
def data : W64 := handleOf 2 0x40
def far : W64 := handleOf 3 0x40
def dataEntry : BufEntry := { placedEntry with wr := true, at_ := true }
def farEntry : BufEntry := { dataEntry with first := 1 }
def dataPme : Pme := { placedPme with frame := 1, wr := true, at_ := true }
def farPme : Pme := { dataPme with core := 1 }

def tt : Thread := { Thread.blank with
  tid := 1, place := .slot 0, status := .ready, pc := code, nbud := 32, vbud := 8, bars := 4, tiles := 2, localLen := 65536,
  trapbase := handleOf 1 0x40, kernTrap := handleOf 1 0x40 }
def tw : Workgroup := { Workgroup.blank with wid := 1, wgsize := 1, gangw := 1, nbud := 32, vbud := 8, bars := 4, tiles := 2, localLen := 65536 }
def ts : State := { State.reset with
  th := tt, wgs := [tw], nextTid := 2, nextId := 2
  conf := { Conf.off with booted := true, admitted := 3, hubs := 3, lc := [0, 1] }
  cores := [{ State.reset.core 0 with desc := [(0, 1, placedEntry), (0, 2, dataEntry), (0, 3, farEntry)] }]
  ports := [{ State.reset.port 0 with desc := [(0, 2, dataEntry)], mtlb := [(⟨0, 1, 0⟩, placedPme), (⟨0, 2, 0⟩, dataPme)] },
    { State.reset.port 1 with desc := [(0, 3, farEntry)], mtlb := [(⟨0, 3, 0⟩, farPme)] }] }

/-- The state with other values in N registers. -/
def withN (s : State) (l : List (Fin 32 × W64)) : State := { s with th := { s.th with n := l.foldl (fun n x => n.set x.1 x.2) s.th.n } }

/-- The state after an instruction. -/
def after (r : Host.Outcome State Fault Refusal) : State := match r with | .next t => t | _ => State.reset

def f2 : Fields := fld (.n 1) (.n 2) (.n 3) (.n 4) 2

theorem test_witness_mayRun : (List.range 256).all (fun op => op == 0xD5 || op == 0xD6 || mayRun op (fld (.n 1) (.n 2) (.n 3) (.n 4) 2) ts) = true := by
  decide +kernel
theorem test_witness_atHand : ts.atHand data 0 8 0x10040 ∧ ts.atHand data 1 32 0x10040 ∧ ts.atHand data 2 8 0x10040 :=
  ⟨⟨dataEntry, dataEntry, ⟨0, 2, 0⟩, dataPme, 0x40, by decide +kernel⟩, ⟨dataEntry, dataEntry, ⟨0, 2, 0⟩, dataPme, 0x40, by decide +kernel⟩,
    ⟨dataEntry, dataEntry, ⟨0, 2, 0⟩, dataPme, 0x40, by decide +kernel⟩⟩
theorem test_witness_homedAt : ts.homedAt far 0 8 farEntry 1 ∧ ts.homedAt far 1 32 farEntry 1 := ⟨by unfold State.homedAt; decide +kernel, by unfold State.homedAt; decide +kernel⟩
theorem test_witness_localHand : ts.localHand 0x40 8 8 0x40 ∧ ts.localHand 65504 32 32 65504 := by unfold State.localHand; decide +kernel

/-! ## Witnesses: the hypotheses of each statement are met together, each clause at a value of its range -/


theorem test_witness_EncodedInstructionsDecodeBack : opFields (.add (fld (.n 1) (.n 2) (.n 3) (.q 0) 2)) = some (1, fld (.n 1) (.n 2) (.n 3) (.q 0) 2) ∧
    (Instr.add (fld (.n 1) (.n 2) (.n 3) (.q 0) 2)).wf = true := by decide +kernel

theorem test_witness_DecodingRejectsAndChecks : (decode (leBytes 8 0xE0)).toOption.isSome = true ∧ decode (leBytes 8 0xFF) = .error .invalidLength ∧
    decodeWord .l64 0 0 = .error .illegal ∧ decodeWord .l96 (4 * 0x0C) 0 = .error .illegal ∧ decodeWord .l64 (4 * 0xB7) 0 = .error .illegal ∧
    decodeWord .l128 (4 * 0xF5) 0 = .error .illegal ∧ decodeWord .l64 (4 * 0xFF) 0 = .error .illegal := by decide +kernel

/-- Thread 1 is the next member of the issue group, with the pc and the word at 0x100 as given. -/
def run (pc : W64) (w : Nat) : State :=
  { ts with th := Thread.blank, threads := [{ tt with pc := pc }], issuing := [1], mem := memWrite [] 0x100 (leBytes 8 w) }
def taken (pc : W64) (w : Nat) : State := { run pc w with th := { tt with pc := pc }, threads := [], issuing := [] }

/-- The code buffer ends behind the first word of the instruction. -/
def cut (pc : W64) : State := { taken pc 0 with cores := [{ ts.core 0 with desc := [(0, 1, { placedEntry with length := 0x104 })] }] }

theorem test_witness_taken : takeThread 1 (run code 0xE0) = some (taken code 0xE0) := by decide +kernel

theorem test_witness_StepExecutesDecodedInstruction : (run code 0xE0).issuing = [1] ∧ (taken code 0xE0).th.wcode = 0 ∧ offsetOf code % 4 = 0 ∧
    (taken code 0xE0).th.late = none ∧
    findBytes (taken code 0xE0) 0 code 4 = .bytes (leBytes 4 0xE0) ∧ lenOf (leNat ((leBytes 4 0xE0).take 1)) = some .l64 ∧
    findBytes (taken code 0xE0) 0 code 8 = .bytes (leBytes 8 0xE0) ∧ crosses (offsetOf code) 8 = false ∧
    decode (leBytes 8 0xE0) = .ok (.nop (fld .queue (.q 0) (.q 0) (.q 0) 0), 8) := by decide +kernel

theorem test_witness_FetchFaultsInOrder : offsetOf (handleOf 1 0x102) % 4 ≠ 0 ∧
    findBytes (taken (handleOf 9 0) 0) 0 (handleOf 9 0) 4 = .code 0x08 ∧
    findBytes { taken far 0 with ports := [ts.port 0, { ts.port 1 with mtlb := [] }] } 0 far 4 = .absent 1 ⟨0, 3, 0⟩ 0 ∧
    findBytes (taken (handleOf 1 0xFFFC) 0) 0 (handleOf 1 0xFFFC) 4 = .bytes (leBytes 4 0) ∧ findBytes (taken (handleOf 1 0xFFFC) 0) 0 (handleOf 1 0xFFFC) 8 = .code 0x06 ∧
    crosses 0xFFFC 8 = true ∧ findBytes (cut code) 0 code 4 = .bytes (leBytes 4 0) ∧ findBytes (cut code) 0 code 8 = .code 0x06 ∧ crosses 0x100 8 = false ∧ findBytes (taken (handleOf 1 0x10000) 0) 0 (handleOf 1 0x10000) 4 = .code 0x06 ∧
    findBytes (taken code 3) 0 code 4 = .bytes (leBytes 4 3) ∧ lenOf (leNat ((leBytes 4 3).take 1)) = none ∧
    findBytes (taken (handleOf 1 0x11C) 0) 0 (handleOf 1 0x11C) 8 = .bytes (leBytes 8 0) ∧ crosses 0x11C 8 = true ∧ crosses 0x118 8 = false ∧
    lenOf (leNat ((leBytes 4 0).take 1)) = some .l64 ∧
    findBytes (taken code 0) 0 code 8 = .bytes (leBytes 8 0) ∧ decode (leBytes 8 0) = .error .illegal ∧ ({ tt with wcode := 0x0D } : Thread).wcode ≠ 0 := by decide +kernel

theorem test_witness_PlacedInstructionIsExecuted : decodeTableWord 64 0xE0 = some (.nop (fld .queue (.q 0) (.q 0) (.q 0) 0)) := by decide +kernel

/-- F0 to F7 hold the image of R223's example; V0 to V7 hold zeros of TYPE `.i32`. -/
def formats : State :=
  { ts with wgs := [{ tw with f := Vector.replicate 8 0x80050763 }], th := { tt with vtag := Vector.replicate 8 0x22 } }
def fv (t : BitVec 12) : Fields := fld (.v 1) (.v 2) (.v 3) (.v 4) t

theorem test_witness_PlacedInstructionIsExecuted_completes :
    (List.range 256).all (fun op => op == 0xD5 || op == 0xD6 || mayRun op (fld (.n 1) (.n 2) (.n 3) (.n 4) 2) formats) = true ∧
    effAddr (src 0x50 f2 0 (withN ts [(2, data)])) (disp f2) = some data ∧ offsetOf data % 32 = 0 ∧ ts.keptBits 2 ≠ none ∧ lookupDesc ts data ≠ .miss ∧
    ts.th.writes = [] ∧ ts.th.fwd = [] ∧ formats.fmtFor 8 ≠ none ∧ formats.fmtFor 23 ≠ none ∧ ts.th.spawned = false ∧ ts.th.core = ts.th.anchor ∧
    formats.vtyFor 2 ≠ none ∧ (∀ o ∈ [(fv 2).a, (fv 2).b, (fv 2).c], formats.th.vtag[vReg o] = 0x22) ∧ isNarrow 2 = false ∧
    (formats.format 0).map (fun K => decide (0 < K.bs ∧ K.bs ≤ codesOf K.fmt.width ∧ 2 + K.bs * 32 / 256 ≤ tt.vbud)) = some true ∧
    (src 0xB1 { fv 2 with b := .imm 16 } 1 ts).toNat = 0 := by decide +kernel

theorem test_witness_GuardedOffInstructionOnlyPushes : guardTrue tt ⟨true, 0⟩ = false ∧ guardTrue tt ⟨false, 7⟩ = false ∧
    resultOf 0x01 f2 = .q ∧ resultOf 0x38 (fld .queue (.q 0) (.q 0) (.q 0) 0) = .unit := by decide +kernel

theorem test_witness_ChecksFailInOrder : guardTrue tt ⟨false, 0⟩ = true ∧ overBudget { tt with nbud := 2 } (.n 2) = true ∧
    overBudget { tt with nbud := 3 } (.n 2) = false ∧ overBudget { tt with vbud := 7 } (.v 7) = true ∧ dstOverBudget { tt with nbud := 31 } (.n 31) = true ∧
    isAnchored 0x40 f2 = true ∧ isAnchored 0x44 f2 = false ∧ issuerOnly 0xC0 f2 = true ∧ issuerOnly 0xDB f2 = true ∧ issuerOnly 0x01 (fld (.w 0) (.n 1) (.n 2) (.n 3) 2) = true ∧
    isMatrix 0xD0 = true ∧ tw.park = none ∧ preCheck 0x40 f2 { ts with th := { tt with core := 1 } } = none := by decide +kernel

def ttcb : Tcb :=
  { index := 0, kdesc := handleOf 1 0x20, args := 0, gangs := 1, prio := 0, wcnt := 0, diemask := 0, state := 3, err := 0, counter := 0, rdy := 0,
    launch := 0, gleft := 1, spawned := 0, handed := 1, child := false, built := true, parent := 0, pred := [], words := [], regions := [],
    complete := false, cancel := false, early := false }
def tj : Job :=
  { num := 0, asid := 0, hub := 0, image := handleOf 1 0, notify := data, cpol := 0, phase0 := 0, nphase := 1, phase := 0, stage := 3, graph := 0,
    tcbs := [ttcb], phases := [], outcome := 0, cause := 0, canc := 0, cancelGraph := false, cancelJob := false, suspended := false, doneOrder := 0 }

theorem test_witness_FaultsEnterTheHandlerOrEndTheLaunch : ts.th.hnd = false ∧ ts.th.trapbase ≠ 0 ∧ (0x06 : Nat) ≠ 0x0E ∧
    { tt with hnd := true }.hnd = true ∧ { tt with trapbase := 0 }.trapbase = 0 ∧ tj.tcbs ≠ [] ∧
    (tj.launchError 0 6).tcbs.map (fun t => (t.err, t.state, t.cancel)) = [(6, 5, true)] := by decide +kernel

theorem test_witness_TrapAndBreakpointTakeTheirFault : mayRun 0xF0 f2 ts = true ∧ mayRun 0x39 f2 ts = true ∧ ts.th.handles = true := by decide +kernel

/-- The thread in its handler. -/
def th1 : State := { ts with th := { tt with hnd := true, status := .handler } }

theorem test_witness_ReturnFromTheHandler : mayRun 0xF1 f2 th1 = true ∧ th1.th.hnd = true ∧ parkedIssuer th1 = false ∧
    mayRun 0xF1 f2 ts = true ∧ ts.th.hnd = false ∧ parkedIssuer { th1 with wgs := [{ tw with park := some tw.seq }] } = true ∧
    tt.p[0] = true := by decide +kernel

theorem test_witness_SystemRegisterReadsAndWrites : mayRun 0xF2 f2 th1 = true ∧ mayRun 0xF3 f2 th1 = true ∧
    ([0, 9, 0x10, 0x1F, 0x20] : List Nat).map (fun k => sysNo (fld .queue (.n 2) (.q 0) (.q 0) (BitVec.ofNat 12 k))) = [0, 9, 0x10, 0x1F, 0x20] ∧
    (src 0xF3 (fld .queue (.n 2) (.q 0) (.q 0) 7) 0 (withN ts [(2, 4)])).toNat % 4 = 0 ∧
    (src 0xF3 (fld .queue (.n 2) (.q 0) (.q 0) 7) 0 (withN ts [(2, 3)])).toNat % 4 ≠ 0 ∧
    src 0xF3 (fld .queue (.n 2) (.q 0) (.q 0) 0x20) 0 (withN ts [(2, 0xFE)]) &&& 0xFE = 0xFE ∧
    src 0xF3 (fld .queue (.n 2) (.q 0) (.q 0) 0x20) 0 (withN ts [(2, 1)]) &&& 0xFE ≠ 1 ∧ { tt with spawned := true }.spawned = true := by decide +kernel

theorem test_witness_IntegerArithmeticResults : isInt 0 = true ∧ isInt 7 = true ∧ loOf 2 ≤ -0x80000000 ∧ (0x7FFFFFFF : Int) ≤ hiOf 2 ∧
    [0x01, 0x02, 0x03, 0x04, 0x05, 0x06, 0x07, 0x08, 0x09, 0x0A, 0x0B].all (fun op => mayRun op f2 ts) = true := by decide +kernel

theorem test_witness_BitAndCountInstructionResults : isInt (tyOf f2) = true ∧
    [0x10, 0x11, 0x12, 0x13, 0x14, 0x15, 0x16, 0x17, 0x18, 0x19, 0x1A, 0x1B, 0x1C, 0x1D, 0x1E, 0x1F].all (fun op => mayRun op f2 ts) = true := by decide +kernel

theorem test_witness_CompareSelectLogicAndHandleResults : [0x20, 0x21, 0x22, 0x23, 0x24, 0x28, 0x29, 0x2A, 0x2B, 0x2C].all (fun op => mayRun op f2 ts) = true ∧
    fbits 0x002 8 5 ≤ 5 ∧ fbits 0x0A2 8 5 = 5 ∧ fbits 0x002 6 5 = 0 ∧ fbits 0x022 6 5 = 1 ∧ fbits 0x042 6 5 = 2 ∧
    lookupDesc (withN ts [(2, data)]) (src 0x2C f2 0 (withN ts [(2, data)])) = .hit dataEntry ∧ lookupDesc ts 0 = .invalid ∧
    lookupDesc ts (handleOf 9 0) = .miss := by decide +kernel

theorem test_witness_BranchesGoToTheirTargets : [0x30, 0x31, 0x32, 0x34, 0x37, 0x38].all (fun op => mayRun op f2 ts) = true ∧
    1 < (src 0x37 f2 0 (withN ts [(2, 2)])).toInt ∧ (src 0x37 f2 0 (withN ts [(2, 1)])).toInt ≤ 1 ∧
    (src 0x37 f2 0 (withN ts [(2, 0x8000000000000000)])).toInt ≤ 1 := by decide +kernel

/-- The descriptor of a function at 0x200 is in memory at 0x1F8. -/
def callee (d : Nat) : State := { withN ts [(2, handleOf 1 0x200)] with mem := memWrite [] 0x1F8 (leBytes 8 d) }

theorem test_witness_CallxChecksItsDescriptor : mayRun 0x33 f2 (callee 0) = true ∧ src 0x33 f2 0 (callee 0) = handleOf 1 0x200 ∧
    offsetOf (handleOf 1 0x204) % 8 ≠ 0 ∧ offsetOf (handleOf 1 0x200) % 8 = 0 ∧ 8 ≤ offsetOf (handleOf 1 0x200) ∧
    findBytes ts 0 (handleOf 9 0x1F8) 8 = .code 0x08 ∧ findBytes (callee 0xC0DE0220) 0 (handleOf 1 0x1F8) 8 = .bytes (leBytes 8 0xC0DE0220) ∧
    leNat (leBytes 8 0xC0DE0220) / 2 ^ 16 % 2 ^ 16 = 0xC0DE ∧ leNat (leBytes 8 0xC0DF0220) / 2 ^ 16 % 2 ^ 16 ≠ 0xC0DE ∧
    tt.nbud < 0xC0DE0221 % 2 ^ 6 ∧ 0xC0DE0220 % 2 ^ 6 ≤ tt.nbud ∧ tt.vbud < 0xC0DE0260 / 2 ^ 6 % 2 ^ 4 ∧ 0xC0DE0220 / 2 ^ 6 % 2 ^ 4 ≤ tt.vbud := by
  decide +kernel

theorem test_witness_ExitEndsTheThread : mayRun 0x35 f2 ts = true ∧ { tt with spawned := true }.spawned = true ∧ { tt with index := 1 }.index ≠ tw.issuer ∧
    mayRun 0x35 f2 th1 = true ∧ ts.th.index = ts.wg.issuer ∧ { tw with park := some tw.seq }.park.isSome = true := by decide +kernel

theorem test_witness_IdentityAndCounterReads : mayRun 0x3C f2 ts = true ∧ mayRun 0x3D f2 ts = true ∧ fbits 0x000 5 0 = 0 ∧ fbits 0x011 5 0 = 0x11 ∧
    ts.th.spawned = false ∧ (f2.func[0] = false) ∧ (src 0x3D f2 0 (withN ts [(2, 8)])).toNat < 9 ∧ 9 ≤ (src 0x3D f2 0 (withN ts [(2, 9)])).toNat ∧
    (fld (.n 1) (.n 2) (.q 0) (.q 0) 1).func[0] = true := by decide +kernel

/-- Two threads, 2 and 3, JOINING in a `BALLOT` at `code`, lanes 0 and 1 of a workgroup of `n`. -/
def joins (n : Nat) : State :=
  let t := fun (tid i : Nat) => { tt with tid := tid, index := i, status := .joining, depA := 1, depB := 3, wait := .join .ballot .queue }
  { ts with th := Thread.blank, threads := [t 2 0, t 3 1], wgs := [{ tw with wgsize := n }] }

theorem test_witness_CrossLaneInstructionsJoin : [0x36, 0x40, 0x41, 0x42, 0x43].all (fun op => mayRun op f2 ts) = true ∧
    (joins 2).th.tid = 0 ∧ ((joins 2).threads.map Thread.tid).Nodup ∧ (joins 2).joiners ((joins 2).wgBy 1) code = (joins 2).threads ∧
    (∀ t ∈ (joins 2).threads, t.tid ≠ 0 ∧ t.isRjoin = false ∧ t.index / 64 = 0) ∧
    instanceFull ((joins 2).wgBy 1) 0 (joins 2).threads = true ∧ instanceFull ((joins 2).wgBy 1) 0 ((joins 2).threads.take 1) = false := by decide +kernel

theorem test_witness_CrossLaneResults : ((joins 2).threads.map (fun u => u.index % 64)).Nodup ∧
    (∀ t ∈ (joins 2).threads, bitOf t.joinMask 0 = true ∧ bitOf t.joinMask 1 = true) ∧ shflLane 0 0 1 = 1 ∧ shflLane 3 63 63 = 0 := by decide +kernel

/-- Buffer 2 leased, bank 0 in cache mode, and the line of `data` in the read cache of core 0 under a lease. -/
def leasing : State :=
  { ts with
    cores := [{ State.reset.core 0 with
      desc := [(0, 2, { dataEntry with leased := true })], lines := [⟨0, 2, 0, 100, 0, 0, List.replicate 512 7⟩] }]
    plazas := [{ State.reset.plaza 0 with banks := [(0, .cache)] }] }

theorem test_witness_LoadsReadTheirBytes : [0x50, 0xA0, 0x52].all (fun op => mayRun op f2 ts) = true ∧
    effAddr (src 0x50 f2 0 (withN ts [(2, data)])) (disp f2) = some data ∧ offsetOf data % 32 = 0 ∧ ts.keptBits 2 = some 256 ∧
    (withN leasing [(2, data)]).ways 0 ≠ [] ∧ (leasing.die 0).dlease ≠ 0 ∧ cached leasing 0 data 8 0 = some (List.replicate 8 7) ∧
    mayRun 0x50 f2 leasing = true ∧ farEntry.leased = false ∧ farEntry.tier ≤ 1 := by decide +kernel

theorem test_witness_LoadsReadTheirBytes_leased : leasing.homedAt data 0 8 { dataEntry with leased := true } 0 := by unfold State.homedAt; decide +kernel

theorem test_witness_StoresWriteTheirBytes : mayRun 0x51 f2 ts = true ∧ mayRun 0xA1 f2 ts = true ∧ ordOf f2 ≠ 2 ∧
    effAddr (src 0x51 f2 0 (withN ts [(2, far)])) (disp f2) = some far ∧ offsetOf far % 32 = 0 := by decide +kernel

theorem test_witness_LocalAccesses : [0x53, 0x54, 0xA2, 0xA3].all (fun op => mayRun op f2 ts) = true ∧ ordOf f2 ≠ 2 ∧ ts.th.fwd.length < 16 ∧
    localOff 0x53 f2 (withN ts [(2, 0x40)]) = 0x40 ∧ ts.th.fwd.any (fun w => w.overlaps 0x40 4) = false ∧
    ({ tt with fwd := [⟨1, 0x40, [1, 2, 3, 4]⟩] } : Thread).fwd.getLast?.map (fun w => (w.overlaps 0x40 4, w.covers 0x40 4)) = some (true, true) ∧
    (wordsOf 0x40 4).any (ts.plaza 0).soft.contains = false := by decide +kernel

theorem test_witness_AccessChecksFenceAndPrefetch : [0x51, 0xA1, 0x52, 0x63, 0x64, 0x53, 0x54, 0xA3, 0x5A, 0x55].all (fun op => mayRun op f2 ts) = true ∧
    effAddr (handleOf 2 0xFFFFFFFFFFFF) 1 = none ∧ offsetOf (handleOf 2 0x41) % 2 ≠ 0 ∧ lookupDesc ts 0 = .invalid ∧
    offsetOf (handleOf 2 0xFFFC) + 4 ≤ dataEntry.length ∧ offsetOf (handleOf 2 0xFFFC) + 8 > dataEntry.length ∧
    { dataEntry with wr := false }.allows 1 = false ∧ (3 : Int) % 4 ≠ 0 ∧ (65536 : Int) + 4 > tt.localLen ∧
    plazaOf { tt with core := 8 }.core ≠ plazaOf tt.anchor ∧ mayRun 0x53 f2 { ts with th := { tt with core := 8 } } = true ∧
    mayRun 0x53 f2 { ts with th := { tt with spawned := true } } = true ∧
    ts.th.writes = [] ∧ scopeOf f2 = 0 ∧
    inScope 3 0 0 0 65536 ⟨1, .home 0, 0, 1, false, far, .sent⟩ = true ∧ inScope 1 0 0 0 65536 ⟨1, .queue false, 0, 0, false, 0, .sent⟩ = true ∧ (⟨1, .home 0, 0, 1, false, far, .failed 6⟩ : SentWrite).pending 0 = true ∧
    (⟨1, .home 0, 0, 1, false, far, .held⟩ : SentWrite).pending 0 = true := by decide +kernel

/-- Core 0 has a grant of two entries of 8 bytes for bank 0 of core 1; bank 0 of its own plaza is a FIFO with one entry. -/
def queue1 : W64 := 0x0000000000000001
def queues (credits fill : Nat) : State :=
  { ts with
    cores := [{ ts.core 0 with credits := [⟨0, queueKey queue1, 8, 2, credits, 0, 0⟩] }]
    plazas := [{ State.reset.plaza 0 with banks := [(0, .fifo 8 2 0 fill fill none)] }] }

theorem test_witness_QueueAndBankInstructions : [0x56, 0x57, 0x58, 0x59].all (fun op => mayRun op f2 (queues 1 1)) = true ∧
    descFault (queues 1 1) queue1 = none ∧ descFault (queues 1 1) 0x10000000 = some 0x06 ∧ descFault (queues 1 1) 0x80 = some 0x0D ∧
    fbits (fld .queue (.n 2) (.n 3) (.q 0) 0).func 1 0 = 0 ∧ (leBytes 8 7).length = 8 ∧ ((queues 0 1).core 0).credit? 2 = none ∧
    (((queues 0 1).core 0).credit? (queueKey queue1)).map CreditEntry.credits = some 0 ∧
    (((queues 1 1).core 0).credit? (queueKey queue1)).map CreditEntry.credits = some 1 ∧
    (((queues 1 1).core 0).credit? (queueKey queue1)).map CreditEntry.size = some 8 ∧
    plazaOf (queues 1 1).th.core = plazaOf (queues 1 1).th.anchor ∧ bankInside (queues 1 1) 0 = true ∧ bankInside (queues 1 1) 1 = true ∧
    bankInside (queues 1 1) 2 = false ∧ ((queues 1 1).plaza 0).mode 0 = .fifo 8 2 0 1 1 none ∧ ((queues 1 0).plaza 0).mode 0 = .fifo 8 2 0 0 0 none ∧
    ((queues 1 1).plaza 0).isScratch 1 = true ∧ ((queues 1 1).plaza 0).mode 1 = .scratch ∧ ((queues 1 1).plaza 0).stage? 1 = none ∧
    fbits 0 1 0 ≤ 1 ∧ fbits 1 1 0 = 1 := by decide +kernel

theorem test_witness_QueueAndBankInstructions_local : (queues 1 1).localHand 0x8000 8 1 0x8000 := by unfold State.localHand; decide +kernel

/-- The word with MODE 100: local atomics, IMM11 as displacement. -/
def fl : Fields := fld (.n 1) (.n 2) (.n 3) (.n 4) 0x102

theorem test_witness_LocalAtomics : [0x60, 0x61, 0x62].all (fun op => mayRun op fl ts) = true ∧ isLocalAtomic fl = true ∧ hasRel fl = false ∧
    localOff 0x60 fl (withN ts [(2, 0x40)]) = 0x40 ∧ narrow 2 0xFFFFFFFF < narrow 2 0 ∧ narrow 6 0 < narrow 6 0xFFFFFFFF ∧
    pattern 2 3 ≤ pattern 2 3 ∧ pattern 2 2 < pattern 2 3 := by decide +kernel

theorem test_witness_LocalAtomics_hand : ts.localHand 0x40 4 4 0x40 := by unfold State.localHand; decide +kernel

theorem test_witness_AtomicsAtHand : ts.th.tid ≠ 0 ∧ [0x60, 0x61, 0x62, 0x63, 0x64, 0x65].all (fun op => mayRun op f2 ts) = true ∧
    effAddr (src 0x60 f2 0 (withN ts [(2, data)])) (disp f2) = some data ∧ isLocalAtomic f2 = false ∧ hasRel f2 = false ∧
    isPost { f2 with func := 0x802 } = true ∧ isPost f2 = false ∧ (ts.port 0).monitors.length < 4096 ∧ condHolds 0 2 5 5 = true ∧ condHolds 0 2 5 6 = false := by
  decide +kernel

theorem test_witness_SleepYieldAndIdle : [0x66, 0x67, 0xF4].all (fun op => mayRun op f2 ts) = true ∧
    fbits 0 1 0 = 0 ∧ fbits 1 1 0 = 1 ∧ fbits 2 1 0 = 2 ∧ (ts.dtcOf 0).toNat + (0xFFFFFFFFFFFFFFFF : W64).toNat < 2 ^ 64 ∧
    ts.th.core = ts.th.anchor ∧ ts.th.spawned = false ∧ { tt with core := 1 }.core ≠ tt.anchor ∧
    mayRun 0xF4 f2 { ts with th := { tt with core := 1 } } = true := by decide +kernel

/-- A module barrier of two parties and a board of two slots on die 0. -/
def barrier1 : ModBarrier := ⟨1, 0, 0, 2, 1, 0, false, none, [], [(7, 3)]⟩
def board1 : Board := ⟨1, 0, handleOf 1 0, 2, [0, 0], 0, 0, 0⟩
def meeting : State :=
  { ts with
    dies := [{ State.reset.die 0 with barriers := [barrier1], boards := [board1] }]
    th := { tt with vm := Vector.replicate 4 ⟨1, 0, 0, 0, 0⟩ } }

theorem test_witness_BarriersOfEachLevel : [0x68, 0x69, 0x6A, 0x6B, 0x6C].all (fun op => mayRun op f2 meeting) = true ∧
    ts.th.bars ≤ (src 0x68 f2 0 (withN ts [(2, 4)])).toNat ∧ (src 0x68 f2 0 (withN ts [(2, 3)])).toNat < ts.th.bars ∧
    bitOf (0 : BitVec 12).toNat 0 = false ∧ bitOf (1 : BitVec 12).toNat 0 = true ∧ (3 : W64).toNat < 4 ∧
    freeIndex ((meeting.die 0).barriers.map ModBarrier.index) 65535 = some 2 ∧ (meeting.die 0).syeBytes + 32 ≤ syeRoom ∧ freeIndex [1] 1 = none ∧
    0 < (65535 : W64).toNat ∧ 65535 < (65536 : W64).toNat ∧
    syeIdBad 1 = false ∧ (meeting.die (syeDie 1)).barrier? (syeIndex 1) = some barrier1 ∧ barrier1.asid = meeting.th.asid ∧
    meeting.sawLoss (syeDie 1) = false := by decide +kernel

theorem test_witness_BoardInstructions : [0x78, 0x79, 0x7A, 0x7B].all (fun op => mayRun op f2 meeting) = true ∧
    syeIdBad 1 = false ∧ (meeting.die (syeDie 1)).board? (syeIndex 1) = some board1 ∧ board1.asid = meeting.th.asid ∧ meeting.sawLoss (syeDie 1) = false ∧
    board1.n ≤ (2 : W64).toNat ∧ (1 : W64).toNat < board1.n ∧ (viewOf meeting (vmOf f2)).board.zeroExtend 64 = (1 : W64) ∧
    (viewOf meeting (vmOf f2)).board ≠ 0 ∧ syeIdBad 0x100000000 = true ∧ syeIdBad 0x80000000 = true ∧ (meeting.die (syeDie 2)).board? (syeIndex 2) = none := by
  decide +kernel

def kd : KDesc := ⟨0x20, 0x100, 1, 1, 0, 32, 8, 32, 8, 4, 2, 65536, none, [], []⟩
def image1 : Image := ⟨0, handleOf 1 0, none, none, [kd], [⟨data, [(64, 0)]⟩], List.replicate 64 0, []⟩
def tjob : Job := { tj with tcbs := [ttcb, { ttcb with index := 1, launch := 5, state := 3, complete := true }] }
def graph : State := { meeting with gs := { State.reset.gs with images := [image1], jobs := [tjob] } }

theorem test_witness_BoardInstructions_gen : mayRun 0x7C f2 graph = true ∧ (graph.job? graph.th.job).map Job.image = some board1.image ∧
    bitOf (1 : BitVec 12).toNat 0 = true ∧ (0xFFFF : W64).toNat < 2 ^ 16 := by decide +kernel

theorem test_witness_MigrateHomeAndSpawn : [0x70, 0x71, 0x73].all (fun op => mayRun op f2 ts) = true ∧
    bitOf (0 : BitVec 12).toNat 0 = false ∧ bitOf (1 : BitVec 12).toNat 0 = true ∧ 512 ≤ (512 : W64).toNat ∧ (64 : W64).toNat < 512 ∧ ts.th.core = 0 ∧
    ts.th.hnd = false ∧ ts.dieUp (dieOf 64) = true ∧ ts.dieUp (dieOf 511) = false ∧ ts.th.writes = [] ∧ ts.th.fwd = [] ∧
    effAddr far (disp { f2 with func := 1 }) = some far ∧ lookupDesc ts far = .hit farEntry ∧ farEntry.tier ≤ 1 ∧
    (homeLoc ts.conf.lc dataEntry (offsetOf data)).home = ts.th.core ∧ (homeLoc ts.conf.lc farEntry (offsetOf far)).home ≠ ts.th.core ∧
    (ts.plaza 0).spawnQ.length < 1024 ∧ 1024 ≤ (List.replicate 1024 tt).length ∧ farEntry.length ≤ offsetOf (handleOf 3 0x10000) ∧
    offsetOf (handleOf 3 0xFFFF) < farEntry.length ∧ homeDead ts farEntry 1 = false ∧ { farEntry with tier := 2 }.tier = 2 := by decide +kernel

theorem test_witness_LaunchCancelAndWait : [0x72, 0x74, 0x75].all (fun op => mayRun op f2 graph) = true ∧ graph.job? graph.th.job = some tjob ∧
    ((graph.imageOf tjob).bind (fun i => i.kdesc? (handleOf 1 0x28))) = none ∧ ((graph.imageOf tjob).bind (fun i => i.kdesc? (handleOf 1 0x20))) = some kd ∧
    2 ^ 32 ≤ (0x100000000 : W64).toNat ∧ (0xFFFFFFFF : W64).toNat < 2 ^ 32 ∧ graph.th.writes = [] ∧ graph.th.fwd = [] ∧ bits f2.ext.toNat 4 0 = 0 ∧
    (tjob.tcbs.filter (fun t => !t.complete)).length < 4096 ∧ tjob.tcbs.length < 65536 ∧ graph.th.launch = 0 ∧ tjob.tcbOf 9 = none ∧
    tjob.tcbOf 5 = some { ttcb with index := 1, launch := 5, state := 3, complete := true } ∧ (tjob.tcbOf 0).map Tcb.complete = some false ∧
    fbits 3 1 0 = 3 ∧ ({ tjob with num := 1, stage := 4 } : Job).num ≠ graph.th.job := by decide +kernel

/-- The entry of buffer 2 stands in the buffer table at 0x20000; row protection is off (RPEN 0). -/
def mapped (s : State) : State :=
  { s with
    gs := { s.gs with asids := [(0, 0x20000, 0x30000)] }
    ports := s.ports.map (fun (p : PortSt) => { p with rpen := false })
    mem := memWrite [] 0x20080 (leBytes 8 65536 ++ leBytes 8 (0xF + 2 ^ 14 + 2 ^ 32) ++ leBytes 48 0) }
theorem test_mapped : (mapped ts).tableEntry 0 2 = some dataEntry := by decide +kernel

theorem test_witness_LaunchCancelAndWait_words : readHandle data 8 (fun bs s => { s with nextId := leNat bs + 77 }) (mapped graph) = { mapped graph with nextId := 77 } := by
  decide +kernel

theorem test_witness_LaunchCancelAndWait_job : let s : State := { graph with gs := { graph.gs with jobs := [tjob, { tjob with num := 1, stage := 4 }, { tjob with num := 2 }] } }
    (s.job? 1).map (fun k => (k.asid, k.stage, s.laterDone k)) = some (0, 4, 0) ∧ (s.job? 2).map (fun k => (k.asid, k.stage)) = some (0, 3) := by decide +kernel


theorem test_witness_FloatArithmeticResults :
    [0x80, 0x81, 0x82, 0x83, 0x84, 0x85, 0x86, 0x87, 0x88, 0x89, 0x8A, 0x8B].all (fun op => mayRun op (fld (.n 1) (.n 2) (.n 3) (.n 4) 8) ts) = true := by
  decide +kernel

theorem test_witness_CompareClassConvertAndFormats : [0x8C, 0x8D, 0x8E, 0x8F, 0x90, 0xB8, 0xB9].all (fun op => mayRun op (fld (.n 1) (.n 2) (.n 3) (.n 4) 8) formats) = true ∧
    (formats.fmtFor 8).isSome = true ∧ (formats.fmtFor 16).isSome = true ∧ (formats.fmtFor 23).isSome = true ∧ formats.th.spawned = false ∧
    formats.th.core = formats.th.anchor ∧ { tt with core := 1 }.core ≠ tt.anchor ∧ formats.th.images = [] ∧
    decodeVal (stdFmt 8) false 0x80000000 = .fin true 0 (-149) ∧ decodeVal (stdFmt 8) false 0x7F800000 = .inf false ∧
    decodeVal (stdFmt 8) false 0x7FC00000 = .nan false ∧ decodeVal (stdFmt 8) false 0x7F800001 = .nan true := by decide +kernel

theorem test_witness_VectorArithmeticResults : [0xA4, 0xA5, 0xA6, 0xA7, 0xA8, 0xA9, 0xAA].all (fun op => mayRun op (fv 2) formats) = true ∧
    (formats.vtyFor 2).map (fun T => (T.w, T.n)) = some (32, 8) ∧ (formats.vtyFor 16).map (fun T => T.n) = (formats.vtyFor 23).map (fun T => T.n) ∧
    [(fv 2).a, (fv 2).b, (fv 2).c].all (fun o => formats.th.vtag[vReg o] == 0x22) = true ∧ ts.th.vtag[vReg (fv 2).a] ≠ 0x22 := by decide +kernel

theorem test_witness_VectorReductionsAndMoves : [0xAB, 0xAC, 0xAD, 0xAE, 0xAF, 0xB0, 0xB4, 0xB5, 0xB6].all (fun op => mayRun op (fv 2) formats) = true ∧
    isInt 2 = true ∧ isInt 8 = false ∧ fbits 0x002 11 10 = 0 ∧ fbits 0x402 11 10 = 1 ∧ fbits 0xC02 11 10 = 3 ∧ (8 : Nat) ≤ (8 : W64).toNat ∧
    (7 : W64).toNat < 8 ∧ isNarrow 2 = false ∧ zType 32 = 6 := by decide +kernel

theorem test_witness_VectorConversions : [0xB1, 0xB2, 0xB3].all (fun op => mayRun op (fv 2) formats) = true ∧ formats.th.spawned = false ∧
    (formats.vtyFor 2).map (fun T => T.n) = some 8 ∧ (formats.vtyFor 4).map (fun T => T.n) = some 32 ∧
    (3 : Nat) < (max 32 8 + min 32 8 - 1) / min 32 8 ∧ (max 32 8 + min 32 8 - 1) / min 32 8 ≤ 4 ∧ 4 ≤ (4 : W64).toNat ∧ (3 : W64).toNat < 4 ∧
    (formats.format 0).isSome = true ∧ (formats.format 7).isSome = true ∧
    (formats.format 0).map (fun K => decide (2 + K.bs * 32 / 256 ≤ formats.th.vbud)) = some true ∧
    (formats.format 0).map (fun K => decide (formats.th.vbud < 7 + K.bs * 32 / 256)) = some true ∧
    (formats.format 0).map (fun K => decide (0 < codesOf K.fmt.width / K.bs)) = some true := by decide +kernel

/-- T0 is a whole tile of TYPE `.f32` and T1 one of 16 x 16 in the issue view; an unfold descriptor of a 16 x 16 tensor is defined. -/
def whole : Shape := ⟨128, 128, 0x28⟩
def unf : BitVec 5 × W64 × W64 × W64 := (8, 0, 0x0001000400100010, 0)
def seq1 : Sequencer :=
  { Sequencer.idle with
    view := #v[whole, ⟨16, 16, 0x28⟩, whole, whole, whole, whole, whole, whole], shape := Vector.replicate 8 whole
    issueUf := some unf, unfold := some unf }
def tiles1 : State := { ts with wgs := [{ tw with seq := seq1 }] }
def ftile (func : BitVec 12) (imm : BitVec 11) (ext : W64) : Fields := { fld .queue (.n 2) (.n 3) (.n 4) func with len := .l128, imm11 := imm, ext := ext }

/-- What `SequencerInstructionsEnterTheQueue` asks of a multiply of `.f32`. -/
def mulFits (op : Nat) (imm : BitVec 11) (ext a : W64) : Bool :=
  let m : Mul := ⟨op, 8, imm, ext, Narrow.std, Narrow.std⟩
  mayRun op (ftile 8 imm ext) tiles1 && m.cls == widthClass (typeWidth 8 Narrow.std) && mulD imm < tt.tiles && (!mulCV imm || mulC imm < tt.tiles) &&
    mulScalar m a seq1 == none && mulSplit m tiles1.wg == none && mulRegions m tiles1 tiles1.wg == none && mulCheckC m seq1 == none

theorem test_witness_SequencerInstructionsEnterTheQueue :
    [0xC0, 0xC1, 0xC2, 0xC3, 0xC4, 0xC7, 0xD8, 0xD9, 0xDA].all (fun op => mayRun op (ftile 8 0 0x0003C78020000000) tiles1) = true ∧
    seq1.queue.length < 64 ∧ 64 ≤ (List.replicate 64 (0 : Nat)).length ∧ ts.th.fwd = [] ∧ tt.tiles ≤ tileReg 2 ∧ tileReg 1 < tt.tiles ∧
    (ts.wg.seq.viewOf 0).tag = 0 ∧ (seq1.viewOf 0).tag ≠ 0 ∧ tileOff 0x0003C78020000000 % 4 = 0 ∧ tilePitch 0x0003C78020000000 % 4 = 0 ∧
    tiles1.typeFor 8 = some Narrow.std ∧ (tileStored tiles1.wg 8 0x0003C78020000000 Narrow.std).check tiles1 tiles1.wg = none ∧
    (seq1.viewOf 0).tag = accTag 8 ∧ tileRows 0x0003C78020000000 ≤ (seq1.viewOf 0).rows ∧ tileCols 0x0003C78020000000 ≤ (seq1.viewOf 0).cols ∧
    tileSrc 8 < tt.tiles ∧ tcvtSrcTag 0x400 = (seq1.viewOf 1).tag ∧ tcvtSrcTag 0x008 ≠ (seq1.viewOf 1).tag := by decide +kernel

theorem test_witness_SequencerInstructionsEnterTheQueue_unfold : let u := parseUnfold unf
    u.W ≠ 0 ∧ u.H ≠ 0 ∧ u.CH ≠ 0 ∧ u.N ≠ 0 ∧ 1 ≤ u.outH ∧ 1 ≤ u.outW ∧ u.base + u.bytes ≤ tw.localLen ∧ (ts.plaza 0).badBank (tw.lbase + u.base) u.bytes = none ∧
    (parseUnfold (8, 0, 0, 0)).W = 0 := by decide +kernel

theorem test_witness_SequencerInstructionsEnterTheQueue_multiply :
    mulFits 0xC8 72 0x0080200100020040 0 = true ∧ mulFits 0xC9 72 0x0080000040000040 0 = true ∧ mulFits 0xCA 72 0x0080200100020040 0 = true ∧
    mulFits 0xCB 0 0x0000200000020000 0 = true ∧ mulFits 0xCC 0 0x0080000100000000 0 = true ∧ mulFits 0xCD 0 0x0000200000020000 0 = true ∧
    mulFits 0xCE 0 0x0000200100020000 0 = true ∧ (⟨0xC8, 0x528, 64, 0, Narrow.std, Narrow.std⟩ : Mul).cls ≠ widthClass (typeWidth 9 Narrow.std) := by decide +kernel

theorem test_witness_SequencerInstructionsEnterTheQueue_cache : tauOk 0 = true ∧ tauOk 0x80000000 = true ∧ tauOk 0x3F800000 = true ∧
    lookupDesc ts (handleOf 2 0) = .hit dataEntry ∧ srcCheck dataEntry 0 1 0 = none ∧ dataEntry.wr = true ∧ offsetOf (handleOf 2 0) % cfgSize 0 = 0 ∧
    0 + cfgSlots 0x600 * cfgSize 0 ≤ dataEntry.length ∧ 2 ^ 32 ≤ (0x100000000 : W64).toNat ∧ fbits 0x001 1 0 = 1 ∧ (0xFFFF : W64).toNat < 2 ^ 16 := by decide +kernel

def seqi (op : BitVec 8) (func : BitVec 12) (imm : BitVec 11) (ext : W64) : SeqInstr :=
  { word := 0, op := op, func := func, imm11 := imm, ext := ext, a := 0, b := 0, c := 0, imgs := Vector.replicate 8 0, pc := code, batch := some 0, pos := 0,
    serial := 0, parts := 1, partsDone := 0 }
/-- The sequencer with batch 0 RUN and one instruction of it in the queue, stopped with a cause, or not. -/
def seq2 (i : SeqInstr) (cause : Nat) : Sequencer :=
  { seq1 with queue := [i], batches := #v[1, 2, 0, 0], cause := cause, lvalid := true, last := 3, held := cause != 0 }
def tiles2 (i : SeqInstr) (cause : Nat) (park : Option Sequencer) (hnd : Bool) : State :=
  { ts with
    wgs := [{ tw with seq := seq2 i cause, park := park }]
    th := { tt with hnd := hnd, status := if hnd then .handler else .ready } }
def tz : SeqInstr := seqi 0xC1 0 0 0
/-- An idle sequencer, with another set aside. -/
def tiles3 (hnd : Bool) : State :=
  { ts with wgs := [{ tw with seq := seq1, park := some seq1 }], th := { tt with hnd := hnd, status := if hnd then .handler else .ready } }

theorem test_witness_SequencerControl : [0xC5, 0xC6, 0xD0, 0xD1, 0xD2, 0xD3, 0xD4, 0xDB].all (fun op => mayRun op f2 (tiles2 tz 0 none false)) = true ∧
    tileReg 1 < tt.tiles ∧ (seq2 tz 0).queue.any (fun i => i.names 1) = false ∧ (seq2 tz 0).queue.any (fun i => i.names 0) = true ∧
    ((seq2 tz 0).shapeOf 1).tag ≠ 0 ∧ (127 : W64).toNat < ((seq2 tz 0).shapeOf 1).rows ∧ (127 : W64).toNat < ((seq2 tz 0).shapeOf 1).cols ∧
    (tiles2 tz 0 none false).tileBad (tiles2 tz 0 none false).wg 1 127 127 1 = false ∧
    (seq2 tz 0).nextNo = 0 ∧ (seq2 tz 0).holds 0 = true ∧ seq1.holds seq1.nextNo = false ∧ (seq2 tz 0).state 0 = 1 ∧ (seq2 tz 0).state 1 = 2 ∧
    (seq2 tz 0).stopped = false ∧ (seq2 tz 6).stopped = true ∧ (seq2 tz 6).queue ≠ [] ∧ fbits 3 1 0 = 3 := by decide +kernel

theorem test_witness_SequencerControl_park : mayRun 0xD5 f2 (tiles2 tz 0 none true) = true ∧ mayRun 0xD5 f2 ts = true ∧
    (tiles2 tz 0 none true).th.hnd = true ∧ (tiles2 tz 0 none true).wg.park = none ∧ (tiles2 tz 0 none true).seqFlight 1 = false ∧
    ((tiles2 tz 0 none true).takeArea (tiles2 tz 0 none true).wg).isSome = true ∧ mayRun 0xD6 f2 (tiles2 tz 6 (some seq1) true) = true ∧
    (tiles2 tz 6 (some seq1) true).wg.park = some seq1 ∧ (seq2 tz 6).stopped = true ∧ (seq2 tz 6).batches.any (· == 1) = true ∧
    mayRun 0xD6 f2 (tiles3 true) = true ∧ (tiles3 true).wg.park = some seq1 ∧ (tiles3 true).wg.seq.batches.any (· == 1) = false ∧ mayRun 0xD6 f2 ts = true := by
  decide +kernel

/-- An engine job in a state; the chain is in local memory at 0x40, in which a word of each entry stands. -/
def job1 (st : Nat) : EngJob :=
  { key := 1, wid := 1, id := 1, asid := 0, isLocal := true, chain := 0x40, first := 1, regions := [⟨true, 0, 0, 0x8000, true⟩], prio := 0, scope := 0, fstop := false,
    cb := some 0, restartable := true, keep := false, state := st, entry := 1, cause := 0, serial := 0, loops := [], started := false, after := 1, words := [],
    idxs := [], served := [], landed := [], failed := [], watch := none, met := false, deadline := 0, stopping := 0, heldKey := none, resume := false, got := [],
    scan := [], moved := 0 }
def engine (st : Nat) (net : List Msg) : State :=
  { ts with plazas := [{ State.reset.plaza 0 with jobs := [job1 st] }], nextId := 2, net := net, lmem := memWrite [] 0x40 (leBytes 8 1) }
def row : Msg := ⟨0, 0, 0, false, .engine 0 1 0 none data [0], .moving⟩

theorem test_witness_EngineInstructions : [0xE0, 0xE1, 0xE2, 0xE3, 0xE4, 0xE5].all (fun op => mayRun op f2 (engine 2 [])) = true ∧
    ts.th.spawned = false ∧ plazaOf ts.th.core = plazaOf ts.th.anchor ∧ (0x41 : W64).toNat % 32 ≠ 0 ∧ (0x40 : W64).toNat % 32 = 0 ∧
    cardBad [1, 0, 0, 0] = false ∧ cardBad [2, 0, 0, 0] = true ∧ (match cardRegions tw 0 0 0 [] with | .ok [] => true | _ => false) = true ∧
    findJob (engine 2 []) 1 (jobId 0x0100000000000000) = some (job1 2) ∧ findJob (engine 2 []) 1 (jobId 0) = none ∧
    (job1 1).live = true ∧ (job1 3).live = true ∧ (job1 4).live = false ∧ (job1 5).unfinished = true ∧ (job1 4).unfinished = false ∧
    (engine 2 [row]).inFlight 0 1 = true ∧ (engine 2 []).inFlight 0 1 = false ∧ (3 : W64).toNat < 4 ∧ 4 ≤ (4 : W64).toNat ∧
    bitOf (4 : BitVec 12).toNat 2 = true ∧ fbits 2 1 0 = 2 ∧ (job1 5).state = 5 ∧ (job1 5).cb ≠ none ∧ (job1 5).restartable = true := by decide +kernel

theorem test_witness_EngineInstructions_card : let s := engine 2 []
    readCard false 0x40 0 32 (fun bs s => { s with nextId := leNat bs + 77 }) s = { s with nextId := 78 } ∧
    (((s.plaza 0).jobs.filter (fun j => j.wid == 1)).filter EngJob.unfinished).length < 16 ∧ ((s.plaza 0).jobs.filter EngJob.unfinished).length < 64 ∧
    (∀ j ∈ (s.plaza 0).jobs, j.key < s.nextId) ∧ bitOf 1 18 = false ∧
    (match scanChain (cardWord false 0x40) 65536 1 s with | .error _ => false | .ok _ => true) = true := by decide +kernel

/-- The module between two steps: no thread executes. -/
def idle (l : List Thread) (net : List Msg) : State := { ts with th := Thread.blank, threads := l, net := net }
def msg (src dst vc : Nat) (b : Body) : Msg := ⟨src, dst, vc, false, b, .moving⟩
def taken0 (s : State) : Option Msg := (s.take 0).map Prod.fst
def left0 (s : State) : State := ((s.take 0).map Prod.snd).getD s

theorem test_witness_IssueAndWakeEvents : (idle [tt] []).issuing = [] ∧ ((idle [tt] []).core 0).stopped = false ∧ (idle [tt] []).dieUp 0 = true ∧
    (tt.canIssue 0 ((idle [tt] []).core 0).ccnt.toNat && !(idle [tt] []).savingAt tt) = true ∧ tt.canIssue 1 0 = false ∧
    { tt with since := 1 }.canIssue 0 0 = false ∧
    (let t := { tt with status := .sleeping, wait := .sleep, smode := 1, wake := 0 }
     (idle [t] []).thread? 1 = some t ∧ t.smode ≤ 1 ∧ t.wake.toNat ≤ ((idle [t] []).dtcOf t.wdie).toNat) ∧
    ((idle [] []).dtcOf 0).toNat < (1 : W64).toNat ∧
    (let t := { tt with status := .waiting, wait := .writes }
     (idle [t] []).thread? 1 = some t ∧ t.writes = []) ∧
    (let t := { tt with status := .waiting, wait := .writes, awaited := [9], writes := [⟨9, .home 0, 0, 1, false, far, .sent⟩] }
     (idle [t] []).thread? 1 = some t ∧ (∃ w ∈ t.writes, w.id ∈ t.awaited ∧ w.state = .sent) ∧ ∀ w ∈ t.writes, w.state = .sent) ∧
    (let t := { tt with status := .waiting, wait := .descriptor 0 2 }
     (idle [t] []).thread? 1 = some t ∧ (mapped (idle [t] [])).tableEntry 0 2 = some dataEntry) ∧ ts.gs.gangs = [] := by decide +kernel

/-- A thread of core 1 on its way to core 0, and its message. -/
def away : Thread := { tt with tid := 5, core := 1, status := .outbound }
def trip (l : List Thread) (aret : Bool) : State := idle (away :: l) [⟨1, 0, 0, aret, .context 5, .moving⟩]
/-- Landing slots 0 to 2 (and 3) of lane 0 of core 0 are taken. -/
def landed (n : Nat) : List Thread := (List.range n).map (fun k => { tt with tid := 10 + k, place := .landing k })
def child1 : Thread := { tt with tid := 6, spawned := true, core := 0, place := .gone }
def held1 (now : W64) : State :=
  { idle [{ tt with tid := 7, place := .staged 1 0, stalled := true }] [] with cores := [{ State.reset.core 0 with ccnt := now }] }

theorem test_witness_ContextTravelEvents : ts.gs.gangs = [] ∧ Memory.wf (trip [] false).mem = true ∧ taken0 (trip [] false) = some (msg 1 0 0 (.context 5)) ∧
    (left0 (trip [] false)).thread? 5 = some away ∧ (left0 (trip [] false)).launchCancelled away = false ∧
    (holdSlot away (left0 (trip [] false))).freeLanding 0 0 [0, 1, 2] = some 0 ∧
    (holdSlot away (left0 (trip (landed 2) false))).freeLanding 0 0 [0, 1, 2] = some 2 ∧
    (holdSlot away (left0 (trip (landed 3) false))).freeLanding 0 0 [0, 1, 2] = none ∧
    (holdSlot away (left0 (trip (landed 3) true))).freeLanding 0 0 [0, 1, 2, 3] = some 3 ∧
    (holdSlot away (left0 (trip (landed 4) true))).freeLanding 0 0 [0, 1, 2, 3] = none ∧
    (holdSlot away (left0 (trip (landed 3) false))).staging 0 + away.cells ≤ 256 ∧
    (let s := trip ((List.range 19).map (fun k => { tt with tid := 20 + k, place := .staged 2 0 })) false
     taken0 s = some (msg 1 0 0 (.context 5)) ∧ 256 < (holdSlot away (left0 s)).staging 0 + away.cells ∧
     (holdSlot away (left0 s)).allThreads.any (fun u => u.waitsLanding 0 0) = true) ∧
    (trip [] false).allThreads.any (fun u => u.waitsLanding 0 0) = false ∧ (held1 0).allThreads.any (fun u => u.waitsLanding 0 0) = true ∧
    taken0 (idle [] [msg 1 0 0 (.spawn child1 3 1)]) = some (msg 1 0 0 (.spawn child1 3 1)) ∧
    (let s := trip [{ tt with tid := 7, place := .staged 1 0 }] false
     s.net[0]? = some (msg 1 0 0 (.context 5)) ∧ s.reachable 0 = true ∧ s.comesIn 0 (msg 1 0 0 (.context 5)) = true ∧
     s.follows 0 (msg 1 0 0 (.context 5)) = true) := by decide +kernel

theorem test_witness_ContextTravelEvents_waiting : ((held1 4096).thread? 7).map Thread.place = some (.staged 1 0) ∧ 0 + 4096 ≤ ((held1 4096).core 0).ccnt.toNat ∧
    (held1 4096).areaRoom 0 = true ∧
    (firstArrived (held1 4096) (fun t => t.core == 0 && t.stalled && t.place.held.isSome)).map Thread.tid = some 7 ∧
    (let t := { tt with tid := 7, place := .area false 8192, status := .overflow }
     (idle [t] []).slotTaken 0 0 (24 + 3) = false ∧ (idle [t] []).nextHeld 0 = false ∧
     firstArrived (idle [t] []) (fun t => t.waitsLanding 0 0 && t.isReturn) = some t) ∧
    (let s := idle (landed 1) []
     (List.range 24).find? (fun k => !s.slotTaken 0 0 k) = some 0 ∧
     firstArrived s (fun t => t.core == 0 && t.lane == 0 && t.status != .outbound && (match t.place with | .landing _ => true | _ => false)) = (landed 1).head?) ∧
    (let s := idle [] [msg 0 1 2 (.accepted 5)]
     taken0 s = some (msg 0 1 2 (.accepted 5)) ∧ ((left0 s).core 1).leaving.length ≤ 1) ∧
    (let s := { idle [] [] with plazas := [{ State.reset.plaza 0 with spawnQ := [child1] }] }
     (s.plaza 0).spawnQ.find? (fun t => t.lane == 0) = some child1 ∧ s.freeLanding 0 0 [0, 1, 2] = some 0 ∧
     (List.range 8).find? (fun c => (s.freeLanding (8 * 0 + c) 0 [0, 1, 2]).isSome && !s.allThreads.any (fun u => u.waitsLanding (8 * 0 + c) 0)) = some 0) ∧
    (let t := { tt with status := .parkedMonitor }
     (idle [t] []).thread? 1 = some t ∧ t.slotNo.isSome = true ∧ (idle [t] []).areaRoom 0 = true) := by decide +kernel

/-- A core whose general entries are all taken. -/
theorem test_witness_ContextTravelEvents_full : ∃ l : List Thread, (idle l []).areaRoom 0 = false := by
  have h : ∀ n : Nat, ((idle (List.replicate n { tt with place := .area false 8192 }) []).areaUsed 0 false).length = n := by
    intro n
    have hq : (idle (List.replicate n { tt with place := .area false 8192 }) []).allThreads = List.replicate n { tt with place := .area false 8192 } := rfl
    rw [State.areaUsed, hq]
    induction n with
    | zero => rfl
    | succ n ih => rw [List.replicate_succ, List.filterMap_cons]; exact congrArg (· + 1) (ih rfl)
  exact ⟨_, by rw [State.areaRoom, h 24576]; rfl⟩

/-- A request of thread 1 at core 0 for the bytes of `far`, at core 1. -/
def asks (kind : ReqKind) : Request := { Request.blank with who := .thread 1, handle := far, size := 8, kind := kind, ty := 7 }
def posted (b : Body) : State := idle [{ tt with wait := .answer (.monitor 8), status := .waiting }] [msg 0 1 0 b]

theorem test_witness_PortRequestEvents : taken0 (posted (.read (asks .read))) = some (msg 0 1 0 (.read (asks .read))) ∧
    Machine.translate (left0 (posted (.read (asks .read)))) 1 0 far 0 8 = .page farEntry ⟨0, 3, 0⟩ farPme 0x40 ∧
    Machine.translate (left0 (posted (.read (asks .read)))) 1 0 far (asks .write).right 8 = .page farEntry ⟨0, 3, 0⟩ farPme 0x40 ∧
    Machine.translate (left0 (posted (.read (asks .read)))) 1 0 far (asks .atomic).right 8 = .page farEntry ⟨0, 3, 0⟩ farPme 0x40 ∧
    ts.gs.gangs = [] ∧ Memory.wf (posted (.read (asks .read))).mem = true ∧ (asks .read).trans = none ∧
    farPme.tier = 0 ∧ farPme.wb = false ∧ farPme.core = 1 ∧ farEntry.leased = false ∧ ((posted (.read (asks .read))).port 1).walking = [] ∧
    ((posted (.read (asks .read))).port 1).wbQ = [] ∧ farPme.byteAt 0x40 = 0x80010040 ∧ 0x80010040 / 2 ^ 31 = 1 ∧
    ((posted (.read (asks .read))).port 1).holdQ.any (fun x => x.1 == ⟨0, 3, 0⟩) = false ∧
    ((posted (.read (asks .read))).port 1).throttledIn (rowsAt 0x80010040 8) = none ∧ (posted (.read (asks .read))).poisoned 0x80010040 8 = false ∧
    (asks .read).monitor = false ∧ (asks .read).lease = false ∧ { asks .write with data := List.replicate 8 1 }.data.length = (asks .write).size ∧
    ((posted (.read (asks .read))).die 0).dlease ≠ 0 ∧ ((posted (.read (asks .read))).port 1).leases = [] ∧
    (left0 (posted (.arm { asks .read with monitor := true }))).armWanted (.thread 1) = true ∧ condHolds 0 7 0 0 = true := by decide +kernel

/-- Thread 1 waits for an answer, which is on its way. -/
def waits (c : Cont) (b : Body) : State := idle [{ tt with status := .waiting, wait := .answer c }] [msg 1 0 1 b]
def answered (c : Cont) (b : Body) : Bool :=
  taken0 (waits c b) == some (msg 1 0 1 b) && (left0 (waits c b)).waiter 1 0 == some ({ tt with status := .waiting, wait := .answer c }, c)

theorem test_witness_AnswerEvents : answered (.load (.n 3) 7 8) (.data 1 0 (List.replicate 8 0) 0 0) = true ∧
    answered (.vload 3 2 256 8) (.data 1 0 (List.replicate 32 0) 0 0) = true ∧ answered (.load (.n 3) 7 8) (.data 1 0 [] 0 0x0D) = true ∧
    answered (.atomic .queue 7 8) (.result 1 5 true 0 0 0) = true ∧ answered (.scond 6 8) (.result 1 5 true 0 0 0) = true ∧
    answered (.release 0 8) (.release 1 true) = true ∧ answered (.view 3 .queue 8) (.boardReply 1 View.empty 0 0) = true ∧
    answered (.slot 0 .queue 8) (.boardReply 1 View.empty 7 0) = true ∧ answered (.monitor 8) (.wake 1 0) = true ∧
    tt.late = none ∧ ((waits (.load (.n 3) 7 8) (.data 1 0 [] 0 0)).core 0).fills = [] ∧ (List.replicate 8 (0 : Byte)).length = width 7 / 8 ∧ (0x0D : Nat) ≠ 0 ∧ View.empty.status.toNat < 2 := by decide +kernel

def sent1 (st : WriteState) : SentWrite := ⟨9, .home 0, 0, 1, false, far, st⟩
def acked (b : Body) (t : Thread) : Bool := taken0 (idle [t] [msg 1 0 2 b]) == some (msg 1 0 2 b) && (left0 (idle [t] [msg 1 0 2 b])).thread? 1 == some t

theorem test_witness_MessageEvents_writes : acked (.ack 1 9 0 0) { tt with writes := [sent1 .sent] } = true ∧
    acked (.ack 1 9 0 6) { tt with writes := [sent1 .sent] } = true ∧ [sent1 .sent].find? (fun x => x.id == 9) = some (sent1 .sent) ∧
    (sent1 .sent).core = tt.core ∧ (∀ w ∈ ({ tt with writes := [sent1 (.until 0)] } : Thread).writes, ∃ u, w.state = .until u ∧ u.toNat ≤ ((idle [] []).dtcOf (dieOf w.core)).toNat) ∧
    ((idle [] []).port 0).ackHold = [] := ⟨by decide +kernel, by decide +kernel, by decide +kernel, by decide +kernel,
      fun w h => ⟨0, by simp_all [sent1], Nat.zero_le _⟩, by decide +kernel⟩

theorem test_witness_MessageEvents : let q := fun (b : Body) => taken0 (idle [] [msg 1 0 2 b]) == some (msg 1 0 2 b)
    let bank := ((left0 { queues 1 1 with th := Thread.blank, net := [msg 1 0 0 (.entry 0 0 (List.replicate 8 7) 0 0)] }).plaza 0).mode 0
    q (.grant queue1 8 2 2 0 0 true) = true ∧ ((idle [] []).core 0).credit? queue1 = none ∧ ((idle [] []).core 0).credits.length < 32 ∧
    q (.credit queue1) = true ∧ ((queues 1 1).core 0).credit? queue1 = some ⟨0, queue1, 8, 2, 1, 0, 0⟩ ∧ q (.revoke queue1 0 0 true) = true ∧
    bank = .fifo 8 2 0 1 1 none ∧ q (.entry 0 0 (List.replicate 8 7) 0 0) = true ∧ q (.revokeReply 0 0) = true ∧
    (let p : PlazaSt := { State.reset.plaza 0 with banks := [(0, .fifo 8 2 0 0 0 none)], stages := [(0, 1, .revoking .scratch)] }
     p.mode 0 = .fifo 8 2 0 0 0 none ∧ p.stage? 0 = some (1, .revoking .scratch)) ∧
    q (.barrier 0 1 0 [] 1) = true ∧ (meeting.die 0).barriers.find? (fun b => b.index == 1 && b.asid == 0) = some barrier1 ∧
    (meeting.die 0).syeFull.contains (barrierObject 1) = false ∧ barrier1.broken = false ∧ barrier1.arrivals + 1 = barrier1.parties ∧
    (meeting.die 0).barrier? 1 = some barrier1 ∧ q (.board 0 1 0 1 7 1 0 0) = true ∧
    (meeting.die 0).boards.find? (fun b => b.index == 1 && b.asid == 0) = some board1 ∧ (meeting.die 0).board? 1 = some board1 ∧
    (meeting.die 0).syeFull.contains (boardObject 1) = false ∧ bitOf board1.mask.toNat 1 = false ∧
    q (.kick 1 true 1 0) = true ∧ (ts.wgBy 1).wid = 1 ∧ q (.exitNotice 1 0) = true := by decide +kernel

theorem test_witness_MessageEvents_phase : let g := { tw with wgsize := 1, bar := Vector.replicate 16 ⟨0, 1, 1⟩, seq := { tw.seq with batches := #v[2, 0, 0, 0] } }
    g.wid = 1 ∧ (g.barOf 15).arrived ≠ 0 ∧ g.wgsize ≤ (g.barOf 15).arrived + g.exited.length ∧
    (∀ b : Fin 4, bitOf (g.barOf 15).bmask.toNat b.val = true → g.seq.state b.val ≠ 1) ∧ ({ State.reset.die 0 with syeFull := [3] } : DieSt).syeFull = [3] := by
  decide +kernel

/-- Bytes at `data`, with buffer 2 in the table; nothing executes. -/
def at1 (s : State) (bs : List Byte) : State := { mapped s with mem := memWrite (mapped s).mem 0x10040 bs }
def withHub (s : State) (h : HubSt) : State := { s with hubs := #v[h, HubSt.blank 1] }
def move1 (stage : Nat) : Move :=
  { asid := 0, ring := data, index := 0, port := 0, key := ⟨0, 5, 0⟩, pmeAt := 0x50000, old := { dataPme with frame := 3 }, new := { dataPme with frame := 4 }, stage := stage, mapOut := false, handle := 0 }
def arrives (b : Body) (dst : Nat) : Bool := taken0 (idle [] [msg 1 dst 2 b]) == some (msg 1 dst 2 b)

/-- A request that its home port has translated: page 0 of buffer 2 at core 0, for a thread at core 1. -/
def moved (r : Request) (p : Pme) : Request := { r with handle := data, trans := some ⟨0, 1, 0, dataEntry, ⟨0, 2, 0⟩, p, 0x40, none⟩ }

theorem test_witness_PagingEvents : ts.gs.gangs = [] ∧ Memory.wf (idle [] []).mem = true ∧ ((idle [] []).port 0).walking = [] ∧ (idle [] []).walkPme 0 ⟨0, 2, 0⟩ = none ∧
    (let s := fun (t : W64) => ({ idle [] [] with ports := [{ ts.port 0 with unposted := [(⟨0, 2, 0⟩, leBytes 32 0, t)] }] } : State)
     (∀ x ∈ ((s 1).port 0).unposted, ((s 1).dtcOf 0).toNat < x.2.2.toNat) ∧ ((s 0).port 0).unposted = [(⟨0, 2, 0⟩, leBytes 32 0, 0)] ∧
     (0 : W64).toNat ≤ ((s 0).dtcOf 0).toNat) ∧
    ((withHub (idle [] []) { HubSt.blank 0 with up := true, faultLen := 4 }).postBytes (leBytes 32 0)).isSome = true ∧ (idle [] []).postBytes (leBytes 32 0) = none ∧
    arrives (.inval 0 0 2 0 1) 0 = true ∧ (idle [] []).heldFor (covers (idle [] []) 0 0 2 0 1) (· == 0) = false ∧
    (idle [] [msg 0 1 1 (.store (moved (asks .write) dataPme))]).heldFor (covers (idle [] []) 0 0 2 0 1) (· == 0) = true ∧
    arrives (.invalAnswer 0 0) 0x200 = true ∧
    ((withHub (idle [] []) { HubSt.blank 0 with inval := some ⟨7, 0, 1, none⟩ }).hub 0).inval = some ⟨7, 0, 1, none⟩ ∧
    arrives (.wbNotice 0 ⟨0, 2, 0⟩) 0 = true ∧ (idle [] []).pageOf 0 ⟨0, 2, 0⟩ = some dataPme ∧ arrives (.wbAck 0) 0x200 = true ∧
    arrives (.sector 0 0 (List.replicate 2048 0)) 0 = true ∧ (List.replicate 2048 (0 : Byte)).length = 2048 ∧ ((idle [] []).port 0).mscWait = [] ∧
    arrives (.writeBackAck 0) 0 = true ∧ ((idle [] []).port 0).mscBusy.find? (fun y => y.1 == 0) = none ∧
    arrives (.hostRead (moved (asks .read) dataPme) 0 3 0) 0x200 = true ∧ ((idle [] []).hub 0).trackers = [] ∧ (idle [] []).poisoned (hostAt 3 0) 8 = false ∧
    ((idle [] []).port 0).wbQ = [] := by decide +kernel

/-- A walk that finds a page: entry 2 of the buffer table, the level-1 map at 0x30000 and a page-map entry at 0x40000. -/
theorem test_witness_PagingEvents_walk : let s := mapped (idle [] [])
    ({ s with mem := memWrite (memWrite s.mem 0x30020 (leBytes 8 0x40000 ++ leBytes 8 1)) 0x40000 (leBytes 8 0x1001D) } : State).walkPme 0 ⟨0, 2, 0⟩ =
      some dataPme := by decide +kernel

theorem test_witness_PagingEvents_rings : let s := at1 (withHub (idle [] []) { HubSt.blank 0 with rings := [(0, data)] }) (leBytes 8 1)
    (s.hub 0).rings.find? (fun r => r.1 == 0) = some (0, data) ∧ (s.hub 0).move = none ∧ (s.hub 0).moveHold = none ∧ (s.hub 0).request = none ∧
    (s.readBuf (.hub 0) 0 data 16).toOption.map (fun x => (wordAt x.1 0, wordAt x.1 1)) = some (1, 0) ∧
    ((at1 s []).readBuf (.hub 0) 0 data 16).toOption.map (fun x => (wordAt x.1 0, wordAt x.1 1)) = some (0, 0) ∧
    ((s.readBuf (.hub 0) 0 data 16).toOption.bind (fun y => (y.2.readBuf (.hub 0) 0 (handleAdd data (0x40 + 32 * (0 % 16))) 32).toOption)).map
      (fun x => x.1.length) = some 32 := by decide +kernel

/-- Buffer 4 is of tier CAP, with one page at core 0, whose entry stands at 0x40000. -/
def capEntry : BufEntry := { dataEntry with tier := 1 }
def capState (hub : HubSt) (word : Nat) (p : Pme) (pools : List (Nat × List Nat)) : State :=
  let s := at1 (withHub (idle [] []) hub) []
  { s with
    ports := [{ s.port 0 with mtlb := (⟨0, 4, 0⟩, p) :: (s.port 0).mtlb, pools := pools }]
    mem := memWrite (memWrite (memWrite s.mem 0x20100 (leBytes 8 65536 ++ leBytes 8 (0x1F + 2 ^ 14 + 2 ^ 32) ++ leBytes 48 0)) 0x30040
      (leBytes 8 0x40000 ++ leBytes 8 1)) 0x40000 (leBytes 8 word) }
def request1 (w1 : Nat) : MoveRequest := ⟨0, data, 0, handleOf 4 0, w1, 0⟩
def held4 (w1 : Nat) (p : Pme) (pools : List (Nat × List Nat)) : State := capState { HubSt.blank 0 with request := some (request1 w1) } (pmeWord p) p pools
def page4 : Pme := { dataPme with tier := 1, frame := 3 }

theorem test_witness_PagingEvents_requests : let s := held4 0 page4 [(0, [4])]
    (s.hub 0).moveHold = none ∧ (s.hub 0).move = none ∧ (s.hub 0).request = some (request1 0) ∧ s.tableEntry 0 4 = some capEntry ∧
    offsetOf (request1 0).h < capEntry.length ∧ (homeLoc s.conf.lc capEntry 0).home = 0 ∧ (homeLoc s.conf.lc capEntry 0).page = 0 ∧
    s.pageOf 0 ⟨0, 4, 0⟩ = some page4 ∧ s.pmeAt 0 4 (0 * setSize s.conf.lc capEntry + posOf s.conf.lc capEntry 0) = some 0x40000 ∧
    0x400 / 2 ^ 12 = 0 ∧ bits 0x400 11 10 = 1 ∧ pickFrame s 0 0 0 page4 false = some (0, 4, { page4 with tier := 0, frame := 4 }) ∧
    pickFrame (held4 0 page4 []) 0 0 0 page4 false = none ∧ (held4 0 { page4 with pin := true } []).pageOf 0 ⟨0, 4, 0⟩ = some { page4 with pin := true } ∧
    ([0x02, 0x80, 0x82].all fun st => (match finishMove 0 0 data 0 0 st s with | .ok _ => true | .error _ => false)) = true := by decide +kernel

theorem test_witness_PagingEvents_moves : let v := { move1 1 with key := ⟨0, 4, 0⟩, pmeAt := 0x40000, old := page4, new := { page4 with frame := 4 } }
    let s := fun (v : Move) => capState { HubSt.blank 0 with move := some v } (pmeWord page4 + 32) { page4 with wb := true } []
    ((s v).hub 0).move = some v ∧ ((s v).hub 0).moveHold = none ∧ (s v).heldFor (· == v.key) (fun _ => true) = false ∧
    ({ s v with net := [msg 0 1 1 (.store { moved (asks .write) dataPme with trans := some ⟨0, 1, 0, capEntry, ⟨0, 4, 0⟩, page4, 0x40, none⟩ })] } : State).heldFor
      (· == v.key) (fun _ => true) = true ∧
    parsePme v.old.core (memNat (s v).mem v.pmeAt 8) = some { page4 with wb := true } ∧
    v.sectorBusy (s v) = false ∧ { v with stage := 0 }.stage = 0 ∧
    (match switchPage (.hub 0) v { page4 with wb := true } (s v) with
      | .error _ => false
      | .ok s1 =>
        let s2 := s1.putHub 0 { s1.hub 0 with move := some { v with stage := 4 } }
        s1.gs.gangs.isEmpty && s1.net.isEmpty && !(s2.port v.port).wbQ.any (fun x => x.1 == v.key) && !s2.writesAhead v.port v.key &&
          (match finishMove 0 0 data 0 (v.new.frame % 2 ^ 31) 2 s2 with | .ok s3 => s3.gs.gangs.isEmpty && s3.net.isEmpty | .error _ => false)) = true ∧
    (let q : PortSt := { State.reset.port 0 with wbQ := [(v.key, 1, moved (asks .write) page4)] }; q.wbQ.any (fun x => x.1 == v.key) = true) ∧
    (match moveState 0 0 data 0 (v.new.frame % 2 ^ 31) 1 (s { v with stage := 0 }) with | .ok _ => true | .error _ => false) = true := by
  decide +kernel

def capPme : Pme := { dataPme with tier := 1 }
/-- A carve-out at core 0, and a request for `data`, whose page is of tier CAP, that waits for its sector; a read of a throttled row of tier HBM. -/
def mscAt (g : PortSt → PortSt) : State :=
  { mapped (idle [] []) with
    ports := [g { State.reset.port 0 with carve := 1, mtlb := [(⟨0, 2, 0⟩, capPme)], mscWait := [(32, 1, moved (asks .read) capPme)],
                                          rowHold := [(5, 1, moved (asks .read) dataPme)], rowNext := [(5, 0)] }] }
def msc : State := mscAt id

theorem test_witness_MemorySideAndCommandEvents : ts.gs.gangs = [] ∧ (msc.port 0).sectorFirst 33 = none ∧
    ((msc.port 0).sectorFirst 32).map (fun x => (x.1, x.2.1)) = some (1, moved (asks .read) capPme) ∧
    (moved (asks .read) capPme).trans.map (fun x => (x.unit, x.cell - 2 ^ 42)) = some (0, capPme.byteAt 0x40 - 2 ^ 42) ∧
    (msc.port 0).poisonIdx = [] ∧ ((mscAt fun q => { q with poisonIdx := [32] }).port 0).poisonIdx.contains 32 = true ∧
    (((mscAt fun q => { q with msc := [(32, 1, 0)] }).port 0).line 32).2.2.2 = false ∧ (msc.port 0).id = 0 ∧
    (msc.port 0).mscBusy = [] ∧ ((mscAt fun q => { q with mscBusy := [(32, 0, 1)] }).port 0).mscBusy.any (fun x => x.1 == 32) = true ∧
    (msc.port 0).caches (capPme.byteAt 0x40 - 2 ^ 42) = false ∧ (msc.port 0).line 32 = (false, false, 0, true) ∧ msc.capUp (capPme.byteAt 0x40 - 2 ^ 42) = true ∧
    (msc.port ((msc.port 0).sectorAt 32 0 / 2 ^ 31)).throttled = [] ∧
    (let s := mscAt fun q => q.setLine 32 true false 0
     ((s.port 0).line 32).2.2.2 = true ∧ (s.port 0).caches (capPme.byteAt 0x40 - 2 ^ 42) = true ∧ capPme.tier = 1 ∧ capPme.core = 0 ∧
     (s.port 0).throttledIn (rowsAt (s.phys capPme 0x40) 8) = none ∧ s.poisoned (s.phys capPme 0x40) 8 = false ∧ (s.port 0).wbQ = []) := by decide +kernel

theorem test_witness_MemorySideAndCommandEvents_rows : msc.rowWindow 0 = (msc.die 0).window ∧
    (let s := { idle [] [] with dies := [{ State.reset.die 0 with window := 5 }] }; s.rowWindow 0 ≠ (s.die 0).window) ∧ (∀ q ∈ (idle [] []).ports, q.rowHold = []) ∧
    (msc.port 0).rowNext.find? (fun x => x.1 == 5) = some (5, 0) ∧ (msc.port 0).rowHold = [(5, 1, moved (asks .read) dataPme)] ∧
    (0 : W64).toNat ≤ (msc.dtcOf (dieOf 0)).toNat ∧ ((mscAt fun q => { q with rowNext := [(5, 1)] }).dtcOf 0).toNat < (1 : W64).toNat ∧
    dataPme.tier = 0 ∧ msc.poisoned (dataPme.byteAt 0x40) 8 = false ∧ (msc.port 0).wbQ = [] := by decide +kernel

/-- A layer map-out of layer 0 of stack 0 under way, with one page left there. -/
def mapping : State :=
  let s := mapped (idle [] [])
  { s with
    mgmt := { s.mgmt with mapOut := some (0, 0, true) }
    ports := [{ s.port 0 with pools := [(0, [1536])] }]
    mem := memWrite (memWrite s.mem 0x30020 (leBytes 8 0x40000 ++ leBytes 8 1)) 0x40000 (leBytes 8 0x1001D) }

theorem test_witness_MemorySideAndCommandEvents_mapOut : mapping.mgmt.mapOut = some (0, 0, true) ∧ (∀ h ∈ mapping.hubs, h.move = none) ∧
    mapping.presentPages.find? (fun x => x.2.2.2.2.tier == 0 && (stackCores 0).contains x.2.2.2.2.core && x.2.2.2.2.frame / 1536 == 0) =
      some (⟨0, 2, 0⟩, handleOf 2 0, 0, 0x40000, dataPme) ∧ mapping.hubOf 0 < 2 ∧ (mapping.hub (mapping.hubOf 0)).request = none ∧
    (mapping.hub (mapping.hubOf 0)).moveHold = none ∧ newFrame mapping 0 dataPme = some (0, 1536, { dataPme with frame := 1536 }) ∧
    mapping.resIn 0 0 = [] := by decide +kernel

theorem test_witness_MemorySideAndCommandEvents_layers : layersLeft ((idle [] []).mgmt.stack 0).2 = 16 ∧ layersLeft 0x0FFF = 12 ∧ layersLeft 0x1FFF = 13 ∧
    ((idle [] []).mgmt.stack 0).2.getLsbD 15 = true ∧ (idle [] []).mgmt.mapOut = none ∧ (∀ h : Fin 2, (idle [] []).hubs[h].move = none) ∧
    (∀ c ∈ stackCores 0, ((idle [] []).port c).msc = [] ∧ (idle [] []).resIn c 0 = []) ∧ ((idle [] []).presentPages.find? (fun _ => true)).isNone = true ∧
    (let s := { idle [] [] with ports := [{ State.reset.port 31 with uel := Vector.replicate 16 4 }] }
     31 ∈ stackCores 0 ∧ 4 ≤ (vget (s.port 31).uel 0 0).toNat) := by decide +kernel

theorem test_witness_MemorySideAndCommandEvents_commands : let s := mapped (idle [] [])
    s.hubUp 0 = true ∧ s.hubBusy 0 = false ∧ bits (0x0B : Nat) 63 22 = 0 ∧ bits (0x0C : Nat) 7 0 = 0x0C ∧ bits 0x400009 63 22 ≠ 0 ∧ s.bases 0 ≠ none ∧ s.bases 1 = none ∧
    bits 1 3 0 < 8 ∧ s.conf.admitted.getLsbD 1 = true ∧ bits 0x200001 21 20 = 2 ∧ s.portEntry 1 0 9 = none ∧ (s.portEntry 0 0 2).isSome = true ∧
    (s.port 0).holdQ = [] ∧ (s.port 0).readHold = [] ∧ (s.port 0).walking = [] ∧ s.th.tid = 0 ∧ bits 0x1FF0000 25 16 < 512 ∧
    s.conf.admitted.getLsbD (dieOf 511) = false ∧ s.conf.admitted.getLsbD (dieOf 0) = true ∧
    s.job? 3 = none ∧ s.gs.gangs = [] ∧ s.gs.suspends = [] ∧
    (let u : State := { s with gs := { s.gs with jobs := [{ tj with num := 3, tcbs := [] }] } }
     (u.job? 3).map (fun j => (j.asid, j.tcbs.length, j.stage, j.suspended)) = some (0, 0, 3, false)) := by decide +kernel

def gang1 : Gang :=
  { asid := 0, job := 0, launch := 0, gang := 0, tcb := 0, die := 0, run := 0, width := 1, prio := 0, state := .running, order := 0, saveArea := false, base := 0, reason := 0,
    live := 1, savedN := 0, target := none, barred := none, helped := false, images := [] }
/-- The workgroup of a running gang, with one instruction in its sequencer. -/
def stepping (i : SeqInstr) (begun : Bool) : State :=
  { idle [] [] with wgs := [{ tw with seq := { seq2 i 0 with begun := begun } }], gs := { State.reset.gs with gangs := [gang1] } }

theorem test_witness_SequencerStepEvents : let s := stepping tz false
    let x := s.wgBy 1
    x.wid = 1 ∧ x.seq.pendingCommit = false ∧ { x.seq with pendingCommit := true }.pendingCommit = true ∧ x.seq.holds 2 = false ∧
    s.gangOf x = some gang1 ∧ gang1.state = .running ∧ nextPart x = none ∧ x.seq.probe.writes = [] ∧ x.seq.queue = [tz] ∧ x.seq.held = false ∧ x.seq.ownDone = false ∧
    s.seqFlight 1 = false ∧ tz.parts = 1 ∧ tz.partsDone = 0 ∧ Memory.wf s.lmem = true ∧ Memory.wf s.tmem = true ∧ x.seq.begun = false ∧ x.seq.step = 0 ∧
    (s.plaza 0).doomed = [] ∧ (s.plaza 0).items = [] ∧ (s.plaza 0).jobs = [] ∧
    x.seq.state 0 = 1 ∧ (∀ m : Fin 4, x.seq.holds m.val = true → m.val = 0) := by decide +kernel

theorem test_witness_SequencerStepEvents_tiles : let i := seqi 0xC2 8 0 0x0003C78020000000
    let s := stepping i false
    let x := s.wgBy 1
    let gr := tileStored x i.func i.ext Narrow.std
    typeOf i.func = 8 ∧ ctlBit i.func 7 = false ∧ 0 < gr.rows ∧ 4 * gr.len ≤ gr.pitch ∧
    (List.range gr.rows).all (fun r => (match fetchLocal s 0 (gr.base + r * gr.pitch) (4 * gr.len) with | .ok bs => bs.length == 4 * gr.len | .error _ => false) &&
      !s.tileBad x 0 r 0 gr.len && ((s.plaza 0).badBank (gr.base + r * gr.pitch) (4 * gr.len)).isNone) = true ∧
    (match runTileStep x (seqi 0xC2 8 0 0x0003C7800003FFFC) { s with plazas := [{ State.reset.plaza 0 with banks := [(7, .cache), (8, .cache), (0, .cache), (1, .cache)] }] } with
      | .error c => c != 0 | .ok _ => false) = true := by decide +kernel

theorem test_witness_SequencerStepEvents_multiply : let i := seqi 0xC8 8 64 0x0080200100020040
    let s := stepping i true
    let x := s.wgBy 1
    x.seq.begun = true ∧ x.seq.step < mulSteps i.ext ∧ mulSteps i.ext = 2 ∧ mulN i.ext ≤ 128 ∧
    (List.range (mulM i.imm11)).all (fun r => !s.tileBad x 0 r 0 (mulN i.ext) &&
      (match fetchRow s 0 (i.mul.regA x.lbase) i.imgs false r 0 i.mul.ks with | .ok l => l.length == i.mul.ks | .error _ => false)) = true ∧
    mulBT i.imm11 = false ∧ (List.range i.mul.ks).all (fun k =>
      (match fetchRow s 0 (i.mul.regB x.lbase) i.imgs false (k + 0) 0 (mulN i.ext) with | .ok l => l.length == mulN i.ext | .error _ => false)) = true := by
  decide +kernel

/-- A running job whose next entry has the given words. -/
def chain (j : EngJob) (x a b c : Nat) : State :=
  { idle [] [] with
    plazas := [{ State.reset.plaza 0 with jobs := [j] }]
    lmem := memWrite [] 0x60 (leBytes 8 x ++ leBytes 8 a ++ leBytes 8 b ++ leBytes 8 c) }
def entry (x a b c : Nat) : Bool :=
  match chainAt 0 ((chain (job1 2) x a b c).wgBy 1) (job1 2) 1 (chain (job1 2) x a b c) with
  | .ok (l, s1) => l == [x, a, b, c] && s1 == chain (job1 2) x a b c
  | .error _ => false

theorem test_witness_EngineJobEvents : let p := (chain (job1 1) 0 0 0 0).plaza 0
    (p.jobs.filter (fun j => j.state == 2 || j.state == 3)).length < 4 ∧ 4 ≤ ((List.replicate 4 (job1 3)).filter (fun j => j.state == 2 || j.state == 3)).length ∧
    p.blocked (job1 1).serial (job1 1).regions = false ∧ ((chain (job1 2) 0 0 0 0).plaza 0).job? 1 = some (job1 2) ∧ (job1 2).cause = 0 ∧ (job1 2).watch = none ∧
    (job1 2).heldKey = none ∧ (chain (job1 2) 0 0 0 0).inFlight 0 1 = false ∧ (job1 2).stopping = 0 ∧ (job1 2).landed = [] ∧ { job1 2 with started := true }.todo = [] ∧
    (let j := { job1 2 with watch := some (0x40, 8, 0, 1), deadline := 1 }
     let s := chain j 0 0 0 0
     (s.plaza 0).job? 1 = some j ∧ j.met = false ∧ (s.plaza 0).badBank 0x40 8 = none ∧ s.localRead 0 0x40 8 ≠ none ∧
     (s.dtcOf (0 / 8)).toNat < j.deadline.toNat ∧ (0 : W64).toNat ≤ (s.dtcOf (0 / 8)).toNat) ∧
    ({ State.reset.plaza 0 with banks := [(0, .cache)] }.badBank 0x40 8).isSome = true := by decide +kernel

theorem test_witness_EngineJobEvents_entries : entry 0 0 0 0 = true ∧ entry 0x13 0 0 0 = true ∧ 0x13 % 256 ∉ [0, 0x10, 0x11, 0x12, 0x20, 0x21, 0x22] ∧
    (let j := { job1 2 with entry := 3 }; j.first ≤ bits 0x200010020 31 16 ∧ bits 0x200010020 31 16 < j.entry ∧ bits 0x200010020 15 8 = 0 ∧ bits 0x200010020 63 32 = 2) ∧
    entry 0x100000521 0x40 1 0 = true ∧ bits 0x100000521 11 8 ≤ 5 ∧ bits 0x100000521 31 13 = 0 ∧ bits 0x100000521 63 32 ≠ 0 ∧
    (match condValue 0 ((chain (job1 2) 0 0 0 0).wgBy 1) (job1 2) 0x40 4 (chain (job1 2) 0 0 0 0) with | .ok _ => true | .error _ => false) = true ∧
    entry 0x322 0x40 1 0 = true ∧ bits 0x322 63 10 = 0 ∧ bits 0x022 9 8 = 0 ∧ bits 0x122 9 8 = 1 ∧ bits 0x222 9 8 = 2 ∧
    (match engLocal (chain (job1 2) 0 0 0 0) 0 ((chain (job1 2) 0 0 0 0).wgBy 1) 0x40 8 with | .ok y => y == 0x40 | .error _ => false) = true ∧
    inCard (job1 2) ((chain (job1 2) 0 0 0 0).wgBy 1) true true 0x40 8 = true ∧
    entry 0x70C10 0x40 0x80 0 = true ∧ bits 0x70C10 63 12 = bits 0x70C10 31 16 * 2 ^ 4 ∧ bits 0x70C10 9 8 = 0 ∧ bitOf 0x70C10 10 = true ∧ bitOf 0x70C10 11 = true ∧
    (match engCardRead 0 ((chain (job1 2) 0 0 0 0).wgBy 1) (job1 2) true 0x40 8 (chain (job1 2) 0 0 0 0) with
      | .ok (bs, s1) => bs.length == 8 && s1 == chain (job1 2) 0 0 0 0 | .error _ => false) = true := by decide +kernel

theorem test_witness_EngineJobEvents_rows : let j := { job1 2 with started := true, words := [0x80000080011, 0x40, 0x80, data], idxs := [0, 1], served := [1] }
    let s := mapped (chain j 0 0 0 0)
    (j.words.getD 0 0).toNat % 256 = 0x11 ∧ j.todo.filter (fun m => j.idxs.getD m 0 == j.idxs.getD 0 0) = [0] ∧
    (match engCardRead 0 (s.wgBy 1) { j with regions := ⟨false, 2, 0, 65536, false⟩ :: j.regions } false (baseAdd false data 0) 8 s with
      | .ok (bs, s1) => bs.length == 8 && s1 == s | .error _ => false) = true ∧
    inCard j (s.wgBy 1) true true 0x80 8 = true ∧
    (let d : Msg := ⟨0, 0, 0, false, .engine 0 1 0 none data [7], .moving⟩
     let u := { s with net := [d] }
     u.net[0]? = some d ∧ (u.net.take 0).any (fun y => y.sameStream d) = false ∧ (match writePiece (.engine 0 1) 0 data [7] u with | .ok _ => true | .error _ => false) = true) := by
  decide +kernel

/-- A graph image of one launch of the kernel at offset 0x20. -/
def image2 : Image :=
  { image1 with sched := leBytes 8 1 ++ List.replicate 56 0 ++ leBytes 8 (handleOf 1 0x20).toNat ++ leBytes 8 0 ++ leBytes 8 1 ++ List.replicate 40 0 }
def jobAt (stage : Nat) (l : List Tcb) : Job := { tj with num := 1, stage := stage, tcbs := l }
def jobs (j : Job) (gs : List Gang) : State :=
  let s := mapped (idle [] [])
  { s with gs := { s.gs with images := [image2], jobs := [j], gangs := gs, nextJob := 2, nextLaunch := 2 } }
def record (w0 w3 : W64) : JobRecord := ⟨0, w0, handleOf 1 0, data, w3⟩

theorem test_witness_JobEvents_start : let s := jobs (jobAt 1 []) []
    s.hubUp 0 = true ∧ (record 0 1).w3 ≠ 0 ∧ bits 0x40000 31 18 ≠ 0 ∧ bits (record 1 0).w0.toNat 11 0 ≠ 0 ∧ bits (record 0x1000000000000 0).w0.toNat 11 0 = 0 ∧
    s.gs.images.find? (fun i => i.asid == 0 && indexOf i.code == indexOf (record 0 0).image) = some image2 ∧
    (∀ i ∈ s.gs.images, indexOf i.code ≠ indexOf (handleOf 2 0)) ∧ bits 0 63 48 = 0 ∧ image2.phases.length < bits 0x1000100000000 47 32 + bits 0x1000100000000 63 48 ∧
    1 ≤ bits 0x1000000000000 63 48 ∧ bits 0x1000000000000 47 32 + bits 0x1000000000000 63 48 ≤ image2.phases.length ∧
    s.job? 1 = some (jobAt 1 []) ∧ (jobAt 1 []).cancelJob = false ∧ (s.imageOf (jobAt 1 [])).bind (fun i => i.phases[0]?) = some ⟨data, [(64, 0)]⟩ ∧
    (match s.schedRead (jobAt 1 []) data 4 with | .ok (.ok bs, _) => bs == [0, 0, 0, 0] | _ => false) = true ∧
    (match s.schedRead (jobAt 1 []) (handleOf 9 0) 4 with | .ok (.error c, _) => c == 8 | _ => false) = true ∧
    [(64, 0)].find? (fun c => leNat [0, 0, 0, 0] ≤ c.1) = some (64, 0) ∧ 64 < leNat [65, 0, 0, 0] ∧
    image2.tcbCount 0 = 1 ∧ (match startTcbs (jobAt 2 []) image2 [image2.tcbAt 0 2 0] s with | .ok (l, [], _) => l.length == 1 | _ => false) = true := by decide +kernel

def ready1 : Tcb := { ttcb with launch := 1, state := 1, handed := 0 }
def done1 : Tcb := { ttcb with launch := 1, state := 2, gleft := 0 }

theorem test_witness_JobEvents_run :
    arrives (.sectorFill 0 0) 0x200 = true ∧ arrives (.hub 0 1 0) 0x200 = true ∧ (jobs (jobAt 3 []) []).offers = [] ∧
    (jobs (jobAt 3 [ready1]) []).offers.map Offer.back = [false] ∧ (jobs (jobAt 3 [ready1]) []).launch? 1 = some (jobAt 3 [ready1], ready1) ∧
    ((jobs (jobAt 3 [ready1]) []).imageOf (jobAt 3 [ready1])).bind (fun i => i.kdesc? ready1.kdesc) = some kd ∧
    (jobs (jobAt 3 [ready1]) []).dieFor (1, 0) kd.need 0 ((jobs (jobAt 3 [ready1]) []).candidateDies 0) = some 0 ∧
    (jobs (jobAt 3 [ready1]) []).dieFor (1, 0) kd.need 0 [] = none ∧
    (jobs (jobAt 3 [done1]) []).launchDone done1 = true ∧ (jobs (jobAt 3 [ready1]) []).launchDone ready1 = false ∧
    { jobAt 3 [] with phases := [0] }.ended = true ∧ (jobAt 3 []).ended = false ∧
    (match (jobs (jobAt 3 []) []).writeBuf (.hub 0) 0 data (leBytes 8 1) with | .ok _ => true | .error _ => false) = true ∧
    (jobs (jobAt 3 []) []).gs.active = 0 ∧ (jobs (jobAt 3 []) []).hubUp 1 = true ∧ { ready1 with cancel := true }.complete = false ∧
    (jobs (jobAt 3 []) []).handedNow = false ∧ ready1.built = true ∧ { ready1 with built := false }.built = false ∧
    (let s := jobs { jobAt 5 [] with phases := [0] } []
     ({ s with gs := { s.gs with handed := some (s.dtcOf 8) } } : State).handedNow = true ∧ s.owes s.scheduler = false ∧
     ({ s with owed := [(.hub 0, .held 0 1)] } : State).owes s.scheduler = true) := by decide +kernel

def queued (k : KDesc) (l : List Gang) (w : List Workgroup) : State :=
  let s := jobs (jobAt 3 [ready1]) ({ gang1 with job := 1, launch := 1, state := .queued } :: l)
  { s with dies := [{ State.reset.die 0 with queue := [(1, 0)] }], wgs := w, gs := { s.gs with images := [{ image2 with kdescs := [k] }] } }

theorem test_witness_GangEvents_placement : let s := queued kd [] []
    s.th.tid = 0 ∧ 0 < s.nextTid ∧ (∀ t ∈ ([tt] : List Thread), 0 < t.tid ∧ t.tid < s.nextTid) ∧ (s.die 0).queue = [(1, 0)] ∧
    (s.gang? 1 0).map Gang.state = some .queued ∧ (s.launch? 1).map (fun x => x.2.cancel) = some false ∧ s.relocating 0 = false ∧
    (s.findRun kd.need 0 (fun _ => true)).map Prod.fst = some 0 ∧ s.findRun { kd.need with tiles := 9 } 0 (fun _ => true) = none ∧ (s.die 1).queue = [] := by decide +kernel

/-- A gang of one workgroup in each plaza of die 0, and a gang of eight whole cores that waits. -/
def wide : KDesc := { kd with gangw := 8, tiles := 8 }
def crowd : State :=
  queued wide ((List.range 8).map (fun p => { gang1 with launch := 100 + p, run := 8 * p }))
    ((List.range 8).map (fun p => { tw with wid := 10 + p, launch := 100 + p, anchor := 8 * p, tiles := 1 }))

theorem test_witness_GangEvents_relocation :
    ((crowd.die 0).queue.head?.bind (fun x => crowd.gang? x.1 x.2)).map Gang.launch = some 1 ∧
    crowd.needOf { gang1 with job := 1, launch := 1, state := .queued } = some wide.need ∧ gang1.helped = false ∧ { gang1 with helped := true }.helped = true ∧ crowd.relocating 0 = false ∧
    crowd.findRun wide.need 0 (fun _ => true) = none ∧ (crowd.relocation (1, 0) wide.need 0 0).map (fun x => (x.1.launch, x.1.gang)) = some (100, 0) ∧
    ((crowd.relocation (1, 0) wide.need 0 0).bind (fun x => crowd.startSave x.1 0 (some x.2.2))).isSome = true := by decide +kernel

theorem test_witness_GangEvents_end : let g := { gang1 with launch := 1 }
    let s := fun (g : Gang) (l : List Thread) => ({ jobs (jobAt 3 [ready1]) [g] with wgs := [{ tw with launch := 1 }], threads := l } : State)
    (s g []).gang? 1 0 = some g ∧ (s g []).canRetire g = true ∧ g.stands = true ∧ (s g []).unrevoked { tw with launch := 1 } = [] ∧
    (let u := { s g [] with plazas := [{ State.reset.plaza 0 with banks := [(0, .fifo 8 2 0 0 0 (some 0x10000))] }] }
     u.canRetire g = true ∧ u.gangWgs g = [{ tw with launch := 1 }] ∧ u.unrevoked { tw with launch := 1 } = [(0, 0x10000)] ∧ (u.plaza 0).stage? 0 = none) ∧ (s g [{ tt with launch := 1 }]).canRetire g = false ∧
    (let h := { g with state := .saved, target := some 8 }
     ((s h []).gangWgs h).length = 1 ∧ (s h []).gangCancelled h = false ∧ (s h []).dieUp h.die = true ∧ ((s h []).runAt ((s h []).gangNeed h tw) 8).isSome = true ∧ (s h []).runAt { (s h []).gangNeed h tw with tiles := 9 } 8 = none) ∧
    arrives (.saveNotice 1 0) 0 = true ∧ arrives (.savedNotice 1 0) 0 = true ∧ g.savedN + 1 < ([{ tw with wgsize := 2 }].map (fun w => w.wgsize - w.exited.length)).sum := by
  decide +kernel

def link1 (up nak training : Bool) (replay : List (BitVec 16 × W64)) : Link := ⟨0, 0, 1, up, 48, ⟨0, 0, replay, nak, 15⟩, ⟨0, 0, [], false, 0⟩, 2, training⟩
def linked (l : Link) : State := { idle [] [msg 0 64 0 (.hub 0 0 0)] with links := [l] }
def hot (t : Nat) : State := { idle [] [] with dies := [{ State.reset.die 0 with temp := t }] }

theorem test_witness_LinkAndClockEvents : (linked (link1 true false false [])).link? 0 = some (link1 true false false []) ∧
    (linked (link1 true false false [])).nextCell (0, 1) = some (0, msg 0 64 0 (.hub 0 0 0)) ∧ (linked (link1 true false false [])).nextCell (1, 0) = none ∧
    badCell ((msg 0 64 0 (.hub 0 0 0)).header (linked (link1 true false false [])) 0 0) = false ∧ BitVec.extractLsb' 32 16 (0x80000000000000 : W64) = (0 : BitVec 16) ∧
    badCell ((msg 0 64 0 (.hub 0 0 0)).header (linked (link1 true false false [])) 0 0 ^^^ 0x80000000000000) = true ∧
    16 ≤ (link1 true true false []).ab.naks + 1 ∧ { (link1 true true false []).ab with naks := 14 }.naks + 1 < 16 ∧
    256 ≤ (List.replicate 256 ((0, 0) : BitVec 16 × W64)).length ∧ (link1 true false false [(0, 0)]).ab.replay ≠ [] ∧ (link1 true false false []).failed = 2 ∧
    3 ≤ { link1 true false false [] with failed := 3 }.failed ∧ (link1 true false false []).endA < 8 ∧ (link1 true false false []).endB < 8 ∧
    ts.conf.m8 = true ∧ { ts.conf with m8 := false }.booted = true ∧ ts.issuing = [] ∧ (∀ c ∈ ts.allCores, (ts.core c).stopped = false) ∧ 0 ∈ ts.allCores ∧
    (idle [] []).linksBusy = false ∧ (hot 950).dieUp 0 = true ∧ 950 ≤ ((hot 950).die 0).temp ∧ ((hot 949).die 0).temp < 950 ∧
    (hot 0).mgmt.power ≤ (hot 0).mgmt.cap ∧ ((hot 1049).die 0).temp < 1050 ∧ 1050 ≤ ((hot 1050).die 0).temp := by decide +kernel

/-- HD0 has a peer table of one entry, at 0x60000, for ASID 0. -/
def peered : State := withHub { idle [] [] with mem := memWrite [] 0x60000 (leBytes 8 9 ++ leBytes 8 7 ++ leBytes 8 0x1000 ++ leBytes 8 0) } { HubSt.blank 0 with up := true, peers := [(0, 0x60000, 1)] }
def outward (b : Body) (t : Thread) : State := idle [t] [msg 0 1024 0 b]

theorem test_witness_HostAndPeerEvents : ts.hubUp 0 = true ∧ (ts.hub 0).up = false ∧ (peered.hub 0).up = true ∧ ts.conf.booted = true ∧
    (idle [] []).mpaOk 0 64 = true ∧ ((idle [] []).port 0).throttledIn (rowsAt 0 64) = none ∧ (idle [] []).mpaOk 0x4000000000 64 = false ∧ peered.peerOf 0 0 9 7 = some (0, 0) ∧ peered.peerOf 0 1 9 7 = none ∧
    peered.peerOf 0 0 0 0 = none ∧ peered.reachable (127 % 1024) = true ∧
    (let t := { tt with writes := [{ sent1 .sent with id := 0 }] }
     let r := { asks .write with data := List.replicate 8 1 }
     let s := outward (.store r) t
     s.net[0]? = some (msg 0 1024 0 (.store r)) ∧ s.deliverable 0 (msg 0 1024 0 (.store r)) = true ∧ s.hubUp (dieOf 0 % 2) = true ∧ s.thread? 1 = some t ∧
     r.wid = 0 ∧ t.status = .ready) ∧
    (let s := outward (.context 1) tt
     s.deliverable 0 (msg 0 1024 0 (.context 1)) = true ∧ s.thread? 1 = some tt ∧ tt.anchor < 1024 ∧ 1024 ≤ { tt with anchor := 1024 }.anchor) := by decide +kernel

theorem test_witness_HostAndPeerEvents_throttled :
    ({ ts.port 0 with throttled := [Config.rowOf 0] } : PortSt).throttledIn (rowsAt 0 64) = some (Config.rowOf 0) := by
  have h : rowsAt 0 64 = [Config.rowOf 0] := rfl
  simp [PortSt.throttledIn, h]

theorem test_witness_BootAndManagementEvents : State.reset.mgmt.imageValid = true ∧ defaultBoot.imageOk = true ∧
    (defaultBoot.check.getD 8 false && defaultBoot.auth.getD 8 false) = true ∧ { defaultBoot with imageOk := false }.imageOk = false ∧
    State.reset.mgmt.activeCtl = 0 ∧ State.reset.mgmt.misses < 2 ∧ ts.conf.booted = true ∧ ([] : List Byte).length < 64 ∧
    (match loadImage 0 [] ts with | .ok _ => false | .error st => st == 1) = true ∧
    (let s := jobs (jobAt 3 [{ ttcb with launch := 1 }]) []
     s.gs.images.find? (fun i => i.asid == 0 && indexOf i.code == indexOf (handleOf 1 0)) = some image2 ∧
     s.gs.jobs.any (fun j => j.asid == 0 && indexOf j.image == indexOf image2.code && j.tcbs.any (fun t => !t.complete)) = true ∧
     (jobs (jobAt 3 []) []).gs.jobs.any (fun j => j.tcbs.any (fun t => !t.complete)) = false ∧ Memory.wf s.mem = true ∧ (∀ q ∈ s.ports, q.msc = [])) := by decide +kernel

/-- The boot of the example of R424: CD5 fails its authentication, then CD3 is fenced. -/
theorem test_boot_example : let u := after (exec (.coldBoot { defaultBoot with auth := (List.replicate 10 true).set 5 false }) State.reset)
    u.conf.mconf = 0x000001C0070700DF ∧ u.conf.mcap = 0x00000800000A3A00 := by decide +kernel

theorem test_fence_example : let v := after (exec (.dieFatalError 3 1) (after (exec (.coldBoot { defaultBoot with auth := (List.replicate 10 true).set 5 false }) State.reset)))
    v.conf.mconf = 0x00000180060708DF ∧ v.conf.mcap = 0x000008000008C400 := by decide +kernel

theorem test_witness_LossEvents : ts.dieUp 0 = true ∧ ts.dieUp 7 = false ∧ ts.hubUp 0 = true ∧ ts.hubUp 2 = false ∧ (idle [tt] []).th.tid = 0 ∧
    ((idle [tt] []).threads.map Thread.tid).Nodup ∧ (∀ t ∈ (idle [tt] []).threads, t.tid ≠ 0) ∧ arrives (.dieLoss 1) 0 = true ∧ arrives (.dieLoss 1) 0x200 = true ∧
    (let s := { meeting with gs := { State.reset.gs with present := [(1, [0])] } }
     s.gs.present.find? (fun x => x.1 == 1) = some (1, [0]) ∧ barrier1 ∈ (s.die 0).barriers ∧ barrier1.job ∈ [0] ∧ barrier1.broken = false ∧ 0 < barrier1.arrivals ∧
     barrier1.last = none) := by decide +kernel

theorem test_witness_EveryStepKeepsTheMemoriesCanonical : Memory.wf (run code 0xE0).mem = true ∧ Memory.wf (run code 0xE0).lmem = true ∧
    Memory.wf (run code 0xE0).tmem = true ∧ (match step (run code 0xE0) with | .next t => t.threads.map Thread.pc == [pcAdd code 8] | _ => false) = true := by decide +kernel

/-- The metadata of the worked trace of R340: index 512 valid with tag 0, index 513 valid and dirty with tag 0. -/
theorem test_metadata_example : metaImage true false 0 = (0, 0x0050) ∧ metaImage true true 0 = (0, 0x00F0) := by decide +kernel

/-- The headers of the example of R402: cells 0 and 4 of a context of five cells to die 1, stack 1. -/
theorem test_header_example :
    let h := Msg.header ⟨0, 65, 0, false, .context 1, .moving⟩ (idle [{ tt with nbud := 8, vbud := 0 }] [])
    h 0x1A2B 0 = 0x00001A2B40400041 ∧ h 0x1A2F 4 = 0x00041A2F40400041 := by decide +kernel

/-- Word 0x08 of a credit entry, from the fields of R396: VALID, SIZE 11, COUNT 16, CREDITS 16. -/
theorem test_credit_words : (CreditEntry.words ⟨5, 0x1A0C8, 64, 16, 16, 0, 0⟩) = [0x1A0C8, 0xB0100010, 0, 0] := by decide +kernel

/-! ## Witnesses of the premises that several statements share -/

theorem test_savesNothing_met : (trip [] false).gs.gangs = [] ∧ (trip [] false).net.all Msg.isMoving = true ∧
    (posted (.read (asks .read))).net.all Msg.isMoving = true ∧ (waits (.load (.n 3) 7 8) (.data 1 0 [] 0 0)).net.all Msg.isMoving = true := by decide +kernel

theorem test_witness_IdentityAndCounterReads_guest : ts.th.job < 2 ^ 24 ∧ 2 ^ 24 ≤ { tt with job := 2 ^ 24 }.job ∧
    mayRun 0x3C f2 { ts with th := { tt with job := 2 ^ 24 } } = true ∧ mayRun 0x71 f2 { ts with th := { tt with job := 2 ^ 24 } } = true ∧
    ts.job? (2 ^ 24) = none := by decide +kernel

/-- A gang of the workgroup's is being saved. -/
def saving (s : State) : State := { s with gs := { s.gs with gangs := [{ gang1 with state := .saving }] } }
theorem test_witness_CrossLaneInstructionsJoin_saving : (saving (joins 2)).suspends ((saving (joins 2)).wgBy 1) = true ∧
    (joins 2).suspends ((joins 2).wgBy 1) = false := by decide +kernel

theorem test_witness_StoresWriteTheirBytes_homes : ts.homedAt data 1 32 dataEntry 0 ∧ ts.homedAt far 2 8 farEntry 1 ∧ ts.homedAt far 2 4 farEntry 1 ∧
    ts.homedAt far 1 4 farEntry 1 ∧ farEntry.tier ≤ 1 ∧ farEntry.leased = false ∧ (1 : Nat) ≠ ts.th.core := by unfold State.homedAt; decide +kernel

/-- A context of three cells and more that has not found room in the staging of core 0, at cc 4096. -/
def inLink (stalled : Bool) : State :=
  { idle [{ away with stalled := stalled }] [⟨1, 0, 0, false, .context 5, .link 0⟩] with cores := [{ State.reset.core 0 with ccnt := 4096 }] }

theorem test_witness_ContextTravelEvents_link : let s := inLink true
    s.heldPlaced 0 5 = none ∧ (s.heldInLink 0).map (fun x => (x.1, x.2.t.tid, x.2.since, x.2.t.stalled)) = some (0, 5, 0, true) ∧
    0 + 4096 ≤ (s.core 0).ccnt.toNat ∧ (∀ x ∈ s.allThreads, x.core = 0 → x.place.held = none) ∧ s.areaRoom 0 = true ∧
    (trip [] false).landingWaits 0 0 false = false ∧ (held1 0).landingWaits 0 0 false = true ∧ (inLink false).landingWaits 0 0 false = true ∧
    Msg.isMoving ⟨1, 0, 0, false, .context 5, .link 0⟩ = false ∧
    (let d := fun (x : Thread) => x.core == 0 && x.place.held.isSome && x.since + 4096 ≤ ((held1 4096).core 0).ccnt.toNat
     (firstArrived (held1 4096) d).map Thread.tid = some 7) := by decide +kernel

/-- Thread 1 has gone on behind a load into N3. -/
def behind1 : Thread := { tt with late := some ⟨.load (.n 3) 7 8, far, 2, code, tt.q, tt.n, tt.v, tt.vtag, tt.p, 0⟩ }
theorem test_witness_AnswerEvents_late : let s := idle [behind1] [msg 1 0 1 (.data 1 0 (List.replicate 8 0) 0 0)]
    taken0 s = some (msg 1 0 1 (.data 1 0 (List.replicate 8 0) 0 0)) ∧ ((left0 s).lateAt 1 0).map (fun x => (x.1, x.2.cont, x.2.depth)) =
      some (behind1, .load (.n 3) 7 8, 2) ∧ behind1.wait ≠ .late ∧ ((left0 s).core 0).fills = [] := by decide +kernel

theorem test_witness_StepExecutesDecodedInstruction_late : let s := { run code 0xE0 with threads := [{ behind1 with pc := code }] }
    (takeThread 1 s).map (fun s1 => (s1.th.late.isSome, findBytes s1 0 code 8)) = some (true, .bytes (leBytes 8 0xE0)) ∧
    (match fetch { taken (handleOf 1 0x102) 0 with th := { behind1 with pc := handleOf 1 0x102 } } with | .instr _ => false | _ => true) = true := by decide +kernel

theorem test_witness_MessageEvents_more : let b := msg 0 0 2 (.barrier 0 1 0 [] 1)
    let c := msg 0 0 2 (.board 0 1 0 1 7 1 0 0)
    (idle [] [b]).syeBehind 0 b = false ∧ (idle [] [c]).syeBehind 0 c = false ∧ (∀ t ∈ ts.allThreads, t.wait ≠ .entry 0 0) ∧
    (idle [] []).suspends ((idle [] []).wgBy 1) = false ∧ (List.range 32).find? (fun k => ((queues 1 1).core 0).credits.all (fun e => e.place != k)) = some 1 := by
  decide +kernel

/-- HD0 with its port trained. -/
def trained : State := withHub (idle [] []) { HubSt.blank 0 with up := true }
theorem test_witness_PagingEvents_more : let h := msg 0 0x200 0 (.hostRead (moved (asks .read) dataPme) 0 3 0)
    let s := { trained with net := [h] }
    taken0 s = some h ∧ s.portCarries 0 = true ∧ (idle [] []).portCarries 0 = false ∧ (s.hub 0).trackers = [] ∧ s.poisoned (hostAt 3 0) 8 = false ∧
    (moved (asks .read) dataPme).trans.isSome = true ∧ ((idle [] []).port 0).writingBack = false ∧
    ({ State.reset.port 0 with mscBusy := [(32, 0, 0)] } : PortSt).writingBack = true ∧
    (match applyInval 0 0 0 0 2 1 (idle [] []) with | .ok _ => true | .error _ => false) = true ∧
    (let t := { tt with status := .waiting, wait := .walk 0 ⟨0, 2, 0⟩ data 0 }
     let u := mapped (idle [t] [])
     u.allThreads.find? (fun t => t.walks 0 ⟨0, 2, 0⟩) = some t ∧ u.portEntry 0 0 2 = some dataEntry ∧ (u.port 0).records.contains ⟨0, 2, 0⟩ = false) ∧
    (let x := withHub (idle [] []) { HubSt.blank 0 with rings := [(0, data)], armed := [0] }
     (x.hub 0).armed.contains 0 = true ∧ (trained.hub 0).armed.contains 0 = false) := by decide +kernel

theorem test_witness_MemorySideAndCommandEvents_more : let s := mapped (idle [] [])
    let u := fun (b : Bool) (gs : List Gang) =>
      ({ s with gs := { s.gs with jobs := [{ tj with num := 3, suspended := b }], gangs := gs } } : State)
    s.namesBuffer 0 (handleOf 2 0) = true ∧ s.namesBuffer 0 (handleOf 9 0) = false ∧ s.unitOk 0 = true ∧ s.unitOk 511 = false ∧ s.unitOk 0x200 = true ∧
    ((u true []).job? 3).map Job.suspended = some true ∧ ((u false []).job? 3).map Job.suspended = some false ∧ (u true []).gs.resumes = [] ∧
    (u true []).gs.gangs.any (fun g => g.job == 3 && g.state == .saved && g.target.isNone) = false ∧
    (u true [{ gang1 with job := 3, state := .saved }]).gs.gangs.any (fun g => g.job == 3 && g.state == .saved && g.target.isNone) = true ∧
    (msc.port 0).poisonIdx.length < 64 ∧ (moved (asks .read) capPme).trans.isSome = true := by decide +kernel

theorem test_witness_SequencerStepEvents_more : let x := (stepping tz false).wgBy 1
    x.seq.fault = none ∧ x.mixes tz = false := by decide +kernel

theorem test_witness_EngineJobEvents_data : let d : Msg := ⟨0, 0, 0, false, .engine 0 1 0 none data [7], .moving⟩
    let u := { mapped (chain (job1 2) 0 0 0 0) with net := [d] }
    taken0 u = some d ∧ (job1 2).heldKey = none ∧
    (match writePiece (.engine 0 1) 0 data [7] u with | .ok s1 => ((s1.plaza 0).job? 1) == some (job1 2) | .error _ => false) = true := by decide +kernel

theorem test_witness_GangEvents_more : let g := { gang1 with launch := 1 }
    let s : State := { jobs (jobAt 3 [ready1]) [g] with wgs := [{ tw with launch := 1 }] }
    s.gangExited g = true ∧ ({ s with threads := [{ tt with launch := 1 }] } : State).gangExited g = false ∧ (s.cancelFaulted g).canRetire g = true ∧
    (s.cancelFaulted g).unrevoked { tw with launch := 1 } = [] ∧ g.state = .running ∧ { g with barred := some (5, 0) }.barred = some (5, 0) := by decide +kernel

/-- The save pool of die 0 is full: a gang of one large workgroup in it fills what the areas of the others leave. -/
theorem test_witness_GangEvents_full : let w : Workgroup := { tw with wid := 20, launch := 200, gangw := 480, localLen := 0x100000 }
    let s := { crowd with wgs := w :: crowd.wgs, gs := { crowd.gs with gangs := crowd.gs.gangs ++ [{ gang1 with launch := 200, run := 0, saveArea := true }] } }
    poolFit (s.areasUsed 0) (saveBytes { tw with tiles := 1 }) = none := by decide +kernel

theorem test_witness_LinkAndClockEvents_more : let c := fun (m8 : Bool) (l : List Link) (n : List Msg) =>
      ({ idle [] n with conf := { ts.conf with m8 := m8 }, links := l, mgmt := { ts.mgmt with clockTo := some 9 } } : State)
    ts.mgmt.clockTo = none ∧ (c false [] []).mgmt.clockTo = some 9 ∧ (c false [] []).linksBusy = false ∧
    (c false [link1 true false false [(0, 0)]] []).linksBusy = true ∧ (c false [] []).issuing = [] ∧
    (hot 950).unitUp 0 = true ∧ (hot 950).unitUp 8 = true ∧ (let u := { hot 0 with mgmt := { (hot 0).mgmt with power := (hot 0).mgmt.cap + 1 } }; u.mgmt.cap < u.mgmt.power) ∧ (link1 true false false []).up = true ∧
    (link1 true false true []).training = true ∧ { link1 true false false [] with rate := 16 }.rate = 16 ∧
    ((linked (link1 true false false [])).putLink (link1 true false false [])).nextCell (0, 1) = some (0, msg 0 64 0 (.hub 0 0 0)) := by decide +kernel

theorem test_witness_HostAndPeerEvents_more : let r := { asks .write with data := List.replicate 8 1 }
    let t := { tt with writes := [{ sent1 .sent with id := 0 }] }
    let m := msg 0 1024 0 (.store r)
    let s := { peered with threads := [t], net := [m] }
    (idle [] []).heldPage 0 = none ∧ ((idle [] []).port 0).leases = [] ∧ trained.portCarries 0 = true ∧ (idle [] []).portCarries 0 = false ∧
    (s.hub 0).peers = [(0, 0x60000, 1)] ∧ (List.range 1).find? (fun i => peerWord s 0x60000 i 0 == (9 : W64).toNat && peerWord s 0x60000 i 8 == (7 : W64).toNat) = some 0 ∧
    (∀ t ∈ s.allThreads, t.core < 1024 ∧ t.wait = .none) ∧
    s.net.filter (fun m => decide (1024 ≤ m.dst) && m.peerHub == 0 && m.dst % 4 == 0 && s.behind 0 9 7 m.dst) = [m] ∧
    peered.net.filter (fun m => decide (1024 ≤ m.dst) && m.peerHub == 0 && m.dst % 4 == 0 && peered.behind 0 9 7 m.dst) = [] ∧
    t.writes.find? (fun x => x.id == r.wid) = some { sent1 .sent with id := 0 } ∧ (sent1 .sent).core = t.core ∧ s.deliverable 0 m = true ∧
    (List.replicate 64 (0 : Byte)) ≠ [] ∧ 1024 / 1024 = m.dst / 1024 ∧ 1 < (2 : Nat) ∧ (asks .read).post = false ∧ (asks .read).monitor = false := by decide +kernel

/-- An object file with one empty section, its checksum as R128 computes it. -/
def smallImage : List Byte :=
  leBytes 8 0x000100011A464F47 ++ leBytes 8 0x4000000001 ++ leBytes 4 96 ++ leBytes 4 0x34ab9270 ++ leBytes 40 0 ++ leBytes 8 0x20000000000 ++ leBytes 24 0
theorem test_witness_BootAndManagementEvents_load : (match loadImage 0 smallImage (mapped ts) with | .ok u => u.gs.images.length == 1 | .error _ => false) = true := by
  decide +kernel

end Sys2Proof.Tests
end

/-! SUPPORT. The statements of the family "scope" and the lemmas they need: what a guarded-off instruction leaves (R12, R52), the ends of
instructions and of a cc (R48, R50, R51), the delivery of a fault and the error of a launch (R198, R199), the faults of the fetch (R61 steps 1
to 4), and the values at reset. -/

namespace Sys2Proof.Machine

/-! ## Every instruction runs through the checks of R61 -/

/-- Each arm of `exec` that has a word is steps 5 to 9 of R61 around the instruction's own effect. -/
theorem exec_eq_runOp {i : Instr} {op : Nat} {f : Fields} (h : opFields i = some (op, f)) :
    ∃ body : State → State, ∀ s, exec i s = runOp op f body s := by
  cases i <;> cases h <;> exact ⟨_, fun _ => rfl⟩

theorem exec_guarded_off {i : Instr} {op : Nat} {f : Fields} {s : State} (h : opFields i = some (op, f))
    (hg : guardTrue s.th f.guard = false) : exec i s = .next (guardOff op f s) := by
  obtain ⟨body, hbody⟩ := exec_eq_runOp h
  rw [hbody, runOp_off body hg]

theorem guardOff_of_pushes {op : Nat} {f : Fields} {s : State} (h : resultOf op f = .q) :
    guardOff op f s = s.onTh (fun t => (t.push (offValue op f s)).next (lenBytes f.len)) := by
  simp only [guardOff, h, if_true]

theorem guardOff_of_not_pushes {op : Nat} {f : Fields} {s : State} (h : resultOf op f ≠ .q) :
    guardOff op f s = finishU f s := by
  simp only [guardOff, h, if_false, finishU]

/-- Settles O7: every instruction goes through `runOp`, whose guarded-off case is `guardOff`. -/
theorem guardedOffInstructionOnlyPushes : Obligations.GuardedOffInstructionOnlyPushes := by
  intro i op f s hi hg
  rw [exec_guarded_off hi hg]
  constructor
  · intro hq
    rw [guardOff_of_pushes hq]
    rfl
  · intro hq
    rw [guardOff_of_not_pushes hq]
    rfl

/-! ## The queue and the registers after a write (R11, R50, R51) -/

theorem pushQ_zero (q : Vector W64 16) (v : W64) : (pushQ q v)[0] = v := by simp [pushQ]

theorem pushQ_succ (q : Vector W64 16) (v : W64) (k : Fin 15) : (pushQ q v)[k.val + 1] = q[k.val] := by simp [pushQ]

theorem Thread.setDst_n_get (t : Thread) (d : Dst) (v : W64) (k : Fin 32) :
    (t.setDst d v).n[k] = if d = .n k then v else t.n[k] := by
  cases d with
  | n j => simp [Thread.setDst, Thread.setN, Vector.getElem_set, Fin.ext_iff]
  | queue | v | p | w => simp [Thread.setDst]

/-- Of the thread, a scalar destination takes an N register only. -/
theorem Thread.setDst_eq (t : Thread) (d : Dst) (v : W64) : t.setDst d v = { t with n := (t.setDst d v).n } := by
  cases d <;> rfl

theorem finishQ_th (f : Fields) (v : W64) (s : State) :
    (finishQ f v s).th = ((s.th.setDst f.dst v).push v).next (lenBytes f.len) := by
  rw [finishQ, State.onTh_th, State.writeW_th]

theorem finishQ_q (f : Fields) (v : W64) (s : State) : (finishQ f v s).th.q = pushQ s.th.q v := by
  rw [finishQ_th, Thread.next_q, Thread.push_q, Thread.setDst_q]

theorem finishQ_n_get (f : Fields) (v : W64) (s : State) (k : Fin 32) :
    (finishQ f v s).th.n[k] = if f.dst = .n k then v else s.th.n[k] := by
  rw [finishQ_th, Thread.next_n, Thread.push_n]
  exact Thread.setDst_n_get _ _ _ k

theorem finishQ_of_w {f : Fields} {k : Fin 16} (v : W64) (s : State) (h : f.dst = .w k) :
    finishQ f v s = { s.putWg { s.wg with wPend := s.wg.wPend ++ [(k, v)] } with th := (finishQ f v s).th } := by
  rw [finishQ_th, finishQ, h]
  rfl

theorem finishQ_of_not_w {f : Fields} (v : W64) (s : State) (h : ∀ k : Fin 16, f.dst ≠ .w k) :
    finishQ f v s = { s with th := (finishQ f v s).th } := by
  have hw : s.writeW f.dst v = s := by
    cases hd : f.dst with
    | w k => exact absurd hd (h k)
    | queue | n | v | p => rfl
  rw [finishQ_th, finishQ, hw]
  rfl

/-- What the end of an instruction of Result Q changes of the thread: the queue, the N registers and where the thread stands. -/
theorem finishQ_th_frame (f : Fields) (v : W64) (s : State) :
    (finishQ f v s).th = { s.th with
      q := (finishQ f v s).th.q, n := (finishQ f v s).th.n, pc := pcAdd s.th.pc (lenBytes f.len), status := s.th.running, wait := .none,
      badIndex := none, images := [], got := [] } := by
  rw [finishQ_th, Thread.setDst_eq]
  rfl

theorem finishP_p_succ (f : Fields) (b : Bool) (s : State) (k : Fin 7) :
    (finishP f b s).th.p[k.val + 1] = if f.dst = .p k then b else s.th.p[k.val + 1] := by
  cases hd : f.dst with
  | p j => simp [finishP, hd, Thread.setP, Thread.next, Vector.getElem_set, Fin.ext_iff]
  | queue | n | v | w => simp [finishP, hd, Thread.next]

theorem finishP_p_zero (f : Fields) (b : Bool) (s : State) : (finishP f b s).th.p[0] = s.th.p[0] := by
  cases hd : f.dst with
  | p j => simp [finishP, hd, Thread.setP, Thread.next]
  | queue | n | v | w => simp [finishP, hd, Thread.next]

theorem finishP_frame (f : Fields) (b : Bool) (s : State) :
    finishP f b s = { s with th := { s.th with
      p := (finishP f b s).th.p, pc := pcAdd s.th.pc (lenBytes f.len), status := s.th.running, wait := .none, badIndex := none,
      images := [], got := [] } } := by
  cases hd : f.dst <;> simp only [finishP, hd] <;> rfl

theorem finishV_v_get (f : Fields) (v : W256) (tag : BitVec 6) (s : State) (k : Fin 8) :
    (finishV f v tag s).th.v[k] = if f.dst = .v k then v else s.th.v[k] := by
  cases hd : f.dst with
  | v j => simp [finishV, hd, Thread.setV, Thread.next, Vector.getElem_set, Fin.ext_iff]
  | queue | n | p | w => simp [finishV, hd, Thread.next]

theorem finishV_vtag_get (f : Fields) (v : W256) (tag : BitVec 6) (s : State) (k : Fin 8) :
    (finishV f v tag s).th.vtag[k] = if f.dst = .v k then tag else s.th.vtag[k] := by
  cases hd : f.dst with
  | v j => simp [finishV, hd, Thread.setV, Thread.next, Vector.getElem_set, Fin.ext_iff]
  | queue | n | p | w => simp [finishV, hd, Thread.next]

theorem finishV_frame (f : Fields) (v : W256) (tag : BitVec 6) (s : State) :
    finishV f v tag s = { s with th := { s.th with
      v := (finishV f v tag s).th.v, vtag := (finishV f v tag s).th.vtag, pc := pcAdd s.th.pc (lenBytes f.len), status := s.th.running,
      wait := .none, badIndex := none, images := [], got := [] } } := by
  cases hd : f.dst <;> simp only [finishV, hd] <;> rfl

/-! ## W registers at the end of a cc (R48) -/

/-- A workgroup with one more W write of the present cc. -/
def Workgroup.pendW (w : Workgroup) (k : Fin 16) (v : W64) : Workgroup := { w with wPend := w.wPend ++ [(k, v)] }

/-- The last write of a cc is the last to take effect. -/
theorem Workgroup.endCc_pendW_w (w : Workgroup) (k : Fin 16) (v : W64) : (w.pendW k v).endCc.w = w.endCc.w.set k v := by
  simp only [Workgroup.endCc, Workgroup.pendW, List.foldl_append, List.foldl_cons, List.foldl_nil]

theorem Workgroup.endCc_pendW_same (w : Workgroup) (k : Fin 16) (v : W64) : (w.pendW k v).endCc.w[k] = v := by
  rw [Workgroup.endCc_pendW_w]
  exact Vector.getElem_set_self _

theorem Workgroup.endCc_pendW_ne (w : Workgroup) {k j : Fin 16} (v : W64) (h : j ≠ k) :
    (w.pendW k v).endCc.w[j] = w.endCc.w[j] := by
  rw [Workgroup.endCc_pendW_w]
  exact Vector.getElem_set_ne _ _ (fun he => h (Fin.ext he.symm))

theorem Workgroup.endCc_w_of_none (w : Workgroup) (h : w.wPend = []) : w.endCc.w = w.w := by
  simp only [Workgroup.endCc, h, List.foldl_nil]

/-- Settles O13: each end writes its destination, and the frame of each is an equation of states. -/
theorem resultsWriteOnlyTheirDestination : Obligations.ResultsWriteOnlyTheirDestination := by
  refine ⟨fun f v s => ⟨?_, ?_, ?_, ?_, ?_, ?_⟩, fun f s => ⟨rfl, fun b => ?_, fun v tag => ?_⟩, fun w k v => ⟨?_, ?_, rfl, ?_⟩⟩
  · rw [finishQ_q]
    exact pushQ_zero _ _
  · rw [finishQ_q]
    exact pushQ_succ _ _
  · exact finishQ_n_get f v s
  · exact fun k hk => finishQ_of_w v s hk
  · exact fun hk => finishQ_of_not_w v s hk
  · exact finishQ_th_frame f v s
  · exact ⟨finishP_p_succ f b s, finishP_p_zero f b s, finishP_frame f b s⟩
  · exact ⟨fun k => ⟨finishV_v_get f v tag s k, finishV_vtag_get f v tag s k⟩, finishV_frame f v tag s⟩
  · exact w.endCc_pendW_same k v
  · exact fun j hj => w.endCc_pendW_ne v hj
  · exact w.endCc_w_of_none

/-! ## The delivery of a fault (R198) -/

theorem Thread.enterHandler_frameP_get (t : Thread) {k : Fin 8} (h : k ≠ 0) : t.enterHandler.frameP[k] = t.p[k] := by
  simp [Thread.enterHandler, h]

theorem Thread.handles_iff (t : Thread) : t.handles = true ↔ t.hnd = false ∧ t.trapbase ≠ 0 := by
  simp [Thread.handles]

theorem Thread.handles_eq_false_iff (t : Thread) : t.handles = false ↔ t.hnd = true ∨ t.trapbase = 0 := by
  simp only [Thread.handles, Bool.and_eq_false_iff, Bool.not_eq_false', bne_eq_false_iff_eq]

/-! ## The launch that takes an error (R199) -/

/-- A launch of a job whose launch `launch` takes the error `code`, before the cancellation that follows. -/
def Tcb.takeError (launch code : Nat) (u : Tcb) : Tcb :=
  if u.launch == launch && !u.complete then { u with err := if u.err = 0 then code else u.err, state := 5, cancel := true } else u

/-- A launch of a job at a cancellation of the level given. -/
def Tcb.takeCancel (level launch : Nat) (u : Tcb) : Tcb :=
  if !u.complete && (level != 0 || u.launch == launch) then { u with cancel := true } else u

theorem Job.cancelAt_tcbs (j : Job) (level launch : Nat) : (j.cancelAt level launch).tcbs = j.tcbs.map (Tcb.takeCancel level launch) := by
  simp only [Job.cancelAt]
  split_ifs <;> rfl

theorem Job.cancelAt_cause (j : Job) (level launch : Nat) : (j.cancelAt level launch).cause = j.cause := by
  simp only [Job.cancelAt]
  split_ifs <;> rfl

theorem Job.cancelAt_num (j : Job) (level launch : Nat) : (j.cancelAt level launch).num = j.num := by
  simp only [Job.cancelAt]
  split_ifs <;> rfl

theorem Job.cancelAt_outcome (j : Job) (level launch : Nat) : (j.cancelAt level launch).outcome = j.outcome := by
  simp only [Job.cancelAt]
  split_ifs <;> rfl

/-- The launch error is the error of its launch, then the cancellation at CPOL (R199). -/
theorem Job.launchError_tcbs (j : Job) (launch code : Nat) :
    (j.launchError launch code).tcbs = j.tcbs.map (fun u => (u.takeError launch code).takeCancel j.cpol launch) := by
  simp only [Job.launchError]
  split_ifs <;> exact (Job.cancelAt_tcbs _ _ _).trans List.map_map

theorem Job.launchError_cause (j : Job) (launch code : Nat) :
    (j.launchError launch code).cause = if j.cause = 0 then code else j.cause := by
  simp only [Job.launchError, Job.cancelAt_cause, Job.mapTcb]
  split_ifs
  · rfl
  · exact Job.cancelAt_cause _ _ _

theorem Job.launchError_num (j : Job) (launch code : Nat) : (j.launchError launch code).num = j.num := by
  simp only [Job.launchError]
  split_ifs <;> exact Job.cancelAt_num _ _ _

theorem Job.launchError_outcome (j : Job) (launch code : Nat) : (j.launchError launch code).outcome = j.outcome := by
  simp only [Job.launchError]
  split_ifs <;> exact Job.cancelAt_outcome _ _ _

/-- A cancellation touches the cancel flag only. -/
theorem Tcb.takeCancel_eq (level launch : Nat) (u : Tcb) : u.takeCancel level launch = { u with cancel := (u.takeCancel level launch).cancel } := by
  simp only [Tcb.takeCancel]
  split_ifs <;> rfl

/-- An error touches ERR, STATE and the cancel flag only. -/
theorem Tcb.takeError_eq (launch code : Nat) (u : Tcb) : u.takeError launch code =
    { u with err := (u.takeError launch code).err, state := (u.takeError launch code).state, cancel := (u.takeError launch code).cancel } := by
  simp only [Tcb.takeError]
  split_ifs <;> rfl

theorem Tcb.takeCancel_of_complete {level launch : Nat} {u : Tcb} (h : u.complete = true) : u.takeCancel level launch = u := by
  simp [Tcb.takeCancel, h]

theorem Tcb.takeError_of_complete {launch code : Nat} {u : Tcb} (h : u.complete = true) : u.takeError launch code = u := by
  simp [Tcb.takeError, h]

theorem Tcb.takeError_of_ne {launch code : Nat} {u : Tcb} (h : u.launch ≠ launch) : u.takeError launch code = u := by
  simp [Tcb.takeError, h]

theorem Tcb.takeError_of_own {code : Nat} {u : Tcb} (h : u.complete = false) :
    u.takeError u.launch code = { u with err := if u.err = 0 then code else u.err, state := 5, cancel := true } := by
  simp [Tcb.takeError, h]

theorem Tcb.takeCancel_of_cancelled {level launch : Nat} {u : Tcb} (h : u.cancel = true) : u.takeCancel level launch = u := by
  simp only [Tcb.takeCancel]
  split_ifs
  · rw [← h]
  · rfl

/-- A fault of a thread that does not handle it is the error of its launch (R199). -/
theorem raise_launch_error {code : Nat} {s : State} (faddr : W64) (h : code = 0x0E ∨ s.th.hnd = true ∨ s.th.trapbase = 0) :
    raise code faddr s = (s.stopThread (s.th.faulted code 0 faddr)).recordError s.th.job s.th.launch code := by
  rw [raise_unhandled (h.imp_right (Thread.handles_eq_false_iff s.th).mpr)]
  rfl

/-- Settles O9: a handled fault is `State.trapped`, another one the error of its launch, which is a map over the launches of the job. -/
theorem faultsEnterTheHandlerOrEndTheLaunch : Obligations.FaultsEnterTheHandlerOrEndTheLaunch := by
  refine ⟨?_, fun code faddr s h => raise_launch_error faddr h, fun j launch code => ⟨?_, ?_, ?_, ?_⟩⟩
  · intro code faddr s hcode hhnd htrap
    have hcause : (s.th.faulted code 0 faddr).enterHandler.cause = BitVec.ofNat 64 code := rfl
    refine ⟨(s.th.faulted code 0 faddr).enterHandler, raise_handled hcode (s.th.handles_iff.mpr ⟨hhnd, htrap⟩), rfl, hcause, rfl, rfl,
      fun k hk => Thread.enterHandler_frameP_get _ hk, ?_⟩
    exact ⟨rfl, rfl, rfl, rfl, rfl, rfl, rfl, rfl, rfl, rfl, rfl, rfl, rfl, rfl, rfl, rfl⟩
  · intro t ht
    rw [Job.launchError_tcbs] at ht
    obtain ⟨u, hu, rfl⟩ := List.mem_map.mp ht
    refine ⟨u, hu, ?_, ?_, ?_, ?_, ?_⟩
    · rw [Tcb.takeCancel_eq, Tcb.takeError_eq]
    · rw [Tcb.takeCancel_eq, Tcb.takeError_eq]
    · intro hc
      rw [Tcb.takeError_of_complete hc, Tcb.takeCancel_of_complete hc]
    · rintro hc rfl
      rw [Tcb.takeError_of_own hc, Tcb.takeCancel_of_cancelled rfl]
      exact ⟨rfl, rfl, rfl⟩
    · intro hne
      rw [Tcb.takeError_of_ne hne, Tcb.takeCancel_eq]
      exact ⟨rfl, rfl⟩
  · exact Job.launchError_cause j launch code
  · exact Job.launchError_num j launch code
  · exact Job.launchError_outcome j launch code

/-! ## The faults of the fetch (R61 steps 1 to 4) -/

/-- The step of a member of the present issue group is the turn of that thread. -/
theorem step_of_taken {s s1 : State} {tid : Nat} {rest : List Nat} (hi : s.issuing = tid :: rest) (ht : takeThread tid s = some s1) :
    step s = runThread s1 := by
  simp only [step, hi, runMember, ht]

theorem runThread_of_error {s s1 : State} (hf : fetchStep s = .error s1) (hl : s.th.late = none) : runThread s = .next (putBack s1) := by
  simp only [runThread, hf, hl]

/-- A thread that has gone on behind a load waits for its bytes in front of what it cannot fetch (log entry 30). -/
theorem runThread_of_error_late {s s1 : State} (hf : fetchStep s = .error s1) (hl : s.th.late ≠ none) :
    runThread s = .next (putBack (block .waiting .late s)) := by
  obtain ⟨l, hl⟩ := Option.ne_none_iff_exists'.mp hl
  simp only [runThread, hf, hl]

theorem fetchStep_of_wcode {s : State} (hw : s.th.wcode ≠ 0) :
    fetchStep s = .error (raise s.th.wcode s.th.wfail { s with th := { s.th with wcode := 0, wfail := 0 } }) := by
  simp only [fetchStep, ne_eq, hw, not_false_eq_true, if_true, State.onTh]

theorem fetchStep_of_fault {s : State} {code : Nat} {faddr : W64} (hw : s.th.wcode = 0) (hf : fetch s = .fault code faddr) :
    fetchStep s = .error (raise code faddr (if offsetOf s.th.pc % 4 = 0 then s.used s.th.asid s.th.pc else s)) := by
  simp only [fetchStep, ne_eq, hw, not_true_eq_false, if_false, hf]

theorem fetchStep_of_absent {s : State} {home pos : Nat} {key : PageKey} (hw : s.th.wcode = 0) (hf : fetch s = .absent home key pos) :
    fetchStep s = .error (parkFetch home key pos s) := by
  simp only [fetchStep, ne_eq, hw, not_true_eq_false, if_false, hf]

/-- A fetch that gives no instruction ends in some state of its own. -/
theorem fetchStep_error_of_no_instr {s : State} (hf : ∀ i, fetch s ≠ .instr i) : ∃ s1, fetchStep s = .error s1 := by
  by_cases hw : s.th.wcode = 0
  · cases h : fetch s with
    | instr i => exact absurd h (hf i)
    | fault code faddr => exact ⟨_, fetchStep_of_fault hw h⟩
    | absent home key pos => exact ⟨_, fetchStep_of_absent hw h⟩
  · exact ⟨_, fetchStep_of_wcode hw⟩

theorem fetch_misaligned {s : State} (ha : offsetOf s.th.pc % 4 ≠ 0) : fetch s = .fault 0x0A s.th.pc := by
  simp only [fetch, ne_eq, ha, not_false_eq_true, if_true]

section
variable {s : State} (ha : offsetOf s.th.pc % 4 = 0)
include ha

theorem fetch_first_code {c : Nat} (hb : findBytes s s.th.asid s.th.pc 4 = .code c) : fetch s = .fault c s.th.pc := by
  simp [fetch, ha, hb]

theorem fetch_first_absent {home pos : Nat} {key : PageKey} (hb : findBytes s s.th.asid s.th.pc 4 = .absent home key pos) :
    fetch s = .absent home key pos := by
  simp [fetch, ha, hb]

variable {b0 : List Byte} (hb : findBytes s s.th.asid s.th.pc 4 = .bytes b0)
include hb

theorem fetch_no_length (hn : lenOf (leNat (b0.take 1)) = none) : fetch s = .fault 0x02 0 := by
  simp [fetch, ha, hb, hn]

variable {len : Len} (hn : lenOf (leNat (b0.take 1)) = some len)
include hn

theorem fetch_crossing (hx : crosses (offsetOf s.th.pc) (lenBytes len) = true) : fetch s = .fault 0x03 0 := by
  simp [fetch, ha, hb, hn, hx]

variable (hx : crosses (offsetOf s.th.pc) (lenBytes len) = false)
include hx

theorem fetch_whole_code {c : Nat} (hc : findBytes s s.th.asid s.th.pc (lenBytes len) = .code c) : fetch s = .fault c s.th.pc := by
  simp [fetch, ha, hb, hn, hx, hc]

theorem fetch_illegal {bs : List Byte} (hc : findBytes s s.th.asid s.th.pc (lenBytes len) = .bytes bs) (hd : decode bs = .error .illegal) :
    fetch s = .fault 0x01 0 := by
  simp [fetch, ha, hb, hn, hx, hc, hd]

end

/-- A thread that has not gone on behind a load takes the fault of its fetch at an aligned pc, where the page is used (R299). -/
theorem step_of_fetch_fault {s s1 : State} {tid : Nat} {rest : List Nat} {code : Nat} {faddr : W64} (hi : s.issuing = tid :: rest)
    (ht : takeThread tid s = some s1) (hw : s1.th.wcode = 0) (hl : s1.th.late = none) (ha : offsetOf s1.th.pc % 4 = 0)
    (hf : fetch s1 = .fault code faddr) : step s = .next (putBack (raise code faddr (s1.used s1.th.asid s1.th.pc))) := by
  have hs := fetchStep_of_fault hw hf
  rw [if_pos ha] at hs
  rw [step_of_taken hi ht, runThread_of_error hs hl]

theorem step_of_misaligned {s s1 : State} {tid : Nat} {rest : List Nat} (hi : s.issuing = tid :: rest) (ht : takeThread tid s = some s1)
    (hw : s1.th.wcode = 0) (hl : s1.th.late = none) (ha : offsetOf s1.th.pc % 4 ≠ 0) :
    step s = .next (putBack (raise 0x0A s1.th.pc s1)) := by
  have hs := fetchStep_of_fault hw (fetch_misaligned ha)
  rw [if_neg ha] at hs
  rw [step_of_taken hi ht, runThread_of_error hs hl]

/-- Settles O5: one lemma for each fault of the fetch, which the thread then takes in its turn. -/
theorem fetchFaultsInOrder : Obligations.FetchFaultsInOrder := by
  refine ⟨fun s s1 tid rest hi ht hw hl => ⟨step_of_misaligned hi ht hw hl, fun ha => ?_⟩, fun s s1 tid rest hi ht hw hl => ?_,
    fun s s1 tid rest hi ht hl hn => ?_⟩
  · have hfault {c : Nat} {h : W64} := step_of_fetch_fault (code := c) (faddr := h) hi ht hw hl ha
    refine ⟨fun c hb => hfault (fetch_first_code ha hb), fun home key pos hb => ?_, fun b0 hb => ⟨fun hn => hfault (fetch_no_length ha hb hn), ?_⟩⟩
    · rw [step_of_taken hi ht, runThread_of_error (fetchStep_of_absent hw (fetch_first_absent ha hb)) hl]
    · exact fun len hn => ⟨fun hx => hfault (fetch_crossing ha hb hn hx), fun hx =>
        ⟨fun c hc => hfault (fetch_whole_code ha hb hn hx hc), fun bs hc hd => hfault (fetch_illegal ha hb hn hx hc hd)⟩⟩
  · rw [step_of_taken hi ht, runThread_of_error (fetchStep_of_wcode hw) hl]
  · obtain ⟨s2, hs⟩ := fetchStep_error_of_no_instr hn
    rw [step_of_taken hi ht, runThread_of_error_late hs hl]

/-! ## Reset -/

/-- P0 of a new thread is true, its other predicates false (R44). -/
theorem newThread_p_get (tid : Nat) (w : Workgroup) (i : Nat) (k : Fin 8) : (newThread tid w i).p[k] = (k == 0) := by
  change Thread.blank.p[k] = (k == 0)
  revert k
  decide

section
variable (s : State) (j : Job) (t : Tcb) (img : Image) (k : KDesc) (gang pos core lbase : Nat)

/-- The barriers of a new workgroup are empty (R149). -/
theorem newWorkgroup_bar_get (i : Fin 16) : (newWorkgroup s j t img k gang pos core lbase).bar[i] = ⟨0, 0, 0⟩ :=
  Vector.getElem_replicate _

/-- The W registers of a new workgroup are the words of its launch (R149). -/
theorem newWorkgroup_w_get (i : Fin 16) : (newWorkgroup s j t img k gang pos core lbase).w[i] = t.words.getD i.val 0 :=
  Vector.getElem_ofFn _

/-- The format registers of a new workgroup are its kernel's (R149). -/
theorem newWorkgroup_f_get (i : Fin 8) : (newWorkgroup s j t img k gang pos core lbase).f[i] = k.finit.getD i.val 0 :=
  Vector.getElem_ofFn _

end

/-- Settles O59: the module holds nothing, and what comes into being has the values of its own `blank`. -/
theorem resetLeavesTheSpecValues : Obligations.ResetLeavesTheSpecValues := by
  refine ⟨rfl, rfl, rfl, rfl, rfl, rfl, rfl, rfl, rfl, fun tid w i => ⟨rfl, rfl, rfl, rfl, newThread_p_get tid w i, rfl, rfl, rfl, rfl⟩, ?_,
    fun c => ⟨rfl, rfl, rfl, rfl, rfl⟩, fun d => ⟨rfl, rfl, rfl⟩⟩
  intro s j t img k gang pos core lbase
  exact ⟨fun i => ⟨newWorkgroup_bar_get s j t img k gang pos core lbase i, newWorkgroup_w_get s j t img k gang pos core lbase i⟩,
    newWorkgroup_f_get s j t img k gang pos core lbase, rfl, rfl, rfl, rfl, rfl, rfl, rfl, rfl⟩

end Sys2Proof.Machine

namespace Sys2Proof.Machine

/-! ## Encoded instructions decode

Each field of the base word reads back to what was written there, the bytes behind the base word to the extension, so that the bytes of a
well-formed instruction decode to it whatever follows them. -/

/-- What fields that pass the check of their slot are: those of a form that accepts each of them. -/
theorem fieldsOk_iff {op : Nat} {f : Fields} : fieldsOk op f = true ↔ ∃ g, form op f.func f.imm11 f.ext f.len = some g ∧
    g.res.accepts f.dst = true ∧ (g.positions f.len).1.accepts f.a = true ∧ (g.positions f.len).2.1.accepts f.b = true ∧
    (g.positions f.len).2.2.accepts f.c = true ∧ extFits f.len f.ext = true := by
  unfold fieldsOk
  cases form op f.func f.imm11 f.ext f.len <;> simp [and_assoc]

/-- The decoder reads from a base word the fields that it was built of (R41, R42). -/
theorem decodeFields_baseWord {op : Nat} {f : Fields} (hop : op < 256) (hf : fieldsOk op f = true) :
    decodeFields op f.len (baseWord op f) f.ext = some f := by
  obtain ⟨g, hg, hd, ha, hb, hc, -⟩ := fieldsOk_iff.mp hf
  obtain ⟨-, eg, ed, ea, eb, ec, eu, em, -⟩ := baseWord_fields op f hop
  have hu : BitVec.ofNat 12 (baseWord op f / 2 ^ 41) = f.func := BitVec.eq_of_toNat_eq ((BitVec.toNat_ofNat ..).trans eu)
  have hm : BitVec.ofNat 11 (baseWord op f / 2 ^ 53) = f.imm11 := BitVec.eq_of_toNat_eq ((BitVec.toNat_ofNat ..).trans em)
  simp only [decodeFields, hu, hm, hg, eg, ed, ea, eb, ec, guardOf_guardCode, readDst_dstCode _ _ hd, readPos_opndCode _ _ ha,
    readPos_opndCode _ _ hb, readPos_opndCode _ _ hc]

/-- The decoder finds the instruction of a base word, its slot being the word's OP. -/
theorem decodeWord_baseWord {i : Instr} {op : Nat} {f : Fields} (hi : opFields i = some (op, f)) (hf : fieldsOk op f = true) :
    decodeWord f.len (baseWord op f) f.ext = .ok i := by
  have hop : op < 256 := opFields_lt i op f hi
  obtain ⟨eo, -⟩ := baseWord_fields op f hop
  simp only [decodeWord, eo, decodeFields_baseWord hop hf, ofOp_opFields i op f hi]

/-- LEN is in the first byte of the word (R6, R38). -/
theorem lenOf_first_byte (op : Nat) (f : Fields) (bs : List Byte) : lenOf (leNat ((leBytes 8 (baseWord op f) ++ bs).take 1)) = some f.len := by
  have hbyte : leNat ((leBytes 8 (baseWord op f) ++ bs).take 1) = baseWord op f % 256 := by simp [leBytes, leNat]
  have hmod : ∀ w, lenOf (w % 256) = lenOf w := fun w => by simp only [lenOf, Nat.mod_mod_of_dvd w (by decide : 4 ∣ 256)]
  rw [hbyte, hmod]
  exact lenOf_lenCode f.len _

/-- The bytes that a word of this length carries behind its base word hold the whole extension (R42). -/
theorem ext_of_leBytes {len : Len} {ext : W64} (h : extFits len ext = true) :
    BitVec.ofNat 64 (leNat (leBytes (lenBytes len - 8) ext.toNat)) = ext := by
  rw [leNat_leBytes]
  have hlt : ext.toNat < 256 ^ (lenBytes len - 8) := by
    cases len with
    | l64 => simp [extFits] at h; simp [h, lenBytes]
    | l96 => simpa [extFits, lenBytes] using h
    | l128 => exact ext.isLt
  rw [Nat.mod_eq_of_lt hlt, BitVec.ofNat_toNat, BitVec.setWidth_eq]

/-- The bytes of a well-formed instruction decode to it, whatever bytes follow (R38, R41, R42). -/
theorem decode_encode_append {i : Instr} {op : Nat} {f : Fields} (hi : opFields i = some (op, f)) (hf : fieldsOk op f = true) (rest : List Byte) :
    decode (encode i ++ rest) = .ok (i, lenBytes f.len) := by
  obtain ⟨g, -, -, -, -, -, hext⟩ := fieldsOk_iff.mp hf
  obtain ⟨-, -, -, -, -, -, -, -, hw⟩ := baseWord_fields op f (opFields_lt i op f hi)
  have hlen : lenBytes f.len = 8 + (lenBytes f.len - 8) := by cases f.len <;> rfl
  have hbytes : encode i = leBytes 8 (baseWord op f) ++ leBytes (lenBytes f.len - 8) f.ext.toNat := by simp only [encode, hi]
  have hlong : ¬ (encode i ++ rest).length < lenBytes f.len := by
    rw [hbytes, List.length_append, List.length_append, leBytes_length, leBytes_length]; omega
  have hword : leNat ((encode i ++ rest).take 8) = baseWord op f := by
    rw [hbytes, List.append_assoc, List.take_left' (leBytes_length 8 _), leNat_leBytes]
    exact Nat.mod_eq_of_lt hw
  have htail : ((encode i ++ rest).take (lenBytes f.len)).drop 8 = leBytes (lenBytes f.len - 8) f.ext.toNat := by
    rw [List.take_left' (by rw [hbytes, List.length_append, leBytes_length, leBytes_length]; exact hlen.symm), hbytes,
      List.drop_left' (leBytes_length 8 _)]
  have hfirst : lenOf (leNat ((encode i ++ rest).take 1)) = some f.len := by rw [hbytes, List.append_assoc]; exact lenOf_first_byte op f _
  simp only [decode, hfirst, if_neg hlong, hword, htail, ext_of_leBytes hext, decodeWord_baseWord hi hf]

/-- Bytes that are the encoding of a well-formed instruction decode to it. -/
theorem decode_of_encode_eq {i : Instr} {op n : Nat} {f : Fields} {bs : List Byte} (hi : opFields i = some (op, f)) (hf : fieldsOk op f = true)
    (hn : lenBytes f.len = n) (hbs : encode i = bs) : decode bs = .ok (i, n) := by
  subst hbs hn
  simpa using decode_encode_append hi hf []

/-- Settles O3: each word is the encoding of the instruction that the spec gives it, whose slot accepts its fields. -/
theorem specWordsDecode : Obligations.SpecWordsDecode := by
  refine ⟨?add, ?bra, ?trap, ?mma⟩
  case add => exact decode_of_encode_eq (op := 0x01) rfl (by decide) rfl (by decide)
  case bra => exact decode_of_encode_eq (op := 0x30) rfl (by decide) rfl (by decide)
  case trap => exact decode_of_encode_eq (op := 0xF0) rfl (by decide) rfl (by decide)
  case mma => exact decode_of_encode_eq (op := 0xC8) rfl (by decide) rfl (by decide)

end Sys2Proof.Machine

/-! SUPPORT. The statements of the family "scalar and control instructions" and the lemmas they need: narrowing and extending (R43, R64), the bits
of the integer results (R66), control transfer and the end of a thread (R73-R78), identities and counters (R84, R85), and the instances of the
cross-lane instructions with their results (R79-R83). -/

namespace Sys2Proof.Machine

/-! ## Narrowing and extending (R43, R64) -/

theorem width_bounds_of_isInt {t : Nat} (h : isInt t = true) : 0 < width t ∧ width t ≤ 64 := by
  have ht : t < 8 := of_decide_eq_true h
  interval_cases t <;> decide

/-- The signed reading of the low `w` bits is the one of a word of that width. -/
theorem toSigned_eq_toInt {w : Nat} (hw : 0 < w) (x : Nat) : toSigned w x = (BitVec.ofNat w x).toInt := by
  have hdouble := Nat.two_pow_pred_mul_two hw
  simp only [toSigned, BitVec.toInt_eq_toNat_cond, BitVec.toNat_ofNat]
  congr 1
  exact propext ⟨fun h => by omega, fun h => by omega⟩

/-- Reducing to TYPE keeps the low bits, and extending continues them to 64 bits. -/
theorem extend_eq {t : Nat} (h : isInt t = true) (r : Int) :
    extend t r = if isSigned t then (BitVec.ofInt (width t) r).signExtend 64 else (BitVec.ofInt (width t) r).setWidth 64 := by
  have hv : (r % (2 ^ width t : Nat)).toNat = (BitVec.ofInt (width t) r).toNat := (BitVec.toNat_ofInt r).symm
  simp only [extend, hv]
  split_ifs
  · rw [sext64, toSigned_eq_toInt (width_bounds_of_isInt h).1, BitVec.ofNat_toNat, BitVec.setWidth_eq]
    rfl
  · rw [zext64, Nat.mod_eq_of_lt (BitVec.isLt _), BitVec.ofNat_toNat]

/-- A result enters only by its low bits. -/
theorem extend_congr {t : Nat} (h : isInt t = true) {r r' : Int} (hr : BitVec.ofInt (width t) r = BitVec.ofInt (width t) r') :
    extend t r = extend t r' := by
  rw [extend_eq h, extend_eq h, hr]

theorem setWidth_extend {t : Nat} (h : isInt t = true) (r : Int) : (extend t r).setWidth (width t) = BitVec.ofInt (width t) r := by
  have hw := (width_bounds_of_isInt h).2
  rw [extend_eq h]
  split_ifs
  · ext i hi
    simp only [BitVec.getElem_setWidth, BitVec.getLsbD_signExtend]
    simp [hi, lt_of_lt_of_le hi hw]
  · simp [BitVec.setWidth_setWidth_of_le _ hw]

/-- An extended result narrows to its low bits, read as TYPE says. -/
theorem narrow_extend {t : Nat} (h : isInt t = true) (r : Int) :
    narrow t (extend t r) = if isSigned t then r.bmod (2 ^ width t) else r % (2 ^ width t : Nat) := by
  have hpos : (0 : Int) < (2 ^ width t : Nat) := by exact_mod_cast Nat.two_pow_pos _
  have hx : BitVec.ofNat (width t) (extend t r).toNat = BitVec.ofInt (width t) r := by rw [BitVec.ofNat_toNat, setWidth_extend h]
  have hn : (extend t r).toNat % 2 ^ width t = (BitVec.ofInt (width t) r).toNat := by rw [← BitVec.toNat_ofNat, hx]
  rw [narrow, toSigned_eq_toInt (width_bounds_of_isInt h).1, hx, hn, BitVec.toInt_ofInt, BitVec.toNat_ofInt,
    Int.toNat_of_nonneg (Int.emod_nonneg _ hpos.ne')]

/-- Extending and narrowing again is the exact result modulo 2^w, in the range of TYPE. -/
theorem narrow_extend_mod_and_range {t : Nat} (h : isInt t = true) (r : Int) :
    (narrow t (extend t r) - r) % ((2 ^ width t : Nat) : Int) = 0 ∧ loOf t ≤ narrow t (extend t r) ∧ narrow t (extend t r) ≤ hiOf t := by
  have hdouble := Nat.two_pow_pred_mul_two (width_bounds_of_isInt h).1
  have hpos := Nat.two_pow_pos (width t - 1)
  rw [narrow_extend h, loOf, hiOf]
  split_ifs
  · refine ⟨by rw [← Int.emod_eq_emod_iff_emod_sub_eq_zero, Int.bmod_emod], ?_, ?_⟩
    · have := Int.le_bmod (x := r) (Nat.two_pow_pos (width t)); omega
    · have := Int.bmod_lt (x := r) (Nat.two_pow_pos (width t)); omega
  · refine ⟨by rw [← Int.emod_eq_emod_iff_emod_sub_eq_zero, Int.emod_emod], ?_, ?_⟩
    · exact Int.emod_nonneg _ (by omega)
    · have := Int.emod_lt_of_pos r (b := (2 ^ width t : Nat)) (by omega); omega

/-- A result in the range of TYPE is unchanged. -/
theorem narrow_extend_of_in_range {t : Nat} (h : isInt t = true) {r : Int} (hlo : loOf t ≤ r) (hhi : r ≤ hiOf t) :
    narrow t (extend t r) = r := by
  have hdouble := Nat.two_pow_pred_mul_two (width_bounds_of_isInt h).1
  rw [narrow_extend h]
  rw [loOf] at hlo
  rw [hiOf] at hhi
  split_ifs at hlo hhi ⊢
  · exact Int.bmod_eq_of_le (by omega) (by omega)
  · exact Int.emod_eq_of_lt hlo (by omega)

/-! ## The integer arithmetic instructions (R65) -/

theorem intResult_mayRun {op : Nat} {f : Fields} {s : State} (r : State → Int) (h : mayRun op f s = true) :
    intResult op f r s = .next (finishQ f (extend (tyOf f) (r s)) s) := runOp_mayRun _ h

/-- An instruction of class IA that may run completes with any exact result that equals its own. -/
theorem intResult_of_eq {op : Nat} {f : Fields} {s : State} {r : State → Int} {v : Int} (hv : r s = v) (h : mayRun op f s = true) :
    intResult op f r s = .next (finishQ f (extend (tyOf f) v) s) := by
  rw [intResult_mayRun r h, hv]

theorem remInt_eq (a b : Int) : remInt a b = if b = 0 then a else a - b * a.tdiv b := by
  rw [remInt, Int.tmod_def]

theorem natAbs_eq_ite (a : Int) : (a.natAbs : Int) = if a < 0 then -a else a := by
  split_ifs <;> omega

/-- Settles O15: narrowing reads the low bits that extending kept, and each instruction's exact result is the model's. -/
theorem integerArithmeticResults : Obligations.IntegerArithmeticResults := by
  refine ⟨fun t r h => ?_, fun f s => ⟨?add, ?sub, ?mul, ?mulh, ?div, ?rem, ?mad, ?neg, ?abs, ?min, ?max⟩⟩
  · obtain ⟨hmod, hlo, hhi⟩ := narrow_extend_mod_and_range h r
    exact ⟨hmod, hlo, hhi, narrow_extend_of_in_range h⟩
  case add | sub | mul | mulh | div | mad | neg => exact intResult_mayRun _
  case rem => exact intResult_of_eq (remInt_eq _ _)
  case abs => exact intResult_of_eq (natAbs_eq_ite _)
  case min => exact intResult_of_eq (min_def _ _)
  case max => exact intResult_of_eq (max_def _ _)

/-! ## The bits of the integer results (R66) -/

theorem bitOf_eq_testBit (x k : Nat) : bitOf x k = x.testBit k := by
  rw [bitOf, Nat.testBit_eq_decide_div_mod_eq]
  rfl

/-- A bit instruction that may run completes with the pattern of those low bits that its exact result has. -/
theorem intResult_of_bits {op : Nat} {f : Fields} {s : State} {r : State → Int} {bit : Nat → Bool} (ht : isInt (tyOf f) = true) (n : Nat)
    (hr : BitVec.ofInt (width (tyOf f)) (r s) = BitVec.ofNat (width (tyOf f)) n) (hb : ∀ k, k < width (tyOf f) → n.testBit k = bit k)
    (h : mayRun op f s = true) : ∃ x : Nat, x < 2 ^ width (tyOf f) ∧ (∀ k, k < width (tyOf f) → x.testBit k = bit k) ∧
      intResult op f r s = .next (finishQ f (extend (tyOf f) x) s) := by
  refine ⟨n % 2 ^ width (tyOf f), Nat.mod_lt _ (Nat.two_pow_pos _), fun k hk => ?_, ?_⟩
  · rw [Nat.testBit_mod_two_pow, hb k hk, decide_eq_true hk, Bool.true_and]
  · rw [intResult_mayRun r h]
    congr 2
    refine extend_congr ht (hr.trans ?_)
    rw [BitVec.ofInt_natCast]
    exact BitVec.eq_of_toNat_eq (by simp)

theorem pattern_lt (t : Nat) (x : W64) : pattern t x < 2 ^ width t := Nat.mod_lt _ (Nat.two_pow_pos _)

theorem testBit_and_not {w u v k : Nat} (hv : v < 2 ^ w) (hk : k < w) :
    (u &&& (2 ^ w - 1 - v)).testBit k = (u.testBit k && !v.testBit k) := by
  rw [show 2 ^ w - 1 - v = 2 ^ w - (v + 1) by omega, Nat.testBit_and, Nat.testBit_two_pow_sub_succ hv]
  simp [hk]

/-- A shift left by `w` or more leaves no bit. -/
theorem ofInt_shl (w u n : Nat) : BitVec.ofInt w (if n < w then ((u * 2 ^ n : Nat) : Int) else 0) = BitVec.ofNat w (u * 2 ^ n) := by
  split_ifs with h
  · rfl
  · have hdvd : 2 ^ w ∣ u * 2 ^ n := Dvd.dvd.mul_left (Nat.pow_dvd_pow 2 (by omega)) u
    exact BitVec.eq_of_toNat_eq (by simp [Nat.mod_eq_zero_of_dvd hdvd])

/-- A shift right by `w` or more leaves no bit. -/
theorem ofInt_shr {w u : Nat} (n : Nat) (hu : u < 2 ^ w) :
    BitVec.ofInt w (if n < w then ((u / 2 ^ n : Nat) : Int) else 0) = BitVec.ofNat w (u / 2 ^ n) := by
  split_ifs with h
  · rfl
  · rw [Nat.div_eq_of_lt (lt_of_lt_of_le hu (Nat.pow_le_pow_right (by decide) (by omega)))]
    rfl

theorem ofInt_sra {w : Nat} (hw : 0 < w) (u n : Nat) :
    BitVec.ofInt w (toSigned w u / (2 ^ n : Nat)) = BitVec.ofNat w ((BitVec.ofNat w u).sshiftRight n).toNat := by
  rw [toSigned_eq_toInt hw, ← Int.shiftRight_eq_div_pow, BitVec.ofNat_toNat, BitVec.setWidth_eq]
  rfl

/-- The bits of an arithmetic shift right, the count limited to `w` − 1. -/
theorem getLsbD_sra {w u : Nat} (n : Nat) {k : Nat} (hk : k < w) : ((BitVec.ofNat w u).sshiftRight (min n (w - 1))).getLsbD k =
      if k + n < w then u.testBit (k + n) else u.testBit (w - 1) := by
  have hmsb : (BitVec.ofNat w u).msb = u.testBit (w - 1) := by
    rw [BitVec.msb_eq_getLsbD_last, BitVec.getLsbD_ofNat, decide_eq_true (by omega), Bool.true_and]
  simp only [BitVec.getLsbD_sshiftRight, hmsb, BitVec.getLsbD_ofNat]
  rcases Nat.lt_or_ge n w with h | h
  · rw [Nat.min_eq_left (by omega), Nat.add_comm n k]
    simp +contextual [hk]
  · rw [Nat.min_eq_right (by omega), if_neg (show ¬ k + n < w by omega)]
    rcases Nat.eq_zero_or_pos k with rfl | h0
    · simp [hk, hk.ne']
    · simp [hk, show ¬ w - 1 + k < w by omega]

/-- A rotation is a product and the bits that leave it at the top. -/
theorem rol_eq {w : Nat} (hw : 0 < w) (u n : Nat) : rol w u n = 2 ^ (n % w) * (u % 2 ^ (w - n % w)) + u / 2 ^ (w - n % w) := by
  have hsplit : 2 ^ w = 2 ^ (n % w) * 2 ^ (w - n % w) := by rw [← Nat.pow_add, Nat.add_sub_cancel' (Nat.mod_lt n hw).le]
  simp only [rol]
  rw [Nat.mul_comm u, hsplit, Nat.mul_mod_mul_left]

theorem testBit_rol {w u : Nat} (n : Nat) {k : Nat} (hu : u < 2 ^ w) (hk : k < w) :
    (rol w u n).testBit k = u.testBit ((k + w - n % w) % w) := by
  have hn : n % w < w := Nat.mod_lt n (by omega)
  have htop : u / 2 ^ (w - n % w) < 2 ^ (n % w) := by
    rw [Nat.div_lt_iff_lt_mul (Nat.two_pow_pos _), ← Nat.pow_add, Nat.add_sub_cancel' hn.le]
    exact hu
  rw [rol_eq (by omega), Nat.testBit_two_pow_mul_add _ htop, Nat.testBit_mod_two_pow, Nat.testBit_div_two_pow]
  generalize n % w = r at *
  split_ifs with h
  · rw [Nat.mod_eq_of_lt (by omega)]
    congr 1
    omega
  · rw [show k + w - r = k - r + w by omega, Nat.add_mod_right, Nat.mod_eq_of_lt (by omega), decide_eq_true (by omega), Bool.true_and]

theorem brev_lt (w u : Nat) : brev w u < 2 ^ w := by
  induction w generalizing u with
  | zero => simp [brev]
  | succ w ih =>
    have hbit : u % 2 * 2 ^ w ≤ 1 * 2 ^ w := Nat.mul_le_mul_right _ (by omega)
    have := ih (u / 2)
    rw [brev, Nat.pow_succ]
    omega

theorem testBit_brev {w k : Nat} (u : Nat) (hk : k < w) : (brev w u).testBit k = u.testBit (w - 1 - k) := by
  induction w generalizing u with
  | zero => omega
  | succ w ih =>
    rw [brev, Nat.mul_comm, Nat.testBit_two_pow_mul_add _ (brev_lt w _)]
    split_ifs with h
    · rw [ih _ h, Nat.testBit_div_two]
      congr 1
      omega
    · have hkw : k = w := by omega
      simp [hkw]

theorem bits_fourteen_eight (g : Nat) : bits g 14 8 = g / 256 % 128 := rfl

/-- The bits of an insertion of `len` bits at `pos`. -/
theorem testBit_bfi {w k : Nat} (u b g : Nat) (hk : k < w) : (bfi w u b g).testBit k =
    if g % 64 ≤ k ∧ k < g % 64 + min (g / 256 % 128) 64 then b.testBit (k - g % 64) else u.testBit k := by
  simp only [bfi, bits_fourteen_eight]
  generalize g % 64 = pos
  generalize min (g / 256 % 128) 64 = len
  have hmask : ((2 ^ len - 1) * 2 ^ pos % 2 ^ w).testBit k = decide (pos ≤ k ∧ k < pos + len) := by
    simp only [Nat.testBit_mod_two_pow, Nat.testBit_mul_two_pow, Nat.testBit_two_pow_sub_one, decide_eq_true hk, Bool.true_and, Bool.decide_and]
    rcases Nat.lt_or_ge k pos with h | h
    · simp [show ¬ pos ≤ k by omega]
    · simp only [h, decide_true, Bool.true_and, decide_eq_decide]
      omega
  simp only [Nat.testBit_or, Nat.testBit_and, Nat.testBit_xor, hmask, Nat.testBit_two_pow_sub_one, Nat.testBit_mul_two_pow]
  split_ifs with h
  · simp [h, hk]
  · simp [h, hk]

/-- A sign extension from `n` bits, seen as one of words. -/
theorem sextTo_eq {w u n : Nat} (h0 : 0 < n) (hn : n < w) : sextTo w u n = ((BitVec.ofNat n u).signExtend w).toNat := by
  rw [sextTo, if_neg (by omega), if_neg (by omega), toSigned_eq_toInt h0, BitVec.signExtend, BitVec.toNat_ofInt]

theorem testBit_sextTo {w k : Nat} (u n : Nat) (hk : k < w) : (sextTo w u n).testBit k =
    if n = 0 then false else if w ≤ n ∨ k < n then u.testBit k else u.testBit (n - 1) := by
  rcases Nat.eq_zero_or_pos n with rfl | h0
  · simp [sextTo]
  rw [if_neg (by omega)]
  rcases Nat.lt_or_ge n w with hn | hn
  · have hmsb : (BitVec.ofNat n u).msb = u.testBit (n - 1) := by
      rw [BitVec.msb_eq_getLsbD_last, BitVec.getLsbD_ofNat, decide_eq_true (by omega), Bool.true_and]
    rw [sextTo_eq h0 hn, BitVec.testBit_toNat, BitVec.getLsbD_signExtend, hmsb, decide_eq_true hk, Bool.true_and, BitVec.getLsbD_ofNat]
    by_cases h : k < n <;> simp [h, show ¬ w ≤ n by omega]
  · rw [sextTo, if_neg (by omega), if_pos hn, if_pos (.inl hn)]

theorem testBit_zextTo {w u k : Nat} (n : Nat) (hk : k < w) : (zextTo w u n).testBit k = (decide (k < n) && u.testBit k) := by
  rw [zextTo]
  split_ifs with h
  · simp [show k < n by omega]
  · exact Nat.testBit_mod_two_pow u n k

/-! ## The counting instructions and the bit-field extract (R66) -/

theorem clz_spec {w u : Nat} (hu : u < 2 ^ w) :
    clz w u ≤ w ∧ (∀ k, w - clz w u ≤ k → k < w → u.testBit k = false) ∧ (clz w u < w → u.testBit (w - 1 - clz w u) = true) := by
  rw [clz]
  split_ifs with h
  · exact ⟨le_rfl, fun k _ _ => by simp [h], fun hlt => absurd hlt (lt_irrefl w)⟩
  · have hlog : u.log2 < w := (Nat.log2_lt h).mpr hu
    refine ⟨by omega, fun k hk _ => Nat.testBit_lt_two_pow ?_, fun _ => ?_⟩
    · exact (Nat.log2_lt h).mp (by omega)
    · rw [show w - 1 - (w - 1 - u.log2) = u.log2 by omega]
      exact Nat.testBit_log2 h

theorem ctz_spec (w u : Nat) : ctz w u ≤ w ∧ (∀ k, k < ctz w u → u.testBit k = false) ∧ (ctz w u < w → u.testBit (ctz w u) = true) := by
  induction w generalizing u with
  | zero => simp [ctz]
  | succ w ih =>
    obtain ⟨hle, hlow, htop⟩ := ih (u / 2)
    rw [ctz]
    split_ifs with h
    · exact ⟨by omega, fun k hk => absurd hk (by omega), fun _ => by simp [h]⟩
    · refine ⟨by omega, fun k hk => ?_, fun hlt => ?_⟩
      · cases k with
        | zero => simpa using h
        | succ k => rw [Nat.testBit_succ]; exact hlow k (by omega)
      · rw [Nat.add_comm 1, Nat.testBit_succ]
        exact htop (by omega)

theorem popc_eq (w u : Nat) : popc w u = ((List.range w).filter (fun k => u.testBit k)).length := by
  induction w generalizing u with
  | zero => rfl
  | succ w ih =>
    have htail : ((List.range w).map Nat.succ).filter (fun k => u.testBit k) =
        ((List.range w).filter (fun k => (u / 2).testBit k)).map Nat.succ := by
      rw [List.filter_map]
      congr 2
      exact funext fun k => Nat.testBit_succ u k
    rw [popc, ih, List.range_succ_eq_map, List.filter_cons, htail, Nat.testBit_zero]
    rcases Nat.mod_two_eq_zero_or_one u with h | h <;> simp [h, Nat.add_comm]

/-- The bits that `BFX` takes out: `len` of them from bit `pos` on. -/
def bfxBits (u g : Nat) : Nat := u / 2 ^ (g % 64) % 2 ^ min (g / 256 % 128) 64

theorem bfxBits_lt (u g : Nat) : bfxBits u g < 2 ^ min (g / 256 % 128) 64 := Nat.mod_lt _ (Nat.two_pow_pos _)

theorem testBit_bfxBits {w u k : Nat} (g : Nat) (hu : u < 2 ^ w) (hk : k < min (g / 256 % 128) 64) :
    (bfxBits u g).testBit k = (decide (g % 64 + k < w) && u.testBit (g % 64 + k)) := by
  rw [bfxBits, Nat.testBit_mod_two_pow, decide_eq_true hk, Bool.true_and, Nat.testBit_div_two_pow, Nat.add_comm k]
  by_cases h : g % 64 + k < w
  · simp [h]
  · rw [Nat.testBit_lt_two_pow (lt_of_lt_of_le hu (Nat.pow_le_pow_right (by decide) (by omega)))]
    simp

/-- The top bit of an `n`-bit pattern decides how it is read as signed. -/
theorem toSigned_of_lt {n x : Nat} (hn : 0 < n) (hx : x < 2 ^ n) :
    toSigned n x = if x.testBit (n - 1) = true then (x : Int) - (2 ^ n : Nat) else x := by
  have hdouble := Nat.two_pow_pred_mul_two hn
  have htop : x.testBit (n - 1) = true ↔ ¬ x < 2 ^ (n - 1) := by
    constructor
    · intro h hlt
      rw [Nat.testBit_lt_two_pow hlt] at h
      exact absurd h (by decide)
    · intro h
      exact Nat.testBit_of_two_pow_le_and_two_pow_add_one_gt (by omega) (by rw [Nat.sub_add_cancel hn]; exact hx)
  simp only [toSigned, Nat.mod_eq_of_lt hx, htop]
  split_ifs <;> rfl

theorem bfx_eq (signed : Bool) (u g : Nat) : bfx signed u g =
    if signed = true ∧ 0 < min (g / 256 % 128) 64 ∧ (bfxBits u g).testBit (min (g / 256 % 128) 64 - 1) = true
    then (bfxBits u g : Int) - (2 ^ min (g / 256 % 128) 64 : Nat) else bfxBits u g := by
  have hbfx : bfx signed u g = if min (g / 256 % 128) 64 = 0 then 0
      else if signed = true then toSigned (min (g / 256 % 128) 64) (bfxBits u g) else (bfxBits u g : Int) := rfl
  have hx := bfxBits_lt u g
  rw [hbfx]
  generalize min (g / 256 % 128) 64 = len at *
  rcases Nat.eq_zero_or_pos len with rfl | hlen
  · simp [Nat.lt_one_iff.mp hx]
  · rw [if_neg hlen.ne', toSigned_of_lt hlen hx]
    cases signed <;> simp [hlen]

/-- Settles O16: one lemma for the bits of each result, which extending keeps. -/
theorem bitAndCountInstructionResults : Obligations.BitAndCountInstructionResults := by
  refine ⟨fun f s ht => ⟨?and, ?or, ?xor, ?andn, ?shl, ?shr, ?sra, ?rol, ?brev, ?bfi, ?sext, ?zext⟩, fun f s ht => ⟨?clz, ?ctz, ?popc, ?bfx⟩⟩
  case and => exact intResult_of_bits ht _ rfl fun k _ => Nat.testBit_and ..
  case or => exact intResult_of_bits ht _ rfl fun k _ => Nat.testBit_or ..
  case xor => exact intResult_of_bits ht _ rfl fun k _ => Nat.testBit_xor ..
  case andn => exact intResult_of_bits ht _ rfl fun k hk => testBit_and_not (pattern_lt _ _) hk
  case shl => exact intResult_of_bits ht _ (ofInt_shl _ _ _) fun k _ => Nat.testBit_mul_two_pow ..
  case shr => exact intResult_of_bits ht _ (ofInt_shr _ (pattern_lt _ _)) fun k _ => Nat.testBit_div_two_pow ..
  case sra => exact intResult_of_bits ht _ (ofInt_sra (width_bounds_of_isInt ht).1 _ _) fun k hk => getLsbD_sra _ hk
  case rol => exact intResult_of_bits ht _ rfl fun k hk => testBit_rol _ (pattern_lt _ _) hk
  case brev => exact intResult_of_bits ht _ rfl fun k hk => testBit_brev _ hk
  case bfi => exact intResult_of_bits ht _ rfl fun k hk => testBit_bfi _ _ _ hk
  case sext => exact intResult_of_bits ht _ rfl fun k hk => testBit_sextTo _ _ hk
  case zext => exact intResult_of_bits ht _ rfl fun k hk => testBit_zextTo _ hk
  case clz => exact fun h => ⟨_, intResult_mayRun _ h, clz_spec (pattern_lt _ _)⟩
  case ctz => exact fun h => ⟨_, intResult_mayRun _ h, ctz_spec _ _⟩
  case popc => exact intResult_of_eq (congrArg _ (popc_eq _ _))
  case bfx =>
    exact fun h => ⟨bfxBits _ _, bfxBits_lt _ _, fun k hk => testBit_bfxBits _ (pattern_lt _ _) hk, intResult_of_eq (bfx_eq _ _ _) h⟩

/-! ## Control transfer (R73-R76) -/

theorem handleOf_toNat (idx off : Nat) : (handleOf idx off).toNat = idx % 65536 * 2 ^ 48 + off % 2 ^ 48 := by
  rw [handleOf, BitVec.toNat_ofNat]
  omega

theorem indexOf_handleOf (idx off : Nat) : indexOf (handleOf idx off) = idx % 65536 := by
  rw [indexOf, handleOf_toNat]
  omega

theorem offsetOf_handleOf (idx off : Nat) : offsetOf (handleOf idx off) = off % 2 ^ 48 := by
  rw [offsetOf, handleOf_toNat]
  omega

theorem indexOf_lt (h : W64) : indexOf h < 65536 := by
  have := h.isLt
  rw [indexOf]
  omega

theorem indexOf_pcAdd (x : W64) (d : Int) : indexOf (pcAdd x d) = indexOf x := by
  rw [pcAdd, indexOf_handleOf, Nat.mod_eq_of_lt (indexOf_lt x)]

theorem offsetOf_pcAdd (x : W64) (d : Int) : (offsetOf (pcAdd x d) : Int) = ((offsetOf x : Int) + d) % 2 ^ 48 := by
  rw [pcAdd, offsetOf_handleOf]
  omega

theorem execLoop_mayRun {f : Fields} {s : State} (h : mayRun 0x37 f s = true) :
    execLoop f s = .next (if (src 0x37 f 0 s).toInt - 1 > 0 then jump (relTarget f s) (finishQ f (src 0x37 f 0 s - 1) s)
      else finishQ f (src 0x37 f 0 s - 1) s) := runOp_mayRun _ h

/-- Settles O18: each transfer is `jump` to the target of R73, behind the push where it has a Result. -/
theorem branchesGoToTheirTargets : Obligations.BranchesGoToTheirTargets := by
  refine ⟨⟨fun _ _ => rfl, fun x d => ⟨indexOf_pcAdd x d, ?offset⟩⟩, fun f s => ⟨?bra, ?brp, ?call, ?ret, ?loop, ?nop⟩⟩
  case offset => exact_mod_cast offsetOf_pcAdd x d
  case bra | brp | call | ret | nop => exact runOp_mayRun _
  case loop =>
    refine fun h => ⟨fun hc => ?_, fun hc => ?_⟩
    · exact (execLoop_mayRun h).trans (by rw [if_pos (by omega)]; rfl)
    · exact (execLoop_mayRun h).trans (by rw [if_neg (by omega)])

/-! ## `CALLX` (R74, R75) -/

/-- A read made in place changes the ports only (R299). -/
theorem State.used_th (s : State) (asid : Nat) (h : W64) : (s.used asid h).th = s.th := by
  unfold State.used
  split
  · rfl
  · dsimp only
    split_ifs
    · rfl
    · split <;> rfl

/-- What `CALLX` does with what it has read at `a` − 8, its read having used the page: the MARK, the budgets, the call (R74, R75). -/
def callxRead (f : Fields) (s : State) (a : W64) (u : State) : Found → State
  | .code c => raise c a u
  | .absent home key pos => parkFetch home key pos s
  | .bytes bs =>
    if leNat bs / 2 ^ 16 % 2 ^ 16 ≠ 0xC0DE then raise 0x01 a u
    else if s.th.nbud < leNat bs % 2 ^ 6 ∨ s.th.vbud < leNat bs / 2 ^ 6 % 2 ^ 4 then raise 0x04 a u
    else jump a (finishQ f (pcAdd s.th.pc (lenBytes f.len)) u)

section
variable {f : Fields} {s : State} (h : mayRun 0x33 f s = true)
include h

theorem execCallx_misaligned (ha : offsetOf (src 0x33 f 0 s) % 8 ≠ 0) : execCallx f s = .next (raise 0x0A (src 0x33 f 0 s) s) := by
  simp only [execCallx, runOp_mayRun _ h, if_pos ha]

variable (ha : offsetOf (src 0x33 f 0 s) % 8 = 0)
include ha

/-- No descriptor lies in front of the buffer's first eight bytes (R74). -/
theorem execCallx_no_descriptor (hlo : offsetOf (src 0x33 f 0 s) < 8) :
    ∃ c, (c = 0x06 ∨ c = 0x08) ∧ execCallx f s = .next (raise c (src 0x33 f 0 s) s) := by
  simp only [execCallx, runOp_mayRun _ h, if_neg (not_not.mpr ha), if_pos hlo]
  refine ⟨_, ?_, rfl⟩
  split
  · exact .inr rfl
  · exact .inl rfl

theorem execCallx_reads (hlo : 8 ≤ offsetOf (src 0x33 f 0 s)) {r : Found}
    (hr : findBytes s s.th.asid (handleOf (indexOf (src 0x33 f 0 s)) (offsetOf (src 0x33 f 0 s) - 8)) 8 = r) :
    execCallx f s = .next (callxRead f s (src 0x33 f 0 s)
      (s.used s.th.asid (handleOf (indexOf (src 0x33 f 0 s)) (offsetOf (src 0x33 f 0 s) - 8))) r) := by
  simp only [execCallx, runOp_mayRun _ h, if_neg (not_not.mpr ha), if_neg (Nat.not_lt.mpr hlo), hr]
  cases r with
  | code c | absent home key pos => rfl
  | bytes bs => simp only [callTo, State.used_th, callxRead, bits, gt_iff_lt, Nat.reduceSub, Nat.reduceAdd, pow_zero, Nat.div_one]

end

/-- Settles O19: the checks in front of the read, then those on what it gives, which `callxRead` lists. -/
theorem callxChecksItsDescriptor : Obligations.CallxChecksItsDescriptor := by
  intro f s h
  refine ⟨execCallx_misaligned h, execCallx_no_descriptor h, fun ha hlo => ?_⟩
  have hread {r : Found} := execCallx_reads (r := r) h ha hlo
  refine ⟨fun c hr => hread hr, fun home key pos hr => hread hr, fun bs hr => ⟨fun hm => ?_, fun hm hb => ?_, fun hm hn hv => ?_⟩⟩
  all_goals refine (hread hr).trans (congrArg _ ?_)
  · exact if_pos hm
  · exact (if_neg (not_not.mpr hm)).trans (if_pos hb)
  · exact (if_neg (not_not.mpr hm)).trans (if_neg (by omega))

/-! ## `TRAP` and `BKPT` (R78, R201) -/

theorem execTrap_mayRun {f : Fields} {s : State} (h : mayRun 0xF0 f s = true) :
    execTrap f s = .next (raise 0x10 (src 0xF0 f 0 s) s) := runOp_mayRun _ h

theorem execBkpt_mayRun {f : Fields} {s : State} (h : mayRun 0x39 f s = true) :
    execBkpt f s = .next (raise 0x11 (BitVec.ofNat 64 f.imm11.toNat) s) := runOp_mayRun _ h

/-- Settles O10: both raise their fault, which a thread that handles it takes as `State.trapped`. -/
theorem trapAndBreakpointTakeTheirFault : Obligations.TrapAndBreakpointTakeTheirFault := by
  refine fun f s => ⟨execTrap_mayRun, execBkpt_mayRun, fun hh => ⟨fun h => ?_, fun h => ?_, fun code x => ⟨rfl, rfl, rfl⟩⟩⟩
  · exact (execTrap_mayRun h).trans (congrArg _ (raise_handled (by decide) hh))
  · exact (execBkpt_mayRun h).trans (congrArg _ (raise_handled (by decide) hh))

/-! ## `EXIT` (R77, R200) -/

/-- A thread that has stopped: EXITED, in no place, with the writes that have not failed still outstanding (R77). -/
def Thread.stopped (t : Thread) : Thread :=
  { t with status := .exited, place := .gone, wait := .none,
           writes := t.writes.filter (fun w => match w.state with | .failed _ => false | _ => true) }

/-- A port that holds neither a reservation nor a monitor of a thread. -/
def PortSt.without (p : PortSt) (tid : Nat) : PortSt :=
  { p with resv := p.resv.filter (fun r => r.1 != tid), monitors := p.monitors.filter (fun m => m.tid != tid) }

theorem PortSt.without_resv {p : PortSt} {tid : Nat} : ∀ r ∈ (p.without tid).resv, r.1 ≠ tid := by
  intro r hr
  exact bne_iff_ne.mp (List.mem_filter.mp hr).2

theorem PortSt.without_monitors {p : PortSt} {tid : Nat} : ∀ m ∈ (p.without tid).monitors, m.tid ≠ tid := by
  intro m hm
  exact bne_iff_ne.mp (List.mem_filter.mp hm).2

theorem Thread.mem_stopped_writes {t : Thread} {w : SentWrite} (hw : w ∈ t.writes) (hs : ∀ c, w.state ≠ .failed c) : w ∈ t.stopped.writes := by
  refine List.mem_filter.mpr ⟨hw, ?_⟩
  cases h : w.state with
  | failed c => exact absurd h (hs c)
  | _ => rfl

/-- A launch error changes the graph scheduler's tables only. -/
theorem State.recordError_eq (s : State) (job launch code : Nat) :
    s.recordError job launch code = { s with gs := (s.recordError job launch code).gs } := by
  unfold State.recordError
  split <;> rfl

theorem State.spawnedExit_eq (s : State) (job launch : Nat) : s.spawnedExit job launch = { s with gs := (s.spawnedExit job launch).gs } := by
  unfold State.spawnedExit
  split <;> rfl

/-- The executing thread's stop in front of what it tells: the thread itself and what the ports hold of it. -/
def State.stopping (s : State) : State := { s with th := s.th.stopped, ports := s.ports.map (fun p => p.without s.th.tid) }

/-- The workgroup of a thread that has stopped counts its index as absent (R79). -/
def State.markAbsent (s : State) (t : Thread) : State :=
  if (s.wgOf t).wid = 0 then s else s.putWg { s.wgOf t with exited := t.index :: (s.wgOf t).exited }

theorem State.markAbsent_eq (s : State) (t : Thread) : s.markAbsent t = { s with wgs := (s.markAbsent t).wgs } := by
  unfold State.markAbsent
  split_ifs <;> rfl

theorem State.stopThread_eq (s : State) : s.stopThread s.th =
    if s.th.spawned then
      (if s.th.job < 2 ^ 24 then s.stopping.spawnedExit s.th.job s.th.launch
       else s.stopping.send s.th.core (1024 * (s.th.job / 2 ^ 24)) 2 (.awaySpawn s.th.job s.th.launch false))
    else if s.th.core = s.th.anchor then s.stopping.markAbsent s.th
    else (s.stopping.markAbsent s.th).send s.th.core s.th.anchor 2 (.exitNotice (s.stopping.wgOf s.th).wid s.th.index) := by
  have hput : State.putThread { s with ports := s.ports.map (fun p => p.without s.th.tid) } s.th.stopped = s.stopping :=
    State.putThread_self _ _ rfl
  rw [← hput]
  rfl

/-- The messages that a thread sends as it stops (R77, R210; of a peer's job log entry 111). -/
def State.exitNotices (s : State) (net : List Msg) : Prop :=
  net = s.net ∨ (s.th.core ≠ s.th.anchor ∧ ∃ w, net = s.net ++ [⟨s.th.core, s.th.anchor, 2, false, .exitNotice w s.th.index, .moving⟩]) ∨
    (s.th.spawned = true ∧ 2 ^ 24 ≤ s.th.job ∧
      net = s.net ++ [⟨s.th.core, 1024 * (s.th.job / 2 ^ 24), 2, false, .awaySpawn s.th.job s.th.launch false, .moving⟩])

/-- A stop changes the thread, what the ports hold of it, its workgroup, the tables of its launch, and sends at most a notice. -/
theorem State.stopThread_frame (s : State) : ∃ wgs gs net, s.stopThread s.th = { s.stopping with wgs := wgs, gs := gs, net := net } ∧
    s.exitNotices net := by
  rw [State.stopThread_eq, State.markAbsent_eq, State.spawnedExit_eq]
  split_ifs with hs hj ha
  · exact ⟨s.wgs, _, s.net, rfl, .inl rfl⟩
  · exact ⟨s.wgs, s.gs, _, rfl, .inr (.inr ⟨hs, Nat.not_lt.mp hj, rfl⟩)⟩
  · exact ⟨_, s.gs, s.net, rfl, .inl rfl⟩
  · exact ⟨_, s.gs, _, rfl, .inr (.inl ⟨ha, _, rfl⟩)⟩

theorem execExit_of_not_issuer {f : Fields} {s : State} (h : mayRun 0x35 f s = true) (hi : s.th.spawned = true ∨ s.th.index ≠ s.wg.issuer) :
    ∃ gs, execExit f s = .next { s.stopThread s.th with gs := gs } := by
  have hissuer : (!s.th.spawned && s.th.index == s.wg.issuer) = false := by
    rcases hi with hi | hi <;> simp [hi]
  simp only [execExit, runOp_mayRun _ h, hissuer, Bool.and_false, Bool.false_and, Bool.false_eq_true, if_false]
  split
  · exact ⟨_, congrArg _ (State.recordError_eq _ _ _ _)⟩
  · exact ⟨_, rfl⟩

theorem execExit_parked {f : Fields} {s : State} (h : mayRun 0x35 f s = true) (hh : s.th.hnd = true) (hs : s.th.spawned = false)
    (hi : s.th.index = s.wg.issuer) (hp : s.wg.park.isSome = true) : execExit f s = .next (raise 0x0E 0 s) := by
  simp [execExit, runOp_mayRun _ h, hh, hs, hi, hp]

/-- Settles O20: the next state is the stop of the thread but for the tables of its launch. -/
theorem exitEndsTheThread : Obligations.ExitEndsTheThread := by
  refine fun f s h => ⟨fun hi => ?_, fun hh hs hi hp => execExit_parked h hh hs hi hp⟩
  obtain ⟨gs, hexit⟩ := execExit_of_not_issuer h hi
  obtain ⟨wgs, gs', net, hstop, hnet⟩ := s.stopThread_frame
  rw [hstop] at hexit
  refine ⟨_, hexit, rfl, rfl, fun p hp => ?_, fun w hw hf => Thread.mem_stopped_writes hw hf, rfl, rfl, rfl, rfl, rfl, hnet⟩
  obtain ⟨q, -, rfl⟩ := List.mem_map.mp hp
  exact ⟨PortSt.without_resv, PortSt.without_monitors⟩

/-! ## Identities and counters (R84, R85) -/

/-- A mask of lanes has the bits of its lanes. -/
theorem testBit_laneMask (l : List Nat) (k : Nat) : (laneMask l).testBit k = l.any (fun x => x % 64 == k) := by
  have hfold : ∀ m : Nat, (l.foldl (fun m k => m ||| 2 ^ (k % 64)) m).testBit k = (m.testBit k || l.any (fun x => x % 64 == k)) := by
    induction l with
    | nil => simp
    | cons x xs ih =>
      intro m
      rw [List.foldl_cons, ih, Nat.testBit_or, Nat.testBit_two_pow, List.any_cons, Bool.or_assoc]
      rfl
  simp [laneMask, hfold]

theorem getElem_laneMask (l : List Nat) (k : Fin 64) : (BitVec.ofNat 64 (laneMask l))[k] = l.any (fun x => x % 64 == k.val) := by
  rw [← testBit_laneMask, Fin.getElem_fin, BitVec.getElem_eq_testBit_toNat, BitVec.toNat_ofNat, Nat.testBit_mod_two_pow, decide_eq_true k.isLt, Bool.true_and]

theorem kernelField_own {s : State} (own : Workgroup → Nat) (desc : KDesc → Nat) (brought : Nat) (hj : s.th.job < 2 ^ 24)
    (hs : s.th.spawned = false) : kernelField s own desc brought = BitVec.ofNat 64 (own s.wg) := by
  rw [kernelField, if_neg (Nat.not_le.mpr hj), hs, if_neg Bool.false_ne_true]

theorem kernelField_brought {s : State} (own : Workgroup → Nat) (desc : KDesc → Nat) (brought : Nat) (hj : 2 ^ 24 ≤ s.th.job) :
    kernelField s own desc brought = BitVec.ofNat 64 brought := by
  rw [kernelField, if_pos hj]

theorem getElem_func_eq_bitOf (v : BitVec 12) : v[0] = bitOf v.toNat 0 := by
  rw [bitOf_eq_testBit]
  rfl

theorem counterValue_core (s : State) (a : Nat) :
    (∀ h : a < 9, counterValue s false a = (s.core s.th.core).ctr[a]) ∧ (9 ≤ a → counterValue s false a = 0) := by
  refine ⟨fun h => ?_, fun h => ?_⟩
  · simp [counterValue, vget, h]
  · simp [counterValue, vget, Nat.not_lt.mpr h]

theorem counterValue_die (s : State) (a : Nat) :
    (∀ h : a < 10, counterValue s true a = (s.die (s.th.core / 64)).ctr[a]) ∧ (10 ≤ a → counterValue s true a = 0) := by
  refine ⟨fun h => ?_, fun h => ?_⟩
  · simp [counterValue, vget, dieOf, h]
  · simp [counterValue, vget, Nat.not_lt.mpr h]

/-- Settles O21: the value of each selector is the arm of `rdspValue`, the counter that of `counterValue`. -/
theorem identityAndCounterReads : Obligations.IdentityAndCounterReads := by
  refine fun f s => ⟨fun h => ⟨_, runOp_mayRun _ h, ?_⟩, fun h => ⟨_, runOp_mayRun _ h, ?_⟩⟩
  · generalize fbits f.func 5 0 = sel
    refine ⟨?lane, ?core, ?index, ?wgpos, fun hj hs => ⟨?wgsize, ?gangw, ?issuer⟩, fun hj => ⟨?broughtWgsize, ?broughtGangw, ?broughtIssuer⟩,
      ?gang, ?launch, ?job, ?anchor, ?asid, ?dtc, ?ccnt, ?lanes, ?mask, ?dies, ?cores⟩
    all_goals rintro rfl
    case wgsize | gangw | issuer => exact kernelField_own _ _ _ hj hs
    case broughtWgsize | broughtGangw | broughtIssuer => exact kernelField_brought _ _ _ hj
    case mask => exact getElem_laneMask _
    case lane | core | index | wgpos | gang | launch | job | anchor | asid | dtc | ccnt | lanes | dies | cores => rfl
  · rw [getElem_func_eq_bitOf]
    refine ⟨fun hf => ?_, fun hf => ?_⟩
    · rw [hf]; exact counterValue_core _ _
    · rw [hf]; exact counterValue_die _ _

/-! ## Records by distinct keys -/

/-- Where keys are distinct, a record is the one that its key finds. -/
theorem find_key_of_nodup {α : Type} {key : α → Nat} {l : List α} (hn : (l.map key).Nodup) {x : α} (hx : x ∈ l) :
    l.find? (fun y => key y == key x) = some x := by
  obtain ⟨y, hy⟩ := Option.isSome_iff_exists.mp (List.find?_isSome (p := fun y => key y == key x) |>.mpr ⟨x, hx, beq_self_eq_true _⟩)
  rw [hy, List.inj_on_of_nodup_map hn (List.mem_of_find?_eq_some hy) hx (beq_iff_eq.mp (List.find?_some hy :))]

theorem find_putBy_ne {α : Type} (key : α → Nat) {x : α} {k : Nat} (l : List α) (h : key x ≠ k) :
    (putBy key x l).find? (fun y => key y == k) = l.find? (fun y => key y == k) := by
  induction l with
  | nil => simp [putBy, h]
  | cons y ys ih =>
    rw [putBy]
    split_ifs with hy
    · simp [h, hy]
    · simp only [List.find?_cons, ih]

theorem State.thread?_putThread (s : State) (t : Thread) : (s.putThread t).thread? t.tid = some t := by
  unfold State.putThread
  split_ifs with h
  · simp [State.thread?]
  · simpa [State.thread?, h] using find_putBy_self Thread.tid t s.threads

theorem State.thread?_putThread_ne (s : State) {t : Thread} {tid : Nat} (h : t.tid ≠ tid) : (s.putThread t).thread? tid = s.thread? tid := by
  unfold State.putThread
  split_ifs with he
  · simp [State.thread?, h, he]
  · simp [State.thread?, find_putBy_ne Thread.tid s.threads h]

/-! ## The lane set of a member (R80) -/

/-- The lanes of a member's mask whose threads are in the instance. -/
def Thread.laneSetOf (t : Thread) (l : List Thread) (u : Thread) : Prop := u ∈ l ∧ bitOf t.joinMask (u.index % 64) = true

section
variable {l : List Thread} (hn : (l.map (fun u => u.index % 64)).Nodup) (t : Thread)
include hn

theorem mem_laneSet (u : Thread) : u ∈ laneSet l t ↔ t.laneSetOf l u := by
  rw [laneSet, List.mem_filterMap]
  constructor
  · rintro ⟨m, -, hm⟩
    split_ifs at hm with hb
    obtain rfl : u.index % 64 = m := beq_iff_eq.mp (List.find?_some hm :)
    exact ⟨List.mem_of_find?_eq_some hm, hb⟩
  · rintro ⟨hu, hb⟩
    refine ⟨u.index % 64, List.mem_range.mpr (Nat.mod_lt _ (by decide)), ?_⟩
    rw [if_pos hb]
    exact find_key_of_nodup hn hu

theorem forall_mem_laneSet {p : Thread → Prop} : (∀ u ∈ laneSet l t, p u) ↔ ∀ u, t.laneSetOf l u → p u :=
  forall_congr' fun u => by rw [mem_laneSet hn]

theorem shfl_of_source {mode : Nat} {u : Thread} (hu : t.laneSetOf l u)
    (hs : ((u.index % 64 : Nat) : Int) = shflLane mode (t.index % 64) t.depB) : (joinResult (.shfl mode) l t).1 = u.depA := by
  have hmem := (mem_laneSet hn t u).mpr hu
  obtain ⟨v, hv⟩ := Option.isSome_iff_exists.mp (List.find?_isSome (p := fun v : Thread => ((v.index % 64 : Nat) : Int) ==
    shflLane mode (t.index % 64) t.depB) |>.mpr ⟨u, hmem, beq_iff_eq.mpr hs⟩)
  have hlane : v.index % 64 = u.index % 64 := Int.ofNat_inj.mp ((beq_iff_eq.mp (List.find?_some hv :)).trans hs.symm)
  have hvl := ((mem_laneSet hn t v).mp (List.mem_of_find?_eq_some hv)).1
  simp only [joinResult, hv, List.inj_on_of_nodup_map hn hvl hu.1 hlane]
  rfl

theorem shfl_of_no_source {mode : Nat}
    (hs : ∀ u, t.laneSetOf l u → ((u.index % 64 : Nat) : Int) ≠ shflLane mode (t.index % 64) t.depB) : (joinResult (.shfl mode) l t).1 = 0 := by
  have hnone : (laneSet l t).find? (fun v => ((v.index % 64 : Nat) : Int) == shflLane mode (t.index % 64) t.depB) = none :=
    List.find?_eq_none.mpr fun v hv he => hs v ((mem_laneSet hn t v).mp hv) (beq_iff_eq.mp he)
  simp only [joinResult, hnone]
  rfl

theorem ballot_bit (k : Fin 64) : (joinResult .ballot l t).1[k] = true ↔ ∃ u, t.laneSetOf l u ∧ u.index % 64 = k.val ∧ u.depA ≠ 0 := by
  simp only [joinResult, getElem_laneMask, List.any_map, List.any_filter, List.any_eq_true, mem_laneSet hn]
  simp [and_comm]

theorem vote_all : (joinResult (.vote 0) l t).2 = true ↔ ∀ u, t.laneSetOf l u → u.depA ≠ 0 := by
  simp only [joinResult, List.all_eq_true, bne_iff_ne, forall_mem_laneSet hn]

theorem vote_any : (joinResult (.vote 1) l t).2 = true ↔ ∃ u, t.laneSetOf l u ∧ u.depA ≠ 0 := by
  simp only [joinResult, List.any_eq_true, bne_iff_ne, mem_laneSet hn]

theorem vote_equal : (joinResult (.vote 2) l t).2 = true ↔ (∀ u, t.laneSetOf l u → u.depA ≠ 0) ∨ ∀ u, t.laneSetOf l u → u.depA = 0 := by
  simp only [joinResult, Bool.or_eq_true, List.all_eq_true, bne_iff_ne, beq_iff_eq, forall_mem_laneSet hn]

end

/-- Settles O23: the lane set of a member is what `laneSet` lists, and each result is read from it. -/
theorem crossLaneResults : Obligations.CrossLaneResults := fun _ t hn _ =>
  ⟨fun _ => ⟨fun _ => shfl_of_source hn t, shfl_of_no_source hn t⟩, ballot_bit hn t, vote_all hn t, vote_any hn t, vote_equal hn t⟩

/-! ## The completion of an instance (R79) -/

/-- What an instance of these members gives one of them. -/
def memberResult (l : List Thread) (t : Thread) : W64 × Bool :=
  match t.wait with
  | .join op _ => joinResult op l t
  | _ => (0, false)

/-- A member's W destination is written in the cc of the completion. -/
def State.joinW (s : State) (t : Thread) (r : W64 × Bool) : State :=
  match t.wait with
  | .join _ (.w k) => s.putWg { s.wgOf t with w := (s.wgOf t).w.set k r.1 }
  | _ => s

/-- One member of an instance goes on. -/
def joinStep (l : List Thread) (s : State) (t : Thread) : State :=
  (s.joinW t (memberResult l t)).putThread (t.joined (s.core t.core).ccnt.toNat (memberResult l t))

theorem completeJoin_eq (l : List Thread) (s : State) : completeJoin l s = l.foldl (joinStep l) s := rfl

theorem Thread.joined_tid (t : Thread) (now : Nat) (r : W64 × Bool) : (t.joined now r).tid = t.tid := by
  unfold Thread.joined
  split <;> simp

theorem State.joinW_eq (s : State) (t : Thread) (r : W64 × Bool) : s.joinW t r = { s with wgs := (s.joinW t r).wgs } := by
  unfold State.joinW
  split <;> rfl

theorem joinStep_frame (l : List Thread) (s : State) (t : Thread) :
    (joinStep l s t).cores = s.cores ∧ (joinStep l s t).mem = s.mem ∧ (joinStep l s t).lmem = s.lmem ∧ (joinStep l s t).net = s.net := by
  rw [joinStep, State.joinW_eq]
  simp

theorem thread?_joinStep (l : List Thread) (s : State) (t : Thread) :
    (joinStep l s t).thread? t.tid = some (t.joined (s.core t.core).ccnt.toNat (memberResult l t)) := by
  have h := State.thread?_putThread (s.joinW t (memberResult l t)) (t.joined (s.core t.core).ccnt.toNat (memberResult l t))
  rwa [Thread.joined_tid] at h

theorem thread?_joinStep_ne (l : List Thread) (s : State) {t : Thread} {tid : Nat} (h : t.tid ≠ tid) :
    (joinStep l s t).thread? tid = s.thread? tid := by
  rw [joinStep, State.thread?_putThread_ne _ (by rwa [Thread.joined_tid]), State.joinW_eq]
  rfl

theorem foldl_joinStep_frame (l xs : List Thread) (s : State) :
    (xs.foldl (joinStep l) s).cores = s.cores ∧ (xs.foldl (joinStep l) s).mem = s.mem ∧ (xs.foldl (joinStep l) s).lmem = s.lmem ∧
      (xs.foldl (joinStep l) s).net = s.net := by
  induction xs generalizing s with
  | nil => exact ⟨rfl, rfl, rfl, rfl⟩
  | cons t ts ih =>
    obtain ⟨hc, hm, hl, hnet⟩ := joinStep_frame l s t
    rw [List.foldl_cons, ← hc, ← hm, ← hl, ← hnet]
    exact ih _

/-- A thread that is no member stays as it is. -/
theorem thread?_foldl_joinStep_of_not_mem (l xs : List Thread) (s : State) {tid : Nat} (h : tid ∉ xs.map Thread.tid) :
    (xs.foldl (joinStep l) s).thread? tid = s.thread? tid := by
  induction xs generalizing s with
  | nil => rfl
  | cons t ts ih =>
    rw [List.map_cons, List.mem_cons, not_or] at h
    rw [List.foldl_cons, ih _ h.2, thread?_joinStep_ne l s (Ne.symm h.1)]

/-- Every member goes on behind its instruction with its result. -/
theorem thread?_foldl_joinStep (l xs : List Thread) (s : State) (hn : (xs.map Thread.tid).Nodup) {t : Thread} (ht : t ∈ xs) :
    (xs.foldl (joinStep l) s).thread? t.tid = some (t.joined (s.core t.core).ccnt.toNat (memberResult l t)) := by
  induction xs generalizing s with
  | nil => cases ht
  | cons x xs ih =>
    obtain ⟨hx, hxs⟩ := List.nodup_cons.mp hn
    rw [List.foldl_cons]
    rcases List.mem_cons.mp ht with rfl | ht
    · rw [thread?_foldl_joinStep_of_not_mem l xs _ hx, thread?_joinStep]
    · rw [ih _ hxs ht, State.core, (joinStep_frame l s x).1]
      rfl

theorem memberResult_of_join {l : List Thread} {t : Thread} {op : JoinOp} {d : Dst} (h : t.wait = .join op d) :
    memberResult l t = joinResult op l t := by
  rw [memberResult, h]

/-! ## JOIN_INSTANCE (R79, R83) -/

/-- The instance of one lane block completes where it is full. -/
def joinBlock (g : Workgroup) (l : List Thread) (s : State) (blk : Nat) : State :=
  let i := l.filter (fun t => !t.isRjoin && t.index / 64 == blk)
  if !i.isEmpty && instanceFull g blk i then completeJoin i s else s

theorem execJoinInstance_eq {w pc : Nat} {s : State} {l : List Thread}
    (hl : (if s.suspends (s.wgBy w) then [] else s.joiners (s.wgBy w) (BitVec.ofNat 64 pc)) = l) (hr : ∀ t ∈ l, t.isRjoin = false) :
    execJoinInstance w pc s = .next ((List.range 16).foldl (joinBlock (s.wgBy w) l) s) := by
  have hnone : l.filter Thread.isRjoin = [] := List.filter_eq_nil_iff.mpr fun t ht => by simp [hr t ht]
  have hdone : rjoinDone (s.wgBy w) [] = [] := by rw [rjoinDone]; split_ifs <;> rfl
  simp only [execJoinInstance, hl, hnone, hdone]
  rfl

theorem joinBlock_of_no_member {g : Workgroup} {l : List Thread} {blk : Nat} (s : State) (h : ∀ t ∈ l, t.index / 64 ≠ blk) :
    joinBlock g l s blk = s := by
  have hnone : l.filter (fun t => !t.isRjoin && t.index / 64 == blk) = [] := List.filter_eq_nil_iff.mpr fun t ht => by simp [h t ht]
  simp only [joinBlock, hnone]
  rfl

theorem joinBlock_of_all {g : Workgroup} {l : List Thread} {blk : Nat} (s : State) (hne : l ≠ [])
    (h : ∀ t ∈ l, t.isRjoin = false ∧ t.index / 64 = blk) : joinBlock g l s blk = if instanceFull g blk l then completeJoin l s else s := by
  have hall : l.filter (fun t => !t.isRjoin && t.index / 64 == blk) = l := List.filter_eq_self.mpr fun t ht => by simp [h t ht]
  simp [joinBlock, hall, hne]

/-- A fold in which one element of the list has an effect. -/
theorem foldl_of_single {α β : Type} {f : α → β → α} {k : β} {l : List β} (a : α) (hf : ∀ a, ∀ b ∈ l, b ≠ k → f a b = a) (hn : l.Nodup)
    (hk : k ∈ l) : l.foldl f a = f a k := by
  obtain ⟨xs, ys, rfl⟩ := List.append_of_mem hk
  obtain ⟨-, hys, hxs⟩ := List.nodup_append.mp hn
  have hx : xs.foldl f a = a := List.foldlRecOn (motive := (· = a)) xs f rfl fun b hb c hc =>
    (hf b c (List.mem_append_left _ hc) (hxs c hc k List.mem_cons_self)).trans hb
  have hy : ys.foldl f (f a k) = f a k := List.foldlRecOn (motive := (· = f a k)) ys f rfl fun b hb c hc =>
    (hf b c (List.mem_append_right _ (List.mem_cons_of_mem _ hc)) fun he => (List.nodup_cons.mp hys).1 (he ▸ hc)).trans hb
  rw [List.foldl_append, hx, List.foldl_cons, hy]

/-- Where all that are JOINING at a pc are in one lane block, the event is the completion of that block's instance. -/
theorem execJoinInstance_of_block {w pc blk : Nat} {s : State} (hs : s.suspends (s.wgBy w) = false) (hblk : blk < 16)
    (hne : s.joiners (s.wgBy w) (BitVec.ofNat 64 pc) ≠ [])
    (hl : ∀ t ∈ s.joiners (s.wgBy w) (BitVec.ofNat 64 pc), t.isRjoin = false ∧ t.index / 64 = blk) :
    execJoinInstance w pc s = .next (if instanceFull (s.wgBy w) blk (s.joiners (s.wgBy w) (BitVec.ofNat 64 pc))
      then completeJoin (s.joiners (s.wgBy w) (BitVec.ofNat 64 pc)) s else s) := by
  rw [execJoinInstance_eq (l := s.joiners (s.wgBy w) (BitVec.ofNat 64 pc)) (by rw [hs]; rfl) fun t ht => (hl t ht).1,
    foldl_of_single s (fun a b _ hb => joinBlock_of_no_member a fun t ht he => hb (he.symm.trans (hl t ht).2)) List.nodup_range
      (List.mem_range.mpr hblk), joinBlock_of_all s hne hl]

/-- A gang that is being saved forms no instance (R83). -/
theorem execJoinInstance_of_suspends {w pc : Nat} {s : State} (hs : s.suspends (s.wgBy w) = true) : execJoinInstance w pc s = .next s := by
  rw [execJoinInstance_eq (l := []) (by rw [hs]; rfl) (by simp)]
  exact congrArg _ (List.foldlRecOn (motive := (· = s)) _ _ rfl fun b hb c _ => (joinBlock_of_no_member b (by simp)).trans hb)

theorem State.mem_joiners {s : State} {g : Workgroup} {pc : W64} {t : Thread} (h : t ∈ s.joiners g pc) :
    t ∈ s.allThreads ∧ ∃ op d, t.wait = .join op d := by
  obtain ⟨hmem, hp⟩ := List.mem_filter.mp h
  simp only [Bool.and_eq_true] at hp
  obtain ⟨⟨-, hj⟩, -⟩ := hp
  refine ⟨hmem, ?_⟩
  unfold Thread.isJoin at hj
  split at hj
  · exact ⟨_, _, ‹_›⟩
  · exact absurd hj (by decide)

/-- Settles O22: an instance is a fold of `joinStep` over its members, whose records have distinct keys. -/
theorem crossLaneInstructionsJoin : Obligations.CrossLaneInstructionsJoin := by
  refine ⟨fun f s => ⟨runOp_mayRun _, runOp_mayRun _, runOp_mayRun _, runOp_mayRun _, runOp_mayRun _⟩, ?_,
    fun w pc s hs => execJoinInstance_of_suspends hs⟩
  intro w pc blk s g l hs hth htids hn hblk hne hl
  have hexec := execJoinInstance_of_block hs hblk hne hl
  have hsub : l.Sublist s.threads := by
    have hall : s.allThreads = s.threads := if_pos hth
    exact hall ▸ List.filter_sublist
  have hnl : (l.map Thread.tid).Nodup := hn.sublist (hsub.map _)
  refine ⟨fun hfull => ⟨completeJoin l s, hexec.trans (by rw [if_pos hfull]), fun t ht => ?_, fun t ht htl => ?_, ?_⟩,
    fun hfull => hexec.trans (by rw [if_neg (Bool.eq_false_iff.mp hfull)])⟩
  · obtain ⟨-, op, d, hwait⟩ := State.mem_joiners ht
    refine ⟨op, d, hwait, ?_⟩
    rw [completeJoin_eq, thread?_foldl_joinStep l l s hnl ht, memberResult_of_join hwait]
  · have hkey : t.tid ∉ l.map Thread.tid := by
      intro hmem
      obtain ⟨u, hu, hut⟩ := List.mem_map.mp hmem
      exact htl (List.inj_on_of_nodup_map hn (hsub.subset hu) ht hut ▸ hu)
    rw [completeJoin_eq, thread?_foldl_joinStep_of_not_mem l l s hkey, State.thread?, if_neg (hth ▸ (htids t ht).symm)]
    exact find_key_of_nodup hn ht
  · exact (foldl_joinStep_frame l l s).2

end Sys2Proof.Machine

/-! SUPPORT. The statements of the family "memory and travel instructions" and the lemmas they need: local bytes and the forwarding table
(R93), loads, stores and atomics at hand, at the home and in the read cache (R87-R92, R104-R108), queues and banks (R98-R103), sleeping (R109),
travel and spawning (R111-R114), launches (R115-R118), and the messages that answer them. -/

namespace Sys2Proof.Machine

/-! ## `SLEEP`, `YIELD` and `IDLE` (R109, R110, R206) -/

theorem timeAfter_of_lt {now a : W64} (h : now.toNat + a.toNat < 2 ^ 64) : timeAfter now a = now + a := if_pos h

theorem toNat_and_low56 (a : W64) : (a &&& 0xFFFFFFFFFFFFFF).toNat = a.toNat % 2 ^ 56 := by
  rw [BitVec.toNat_and]
  exact Nat.and_two_pow_sub_one_eq_mod _ 56

theorem toNat_shiftRight56 (b : W64) : (b >>> 56).toNat = b.toNat / 2 ^ 56 := by
  rw [BitVec.toNat_ushiftRight, Nat.shiftRight_eq_div_pow]

/-- The executing thread behind an instruction, asleep with the mode, the time and the die that it names. -/
def Thread.asleep (t : Thread) (f : Fields) (mode : Nat) (wake : W64) (die : Nat) : Thread :=
  { t.next (lenBytes f.len) with status := .sleeping, wait := .sleep, smode := mode, wake := wake, wdie := die }

section
variable {f : Fields} {s : State}

theorem execSleep_ns (h : mayRun 0x66 f s = true) (hm : fbits f.func 1 0 = 0) :
    exec (.sleep f) s = .next { s with
      th := s.th.asleep f 0 (timeAfter (s.dtcOf (dieOf s.th.core)) (src 0x66 f 0 s)) (dieOf s.th.core) } := by
  refine (runOp_mayRun _ h).trans ?_
  simp only [hm]
  rfl

theorem execSleep_until (h : mayRun 0x66 f s = true) (hm : fbits f.func 1 0 = 1) :
    exec (.sleep f) s = .next { s with th := s.th.asleep f 1 (src 0x66 f 0 s) (dieOf s.th.core) } := by
  refine (runOp_mayRun _ h).trans ?_
  simp only [hm]
  rfl

/-- A sleep for a promise stays at its instruction (R109). -/
theorem execSleep_promise (h : mayRun 0x66 f s = true) (hm : fbits f.func 1 0 = 2) :
    exec (.sleep f) s = .next { s with th := { s.th with
      status := .sleeping, wait := .sleep, smode := 2, wake := src 0x66 f 0 s &&& 0xFFFFFFFFFFFFFF
      wdie := if s.th.spawned then dieOf s.th.core else dieOf s.th.anchor, wjob := src 0x66 f 1 s >>> 56 } } := by
  refine (runOp_mayRun _ h).trans ?_
  simp only [hm]
  rfl

/-- The time at which an `IDLE` with operand `a` ends by itself; 0 is none (R206). -/
def idleWake (s : State) (a : W64) : W64 := if a = 0 then 0 else timeAfter (s.dtcOf (dieOf s.th.core)) a

theorem execIdle_at_anchor (h : mayRun 0xF4 f s = true) (hc : s.th.core = s.th.anchor) (hs : s.th.spawned = false) :
    exec (.idle f) s = .next { s with
      th := { s.th.asleep f 3 (idleWake s (src 0xF4 f 0 s)) (dieOf s.th.core) with nap := s.nextId, kick0 := some s.wg.kick }
      nextId := s.nextId + 1 } := by
  refine (runOp_mayRun _ h).trans ?_
  simp only [beq_iff_eq.mpr hc, hs, Bool.not_false, Bool.and_self, Bool.or_false, if_true]
  rfl

/-- Away from the anchor an `IDLE` asks there for its kick (R206). -/
theorem execIdle_away (h : mayRun 0xF4 f s = true) (hc : s.th.core ≠ s.th.anchor) (hs : s.th.spawned = false) :
    exec (.idle f) s = .next { s with
      th := { s.th.asleep f 3 (idleWake s (src 0xF4 f 0 s)) (dieOf s.th.core) with nap := s.nextId, kick0 := none }
      net := s.net ++ [⟨s.th.core, s.th.anchor, 2, false, .kick s.wg.wid false s.th.tid s.nextId, .moving⟩]
      nextId := s.nextId + 1 } := by
  refine (runOp_mayRun _ h).trans ?_
  simp only [beq_eq_false_iff_ne.mpr hc, hs, Bool.false_and, Bool.or_false, Bool.false_eq_true, if_false]
  rfl

end

/-- Settles O31: the next state of each instruction is written out, and what is asked of it is read from there. -/
theorem sleepYieldAndIdle : Obligations.SleepYieldAndIdle := by
  refine fun f s => ⟨fun h => ⟨fun hm => ?ns, fun hm => ?until_, fun hm => ?promise⟩, fun h => runOp_mayRun _ h,
    fun h => ⟨fun hc hs => ?here, fun hc hs => ?away⟩⟩
  case ns =>
    exact ⟨_, ⟨execSleep_ns h hm, rfl, rfl, rfl, rfl, rfl, rfl, rfl, rfl, rfl⟩, rfl, timeAfter_of_lt⟩
  case until_ => exact ⟨_, ⟨execSleep_until h hm, rfl, rfl, rfl, rfl, rfl, rfl, rfl, rfl, rfl⟩, rfl, rfl⟩
  case promise =>
    exact ⟨_, ⟨execSleep_promise h hm, rfl, rfl, rfl, rfl, rfl, rfl, rfl, rfl, rfl⟩, toNat_and_low56 _, toNat_shiftRight56 _, rfl⟩
  case here =>
    exact ⟨_, ⟨execIdle_at_anchor h hc hs, rfl, rfl, rfl, rfl, rfl, rfl, rfl, rfl, rfl⟩, rfl, fun ha => if_pos ha,
      fun ha ht => (if_neg ha).trans (timeAfter_of_lt ht)⟩
  case away => exact ⟨_, ⟨execIdle_away h hc hs, rfl, rfl, rfl, rfl, rfl, rfl, rfl, rfl, rfl⟩, rfl, rfl⟩

/-! ## Formats and bits kept of a vector (R240, R249) -/

theorem withNarrow_of_format {k : Nat} {m : Narrow} {body : Narrow → State → State} {s : State} (h : s.format k = some m) :
    withNarrow k body s = body m s := by
  unfold State.format at h
  by_cases hs : s.th.spawned
  · simp [hs] at h
  by_cases hc : s.th.core = s.th.anchor
  · simp only [hs, hc, Bool.false_eq_true, if_false, if_true] at h
    simp only [withNarrow, withImage, hs, hc, Bool.false_eq_true, if_false, if_true, h]
  · cases hi : s.th.images.find? (fun x => x.1.val == k) with
    | none => simp [hs, hc, hi] at h
    | some x =>
      simp only [hs, hc, hi, Bool.false_eq_true, if_false] at h
      simp only [withNarrow, withImage, hs, hc, hi, Bool.false_eq_true, if_false, h]

theorem withKept_of_keptBits {t b : Nat} {k : Nat → State → State} {s : State} (h : s.keptBits t = some b) : withKept t k s = k b s := by
  unfold State.keptBits at h
  unfold withKept
  split_ifs at h ⊢
  · obtain ⟨m, hm, rfl⟩ := Option.map_eq_some_iff.mp h
    exact withNarrow_of_format hm
  · rw [Option.some.inj h]

/-! ## Local memory (R93, R295) -/

/-- A local access goes through where its bytes are at hand. -/
theorem withLocal_of_localHand {o : Int} {n align x : Nat} {k : Nat → State → State} {s : State} (h : s.localHand o n align x) :
    withLocal o n align k s = k x s := by
  obtain ⟨halign, hlo, hhi, hspawned, hplaza, rfl, hbank⟩ := h
  have hin : ¬ (s.th.spawned = true ∨ o < 0 ∨ o + n > s.th.localLen) := by simp [hspawned]; omega
  rw [withLocal, if_neg (not_not.mpr halign), atPlaza, if_pos hplaza, if_neg hin]
  simp only [localAddr, hbank]

theorem localRead_of_clean {s : State} {plaza x n : Nat} (h : (wordsOf x n).any (s.plaza plaza).soft.contains = false) :
    s.localRead plaza x n = some (memRead s.lmem (localAt plaza x) n) :=
  if_neg (Bool.eq_false_iff.mp h)

/-- The local bytes that a thread reads: its own last write that covers them, or where none overlaps them the bank's. -/
def State.localBytes (s : State) (x k : Nat) (bs : List Byte) : Prop :=
  (∃ w, (s.th.fwd.filter (fun w => w.overlaps x k)).getLast? = some w ∧ w.covers x k = true ∧ bs = (w.bytes.drop (x - w.addr)).take k) ∨
  (s.th.fwd.any (fun w => w.overlaps x k) = false ∧ (wordsOf x k).any (s.plaza (plazaOf s.th.anchor)).soft.contains = false ∧
    bs = memRead s.lmem (localAt (plazaOf s.th.anchor) x) k)

theorem filter_overlaps_eq_nil {l : List LocalWrite} {x n : Nat} (h : l.any (fun w => w.overlaps x n) = false) :
    l.filter (fun w => w.overlaps x n) = [] :=
  List.filter_eq_nil_iff.mpr (List.any_eq_false.mp h)

theorem readLocal_of_localBytes {x n : Nat} {faddr : W64} {k : List Byte → State → State} {s : State} {bs : List Byte}
    (h : s.localBytes x n bs) : readLocal x n faddr k s = k bs s := by
  obtain ⟨w, hlast, hcovers, rfl⟩ | ⟨hnone, hclean, rfl⟩ := h
  · simp only [readLocal, hlast, hcovers, if_true]
  · simp only [readLocal, filter_overlaps_eq_nil hnone, List.getLast?_nil, localRead_of_clean hclean]

theorem writeLocal_of_room {x : Nat} {bs : List Byte} {k : State → State} {s : State} (h : s.th.fwd.length < 16) :
    writeLocal x bs k s = k (State.onTh { s with nextId := s.nextId + 1 } (fun t => { t with fwd := t.fwd ++ [⟨s.nextId, x, bs⟩] })) :=
  if_neg (Nat.not_le.mpr h)

/-- A local store without release enters its bytes in the forwarding table. -/
theorem localStore_of_localHand {op n x : Nat} {f : Fields} {bs : List Byte} {s : State} (h : s.localHand (localOff op f s) n n x)
    (hroom : s.th.fwd.length < 16) (hord : ordOf f ≠ 2) : localStore op n f bs s =
      finishU f (State.onTh { s with nextId := s.nextId + 1 } (fun t => { t with fwd := t.fwd ++ [⟨s.nextId, x, bs⟩] })) := by
  rw [localStore, withLocal_of_localHand h, decide_eq_false hord, release, if_neg Bool.false_ne_true, writeLocal_of_room hroom]

/-- Settles O26: the checks of a local access pass, then a load takes its bytes where `State.localBytes` finds them and a store enters its own. -/
theorem localAccesses : Obligations.LocalAccesses := by
  refine fun f s x => ⟨fun h hx bs hb => ?_, fun h hx bs b hb hk => ?_, fun hroom hord => ⟨fun h hx => ?_, fun h hx => ?_⟩⟩
  · exact (runOp_mayRun _ h).trans (congrArg _ ((withLocal_of_localHand hx).trans (readLocal_of_localBytes hb)))
  · exact (runOp_mayRun _ h).trans (congrArg _ ((withKept_of_keptBits hk).trans ((withLocal_of_localHand hx).trans (readLocal_of_localBytes hb))))
  · exact (runOp_mayRun _ h).trans (congrArg _ (localStore_of_localHand hx hroom hord))
  · exact (runOp_mayRun _ h).trans (congrArg _ (localStore_of_localHand hx hroom hord))

/-! ## Units by identity -/

theorem key_lookupBy {α : Type} {key : α → Nat} {k : Nat} {dflt : α} (h : key dflt = k) (l : List α) : key (lookupBy key k dflt l) = k := by
  induction l with
  | nil => exact h
  | cons x xs ih =>
    rw [lookupBy]
    split
    · assumption
    · exact ih

@[simp] theorem State.core_id (s : State) (c : Nat) : (s.core c).id = c :=
  key_lookupBy (dflt := CoreSt.blank c) rfl _
@[simp] theorem State.port_id (s : State) (c : Nat) : (s.port c).id = c :=
  key_lookupBy (dflt := PortSt.blank c) rfl _
@[simp] theorem State.plaza_id (s : State) (p : Nat) : (s.plaza p).id = p :=
  key_lookupBy (dflt := PlazaSt.blank p) rfl _
@[simp] theorem State.die_id (s : State) (d : Nat) : (s.die d).id = d :=
  key_lookupBy (dflt := DieSt.blank d) rfl _

theorem State.plaza_putPlaza_of_id (s : State) {x : PlazaSt} {p : Nat} (h : x.id = p) : (s.putPlaza x).plaza p = x := h ▸ s.plaza_putPlaza x

/-! ## Departure (R24, R97, R111) -/

/-- A thread with nothing outstanding waits for no write. -/
theorem awaitWrites_of_nothing {need : SentWrite → Bool} {loc : Bool} {k : State → State} {s : State} (hw : s.th.writes = [])
    (hf : s.th.fwd = []) : awaitWrites need loc k s = k s :=
  awaitWrites_none (by rw [hw]; rfl) (by rw [hf]; exact Bool.and_false _)

/-- A thread that may leave, with nothing outstanding, departs at once. -/
theorem migrate_of_nothing {dest : Nat} {faddr : W64} {s : State} (hh : s.th.hnd = false) (hup : s.dieUp (dieOf dest) = true)
    (hw : s.th.writes = []) (hf : s.th.fwd = []) : migrate dest faddr s = depart dest (s.onTh (fun t => { t with pendH := faddr })) := by
  simp only [migrate, hh, hup, Bool.not_true, Bool.and_false, Bool.false_eq_true, if_false]
  exact awaitWrites_of_nothing hw hf

theorem depart_ports_resv {dest : Nat} {s : State} : ∀ p ∈ (depart dest s).ports, ∀ r ∈ p.resv, r.1 ≠ s.th.tid := by
  intro p hp r hr
  obtain ⟨q, -, rfl⟩ := List.mem_map.mp hp
  exact bne_iff_ne.mp (List.mem_filter.mp hr).2

/-! ## `MIGR` and `HOME` (R111, R114) -/

section
variable {f : Fields} {s : State}

theorem execMigr_core (h : mayRun 0x70 f s = true) (hm : bitOf f.func.toNat 0 = false) :
    exec (.migr f) s = .next (migrCore f (src 0x70 f 0 s) s) := by
  refine (runOp_mayRun _ h).trans ?_
  simp only [hm, Bool.false_eq_true, if_false]

theorem execMigr_handle {a : W64} {e : BufEntry} (h : mayRun 0x70 f s = true) (hm : bitOf f.func.toNat 0 = true)
    (ha : effAddr (src 0x70 f 0 s) (disp f) = some a) (hd : lookupDesc s a = .hit e) :
    exec (.migr f) s = .next (
      if e.tier = 2 then raise 0x07 a s
      else if e.tier = 3 then migrate (peerCore s.th.asid e.peer (homeLoc s.conf.lc e (offsetOf a)).home) a s
      else if (homeLoc s.conf.lc e (offsetOf a)).home = s.th.core then finishU f s
      else migrate (homeLoc s.conf.lc e (offsetOf a)).home a s) := by
  refine (runOp_mayRun _ h).trans ?_
  simp only [hm, if_true, ha, withHome_hit hd]

theorem execHome_hit {e : BufEntry} (h : mayRun 0x73 f s = true) (hd : lookupDesc s (src 0x73 f 0 s) = .hit e) (ht : e.tier ≠ 3) :
    exec (.home f) s = .next (finishQ f (BitVec.ofNat 64 (homeLoc s.conf.lc e (offsetOf (src 0x73 f 0 s))).home) s) := by
  refine (runOp_mayRun _ h).trans ?_
  simp only [withHome_hit hd, if_neg ht]

end

/-! ## `SPAWN` (R112, R113) -/

/-- N0 and N1 of a spawned thread are b and c, its other N registers 0 (R113). -/
theorem spawned_n (s : State) (entry b c : W64) : (spawned s entry b c).n[0] = b ∧ (spawned s entry b c).n[1] = c ∧
    ∀ k : Fin 32, 2 ≤ k.val → (spawned s entry b c).n[k] = 0 := by
  refine ⟨by simp [spawned], by simp [spawned], fun k hk => ?_⟩
  have h0 : 0 ≠ k.val := by omega
  have h1 : 1 ≠ k.val := by omega
  simp [spawned, h0, h1]

/-- Counting a spawn touches the tables of its launch, or sends the count to the module of its job. -/
theorem State.countSpawn_eq (s : State) : s.countSpawn = { s with gs := s.countSpawn.gs, net := s.countSpawn.net } := by
  unfold State.countSpawn
  cases s.job? s.th.job with
  | some j => rfl
  | none => dsimp only; split_ifs <;> rfl

@[simp] theorem State.countSpawn_th (s : State) : s.countSpawn.th = s.th := (congrArg State.th s.countSpawn_eq :)
@[simp] theorem State.countSpawn_mem (s : State) : s.countSpawn.mem = s.mem := (congrArg State.mem s.countSpawn_eq :)
@[simp] theorem State.countSpawn_plazas (s : State) : s.countSpawn.plazas = s.plazas := (congrArg State.plazas s.countSpawn_eq :)
@[simp] theorem State.countSpawn_nextTid (s : State) : s.countSpawn.nextTid = s.nextTid := (congrArg State.nextTid s.countSpawn_eq :)

/-- A spawn by a thread of a peer's job is counted there (R16, log entry 111). -/
theorem State.countSpawn_net (s : State) : (s.th.job < 2 ^ 24 → s.countSpawn.net = s.net) ∧
    (2 ^ 24 ≤ s.th.job → s.job? s.th.job = none → s.countSpawn.net = s.net ++
      [⟨s.th.core, 1024 * (s.th.job / 2 ^ 24), 2, false, .awaySpawn s.th.job s.th.launch true, .moving⟩]) := by
  unfold State.countSpawn
  constructor
  · intro h
    cases s.job? s.th.job with
    | some j => rfl
    | none => simp only [h, if_true]
  · intro h hj
    simp only [hj, if_neg h.not_gt, State.send_net]

section
variable {f : Fields} {s : State}

/-- The thread that the `SPAWN` of `f` makes. -/
def spawnedBy (f : Fields) (s : State) : Thread := spawned s (pcAdd s.th.pc (4 * disp f)) (src 0x71 f 1 s) (src 0x71 f 2 s)

/-- A `SPAWN.P` puts its thread into the plaza's spawn queue. -/
def spawnQueued (f : Fields) (s : State) : State :=
  { s.putPlaza { s.plaza (plazaOf s.th.core) with spawnQ := (s.plaza (plazaOf s.th.core)).spawnQ ++ [spawnedBy f s] } with
    nextTid := s.nextTid + 1 }

/-- A `SPAWN.AT` sends its thread to the home. -/
def spawnSent (f : Fields) (home : Nat) (s : State) : State :=
  { s.send s.th.core home 0 (.spawn (spawnedBy f s) s.nextId s.th.tid) with nextTid := s.nextTid + 1, nextId := s.nextId + 1 }

/-- The state in which a `SPAWN.AT` to the home of `a` ends. -/
def spawnAt (f : Fields) (a : W64) (home : Nat) (s : State) : State :=
  (spawnSent f home s).countSpawn.onTh
    (fun t => { t with writes := t.writes ++ [⟨s.nextId, .spawn, s.th.core, home, false, a, .sent⟩] })

theorem execSpawn_plaza (h : mayRun 0x71 f s = true) (hm : bitOf f.func.toNat 0 = true) :
    exec (.spawn f) s = .next (
      if (s.plaza (plazaOf s.th.core)).spawnQ.length ≥ 1024 then block .waiting (.spawnQueue (plazaOf s.th.core)) s
      else finishU f (spawnQueued f s).countSpawn) := by
  refine (runOp_mayRun _ h).trans ?_
  simp only [hm, if_true]
  rfl

theorem execSpawn_at {e : BufEntry} (h : mayRun 0x71 f s = true) (hm : bitOf f.func.toNat 0 = false)
    (hd : lookupDesc s (src 0x71 f 0 s) = .hit e) :
    exec (.spawn f) s = .next (
      if offsetOf (src 0x71 f 0 s) ≥ e.length then raise 0x06 (src 0x71 f 0 s) s
      else if e.tier ≥ 2 then raise 0x07 (src 0x71 f 0 s) s
      else if homeDead s e (homeLoc s.conf.lc e (offsetOf (src 0x71 f 0 s))).home then raise 0x0D (src 0x71 f 0 s) s
      else finishU f (spawnAt f (src 0x71 f 0 s) (homeLoc s.conf.lc e (offsetOf (src 0x71 f 0 s))).home s)) := by
  refine (runOp_mayRun _ h).trans ?_
  simp only [hm, Bool.false_eq_true, if_false, withHome_hit hd]
  rfl

theorem spawnQueued_spawnQ (f : Fields) (s : State) : ((spawnQueued f s).countSpawn.plaza (plazaOf s.th.core)).spawnQ =
    (s.plaza (plazaOf s.th.core)).spawnQ ++ [spawnedBy f s] := by
  have hput := s.plaza_putPlaza_of_id (x := { s.plaza (plazaOf s.th.core) with
    spawnQ := (s.plaza (plazaOf s.th.core)).spawnQ ++ [spawnedBy f s] }) (s.plaza_id _)
  rw [State.plaza, State.countSpawn_plazas]
  exact congrArg PlazaSt.spawnQ hput

/-- What a spawned thread has (R113). -/
theorem spawnedBy_fields (f : Fields) (s : State) : (spawnedBy f s).pc = pcAdd s.th.pc (4 * disp f) ∧ (spawnedBy f s).n[0] = src 0x71 f 1 s ∧
    (spawnedBy f s).n[1] = src 0x71 f 2 s ∧ (∀ k : Fin 32, 2 ≤ k.val → (spawnedBy f s).n[k] = 0) ∧
    (spawnedBy f s).q = Vector.replicate 16 0 ∧ (spawnedBy f s).spawned = true ∧ (spawnedBy f s).tid = s.nextTid ∧
    (spawnedBy f s).asid = s.th.asid ∧ (spawnedBy f s).launch = s.th.launch ∧ (spawnedBy f s).nbud = s.th.snbud ∧
    (spawnedBy f s).vbud = s.th.svbud ∧ (spawnedBy f s).hnd = false := by
  obtain ⟨h0, h1, hrest⟩ := spawned_n s (pcAdd s.th.pc (4 * disp f)) (src 0x71 f 1 s) (src 0x71 f 2 s)
  exact ⟨rfl, h0, h1, hrest, rfl, rfl, rfl, rfl, rfl, rfl, rfl, rfl⟩

end

/-- Settles O34: what each instruction does once its checks have passed, with the departure of a thread and the count of a spawn said apart. -/
theorem migrateHomeAndSpawn : Obligations.MigrateHomeAndSpawn := by
  refine fun f s => ⟨fun h => ⟨fun hm => ⟨fun ha => ?_, fun ha hlt => ?_, fun hlt hne hh hup hw hf => ?_⟩,
    fun hm a e ha hd => ⟨fun ht => ?_, fun ht => ?_⟩⟩, fun h e hd ht => execHome_hit h hd (by omega),
    fun h => ⟨fun hm => ⟨fun hq => ?_, fun hq => ?_⟩, fun hm e hd => ⟨fun ho => ?_, fun ho ht => ?_, fun ho ht hdead => ?_⟩⟩⟩
  · rw [execMigr_core h hm, migrCore, if_pos ha]
  · rw [execMigr_core h hm, migrCore, if_neg hlt.not_ge, if_pos ha]
  · refine ⟨depart _ (s.onTh (fun t => { t with pendH := src 0x70 f 0 s })), ?_, rfl, rfl, rfl, rfl, rfl, rfl, rfl, depart_ports_resv, rfl⟩
    rw [execMigr_core h hm, migrCore, if_neg hlt.not_ge, if_neg hne, migrate_of_nothing hh hup hw hf]
  · rw [execMigr_handle h hm ha hd, if_pos ht]
  · rw [execMigr_handle h hm ha hd, if_neg (by omega), if_neg (by omega)]
  · rw [execSpawn_plaza h hm, if_pos hq]
  · refine ⟨spawnedBy f s, (spawnQueued f s).countSpawn, spawnedBy_fields f s, ?_, State.countSpawn_th _, State.countSpawn_mem _,
      (spawnQueued f s).countSpawn_net, spawnQueued_spawnQ f s, State.countSpawn_nextTid _⟩
    rw [execSpawn_plaza h hm, if_neg hq.not_ge]
  · rw [execSpawn_at h hm hd, if_pos ho]
  · rw [execSpawn_at h hm hd, if_neg ho.not_ge, if_pos ht]
  · refine ⟨spawnedBy f s, spawnAt f (src 0x71 f 0 s) _ s, spawnedBy_fields f s, ?_, (spawnSent f _ s).countSpawn_net,
      State.countSpawn_mem _, ?_⟩
    · rw [execSpawn_at h hm hd, if_neg ho.not_ge, if_neg (by omega), hdead, if_neg Bool.false_ne_true]
    · rw [spawnAt, State.onTh_th, State.countSpawn_th]
      rfl

/-! ## What an atomic writes (R104, R107) -/

section
variable (ty : BitVec 5) (held : Bool) (old b c : W64)

/-- The minimum is one of the operands, by TYPE's order; of equal ones the old bytes. -/
theorem atomNew_min : ∃ m, (atomNew (.atom 1) ty held old b c).1 = some m ∧ (m = pattern ty.toNat old ∨ m = pattern ty.toNat b) ∧
    (narrow ty.toNat old < narrow ty.toNat b → m = pattern ty.toNat old) ∧ (narrow ty.toNat b < narrow ty.toNat old → m = pattern ty.toNat b) :=
  ⟨_, rfl, ite_eq_or_eq _ _ _, fun h => if_pos h.le, fun h => if_neg h.not_ge⟩

/-- The maximum likewise; of equal ones the operand. -/
theorem atomNew_max : ∃ m, (atomNew (.atom 2) ty held old b c).1 = some m ∧ (m = pattern ty.toNat old ∨ m = pattern ty.toNat b) ∧
    (narrow ty.toNat old < narrow ty.toNat b → m = pattern ty.toNat b) ∧ (narrow ty.toNat b < narrow ty.toNat old → m = pattern ty.toNat old) :=
  ⟨_, rfl, (ite_eq_or_eq _ _ _).symm, fun h => if_pos h.le, fun h => if_neg h.not_ge⟩

variable {ty old b}

theorem atomNew_inc_wraps (h : pattern ty.toNat b ≤ pattern ty.toNat old) : (atomNew (.atom 7) ty held old b c).1 = some 0 :=
  congrArg some (if_pos h)

theorem atomNew_inc (h : pattern ty.toNat old < pattern ty.toNat b) :
    (atomNew (.atom 7) ty held old b c).1 = some (pattern ty.toNat old + 1) := congrArg some (if_neg h.not_ge)

theorem atomNew_cas_eq (h : pattern ty.toNat old = pattern ty.toNat b) :
    atomNew .cas ty held old b c = (some (pattern ty.toNat c), true, 0) := if_pos h

theorem atomNew_cas_ne (h : pattern ty.toNat old ≠ pattern ty.toNat b) : atomNew .cas ty held old b c = (none, false, 0) := if_neg h

theorem atomNew_scond (ty : BitVec 5) (held : Bool) (old b c : W64) :
    atomNew .scond ty held old b c = (if held then some (pattern ty.toNat b) else none, held, 0) := by cases held <;> rfl

end

/-! ## Atomics on local bytes (R104, R105) -/

/-- Local memory after an atomic that leaves `new` in the bytes at `x`, if it writes. -/
def State.localUpdate (s : State) (plaza x n : Nat) (new : Option Nat) : State :=
  match new with
  | some v => s.localWrite plaza x (leBytes n v)
  | none => s

theorem State.localUpdate_frame (s : State) (plaza x n : Nat) (new : Option Nat) :
    (s.localUpdate plaza x n new).th = s.th ∧ (s.localUpdate plaza x n new).mem = s.mem ∧ (s.localUpdate plaza x n new).tmem = s.tmem ∧
      (s.localUpdate plaza x n new).wgs = s.wgs ∧ (s.localUpdate plaza x n new).net = s.net := by
  cases new <;> exact ⟨rfl, rfl, rfl, rfl, rfl⟩

/-- Each local atomic is steps 5 to 9 of R61 around `localAtomic`. -/
theorem exec_localAtomic {i : Instr} {op : Nat} {aop : AtomOp} {f : Fields} {s : State}
    (hi : (i, op, aop) ∈ [(Instr.atom f, 0x60, AtomOp.atom (fbits f.func 7 5)), (Instr.atomf f, 0x61, .atomf (fbits f.func 7 5)), (Instr.cas f, 0x62, .cas)])
    (h : mayRun op f s = true) (hl : isLocalAtomic f = true) : exec i s = .next (localAtomic op aop f s) := by
  have hexec : exec i s = atomic op aop f s := by
    simp only [List.mem_cons, List.not_mem_nil, or_false, Prod.mk.injEq] at hi
    obtain ⟨rfl, rfl, rfl⟩ | ⟨rfl, rfl, rfl⟩ | ⟨rfl, rfl, rfl⟩ := hi <;> rfl
  rw [hexec, atomic, runOp_mayRun _ h, if_pos hl]

section
variable {op x : Nat} {f : Fields} {s : State} (aop : AtomOp) (hrel : hasRel f = false)
  (hx : s.localHand (localOff op f s) (width (tyOf f) / 8) (width (tyOf f) / 8) x)
  (hfwd : s.th.fwd.any (fun w => w.overlaps x (width (tyOf f) / 8)) = false)
  (hsoft : (wordsOf x (width (tyOf f) / 8)).any (s.plaza (plazaOf s.th.anchor)).soft.contains = false)
include hrel hx hfwd hsoft

/-- A local atomic at hand is performed at its bank and ends at once. -/
theorem localAtomic_of_localHand {old : W64} (hold : old = BitVec.ofNat 64 (memNat s.lmem (localAt (plazaOf s.th.anchor) x) (width (tyOf f) / 8)))
    {r : Option Nat × Bool × BitVec 7} (hr : r = atomNew aop (ty5 f) false old (atomValue op f 1 s) (atomValue op f 2 s)) :
    localAtomic op aop f s =
      atomEnd f false old r.2.1 r.2.2 (s.localUpdate (plazaOf s.th.anchor) x (width (tyOf f) / 8) r.1) := by
  subst hr hold
  simp only [localAtomic, withLocal_of_localHand hx, hrel, release, hfwd, Bool.false_eq_true, if_false, localRead_of_clean hsoft]
  rfl

end

/-- Settles O29: each operation is an arm of `atomNew`, and a local atomic at hand is that operation on the bank's bytes. -/
theorem localAtomics : Obligations.LocalAtomics := by
  refine ⟨fun ty held old b c => ⟨rfl, atomNew_min ty held old b c, atomNew_max ty held old b c, rfl, rfl, rfl, rfl, atomNew_inc_wraps held c,
    atomNew_inc held c, atomNew_cas_eq held c, atomNew_cas_ne held c, atomNew_scond ty held old b c, rfl⟩, ?_⟩
  intro f s i op aop x n plaza hi h hl hrel hx hfwd hsoft old r
  refine ⟨s.localUpdate plaza x n r.1, ?_, ?_⟩
  · rw [exec_localAtomic hi h hl, localAtomic_of_localHand aop hrel hx hfwd hsoft rfl rfl]
    rfl
  · obtain ⟨hth, hmem, htmem, hwgs, hnet⟩ := s.localUpdate_frame plaza x n r.1
    refine ⟨hth, hmem, htmem, hwgs, hnet, fun hr => ?_, fun v hr => ?_⟩
    · rw [hr]
      rfl
    · rw [hr]
      rfl

/-! ## `LAUNCH`, `CANCEL` and `CWAIT` (R115-R118) -/

/-- A job that has been put into the tables is found there under its number. -/
theorem State.job?_of_jobs {u s : State} {j : Job} (h : u.gs.jobs = putBy Job.num j s.gs.jobs) : u.job? j.num = some j := by
  rw [State.job?, h]
  exact find_putBy_self Job.num j s.gs.jobs

section
variable {f : Fields} {s : State} {j : Job} (hj : s.job? s.th.job = some j)
include hj

theorem execLaunch_of_no_kernel (h : mayRun 0x72 f s = true) (hk : (s.imageOf j).bind (fun i => i.kdesc? (src 0x72 f 0 s)) = none) :
    exec (.launch f) s = .next (raise 0x08 (src 0x72 f 0 s) s) := by
  refine (runOp_mayRun _ h).trans ?_
  simp only [hj, hk]

variable {k : KDesc}

theorem execLaunch_of_kernel (h : mayRun 0x72 f s = true) (hk : (s.imageOf j).bind (fun i => i.kdesc? (src 0x72 f 0 s)) = some k) :
    exec (.launch f) s = .next (
      if (src 0x72 f 2 s).toNat ≥ 2 ^ 32 then raise 0x06 (src 0x72 f 2 s) s
      else awaitScope 5 (fun u =>
        if bits f.ext.toNat 4 0 = 0 then launchChild f k (src 0x72 f 0 s) (src 0x72 f 1 s) (src 0x72 f 2 s).toNat [] u
        else if offsetOf (src 0x72 f 1 s) % 8 ≠ 0 then raise 0x0A (src 0x72 f 1 s) u
        else readHandle (src 0x72 f 1 s) (8 * bits f.ext.toNat 4 0) (fun bs => launchChild f k (src 0x72 f 0 s) (src 0x72 f 1 s) (src 0x72 f 2 s).toNat
          ((List.range (bits f.ext.toNat 4 0)).map (fun q => BitVec.ofNat 64 (wordAt bs q)))) u) s) := by
  refine (runOp_mayRun _ h).trans ?_
  simp only [hj, hk]

/-- With nothing outstanding and its argument words at hand a `LAUNCH` goes on to its graph with those words. -/
theorem execLaunch_of_words (h : mayRun 0x72 f s = true) (hk : (s.imageOf j).bind (fun i => i.kdesc? (src 0x72 f 0 s)) = some k)
    (hc : (src 0x72 f 2 s).toNat < 2 ^ 32) (hw : s.th.writes = []) (hf : s.th.fwd = []) {ws : List W64} {s2 : State}
    (hnone : bits f.ext.toNat 4 0 = 0 → ws = [] ∧ s2 = s)
    (hsome : bits f.ext.toNat 4 0 ≠ 0 → offsetOf (src 0x72 f 1 s) % 8 = 0 ∧
      ∃ bs, (∀ k, readHandle (src 0x72 f 1 s) (8 * bits f.ext.toNat 4 0) k s = k bs s2) ∧
        ws = (List.range (bits f.ext.toNat 4 0)).map (fun q => BitVec.ofNat 64 (wordAt bs q))) :
    exec (.launch f) s = .next (launchChild f k (src 0x72 f 0 s) (src 0x72 f 1 s) (src 0x72 f 2 s).toNat ws s2) := by
  rw [execLaunch_of_kernel hj h hk, if_neg hc.not_ge, awaitScope, awaitWrites_of_nothing hw hf]
  by_cases hn : bits f.ext.toNat 4 0 = 0
  · obtain ⟨rfl, rfl⟩ := hnone hn
    rw [if_pos hn]
  · obtain ⟨halign, bs, hread, rfl⟩ := hsome hn
    rw [if_neg hn, if_neg (not_not.mpr halign), hread]

/-- A graph with room takes the child. -/
theorem launchChild_of_room {a b : W64} {gangs : Nat} {ws : List W64} (hopen : (j.tcbs.filter (fun t => !t.complete)).length < 4096)
    (hlen : j.tcbs.length < 65536) : launchChild f k a b gangs ws s = enterLaunch f k a b gangs ws j s := by
  simp only [launchChild, hj]
  rw [if_neg hopen.not_ge, if_neg (show ¬ j.nextIndex ≥ 65536 from hlen.not_ge)]

omit hj

/-- The launch that enters the graph, the tables and the request that it leaves (R115, R163). -/
theorem enterLaunch_spec (f : Fields) (k : KDesc) (a b : W64) (gangs : Nat) (ws : List W64) (j : Job) (s : State) :
    ∃ u : State, enterLaunch f k a b gangs ws j s = finishQ f (BitVec.ofNat 64 s.gs.nextLaunch) u ∧ u.th = s.th ∧ u.mem = s.mem ∧
      u.gs.nextLaunch = s.gs.nextLaunch + 1 ∧
      u.net = s.net ++ [⟨s.th.core, 0x200 + 64 * s.activeHub, 0, false, .hub 0 j.num j.tcbs.length, .moving⟩] ∧
      ∃ t j', u.job? j.num = some j' ∧ j'.tcbs = j.tcbs ++ [t] ∧ t.launch = s.gs.nextLaunch ∧ t.kdesc = a ∧ t.args = b ∧ t.words = ws ∧
        t.gangs = gangs ∧ t.child = true ∧ t.built = false ∧ t.index = j.tcbs.length :=
  ⟨_, rfl, rfl, rfl, rfl, rfl, _, _, State.job?_of_jobs (s := s) (j := { j with tcbs := j.tcbs ++ [_] }) rfl, rfl, rfl, rfl, rfl, rfl, rfl, rfl, rfl, rfl⟩

include hj

theorem execCancel_of_job (h : mayRun 0x74 f s = true) :
    exec (.cancel f) s = .next (finishU f (s.putJob (j.cancelAt (levelOf f) ((src 0x74 f 0 s).toNat % 2 ^ 32)))) := by
  refine (runOp_mayRun _ h).trans ?_
  simp only [hj]

omit hj

/-- The end of a `CWAIT`, for what the tables say of its object. -/
def cwaitEnds (f : Fields) (found : Found3) (s : State) : State :=
  match found with
  | .wait => block .waiting .object s
  | .answer b => finishP f b s
  | .fault code => raise code (src 0x75 f 0 s) s

/-- `CWAIT` of an object, with no write outstanding, is what the tables say of the object. -/
theorem execCwait_of_nothing {top : Nat} (h : mayRun 0x75 f s = true) (htop : top = if levelOf f = 0 then 32 else if levelOf f = 3 then 24 else 40)
    (hlt : (src 0x75 f 0 s).toNat < 2 ^ top) (hw : s.th.writes = []) (hf : s.th.fwd = []) :
    exec (.cwait f) s = .next (cwaitEnds f
      (if levelOf f = 0 then findLaunch s (src 0x75 f 0 s).toNat else findObject s (levelOf f) (src 0x75 f 0 s).toNat) s) := by
  refine (runOp_mayRun _ h).trans ?_
  simp only
  rw [← htop, if_neg hlt.not_ge, awaitScope, awaitWrites_of_nothing hw hf]
  rfl

theorem execCwait_beyond {top : Nat} (h : mayRun 0x75 f s = true) (htop : top = if levelOf f = 0 then 32 else if levelOf f = 3 then 24 else 40)
    (hge : 2 ^ top ≤ (src 0x75 f 0 s).toNat) : exec (.cwait f) s = .next (raise 0x06 (src 0x75 f 0 s) s) := by
  refine (runOp_mayRun _ h).trans ?_
  simp only
  rw [← htop, if_pos hge]

include hj

theorem findLaunch_of_none {n : Nat} (hn : n = s.th.launch ∨ j.tcbOf n = none) : findLaunch s n = .fault 0x08 := by
  simp only [findLaunch, hj]
  rcases hn with hn | hn
  · rw [if_pos hn]
  · simp only [hn, ite_self]

theorem findLaunch_of_some {n : Nat} {t : Tcb} (hn : n ≠ s.th.launch) (ht : j.tcbOf n = some t) :
    findLaunch s n = if t.complete then .answer (t.state == 3) else .wait := by
  simp only [findLaunch, hj, if_neg hn, ht]

omit hj

/-- Another job of the thread's ASID that is among the last 256 complete ones, or not complete. -/
theorem findObject_job {n : Nat} {k : Job} (hn : n < 2 ^ 24) (hk : s.job? n = some k) (ha : k.asid = s.th.asid) (hne : k.num ≠ s.th.job)
    (hlater : k.stage = 4 → s.laterDone k < 256) : findObject s 3 n = if k.stage = 4 then .answer (k.outcome == 0) else .wait := by
  have hfound : findJobObj s n = some k := by
    simp only [findJobObj, hk, if_neg (not_not.mpr ha)]
    rw [if_neg (fun h => (hlater h.1).not_ge h.2)]
  simp only [findObject, Nat.mod_eq_of_lt hn, hfound, if_true, if_neg hne]

end

/-- Settles O35: a `LAUNCH` is its words and then the entry into the graph, a `CANCEL` is `Job.cancelAt`, and a `CWAIT` what the tables say. -/
theorem launchCancelAndWait : Obligations.LaunchCancelAndWait := by
  refine fun f s j hj => ⟨fun h => ⟨execLaunch_of_no_kernel hj h, fun k hk => ⟨fun hc => ?_, ?_⟩⟩, fun h => ?_,
    fun h => ⟨fun hl => ⟨fun ha => ?_, ?_⟩, ?_⟩⟩
  · rw [execLaunch_of_kernel hj h hk, if_pos hc]
  · intro hc hw hf ws s2 b n hnone hsome hs2 hopen hlen
    obtain ⟨ps, ds, rfl⟩ : ∃ ps ds, s2 = { s with ports := ps, dies := ds } := ⟨_, _, hs2⟩
    rw [execLaunch_of_words hj h hk hc hw hf hnone hsome, launchChild_of_room (s := { s with ports := ps, dies := ds }) hj hopen hlen]
    obtain ⟨u, hu, hrest⟩ := enterLaunch_spec f k (src 0x72 f 0 s) b (src 0x72 f 2 s).toNat ws j { s with ports := ps, dies := ds }
    exact ⟨u, congrArg _ hu, hrest⟩
  · refine ⟨s.putJob (j.cancelAt (levelOf f) _), execCancel_of_job hj h, rfl, rfl, rfl, j.cancelAt (levelOf f) _, ?_, j.cancelAt_tcbs _ _,
      fun hl => ?_, fun hl => ?_, fun hl => ?_⟩
    · rw [← j.cancelAt_num (levelOf f) ((src 0x74 f 0 s).toNat % 2 ^ 32)]
      exact State.job?_of_jobs rfl
    · rw [levelOf, hl]
      exact ⟨rfl, rfl⟩
    · rw [levelOf]
      rcases hl with hl | hl <;> rw [hl] <;> exact ⟨rfl, rfl⟩
    · rw [levelOf, hl]
      exact ⟨rfl, rfl⟩
  · exact execCwait_beyond h (top := 32) (by rw [levelOf, if_pos hl]) ha
  · intro ha hw hf
    have hexec := execCwait_of_nothing h (top := 32) (by rw [levelOf, if_pos hl]) ha hw hf
    rw [levelOf, if_pos hl] at hexec
    refine ⟨fun hn => ?_, fun t hn ht => ?_⟩
    · rw [hexec, findLaunch_of_none hj hn]
      rfl
    · rw [hexec, findLaunch_of_some hj hn ht]
      cases t.complete <;> rfl
  · intro hl k ha hw hf hk hasid hne
    have hexec := execCwait_of_nothing h (top := 24) (by rw [levelOf, hl]; rfl) ha hw hf
    rw [levelOf, hl, if_neg (by decide)] at hexec
    refine ⟨fun hs => ?_, fun hs hlater => ?_⟩
    · rw [hexec, findObject_job ha hk hasid hne (fun h4 => absurd h4 hs), if_neg hs]
      rfl
    · rw [hexec, findObject_job ha hk hasid hne (fun _ => hlater), if_pos hs]
      rfl

/-! ## What a lookup and the row counts leave of the ports (R299, R349) -/

/-- A port whose page has been looked up and whose rows have been counted: its queues, reservations, monitors, leases and poison stay. -/
def PortSt.onlyCounts (p q : PortSt) : Prop :=
  ∃ mtlb desc rows throttled ctrs rowNext, q = { p with
    mtlb := mtlb, desc := desc, rows := rows, throttled := throttled, ctrs := ctrs, rowNext := rowNext }

theorem PortSt.onlyCounts_refl (p : PortSt) : p.onlyCounts p := ⟨_, _, _, _, _, _, rfl⟩

theorem PortSt.onlyCounts_trans {p q r : PortSt} (h : p.onlyCounts q) (h' : q.onlyCounts r) : p.onlyCounts r := by
  obtain ⟨_, _, _, _, _, _, rfl⟩ := h
  obtain ⟨_, _, _, _, _, _, rfl⟩ := h'
  exact ⟨_, _, _, _, _, _, rfl⟩

/-- Nothing changes but recency and row counts of the ports, and the counters of the dies. -/
def State.onlyCounts (s t : State) : Prop := (∃ ps ds, t = { s with ports := ps, dies := ds }) ∧ ∀ c, (s.port c).onlyCounts (t.port c)

theorem State.onlyCounts_refl (s : State) : s.onlyCounts s := ⟨⟨_, _, rfl⟩, fun c => (s.port c).onlyCounts_refl⟩

theorem State.onlyCounts_trans {s t u : State} (h : s.onlyCounts t) (h' : t.onlyCounts u) : s.onlyCounts u := by
  obtain ⟨⟨_, _, rfl⟩, hp⟩ := h
  obtain ⟨⟨_, _, rfl⟩, hp'⟩ := h'
  exact ⟨⟨_, _, rfl⟩, fun c => PortSt.onlyCounts_trans (hp c) (hp' c)⟩

/-- A port replaced by one of its own identity is the only one that differs. -/
theorem State.port_putPort_eq_ite (s : State) {x : PortSt} {c d : Nat} (hx : x.id = c) : (s.putPort x).port d = if d = c then x else s.port d := by
  subst hx
  split_ifs with h
  · exact h ▸ s.port_putPort x
  · exact s.port_putPort_ne x d (Ne.symm h)

theorem State.onlyCounts_putPort (s : State) {x : PortSt} {c : Nat} (hx : (s.port c).onlyCounts x) : s.onlyCounts (s.putPort x) := by
  have hid : x.id = c := by
    obtain ⟨_, _, _, _, _, _, rfl⟩ := hx
    exact s.port_id c
  refine ⟨⟨_, _, rfl⟩, fun d => ?_⟩
  rw [s.port_putPort_eq_ite hid]
  split_ifs with h
  · exact h ▸ hx
  · exact PortSt.onlyCounts_refl _

theorem State.onlyCounts_touch (s : State) (port : Nat) (key : PageKey) (e : BufEntry) (p : Pme) : s.onlyCounts (s.touch port key e p) :=
  s.onlyCounts_putPort (c := port) ⟨_, _, _, _, _, _, rfl⟩

theorem State.onlyCounts_putDie (s : State) (x : DieSt) : s.onlyCounts (s.putDie x) := ⟨⟨_, _, rfl⟩, fun c => (s.port c).onlyCounts_refl⟩

theorem onlyCounts_countRow (core row : Nat) (s : State) : s.onlyCounts (countRow core row s) := by
  unfold countRow
  dsimp only
  generalize (if (s.port core).rpth = 0 then 4096 else (s.port core).rpth.toNat) = limit
  split_ifs
  · exact s.onlyCounts_refl
  · exact State.onlyCounts_trans (s.onlyCounts_putPort (c := core) ⟨_, _, _, _, _, _, rfl⟩) (State.onlyCounts_putDie _ _)
  · exact s.onlyCounts_putPort (c := core) ⟨_, _, _, _, _, _, rfl⟩

theorem onlyCounts_foldl_countRow (core : Nat) (rows : List Nat) (s : State) : s.onlyCounts (rows.foldl (fun s row => countRow core row s) s) := by
  induction rows generalizing s with
  | nil => exact s.onlyCounts_refl
  | cons row rows ih => exact State.onlyCounts_trans (onlyCounts_countRow core row s) (ih _)

section
variable {s t : State} (h : s.onlyCounts t)
include h

theorem State.onlyCounts.poisoned_eq (a n : Nat) : t.poisoned a n = s.poisoned a n := by
  obtain ⟨-, hp⟩ := h
  obtain ⟨_, _, _, _, _, _, hq⟩ := hp (unitPort a)
  rw [State.poisoned, State.poisoned, hq]

theorem State.onlyCounts.wbQ_eq (c : Nat) : (t.port c).wbQ = (s.port c).wbQ := by
  obtain ⟨-, hp⟩ := h
  obtain ⟨_, _, _, _, _, _, hq⟩ := hp c
  rw [hq]

theorem State.onlyCounts.monitors_eq (c : Nat) : (t.port c).monitors = (s.port c).monitors := by
  obtain ⟨-, hp⟩ := h
  obtain ⟨_, _, _, _, _, _, hq⟩ := hp c
  rw [hq]

theorem State.onlyCounts.holds_eq (c : Nat) (who : Requester) (unit : Nat) : (t.port c).holds who unit = (s.port c).holds who unit := by
  obtain ⟨-, hp⟩ := h
  obtain ⟨_, _, _, _, _, _, hq⟩ := hp c
  rw [hq]
  rfl

/-- Clean bytes are read as they stand. -/
theorem State.onlyCounts.readClean {who : Requester} {asid : Nat} {e : BufEntry} {hd : W64} {a n : Nat} (hp : s.poisoned a n = false) :
    t.readClean who asid e hd a n = .ok (memRead s.mem a n, t) := by
  have ht : t.poisoned a n = false := (h.poisoned_eq a n).trans hp
  have hmem : t.mem = s.mem := by obtain ⟨⟨_, _, rfl⟩, -⟩ := h; rfl
  rw [State.readClean, ht, hmem]
  rfl

/-- Bytes of a page of which no write is held are as they stand. -/
theorem State.onlyCounts.heldBytes {x : Translated} {a : Nat} {bs : List Byte} (hw : (s.port x.port).wbQ.any (fun y => y.1 == x.key) = false) :
    heldBytes t x a bs = bs := by
  rw [Machine.heldBytes, h.wbQ_eq, hw]
  rfl

end

/-! ## Loads (R90, R91, R249) -/

theorem ty5_toNat (f : Fields) : (ty5 f).toNat = tyOf f := by
  have hlt : tyOf f < 2 ^ 5 := Nat.mod_lt _ (by decide)
  rw [ty5, BitVec.toNat_ofNat, Nat.mod_eq_of_lt hlt]

/-- The bytes of a scalar load are those of its TYPE. -/
theorem Cont.size_load (f : Fields) (d : Dst) (len : Nat) : (Cont.load d (ty5 f) len).size = width (tyOf f) / 8 := by
  rw [Cont.size, ty5_toNat]

section
variable {s : State} {h : W64} {c : Cont} {fin : List Byte → State → State}

/-- A load of bytes at hand reads them at once; of the state it leaves no more than counts behind (R91). -/
theorem loadHere_of_atHand {a : Nat} (hx : s.atHand h 0 c.size a) :
    ∃ t, s.onlyCounts t ∧ loadHere h c fin s = fin (memRead s.mem a c.size) t := by
  obtain ⟨e, e', key, p, lam, -, -, -, -, -, -, -, htrans, -, hptier, hpcore, -, rfl, -, hhold, hwalk, hway, hwb, hrow, hpoison⟩ := hx
  have htouch := s.onlyCounts_touch s.th.core key e' p
  have hused := State.onlyCounts_trans htouch (onlyCounts_foldl_countRow s.th.core (rowsAt (p.byteAt lam) c.size) _)
  have hwalks : (s.port s.th.core).walksWrite key = false :=
    List.any_eq_false.mpr (fun x hm => by simp [List.any_eq_false.mp hwalk x hm])
  have hway' : (s.touch s.th.core key e' p).ownOnWay s.th.core (s.touch s.th.core key e' p).th.tid = false := hway
  refine ⟨_, hused, ?_⟩
  simp only [loadHere, htrans]
  rw [hway', if_neg Bool.false_ne_true, hwalks, if_neg Bool.false_ne_true, PortSt.holdsWrite, hhold, if_neg Bool.false_ne_true,
    if_pos ⟨hptier, by rw [hrow]; rfl⟩, hused.readClean hpoison]
  simp only
  rw [hused.heldBytes hwb]

/-- `LD` and `VLD` of bytes at hand. -/
theorem loadFrom_of_atHand {a : Nat} {stay : Bool} (hx : s.atHand h 0 c.size a) :
    ∃ t, s.onlyCounts t ∧ loadFrom false stay h c fin s = fin (memRead s.mem a c.size) t := by
  obtain ⟨t, ht, heq⟩ := loadHere_of_atHand (fin := fin) hx
  obtain ⟨e, -, -, -, -, hd, -, htier, hlease, -, hhome, -⟩ := hx
  refine ⟨t, ht, ?_⟩
  have h2 : e.tier ≠ 2 := by omega
  have h3 : e.tier ≠ 3 := by omega
  simp only [loadFrom, withHome_hit hd, hlease, Bool.or_self, Bool.false_eq_true, if_false, h2, h3, ne_eq, not_false_eq_true, hhome, and_self, if_true, heq]

/-- The request of a load leaves for another home, and the thread waits for its answer. -/
def askHome (home : Nat) (h : W64) (c : Cont) (s : State) : State :=
  awaitAnswer h c (s.send s.th.core home 0 (.read (ofThread s h c.size .read)))

variable {e : BufEntry} {home : Nat}

theorem readRemote_of_other_home (htier : e.tier ≤ 1) (hhome : home ≠ s.th.core) : readRemote home e h c s = askHome home h c s := by
  have h3 : e.tier ≠ 3 := by omega
  simp only [readRemote, issue, h3, if_false, hhome, ne_eq, not_false_eq_true, true_or, if_true]
  rfl

variable (hx : s.homedAt h 0 c.size e home)
include hx

theorem loadFrom_of_other_home {stay : Bool} (hlease : e.leased = false) (htier : e.tier ≤ 1) (hhome : home ≠ s.th.core) :
    loadFrom false stay h c fin s = if stay then askHome home h c s else migrate home h s := by
  have hremote := readRemote_of_other_home (h := h) (c := c) htier hhome
  obtain ⟨hd, hcheck, rfl, hdead⟩ := hx
  have h2 : e.tier ≠ 2 := by omega
  have h3 : e.tier ≠ 3 := by omega
  simp only [loadFrom, withHome_hit hd, hlease, Bool.or_self, Bool.false_eq_true, if_false, h2, h3, hhome, and_false, hcheck, hdead, hremote,
    Bool.false_and]

theorem loadFrom_ldk_of_other_home {stay : Bool} (hlease : e.leased = false) (htier : e.tier ≤ 1) (hhome : home ≠ s.th.core) :
    loadFrom true stay h c fin s = askHome home h c s := by
  have hremote := readRemote_of_other_home (h := h) (c := c) htier hhome
  obtain ⟨hd, hcheck, rfl, hdead⟩ := hx
  simp only [loadFrom, withHome_hit hd, Bool.true_or, if_true, hcheck, readLeased, hdead, hlease, Bool.false_and, Bool.false_eq_true, if_false, hremote]

/-- Bytes of a leased line that the core holds are read from its cache (R91, R291). -/
theorem loadFrom_of_cached {ldk stay : Bool} {bs : List Byte} (hlease : e.leased = true) (hdie : dieOf home = dieOf s.th.core)
    (hways : s.ways s.th.core ≠ []) (hdlease : (s.die (dieOf s.th.core)).dlease ≠ 0) (hbs : cached s s.th.asid h c.size s.th.core = some bs) :
    loadFrom ldk stay h c fin s = fin bs s := by
  obtain ⟨hd, hcheck, rfl, hdead⟩ := hx
  have hon : (dieOf (homeLoc s.conf.lc e (offsetOf h)).home == dieOf s.th.core) = true := beq_iff_eq.mpr hdie
  have hsome : (s.ways s.th.core).isEmpty = false := List.isEmpty_eq_false_iff.mpr hways
  have hnonzero : ((s.die (dieOf s.th.core)).dlease != 0) = true := bne_iff_ne.mpr hdlease
  simp only [loadFrom, withHome_hit hd, hlease, Bool.or_true, if_true, hcheck, readLeased, hdead, hon, hsome, hnonzero, Bool.not_false, Bool.and_self, hbs,
    Bool.false_eq_true, if_false]

end

section
variable {f : Fields} {s : State} {h : W64} {r : State}

/-- `LD` behind its checks. -/
theorem execLd_of (hm : mayRun 0x50 f s = true) (ha : effAddr (src 0x50 f 0 s) (disp f) = some h) (halign : offsetOf h % (width (tyOf f) / 8) = 0)
    (hr : loadFrom false (stayOf f) h (.load f.dst (ty5 f) (lenBytes f.len)) (fun bs => finishQ f (extend (tyOf f) (leNat bs))) s = r) :
    exec (.ld f) s = .next r :=
  (runOp_mayRun _ hm).trans (congrArg _ ((withHandle_ok ha halign).trans hr))

/-- `LDK` behind its checks. -/
theorem execLdk_of (hm : mayRun 0x52 f s = true) (ha : effAddr (src 0x52 f 0 s) (disp f) = some h) (halign : offsetOf h % (width (tyOf f) / 8) = 0)
    (hr : loadFrom true (stayOf f) h (.load f.dst (ty5 f) (lenBytes f.len)) (fun bs => finishQ f (extend (tyOf f) (leNat bs))) s = r) :
    exec (.ldk f) s = .next r :=
  (runOp_mayRun _ hm).trans (congrArg _ ((withHandle_ok ha halign).trans hr))

/-- `VLD` behind its checks. -/
theorem execVld_of {b : Nat} (hm : mayRun 0xA0 f s = true) (ha : effAddr (src 0xA0 f 0 s) (disp f) = some h) (halign : offsetOf h % 32 = 0)
    (hb : s.keptBits (tyOf f) = some b)
    (hr : loadFrom false (stayOf f) h (.vload (vDst f) (ty5 f) b (lenBytes f.len))
      (fun bs => finishV f (BitVec.ofNat 256 (leNat bs % 2 ^ b)) (tagOf (tyOf f))) s = r) :
    exec (.vld f) s = .next r :=
  (runOp_mayRun _ hm).trans (congrArg _ ((withKept_of_keptBits hb).trans ((withHandle_ok ha halign).trans hr)))

end

/-- Settles O24: behind the checks of each load stands `loadFrom`, whose three ways are said apart. -/
theorem loadsReadTheirBytes : Obligations.LoadsReadTheirBytes := by
  refine ⟨fun f s h => ⟨fun hm ha halign a hx => ?_, fun hm ha halign b hb a hx => ?_, ?_⟩, ?_⟩
  · rw [← Cont.size_load f f.dst (lenBytes f.len)] at hx
    obtain ⟨t, ⟨⟨ps, ds, rfl⟩, -⟩, ht⟩ := loadFrom_of_atHand hx
    exact ⟨ps, ds, execLd_of hm ha halign (ht.trans (by rw [Cont.size_load]))⟩
  · obtain ⟨t, ⟨⟨ps, ds, rfl⟩, -⟩, ht⟩ := loadFrom_of_atHand (c := .vload (vDst f) (ty5 f) b (lenBytes f.len)) hx
    exact ⟨ps, ds, execVld_of hm ha halign hb ht⟩
  · intro e home bs hx hlease hdie hways hdlease hbs halign
    rw [← Cont.size_load f f.dst (lenBytes f.len)] at hx hbs
    exact ⟨fun hm ha => execLd_of hm ha halign (loadFrom_of_cached hx hlease hdie hways hdlease hbs),
      fun hm ha => execLdk_of hm ha halign (loadFrom_of_cached hx hlease hdie hways hdlease hbs)⟩
  · intro f s h e home asks n c hlease htier hhome
    have hn : c.size = n := Cont.size_load f f.dst (lenBytes f.len)
    have hask : asks n c = askHome home h c s := by rw [askHome, hn]
    refine ⟨fun hm ha halign hx => ?_, fun hm ha halign hx b hb => ?_, fun hm ha halign hx => ?_⟩
    · rw [← hn] at hx
      exact execLd_of hm ha halign ((loadFrom_of_other_home hx hlease htier hhome).trans (by rw [hask]))
    · exact execVld_of hm ha halign hb
        (loadFrom_of_other_home (c := .vload (vDst f) (ty5 f) b (lenBytes f.len)) hx hlease htier hhome)
    · rw [← hn] at hx
      exact execLdk_of hm ha halign ((loadFrom_ldk_of_other_home hx hlease htier hhome).trans hask.symm)

/-! ## A request at its home port (R88, R92, R105) -/

theorem width_le (t : Nat) : width t ≤ 64 := by
  unfold width
  split <;> decide

/-- A release of a thread with nothing outstanding waits for nothing (R95). -/
theorem release_of_nothing {rel : Bool} {scope : Nat} {k : State → State} {s : State} (h : rel = true → s.th.writes = [] ∧ s.th.fwd = []) :
    release rel scope k s = k s := by
  cases rel with
  | false => rfl
  | true =>
    obtain ⟨hw, hf⟩ := h rfl
    exact awaitWrites_of_nothing hw hf

/-- The state in which a write of a thread is outstanding (R88). -/
def State.outstanding (s : State) (w : SentWrite) : State := State.onTh { s with nextId := s.nextId + 1 } (fun t => { t with writes := t.writes ++ [w] })

/-- The record of a write to a home of this module. -/
def SentWrite.toHome (s : State) (e : BufEntry) (home : Nat) (h : W64) : SentWrite := ⟨s.nextId, .home e.tier, s.th.core, home, e.leased, h, .sent⟩

/-- The state in which a write has left for its home; the core's own copy of a leased line goes with it (R88, R358). -/
def State.writeLeaves (s : State) (e : BufEntry) (home : Nat) (r : Request) (wrap : Request → Body) : State :=
  State.onTh { (if e.leased then s.dropLine r.handle else s) with
    nextId := s.nextId + 1, net := s.net ++ [⟨s.th.core, home, 0, false, wrap { r with wid := s.nextId }, .moving⟩] }
    (fun t => { t with writes := t.writes ++ [SentWrite.toHome s e home r.handle] })

section
variable {s : State} {e : BufEntry} {r : Request} {wrap : Request → Body} {k : State → State}

/-- A request for another home leaves for it, and so does a vector store for the own port (R92, R250). -/
theorem issue_leaves {home : Nat} (htier : e.tier ≤ 1) (hdst : home ≠ s.th.core ∨ (r.kind = .write ∧ 8 < r.size)) :
    issue home e r wrap k s = k (s.send s.th.core home 0 (wrap r)) := by
  have h3 : e.tier ≠ 3 := by omega
  simp only [issue, if_neg h3]
  rw [if_pos hdst]

/-- A request for the own port is served there at once where the port takes it. -/
theorem issue_here {t : State} (htier : e.tier ≤ 1) (hnarrow : ¬ (r.kind = .write ∧ 8 < r.size)) (hway : s.ownOnWay s.th.core s.th.tid = false)
    (hserve : serve s.th.core s.th.core r s = some t) : issue s.th.core e r wrap k s = k t := by
  have h3 : e.tier ≠ 3 := by omega
  simp only [issue, if_neg h3]
  rw [if_neg (fun h => h.elim (fun hne => hne rfl) hnarrow), if_neg (Bool.eq_false_iff.mp hway), hserve]

theorem postWrite_of_issue {home : Nat} {u : State} (htier : e.tier ≤ 1)
    (hissue : issue home e { r with wid := s.nextId } wrap k
      ((if e.leased then s.dropLine r.handle else s).outstanding (SentWrite.toHome s e home r.handle)) = u)
    (hu : ∀ c, u.th.wait ≠ .drain c) : postWrite home e r wrap k s = u := by
  have h3 : e.tier ≠ 3 := by omega
  subst hissue
  rw [SentWrite.toHome] at hu ⊢
  cases hl : e.leased <;> simp only [hl, Bool.false_eq_true, if_false, if_true] at hu <;>
    simp only [postWrite, if_neg h3, hl, Bool.false_eq_true, if_false, if_true] <;> exact if_neg (hu _)

theorem postWrite_leaves {home : Nat} (htier : e.tier ≤ 1) (hdst : home ≠ s.th.core ∨ (r.kind = .write ∧ 8 < r.size))
    (hk : ∀ u c, (k u).th.wait ≠ .drain c) : postWrite home e r wrap k s = k (s.writeLeaves e home r wrap) := by
  refine postWrite_of_issue htier ?_ (hk _)
  rw [State.writeLeaves]
  cases e.leased <;> exact issue_leaves htier hdst

theorem postWrite_here {t : State} (htier : e.tier ≤ 1) (hlease : e.leased = false) (hnarrow : ¬ (r.kind = .write ∧ 8 < r.size))
    (hway : s.ownOnWay s.th.core s.th.tid = false)
    (hserve : serve s.th.core s.th.core { r with wid := s.nextId } (s.outstanding (SentWrite.toHome s e s.th.core r.handle)) = some t)
    (hk : ∀ u c, (k u).th.wait ≠ .drain c) : postWrite s.th.core e r wrap k s = k t := by
  refine postWrite_of_issue htier ?_ (hk _)
  rw [hlease]
  exact issue_here htier hnarrow hway hserve

end

/-- The translation of an access to bytes of the own channel (R298). -/
def Translated.here (core : Nat) (e : BufEntry) (key : PageKey) (p : Pme) (lam : Nat) : Translated := ⟨core, core, core, e, key, p, lam, none⟩

/-- A lookup throttles no row. -/
theorem State.touch_throttled (s : State) (port : Nat) (key : PageKey) (e : BufEntry) (p : Pme) :
    ((s.touch port key e p).port port).throttled = (s.port port).throttled := by
  have hput := s.port_putPort_eq_ite (d := port)
    (x := { (s.port port).fill key p with desc := fillDesc ((s.port port).fill key p).desc key.asid key.buf e }) (s.port_id port)
  rw [if_pos rfl] at hput
  exact (congrArg PortSt.throttled hput :)

/-- A request of a thread whose page is present, and of which nothing holds the page or the rows, is performed at once. -/
theorem serve_here {s : State} {core tid : Nat} {r : Request} {e : BufEntry} {key : PageKey} {p : Pme} {lam : Nat} (hnew : r.trans = none)
    (hwho : r.who = .thread tid) (htrans : translate s core r.asid r.handle r.right r.size = .page e key p lam) (htier : p.tier = 0)
    (hcore : p.core = core) (hwb : p.wb = false) (ha : p.byteAt lam / 2 ^ 31 = core)
    (hhold : (s.port core).holdQ.any (fun x => x.1 == key) = false) (hwalk : (s.port core).walking.any (fun x => x.1 == key) = false)
    (hrow : (s.port core).throttledIn (rowsAt (p.byteAt lam) r.size) = none) :
    ∃ t, s.onlyCounts t ∧ serve core core r s = some (performAt (.here core e key p lam) r (p.byteAt lam) t) := by
  have hwalks : (s.port core).walksWrite key = false :=
    List.any_eq_false.mpr (fun x hm => by simp [List.any_eq_false.mp hwalk x hm])
  have hrow' : ((s.touch core key e p).port core).throttledIn (rowsAt (p.byteAt lam) r.size) = none := by
    rw [PortSt.throttledIn, s.touch_throttled]
    exact hrow
  refine ⟨_, State.onlyCounts_trans (s.onlyCounts_touch core key e p) (onlyCounts_foldl_countRow core (rowsAt (p.byteAt lam) r.size) _), ?_⟩
  have hplace : place core core r e key p lam (s.touch core key e p) =
      performAt (.here core e key p lam) r (p.byteAt lam) ((rowsAt (p.byteAt lam) r.size).foldl (fun s row => countRow core row s) (s.touch core key e p)) := by
    have h2 : p.tier ≠ 2 := by omega
    simp only [place, if_neg h2, hcore, if_true]
    simp only [atMemory, htier, throttle, passRows, Translated.cell]
    rw [ha, hrow']
    rfl
  simp only [serve, hnew, serveHome, htrans, hwalks, PortSt.holdsWrite, hhold, Bool.false_eq_true, if_false, serveHit, hwho]
  cases r.kind <;> simp only [hwb, Bool.false_eq_true, if_false, hplace]

/-! ## After a write (R107, R108) -/

/-- A thread of which nothing but the wait has changed. -/
def Thread.onlyWait (t u : Thread) : Prop := ∃ st w since, u = { t with status := st, wait := w, since := since }

theorem Thread.onlyWait_refl (t : Thread) : t.onlyWait t := ⟨_, _, _, rfl⟩

theorem State.wakeWaiting_th (s : State) (p : Thread → Bool) : s.th.onlyWait (s.wakeWaiting p).th := by
  unfold State.wakeWaiting State.mapThreads
  dsimp only
  split_ifs
  · exact s.th.onlyWait_refl
  · exact ⟨_, _, _, rfl⟩
  · exact s.th.onlyWait_refl

/-- Messages sent one for each member of a list. -/
theorem foldl_send_eq {α : Type} (src vc : Nat) (dst : α → Nat) (body : α → Body) (l : List α) (s : State) :
    l.foldl (fun s x => s.send src (dst x) vc (body x)) s = { s with net := s.net ++ l.map (fun x => ⟨src, dst x, vc, false, body x, .moving⟩) } := by
  induction l generalizing s with
  | nil => simp
  | cons x xs ih =>
    rw [List.foldl_cons, ih]
    simp only [State.send, List.map_cons, List.append_assoc, List.singleton_append]

/-- Nothing changes but ports, messages and the waits of threads; no port gains a reservation. -/
def State.onlyWakes (s t : State) : Prop :=
  (∃ th ths ps net, t = { s with th := th, threads := ths, ports := ps, net := net }) ∧ s.th.onlyWait t.th ∧
    ∀ c, ∀ r ∈ (t.port c).resv, r ∈ (s.port c).resv

theorem State.onlyWakes_afterWrite (s : State) (port cell pa n : Nat) : s.onlyWakes (s.afterWrite port cell pa n) := by
  unfold State.afterWrite
  dsimp only
  generalize (s.port port).monitors.filter _ = woken
  generalize (s.port port).monitors.filter _ = kept
  rw [foldl_send_eq port 2 Monitor.core (fun m => .wake m.tid 0) woken]
  have hresv (c : Nat) : ∀ r ∈ ((s.putPort { s.port port with
      resv := (s.port port).resv.filter (fun r => !(cell / 64 ≤ r.2 && r.2 ≤ (cell + n - 1) / 64)), monitors := kept }).port c).resv,
      r ∈ (s.port c).resv := by
    have hput := s.port_putPort_eq_ite (d := c) (x := { s.port port with
      resv := (s.port port).resv.filter (fun r => !(cell / 64 ≤ r.2 && r.2 ≤ (cell + n - 1) / 64)), monitors := kept }) (c := port) (s.port_id port)
    rw [hput]
    split_ifs with hc
    · exact hc ▸ fun r hr => List.mem_of_mem_filter hr
    · exact fun r hr => hr
  split_ifs
  · exact ⟨⟨_, _, _, _, rfl⟩, s.th.onlyWait_refl, hresv⟩
  · exact ⟨⟨_, _, _, _, rfl⟩, State.wakeWaiting_th _ _, hresv⟩

theorem State.writeMem_of_short {s : State} {pa : Nat} {bs : List Byte} (h : bs.length < 64) :
    s.writeMem pa bs = { s with mem := memWrite s.mem pa bs } := if_pos (.inl h)

/-! ## A request performed on bytes of the own channel (R88, R105, R107, R108) -/

theorem Translated.here_returnedTime {core : Nat} {e : BufEntry} (key : PageKey) (p : Pme) (lam : Nat) (r : Request) (s : State) (h : e.leased = false) :
    s.returnedTime (.here core e key p lam) r = none := by
  simp only [State.returnedTime, Translated.here, h, Bool.false_eq_true, if_false]

/-- An acknowledgement that waits for no lease goes to its thread at once. -/
theorem State.acknowledge_now {s : State} {unit core tid : Nat} {r : Request} (hwho : r.who = .thread tid) :
    s.acknowledge unit core r 0 0 = s.send unit core 2 (ackBody core tid r.wid 0 0) := by
  have hnow (x : W64) : decide ((0 : W64).toNat > x.toNat) = false := decide_eq_false (by simp)
  simp only [State.acknowledge, hwho, Requester.ackTo, hnow, Bool.false_and, Bool.false_eq_true, if_false]

section
variable {s : State} {core tid : Nat} {r : Request} {e : BufEntry} {key : PageKey} {p : Pme} {lam : Nat} (hwho : r.who = .thread tid)
  (hlease : e.leased = false)
include hwho hlease

theorem performAt_write (hkind : r.kind = .write) (hshort : r.data.length < 64) :
    performAt (.here core e key p lam) r (p.byteAt lam) s =
      (State.afterWrite { s with mem := memWrite s.mem (p.byteAt lam) r.data } core (p.byteAt lam) (p.byteAt lam) r.data.length).send core core 2
        (ackBody core tid r.wid 0 0) := by
  simp only [performAt, hkind, Translated.here_returnedTime _ _ _ _ _ hlease, State.writeMem_of_short hshort, Option.getD_none]
  exact State.acknowledge_now hwho

omit hwho hlease

/-- Memory and reservations after an atomic that leaves `new` in its bytes, if it writes. -/
def State.atomicUpdate (s : State) (core : Nat) (r : Request) (a : Nat) (new : Option Nat) : State :=
  match new with
  | some v => ((s.reserve core r (a / 64)).writeMem a (leBytes r.size v)).afterWrite core a a r.size
  | none => s.reserve core r (a / 64)

include hwho hlease

/-- An atomic is performed indivisibly, and its result or its acknowledgement leaves for the thread (R105). -/
theorem performAt_atomic {bs : List Byte} (hkind : r.kind = .atomic) (hread : ∀ who asid hd, s.readClean who asid e hd (p.byteAt lam) r.size = .ok (bs, s))
    {old : W64} (hold : old = BitVec.ofNat 64 (leNat bs)) {x : Option Nat × Bool × BitVec 7}
    (hx : x = atomNew r.op r.ty ((s.port core).holds (.thread tid) (p.byteAt lam / 64)) old r.b r.c) :
    performAt (.here core e key p lam) r (p.byteAt lam) s =
      if r.post then (s.atomicUpdate core r (p.byteAt lam) x.1).send core core 2 (ackBody core tid r.wid 0 0)
      else (s.atomicUpdate core r (p.byteAt lam) x.1).send core core 1 (.result tid old x.2.1 x.2.2 0 r.wid) := by
  subst hold
  subst hx
  have htill (r : Request) (u : State) := Translated.here_returnedTime (core := core) key p lam r u hlease
  simp only [performAt, hkind, htill, Option.getD_none]
  simp only [Translated.here, hread, hwho]
  obtain ⟨who, asid, handle, size, kind, data, op, ty, b, c, post, wid, cond, monitor, lease, trans⟩ := r
  cases hwho
  cases post
  · rfl
  · exact State.acknowledge_now
      (r := ⟨.thread tid, asid, handle, size, .atomic, data, op, ty, b, c, true, wid, cond, monitor, lease, some (.here core e key p lam)⟩) rfl

end

/-! ## Stores (R88, R92) -/

theorem finishU_wait_ne_drain (f : Fields) (s : State) (c : Nat) : (finishU f s).th.wait ≠ .drain c := Wait.noConfusion

/-- The request of a store. -/
def storeRequest (s : State) (h : W64) (bs : List Byte) : Request := { ofThread s h bs.length .write with data := bs }

section
variable {f : Fields} {s : State} {h : W64} {bs : List Byte} {e : BufEntry} {home : Nat}

/-- A store behind its checks: what is left of it is the write. -/
theorem storeTo_of_homedAt (hx : s.homedAt h 1 bs.length e home) (hrel : ordOf f = 2 → s.th.writes = [] ∧ s.th.fwd = []) :
    storeTo f h bs s = postWrite home e (storeRequest s h bs) .store (finishU f) s := by
  obtain ⟨hd, hcheck, rfl, hdead⟩ := hx
  simp only [storeTo, withHome_hit hd, hcheck, hdead, Bool.false_eq_true, if_false]
  exact release_of_nothing (fun h => hrel (of_decide_eq_true h))

/-- A store of at most eight bytes at hand writes them at once (R88, R92). -/
theorem storeTo_of_atHand {a : Nat} (hx : s.atHand h 1 bs.length a) (hshort : bs.length ≤ 8)
    (hrel : ordOf f = 2 → s.th.writes = [] ∧ s.th.fwd = []) :
    ∃ t u w, (s.outstanding w).onlyCounts t ∧ w.id = s.nextId ∧ w.handle = h ∧
      State.onlyWakes { t with mem := memWrite s.mem a bs } u ∧
      storeTo f h bs s = finishU f (u.send s.th.core s.th.core 2 (ackBody s.th.core s.th.tid s.nextId 0 0)) := by
  obtain ⟨e, e', key, p, lam, hd, hcheck, htier, hlease, hlow, hhome, hdead, htrans, hlease', hptier, hpcore, hpwb, rfl, ha, hhold,
    hwalk, hway, -, hrow, -⟩ := hx
  have hpost := storeTo_of_homedAt (f := f) (home := s.th.core) ⟨hd, hcheck, hhome, hdead⟩ hrel
  obtain ⟨t, ht, hserve⟩ := serve_here (s := s.outstanding (SentWrite.toHome s e s.th.core h)) (core := s.th.core) (tid := s.th.tid)
    (r := { storeRequest s h bs with wid := s.nextId }) rfl rfl htrans hptier hpcore hpwb ha hhold hwalk hrow
  have hmem : t.mem = s.mem := by
    obtain ⟨⟨_, _, rfl⟩, -⟩ := ht
    rfl
  rw [postWrite_here htier hlease (fun h => by have := h.2; change 8 < bs.length at this; omega) hway hserve (finishU_wait_ne_drain f)] at hpost
  rw [performAt_write (tid := s.th.tid) rfl hlease' rfl (show bs.length < 64 by omega), hmem] at hpost
  exact ⟨t, _, _, ht, rfl, rfl, State.onlyWakes_afterWrite _ _ _ _ _, hpost⟩

end

/-- Settles O25: a store behind its checks is `postWrite`, which sends the write to its home or has the own port perform it. -/
theorem storesWriteTheirBytes : Obligations.StoresWriteTheirBytes := by
  intro f s h vec op i n bs hm hrel ha halign
  have hlen : bs.length = n := by cases vec <;> exact leBytes_length _ _
  have hexec : exec i s = .next (storeTo f h bs s) := by
    cases vec <;> exact (runOp_mayRun _ hm).trans (congrArg _ (withHandle_ok ha halign))
  rw [hexec, ← hlen]
  refine ⟨fun e home hx htier hdst => ?_, fun a hvec hx => ?_⟩
  · rw [storeTo_of_homedAt hx hrel]
    refine congrArg _ (postWrite_leaves htier ?_ (finishU_wait_ne_drain f))
    refine hdst.imp_right (fun hvec => ⟨rfl, ?_⟩)
    subst hvec
    exact (show 8 < 32 by decide).trans_eq hlen.symm
  · subst hvec
    have hshort : bs.length ≤ 8 := by
      have := width_le (tyOf f)
      change bs.length = width (tyOf f) / 8 at hlen
      omega
    obtain ⟨t, u, w, ht, hid, hhandle, hu, heq⟩ := storeTo_of_atHand hx hshort hrel
    obtain ⟨⟨_, _, rfl⟩, -⟩ := ht
    obtain ⟨⟨_, _, _, _, rfl⟩, ⟨_, _, _, hth⟩, -⟩ := hu
    refine ⟨_, congrArg _ heq, rfl, ?_⟩
    simp only [finishU, State.onTh_th, State.send]
    dsimp only at hth
    subst hth
    exact ⟨rfl, fun hwf x => memByte_memWrite _ _ _ _ hwf, rfl, rfl, rfl, rfl, rfl, rfl, rfl, rfl, _, rfl, hid, hhandle⟩

/-! ## Reservations (R107) -/

theorem lookupBy_map {α : Type} {key : α → Nat} {k : Nat} {dflt : α} (g : α → α) (hkey : ∀ x, key (g x) = key x) (hd : g dflt = dflt) (l : List α) :
    lookupBy key k dflt (l.map g) = g (lookupBy key k dflt l) := by
  induction l with
  | nil => exact hd.symm
  | cons x xs ih =>
    simp only [List.map_cons, lookupBy, hkey]
    split_ifs
    · rfl
    · exact ih

/-- A port without the reservations of a thread. -/
def PortSt.dropResv (tid : Nat) (p : PortSt) : PortSt := { p with resv := p.resv.filter (fun x => x.1 != tid) }

/-- A port with one more reservation; the oldest goes where it is full (R107). -/
def PortSt.addResv (tid unit : Nat) (p : PortSt) : PortSt :=
  { p with resv := (if p.resv.length < 2048 then p.resv else p.resv.drop 1) ++ [(tid, unit)] }

/-- The state without the reservations of a thread. -/
def State.dropResv (s : State) (tid : Nat) : State := { s with ports := s.ports.map (PortSt.dropResv tid) }

theorem State.dropResv_port (s : State) (tid c : Nat) : (s.dropResv tid).port c = (s.port c).dropResv tid :=
  lookupBy_map (PortSt.dropResv tid) (fun _ => rfl) rfl s.ports

theorem PortSt.holds_thread_iff (q : PortSt) (tid unit : Nat) : q.holds (.thread tid) unit = true ↔ (tid, unit) ∈ q.resv := by
  simp [PortSt.holds, Requester.reserver]

theorem PortSt.not_mem_dropResv (q : PortSt) (tid unit : Nat) : (tid, unit) ∉ (q.dropResv tid).resv := by
  simp [PortSt.dropResv]

section
variable {s : State} {core tid : Nat} {r : Request} (hwho : r.who = .thread tid)
include hwho

theorem State.reserve_of_lres (hop : r.op = .lres) (unit : Nat) :
    s.reserve core r unit = (s.dropResv tid).putPort (((s.dropResv tid).port core).addResv tid unit) := by
  simp only [State.reserve, hwho, Requester.reserver, hop]
  rfl

/-- A reserving load reserves its unit. -/
theorem State.holds_reserve_of_lres (hop : r.op = .lres) (unit : Nat) : ((s.reserve core r unit).port core).holds (.thread tid) unit = true := by
  have hput := (s.dropResv tid).port_putPort_eq_ite (x := ((s.dropResv tid).port core).addResv tid unit) (c := core) (d := core) (State.port_id _ core)
  rw [if_pos rfl] at hput
  rw [PortSt.holds_thread_iff, State.reserve_of_lres hwho hop, hput]
  exact List.mem_append_right _ (List.mem_singleton_self _)

theorem State.reserve_of_scond (hop : r.op = .scond) (unit : Nat) : s.reserve core r unit = s.dropResv tid := by
  simp only [State.reserve, hwho, Requester.reserver, hop]
  rfl

theorem State.reserve_ports (unit : Nat) : ∃ ps, s.reserve core r unit = { s with ports := ps } := by
  simp only [State.reserve, hwho, Requester.reserver]
  cases r.op <;> exact ⟨_, rfl⟩

/-- What an atomic leaves unchanged, and the bytes that it writes. -/
theorem State.atomicUpdate_frame {a : Nat} {new : Option Nat} (hsize : r.size < 64) :
    ∃ mem th ths ps net, s.atomicUpdate core r a new = { s with mem := mem, th := th, threads := ths, ports := ps, net := net } ∧
      (new = none → mem = s.mem) ∧ (∀ v, new = some v → mem = memWrite s.mem a (leBytes r.size v)) ∧ s.th.onlyWait th := by
  obtain ⟨ps, hps⟩ := s.reserve_ports (core := core) hwho (a / 64)
  cases new with
  | none => exact ⟨_, _, _, _, _, hps, fun _ => rfl, fun _ h => absurd h.symm (Option.some_ne_none _), s.th.onlyWait_refl⟩
  | some v =>
    simp only [State.atomicUpdate, hps]
    rw [State.writeMem_of_short (by rwa [leBytes_length])]
    obtain ⟨⟨_, _, _, _, hu⟩, hth, -⟩ := State.onlyWakes_afterWrite { s with ports := ps, mem := memWrite s.mem a (leBytes r.size v) } core a a r.size
    rw [hu] at hth ⊢
    exact ⟨_, _, _, _, _, rfl, fun h => absurd h (Option.some_ne_none _), fun _ h => Option.some.inj h ▸ rfl, hth⟩

/-- A store-conditional leaves its thread no reservation. -/
theorem State.atomicUpdate_of_scond (hop : r.op = .scond) {a : Nat} {new : Option Nat} (hsize : r.size < 64) (unit : Nat) :
    ((s.atomicUpdate core r a new).port core).holds (.thread tid) unit = false := by
  rw [Bool.eq_false_iff, ne_eq, PortSt.holds_thread_iff]
  have hnone : (tid, unit) ∉ ((s.dropResv tid).port core).resv := s.dropResv_port tid core ▸ PortSt.not_mem_dropResv _ _ _
  cases new with
  | none => rwa [State.atomicUpdate, State.reserve_of_scond hwho hop]
  | some v =>
    simp only [State.atomicUpdate, State.reserve_of_scond hwho hop]
    rw [State.writeMem_of_short (by rwa [leBytes_length])]
    obtain ⟨-, -, hresv⟩ := State.onlyWakes_afterWrite { s.dropResv tid with mem := memWrite s.mem a (leBytes r.size v) } core a a r.size
    exact fun h => hnone (hresv core _ h)

end

/-! ## Atomics at hand and at another home (R105, R358) -/

/-- The request of an atomic. -/
def atomRequest (op : Nat) (aop : AtomOp) (f : Fields) (h : W64) (s : State) : Request :=
  { ofThread s h (width (tyOf f) / 8) .atomic with
    op := aop, ty := ty5 f, b := atomValue op f 1 s, c := atomValue op f 2 s, post := isPost f }

theorem awaitAnswer_wait_ne_drain (h : W64) (c : Cont) (s : State) (core : Nat) : (awaitAnswer h c s).th.wait ≠ .drain core := Wait.noConfusion

/-- How the thread of an atomic goes on: behind a posted one, or to wait for the result. -/
def atomicEnds (c : Cont) (f : Fields) (h : W64) (s : State) : State := if isPost f then finishU f s else awaitAnswer h c s

theorem atomicEnds_wait_ne_drain (c : Cont) (f : Fields) (h : W64) (s : State) (core : Nat) : (atomicEnds c f h s).th.wait ≠ .drain core := by
  unfold atomicEnds
  split_ifs
  · exact finishU_wait_ne_drain f s core
  · exact awaitAnswer_wait_ne_drain h c s core

/-- The end of an atomic changes its thread alone, and none of its registers. -/
theorem atomicEnds_frame (c : Cont) (f : Fields) (h : W64) (s : State) :
    ∃ th, atomicEnds c f h s = { s with th := th } ∧ th.q = s.th.q ∧ th.n = s.th.n ∧ th.v = s.th.v ∧ th.p = s.th.p ∧ th.fpflags = s.th.fpflags ∧
      (isPost f = true → th.pc = pcAdd s.th.pc (lenBytes f.len) ∧ th.status = s.th.running) ∧
      (isPost f = false → th.pc = s.th.pc ∧ th.status = .waiting) := by
  unfold atomicEnds
  cases isPost f with
  | true => exact ⟨_, rfl, rfl, rfl, rfl, rfl, rfl, fun _ => ⟨rfl, rfl⟩, fun h => Bool.noConfusion h⟩
  | false => exact ⟨_, rfl, rfl, rfl, rfl, rfl, rfl, fun h => Bool.noConfusion h, fun _ => ⟨rfl, rfl⟩⟩

section
variable {op : Nat} {aop : AtomOp} {c : Cont} {f : Fields} {h : W64} {s : State} {e : BufEntry} {home : Nat}

/-- An atomic behind its checks: its request is issued; as a write, where it is posted or its buffer is leased. -/
theorem homeAtomic_of_homedAt (ha : effAddr (src op f 0 s) (disp f) = some h) (halign : offsetOf h % (width (tyOf f) / 8) = 0)
    (hx : s.homedAt h 2 (width (tyOf f) / 8) e home) (htier : e.tier ≤ 1) (hrel : hasRel f = true → s.th.writes = [] ∧ s.th.fwd = []) :
    homeAtomic op aop c f s =
      if isPost f || e.leased then postWrite home e (atomRequest op aop f h s) .atomic (atomicEnds c f h) s
      else issue home e (atomRequest op aop f h s) .atomic (atomicEnds c f h) s := by
  obtain ⟨hd, hcheck, rfl, hdead⟩ := hx
  have h2 : e.tier ≠ 2 := by omega
  have hends : atomicEnds c f h = if isPost f then finishU f else awaitAnswer h c := by
    funext s
    unfold atomicEnds
    split_ifs <;> rfl
  refine (withHandle_ok ha halign).trans ?_
  simp only [withHome_hit hd, h2, if_false, hcheck, hdead, Bool.false_eq_true, hends]
  rw [release_of_nothing hrel]
  rw [atomRequest]
  cases isPost f <;> rfl

theorem homeAtomic_of_other_home (ha : effAddr (src op f 0 s) (disp f) = some h) (halign : offsetOf h % (width (tyOf f) / 8) = 0)
    (hx : s.homedAt h 2 (width (tyOf f) / 8) e home) (htier : e.tier ≤ 1) (hrel : hasRel f = true → s.th.writes = [] ∧ s.th.fwd = [])
    (hhome : home ≠ s.th.core) : homeAtomic op aop c f s = atomicEnds c f h
      (if isPost f || e.leased then s.writeLeaves e home (atomRequest op aop f h s) .atomic
       else s.send s.th.core home 0 (.atomic (atomRequest op aop f h s))) := by
  rw [homeAtomic_of_homedAt ha halign hx htier hrel]
  split_ifs
  · exact postWrite_leaves htier (.inl hhome) (atomicEnds_wait_ne_drain c f h)
  · exact issue_leaves htier (.inl hhome)

/-- An atomic on bytes at hand is performed there at once (R105). -/
theorem homeAtomic_of_atHand {a : Nat} (ha : effAddr (src op f 0 s) (disp f) = some h) (halign : offsetOf h % (width (tyOf f) / 8) = 0)
    (hx : s.atHand h 2 (width (tyOf f) / 8) a) (hrel : hasRel f = true → s.th.writes = [] ∧ s.th.fwd = []) :
    let old := BitVec.ofNat 64 (memNat s.mem a (width (tyOf f) / 8))
    let x := atomNew aop (ty5 f) ((s.port s.th.core).holds (.thread s.th.tid) (a / 64)) old (atomValue op f 1 s) (atomValue op f 2 s)
    ∃ ws nid t r vc body, State.onlyCounts { s with th := { s.th with writes := ws }, nextId := nid } t ∧
      r.who = .thread s.th.tid ∧ r.op = aop ∧ r.size = width (tyOf f) / 8 ∧
      homeAtomic op aop c f s = atomicEnds c f h ((t.atomicUpdate s.th.core r a x.1).send s.th.core s.th.core vc body) ∧
      (isPost f = false → vc = 1 ∧ body = .result s.th.tid old x.2.1 x.2.2 0 0) := by
  obtain ⟨e, e', key, p, lam, hd, hcheck, htier, hlease, hlow, hhome, hdead, htrans, hlease', hptier, hpcore, hpwb, rfl, hcell, hhold, hwalk, hway, -,
    hrow, hpoison⟩ := hx
  intro old x
  rw [homeAtomic_of_homedAt ha halign ⟨hd, hcheck, hhome, hdead⟩ htier hrel, hlease, Bool.or_false]
  have hnarrow (r : Request) (hk : r.kind = .atomic) : ¬ (r.kind = .write ∧ 8 < r.size) := fun hw => by
    have hw := hk.symm.trans hw.1
    exact ReqKind.noConfusion hw
  cases hpost : isPost f with
  | true =>
    obtain ⟨t, ht, hserve⟩ := serve_here (s := s.outstanding (SentWrite.toHome s e s.th.core h)) (core := s.th.core) (tid := s.th.tid)
      (r := { atomRequest op aop f h s with wid := s.nextId }) rfl rfl htrans hptier hpcore hpwb hcell hhold hwalk hrow
    have hx : x = atomNew aop (ty5 f) ((t.port s.th.core).holds (.thread s.th.tid) (p.byteAt lam / 64)) old (atomValue op f 1 s) (atomValue op f 2 s) := by
      rw [ht.holds_eq]
      rfl
    have hread (who : Requester) (asid : Nat) (hd : W64) :
        t.readClean who asid e' hd (p.byteAt lam) (width (tyOf f) / 8) = .ok (memRead s.mem (p.byteAt lam) (width (tyOf f) / 8), t) :=
      ht.readClean (a := p.byteAt lam) (n := width (tyOf f) / 8) hpoison
    rw [performAt_atomic (r := { atomRequest op aop f h s with wid := s.nextId }) rfl hlease' rfl hread rfl hx] at hserve
    exact ⟨_, _, t, _, _, _, ht, rfl, rfl, rfl,
      postWrite_here htier hlease (hnarrow _ rfl) hway (hserve.trans (congrArg some (if_pos hpost))) (atomicEnds_wait_ne_drain c f h),
      fun h => Bool.noConfusion h⟩
  | false =>
    obtain ⟨t, ht, hserve⟩ := serve_here (s := s) (core := s.th.core) (tid := s.th.tid)
      (r := atomRequest op aop f h s) rfl rfl htrans hptier hpcore hpwb hcell hhold hwalk hrow
    have hx : x = atomNew aop (ty5 f) ((t.port s.th.core).holds (.thread s.th.tid) (p.byteAt lam / 64)) old (atomValue op f 1 s) (atomValue op f 2 s) := by
      rw [ht.holds_eq]
    rw [performAt_atomic (r := atomRequest op aop f h s) rfl hlease' rfl (fun _ _ _ => ht.readClean hpoison) rfl hx] at hserve
    exact ⟨s.th.writes, s.nextId, t, _, _, _, ht, rfl, rfl, rfl,
      issue_here htier (hnarrow _ rfl) hway (hserve.trans (congrArg some (if_neg (fun h => Bool.noConfusion (hpost.symm.trans h))))), fun _ => ⟨rfl, rfl⟩⟩

end

/-! ## `WAITC` (R108) -/

/-- The request of a `WAITC`, which arms a monitor. -/
def monitorRequest (f : Fields) (h : W64) (s : State) : Request :=
  { ofThread s h (width (fbits f.func 8 4) / 8) .read with
    monitor := true, ty := BitVec.ofNat 5 (fbits f.func 8 4), cond := BitVec.ofNat 4 (fbits f.func 3 0), b := src 0x65 f 1 s }

theorem fbits_lt (func : BitVec 12) (hi lo : Nat) : fbits func hi lo < 2 ^ (hi - lo + 1) := Nat.mod_lt _ (Nat.two_pow_pos _)

/-- A `WAITC` behind its checks: the thread waits, and its request is issued. -/
theorem execWaitc_of {f : Fields} {s u : State} {h : W64} {e : BufEntry} {home : Nat} (hm : mayRun 0x65 f s = true)
    (ha : effAddr (src 0x65 f 0 s) (disp f) = some h) (halign : offsetOf h % (width (fbits f.func 8 4) / 8) = 0)
    (hx : s.homedAt h 0 (width (fbits f.func 8 4) / 8) e home) (htier : e.tier ≤ 1)
    (hu : issue home e (monitorRequest f h s) .arm (fun s => s) (awaitAnswer h (.monitor (lenBytes f.len)) s) = u)
    (hwait : u.th.wait ≠ .drain s.th.core) : exec (.waitc f) s = .next u := by
  obtain ⟨hd, hcheck, rfl, hdead⟩ := hx
  have h2 : e.tier ≠ 2 := by omega
  rw [monitorRequest] at hu
  refine (runOp_mayRun _ hm).trans (congrArg _ ((withHandle_ok ha halign).trans ?_))
  simp only [withHome_hit hd, h2, if_false, hcheck, hdead, Bool.false_eq_true, hu]
  exact if_neg hwait

section
variable {s : State} {core tid : Nat} {r : Request} {e : BufEntry} {key : PageKey} {p : Pme} {lam : Nat} {bs : List Byte}
  (hwho : r.who = .thread tid) (hkind : r.kind = .read) (hmon : r.monitor = true)
  (hread : ∀ who asid hd, s.readClean who asid e hd (p.byteAt lam) r.size = .ok (bs, s))
  (hheld : heldBytes s (.here core e key p lam) (p.byteAt lam) bs = bs)
include hwho hkind hmon hread hheld

omit hwho hmon in
theorem performAt_monitor : performAt (.here core e key p lam) r (p.byteAt lam) s =
    answerRead (.here core e key p lam) { r with kind := .read, trans := some (.here core e key p lam) } bs s := by
  simp only [performAt, hkind, performRead]
  have h := hread r.who r.asid r.handle
  rw [show (Translated.here core e key p lam).e = e from rfl, h]
  simp only [hheld]

/-- A condition that holds wakes the thread that asks (R108). -/
theorem performAt_monitor_of_met (hmet : condHolds r.cond.toNat r.ty.toNat (BitVec.ofNat 64 (leNat bs)) r.b = true) :
    performAt (.here core e key p lam) r (p.byteAt lam) s = s.send core core 2 (.wake tid 0) := by
  rw [performAt_monitor hkind hread hheld]
  simp only [answerRead, hmon, hwho, hmet, if_true]
  rfl

/-- A condition that does not hold arms a monitor, and the thread parks (R108). -/
theorem performAt_monitor_of_not_met (hmet : condHolds r.cond.toNat r.ty.toNat (BitVec.ofNat 64 (leNat bs)) r.b = false)
    (hroom : (s.port core).monitors.length < 4096) :
    performAt (.here core e key p lam) r (p.byteAt lam) s =
      (s.putPort { s.port core with monitors := (s.port core).monitors ++ [⟨tid, core, p.byteAt lam, key, r.ty, r.cond, r.b⟩] }).mapThreads
        (fun t => if t.tid = tid then t.parkMonitor core else t) := by
  have hnot : ¬ (s.port core).monitors.length ≥ 4096 := by omega
  rw [performAt_monitor hkind hread hheld]
  simp only [answerRead, hmon, hwho, hmet, if_true, Bool.false_eq_true, if_false]
  exact if_neg hnot

end

/-- A `WAITC` on bytes at hand is woken at once, or parks with a monitor (R108). -/
theorem execWaitc_of_atHand {f : Fields} {s : State} {h : W64} {a : Nat} (htid : s.th.tid ≠ 0) (hm : mayRun 0x65 f s = true)
    (ha : effAddr (src 0x65 f 0 s) (disp f) = some h) (halign : offsetOf h % (width (fbits f.func 8 4) / 8) = 0)
    (hx : s.atHand h 0 (width (fbits f.func 8 4) / 8) a) (hroom : (s.port s.th.core).monitors.length < 4096) :
    let met := condHolds (fbits f.func 3 0) (fbits f.func 8 4) (BitVec.ofNat 64 (memNat s.mem a (width (fbits f.func 8 4) / 8))) (src 0x65 f 1 s)
    ∃ t : State, exec (.waitc f) s = .next t ∧ t.mem = s.mem ∧ t.th.pc = s.th.pc ∧
      (met = true → t.th.status = .waiting ∧ ⟨s.th.core, s.th.core, 2, false, .wake s.th.tid 0, .moving⟩ ∈ t.net) ∧
      (met = false → t.th.status = .parkedMonitor ∧
        ∃ m ∈ (t.port s.th.core).monitors, m.tid = s.th.tid ∧ m.cell = a ∧ m.value = src 0x65 f 1 s) := by
  obtain ⟨e, e', key, p, lam, hd, hcheck, htier, hlease, hlow, hhome, hdead, htrans, hlease', hptier, hpcore, hpwb, rfl, hcell, hhold, hwalk, hway, hwb,
    hrow, hpoison⟩ := hx
  intro met
  obtain ⟨t, ht, hserve⟩ := serve_here (s := awaitAnswer h (.monitor (lenBytes f.len)) s) (core := s.th.core) (tid := s.th.tid)
    (r := monitorRequest f h s) rfl rfl htrans hptier hpcore hpwb hcell hhold hwalk hrow
  have hread (who : Requester) (asid : Nat) (hd : W64) : t.readClean who asid e' hd (p.byteAt lam) (width (fbits f.func 8 4) / 8) =
      .ok (memRead s.mem (p.byteAt lam) (width (fbits f.func 8 4) / 8), t) :=
    ht.readClean (a := p.byteAt lam) (n := width (fbits f.func 8 4) / 8) hpoison
  have hheld {bs : List Byte} := ht.heldBytes (x := .here s.th.core e' key p lam) (a := p.byteAt lam) (bs := bs) hwb
  have hroom' : (t.port s.th.core).monitors.length < 4096 := by
    rw [ht.monitors_eq]
    exact hroom
  have hcond : (BitVec.ofNat 4 (fbits f.func 3 0)).toNat = fbits f.func 3 0 := (BitVec.toNat_ofNat _ _).trans (Nat.mod_eq_of_lt (fbits_lt f.func 3 0))
  have hty : (BitVec.ofNat 5 (fbits f.func 8 4)).toNat = fbits f.func 8 4 := (BitVec.toNat_ofNat _ _).trans (Nat.mod_eq_of_lt (fbits_lt f.func 8 4))
  have hmet : condHolds (monitorRequest f h s).cond.toNat (monitorRequest f h s).ty.toNat
      (BitVec.ofNat 64 (leNat (memRead s.mem (p.byteAt lam) (width (fbits f.func 8 4) / 8)))) (monitorRequest f h s).b = met := by
    rw [monitorRequest, hcond, hty]
    rfl
  have hexec {u : State} (hu : serve s.th.core s.th.core (monitorRequest f h s) (awaitAnswer h (.monitor (lenBytes f.len)) s) = some u)
      (hwait : u.th.wait ≠ .drain s.th.core) : exec (.waitc f) s = .next u :=
    execWaitc_of hm ha halign ⟨hd, hcheck, hhome, hdead⟩ htier
      (issue_here (s := awaitAnswer h (.monitor (lenBytes f.len)) s) htier (fun h => ReqKind.noConfusion h.1) hway hu) hwait
  cases hval : met with
  | true =>
    rw [performAt_monitor_of_met (r := monitorRequest f h s) rfl rfl rfl hread hheld (hmet.trans hval)] at hserve
    obtain ⟨⟨_, _, rfl⟩, -⟩ := ht
    exact ⟨_, hexec hserve Wait.noConfusion, rfl, rfl, fun _ => ⟨rfl, List.mem_append_right _ (List.mem_singleton_self _)⟩, fun h => Bool.noConfusion h⟩
  | false =>
    rw [performAt_monitor_of_not_met (r := monitorRequest f h s) rfl rfl rfl hread hheld (hmet.trans hval) hroom'] at hserve
    have hput := t.port_putPort_eq_ite (x := { t.port s.th.core with monitors := (t.port s.th.core).monitors ++
        [⟨s.th.tid, s.th.core, p.byteAt lam, key, (monitorRequest f h s).ty, (monitorRequest f h s).cond, (monitorRequest f h s).b⟩] })
      (c := s.th.core) (d := s.th.core) (t.port_id _)
    rw [if_pos rfl] at hput
    obtain ⟨⟨ps, ds, hps⟩, -⟩ := ht
    have hth : t.th = (awaitAnswer h (.monitor (lenBytes f.len)) s).th := by rw [hps]
    have hpark : (t.mapThreads (fun u => if u.tid = s.th.tid then u.parkMonitor s.th.core else u)).th =
        (awaitAnswer h (.monitor (lenBytes f.len)) s).th.parkMonitor s.th.core := by
      rw [State.mapThreads, hth]
      exact (if_neg htid).trans (if_pos rfl)
    refine ⟨_, hexec hserve ?_, ?_, ?_, fun h => Bool.noConfusion h, fun _ => ⟨?_, ?_⟩⟩
    · exact fun h => Wait.noConfusion ((congrArg Thread.wait hpark).symm.trans h)
    · exact hps ▸ rfl
    · exact (congrArg Thread.pc hpark :)
    · exact (congrArg Thread.status hpark :)
    · refine ⟨⟨s.th.tid, s.th.core, p.byteAt lam, key, (monitorRequest f h s).ty, (monitorRequest f h s).cond, (monitorRequest f h s).b⟩, ?_,
        rfl, rfl, rfl⟩
      exact (congrArg (_ ∈ PortSt.monitors ·) hput).mpr (List.mem_append_right _ (List.mem_singleton_self _))

/-- Settles O30: behind the checks the request of each is issued, and one for bytes at hand is performed by the port at once. -/
theorem atomicsAtHand : Obligations.AtomicsAtHand := by
  intro f s i op aop h a n core length htid hm ha
  refine ⟨?_, ?_⟩
  · intro hi hlocal hrel halign asks
    have hexec : exec i s = .next (homeAtomic op aop (if op = 0x64 then .scond (pDst f) length else .atomic f.dst (ty5 f) length) f s) := by
      simp only [List.mem_cons, Prod.mk.injEq, List.not_mem_nil, or_false] at hi
      rcases hi with ⟨rfl, rfl, rfl⟩ | ⟨rfl, rfl, rfl⟩ | ⟨rfl, rfl, rfl⟩ | ⟨rfl, rfl, rfl⟩ | ⟨rfl, rfl, rfl⟩
      · exact (runOp_mayRun _ hm).trans (congrArg _ (if_neg (Bool.eq_false_iff.mp (hlocal (by decide)))))
      · exact (runOp_mayRun _ hm).trans (congrArg _ (if_neg (Bool.eq_false_iff.mp (hlocal (by decide)))))
      · exact (runOp_mayRun _ hm).trans (congrArg _ (if_neg (Bool.eq_false_iff.mp (hlocal (by decide)))))
      · exact runOp_mayRun _ hm
      · exact runOp_mayRun _ hm
    refine ⟨?_, ?_⟩
    · intro e home hx htier hhome waits leaves
      rw [hexec, homeAtomic_of_other_home ha halign hx htier hrel hhome]
      refine ⟨fun hpost => ?_, fun hpost => ?_⟩
      · rw [atomicEnds, hpost, Bool.false_or]
        rfl
      · rw [atomicEnds, hpost]
        rfl
    · intro hx old r
      obtain ⟨ws, nid, t, r', vc, body, ht, hwho, hop, hsize, heq, hbody⟩ := homeAtomic_of_atHand (aop := aop)
        (c := if op = 0x64 then .scond (pDst f) length else .atomic f.dst (ty5 f) length) ha halign hx hrel
      have hshort : r'.size < 64 := by
        have := width_le (tyOf f)
        omega
      have hlres : op = 0x63 → ((t.atomicUpdate core r' a r.1).port core).holds (.thread s.th.tid) (a / 64) = true := by
        intro h63
        obtain ⟨-, rfl⟩ : i = .lres f ∧ aop = .lres := by simpa [h63] using hi
        exact State.holds_reserve_of_lres hwho hop _
      have hscond : op = 0x64 → ∀ u, ((t.atomicUpdate core r' a r.1).port core).holds (.thread s.th.tid) u = false := by
        intro h64
        obtain ⟨-, rfl⟩ : i = .scond f ∧ aop = .scond := by simpa [h64] using hi
        exact State.atomicUpdate_of_scond hwho hop hshort
      obtain ⟨mem, th, ths, ps, net, hu, hnone, hsome, st, w, since, hth⟩ := State.atomicUpdate_frame (s := t) (core := core) (a := a) (new := r.1) hwho hshort
      obtain ⟨⟨_, _, rfl⟩, -⟩ := ht
      rw [hu] at hlres hscond heq
      rw [hsize] at hsome
      obtain ⟨th', hends, hq, hn, hv, hp, hfl, hgo, hstay⟩ := atomicEnds_frame (if op = 0x64 then .scond (pDst f) length else .atomic f.dst (ty5 f) length) f h _
      rw [heq, hends] at hexec
      rw [hth] at hq hn hv hp hfl hgo hstay
      refine ⟨_, hexec, rfl, rfl, rfl, hq, hn, hv, hp, hfl, hnone, fun v hval => ⟨hsome v hval, fun hwf x => ?_⟩, hgo, ?_, hlres, hscond⟩
      · have hbyte := memByte_memWrite s.mem a x (leBytes n v) hwf
        rw [leBytes_length] at hbyte
        exact (congrArg (memByte · x) (hsome v hval)).trans hbyte
      · intro hpost
        obtain ⟨hpc, hst⟩ := hstay hpost
        obtain ⟨rfl, rfl⟩ := hbody hpost
        exact ⟨hpc, hst, List.mem_append_right _ (List.mem_singleton_self _)⟩
  · rintro rfl rfl ty k met halign
    refine ⟨fun e home hx htier hhome => ?_, fun hx hroom => execWaitc_of_atHand htid hm ha halign hx hroom⟩
    exact execWaitc_of hm ha halign hx htier (issue_leaves htier (.inl hhome)) Wait.noConfusion

/-! ## Credits (R98, R99, R296) -/

/-- A record that a list holds under its key is found there after it has been replaced. -/
theorem find?_map_replace {α : Type} {β : Type} [DecidableEq β] {key : α → β} {l : List α} {i : β} {b b' : α}
    (h : l.find? (fun x => key x == i) = some b) (hb : key b' = i) :
    (l.map (fun x => if key x = key b' then b' else x)).find? (fun x => key x == i) = some b' := by
  subst hb
  induction l with
  | nil => exact absurd h.symm (Option.some_ne_none _)
  | cons x xs ih =>
    by_cases hx : key x = key b'
    · rw [List.map_cons, if_pos hx]
      exact List.find?_cons_of_pos (beq_self_eq_true _)
    · have hne : ¬ (key x == key b') = true := fun h => hx (beq_iff_eq.mp h)
      have htail {ys : List α} : (x :: ys).find? (fun e => key e == key b') = ys.find? (fun e => key e == key b') :=
        List.find?_cons_of_neg hne
      rw [List.map_cons, if_neg hx, htail]
      exact ih (htail.symm.trans h)

theorem CoreSt.desc_of_credit? {c : CoreSt} {d : W64} {e : CreditEntry} (h : c.credit? d = some e) : e.desc = d :=
  beq_iff_eq.mp (List.find?_some h :)

/-- An entry put into the credit table is found there. -/
theorem CoreSt.credit?_putCredit {c : CoreSt} {d : W64} {e e' : CreditEntry} (h : c.credit? d = some e) (hd : e'.desc = d) :
    (c.putCredit e').credit? d = some e' := find?_map_replace (key := CreditEntry.desc) h hd

theorem State.core_putCore_of_id (s : State) {x : CoreSt} {c : Nat} (h : x.id = c) : (s.putCore x).core c = x := h ▸ s.core_putCore x

theorem State.credit?_putCore_putCredit {s : State} {c : Nat} {d : W64} {e e' : CreditEntry} (h : (s.core c).credit? d = some e) (hd : e'.desc = d) :
    ((s.putCore ((s.core c).putCredit e')).core c).credit? d = some e' := by
  rw [s.core_putCore_of_id (x := (s.core c).putCredit e') (s.core_id c)]
  exact CoreSt.credit?_putCredit h hd

/-! ## Banks (R100-R103) -/

theorem PlazaSt.mode_setMode (p : PlazaSt) (bank b : Nat) (m : BankMode) : (p.setMode bank m).mode b = if b = bank then m else p.mode b := by
  have hfilter (hne : b ≠ bank) : (p.banks.filter (fun x => x.1 != bank)).find? (fun x => x.1 == b) = p.banks.find? (fun x => x.1 == b) := by
    rw [List.find?_filter]
    refine congrArg (List.find? · p.banks) (funext fun x => ?_)
    by_cases hx : x.1 = b <;> simp [hx, hne]
  have hnone : (p.banks.filter (fun x => x.1 != bank)).find? (fun x => x.1 == bank) = none := by simp
  split_ifs with h
  · subst h
    simp only [PlazaSt.mode, PlazaSt.setMode, List.find?_append, hnone]
    split_ifs with hm
    · exact hm.symm
    · simp
  · have hlast : (if m = .scratch then [] else [(bank, m)]).find? (fun x => x.1 == b) = none := by
      split_ifs
      · rfl
      · simp [Ne.symm h]
    simp only [PlazaSt.mode, PlazaSt.setMode, List.find?_append, hfilter h, hlast, Option.or_none]

/-- A plaza with the stage of one bank set. -/
def PlazaSt.putStage (p : PlazaSt) (bank : Nat) (st : Option (Nat × BankStage)) : PlazaSt :=
  { p with stages := p.stages.filter (fun x => x.1 != bank) ++ (match st with | some x => [(bank, x)] | none => []) }

theorem PlazaSt.stage?_putStage (p : PlazaSt) (bank : Nat) (x : Nat × BankStage) : (p.putStage bank (some x)).stage? bank = some x := by
  have hnone : (p.stages.filter (fun x => x.1 != bank)).find? (fun x => x.1 == bank) = none := by simp
  simp only [PlazaSt.stage?, PlazaSt.putStage, List.find?_append, hnone]
  simp

theorem State.plaza_setBank (s : State) (plaza bank : Nat) (m : BankMode) : (s.setBank plaza bank m).plaza plaza = (s.plaza plaza).setMode bank m :=
  s.plaza_putPlaza_of_id (x := (s.plaza plaza).setMode bank m) (s.plaza_id plaza)

theorem State.plaza_setStage (s : State) (plaza bank : Nat) (st : Option (Nat × BankStage)) :
    (s.setStage plaza bank st).plaza plaza = (s.plaza plaza).putStage bank st :=
  s.plaza_putPlaza_of_id (x := (s.plaza plaza).putStage bank st) (s.plaza_id plaza)

/-! ## `QCNT.FILL` of a bank outside the allocation (R102, R103) -/

/-- `QCNT.FILL` of the bank in N2. -/
def countFill : Fields := ⟨.l64, ⟨false, 0⟩, .n 1, .n 2, .q 0, .q 0, 0, 0, 0⟩

/-- A thread of a workgroup that has bank 0 alone; its N2 names bank 1, which is in scratch mode. -/
def bankOutside : State :=
  { State.reset with
    th := { Thread.blank with tid := 1, place := .slot 0, status := .ready, nbud := 32, localLen := 0x8000, n := Thread.blank.n.set 2 1 }
    wgs := [{ Workgroup.blank with wid := 1, wgsize := 1, nbud := 32, localLen := 0x8000 }] }

/-- A bank outside the allocation is no bank of the thread's: 0x04 (R102). -/
theorem execQcnt_outside {f : Fields} {s : State} (hm : mayRun 0x58 f s = true) (hsel : fbits f.func 1 0 ≠ 1)
    (hplaza : plazaOf s.th.core = plazaOf s.th.anchor) (hout : bankInside s ((src 0x58 f 0 s).toNat % 256) = false) :
    exec (.qcnt f) s = .next (raise 0x04 0 s) := by
  refine (runOp_mayRun _ hm).trans (congrArg _ ?_)
  simp only [if_neg hsel]
  exact (if_pos hplaza).trans (if_neg (Bool.eq_false_iff.mp hout))

theorem raise_bankOutside_ne : raise 0x04 0 bankOutside ≠ finishQ countFill 0 bankOutside := by
  have hcause : (raise 0x04 0 bankOutside).th.cause ≠ (finishQ countFill 0 bankOutside).th.cause := by decide +kernel
  exact fun h => hcause (congrArg (fun t : State => t.th.cause) h)

/-- Refutes O28: its clause for `QCNT.FILL` of a scratch bank leaves out that the bank lies in the allocation. Of a bank outside it, which reads as
scratch all the same, the instruction takes the fault 0x04 and does not push 0. -/
theorem not_queueAndBankInstructions : ¬ Obligations.QueueAndBankInstructions := by
  rintro ⟨hqueue, -⟩
  obtain ⟨-, hcount⟩ := hqueue countFill bankOutside
  have hm : mayRun 0x58 countFill bankOutside = true := by decide +kernel
  obtain ⟨-, -, hfill⟩ := hcount hm
  have hzero : exec (.qcnt countFill) bankOutside = .next (finishQ countFill 0 bankOutside) := hfill (by decide) (by decide +kernel)
  exact raise_bankOutside_ne (Host.Outcome.next.inj ((execQcnt_outside hm (by decide) rfl (by decide +kernel)).symm.trans hzero))

/-! ## Events where no core is saving (R210) -/

theorem State.eq_of_take {s s1 : State} {k : Nat} {m : Msg} (h : s.take k = some (m, s1)) : s1 = { s with net := s.net.eraseIdx k } := by
  unfold State.take at h
  split at h
  · split_ifs at h
    obtain ⟨-, rfl⟩ := Prod.mk.inj (Option.some.inj h)
    rfl
  · exact absurd h.symm (Option.some_ne_none _)

/-- Where no core is saving, none saves after an event that leaves the gangs as they are and whose messages are on their way. -/
theorem State.savesNothing_of_sends {s u : State} (hs : s.savesNothing) (hg : u.gs.gangs = s.gs.gangs)
    (hn : ∀ m ∈ u.net, m ∈ s.net ∨ m.spot = .moving) : u.savesNothing := by
  obtain ⟨hgangs, hnet⟩ := hs
  refine ⟨fun g hmem => hgangs g (hg ▸ hmem), fun m hmem launch gang => ?_⟩
  obtain h | h := hn m hmem
  · exact hnet m h launch gang
  · simp [Msg.savesGuests, h]

/-- The state after an event that takes a message out and sends others is the next state as it stands. -/
theorem settled_of_take {s s1 u : State} {k : Nat} {m : Msg} {sent : List Msg} (hs : s.savesNothing) (ht : s.take k = some (m, s1))
    (hg : u.gs.gangs = s1.gs.gangs) (hn : u.net = s1.net ++ sent) (hsent : ∀ m ∈ sent, m.spot = .moving) : settled u = .next u := by
  obtain rfl := State.eq_of_take ht
  refine settled_of_savesNothing u (State.savesNothing_of_sends hs hg fun x hx => ?_)
  rw [hn] at hx
  exact (List.mem_append.mp hx).imp List.mem_of_mem_eraseIdx (hsent x)

theorem settled_of_quiet {s s1 u : State} {k : Nat} {m : Msg} (hs : s.savesNothing) (ht : s.take k = some (m, s1)) (hg : u.gs = s1.gs)
    (hn : u.net = s1.net) : settled u = .next u :=
  settled_of_take (sent := []) hs ht (congrArg Scheduler.gangs hg) (hn.trans (List.append_nil _).symm) (fun _ h => absurd h List.not_mem_nil)

theorem settled_putThread {s s1 : State} {k : Nat} {m : Msg} (hs : s.savesNothing) (ht : s.take k = some (m, s1)) (t : Thread) :
    settled (s1.putThread t) = .next (s1.putThread t) :=
  settled_of_quiet hs ht (s1.putThread_gs t) (s1.putThread_net t)

/-! ## Answers at a thread (R89, R91, R105, R107, R385, R389) -/

theorem fillLine_of_no_fill {core fill : Nat} {bytes : List Byte} {stop : W64} {s : State} (h : (s.core core).fills = []) :
    fillLine core fill bytes stop s = s := by
  simp only [fillLine, h, List.find?_nil]

theorem accessBytes_of_length {h : W64} {n : Nat} {bs : List Byte} (hn : bs.length = n) : accessBytes h n bs = bs :=
  if_neg (by omega)

theorem vset_fin {α : Type} {n : Nat} (v : Vector α n) (i : Fin n) (x : α) : vset v i.val x = v.set i x := by
  simp [vset]

/-- How a thread goes on behind its instruction, where its registers alone have changed. -/
theorem State.resume_next (s : State) {t x : Thread} (hpc : x.pc = t.pc) (hhnd : x.hnd = t.hnd) (hcore : x.core = t.core) (len : Nat) :
    s.resume (x.next len) = s.putThread { x with
      pc := pcAdd t.pc len, status := t.running, wait := .none, badIndex := none, images := [], got := []
      since := (s.core t.core).ccnt.toNat + 1 } := by
  simp only [State.resume, Thread.next, Thread.running, hpc, hhnd, hcore]

section
variable {s s1 : State} {k tid : Nat} {m : Msg} {t : Thread} {c : Cont}

theorem core_of_waiter (h : s.waiter tid m.dst = some (t, c)) : t.core = m.dst ∧ t.wait = .answer c ∧ s.thread? tid = some t := by
  unfold State.waiter at h
  split at h
  · exact absurd h.symm (Option.some_ne_none _)
  next u hu =>
    split at h
    next c' hc =>
      split_ifs at h with hcore
      obtain ⟨rfl, rfl⟩ := Prod.mk.inj (Option.some.inj h)
      exact ⟨hcore.1, hc, hu⟩
    · exact absurd h.symm (Option.some_ne_none _)

variable (ht : s.take k = some (m, s1)) (hw : s1.waiter tid m.dst = some (t, c)) (hlate : t.late = none)
include ht hw

include hlate in
/-- Read data reach the thread that waits for them. -/
theorem execReadData_of_waiter {fill code : Nat} {bs : List Byte} {stop : W64} (hfills : (s1.core t.core).fills = [])
    (hb : m.body = .data tid fill bs stop code) : exec (.readData k) s = settled (dataArrives t c bs code s1) := by
  obtain ⟨hcore, -, hthread⟩ := core_of_waiter hw
  have hnone : s1.lateAt tid m.dst = none := by
    simp only [State.lateAt, hthread, hcore, if_true, hlate, Option.map_none]
  change execReadData k s = _
  simp only [execReadData, ht, hb]
  rw [fillLine_of_no_fill (hcore ▸ hfills)]
  simp only [loadArrives, hnone, hw]

theorem execAtomicResult_of_waiter {old : W64} {ok : Bool} {fl : BitVec 7} {code wid : Nat} (hb : m.body = .result tid old ok fl code wid) :
    exec (.atomicResult k) s = settled (resultArrives t c old ok fl code wid s1) := by
  change execAtomicResult k s = _
  simp only [execAtomicResult, ht, hb, hw]

theorem execBoardReply_of_waiter {v : View} {x : W64} {level : Nat} (hb : m.body = .boardReply tid v x level) (hdst : c.dst = .queue) :
    exec (.boardReply k) s = settled (s1.resume (c.finishBoard v x level t)) := by
  change execBoardReply k s = _
  simp only [execBoardReply, ht, hb, hw, hdst]
  rfl

end

/-- Settles O47: each answer reaches the thread that `State.waiter` finds, and the end of the instruction is a `putThread`. -/
theorem answerEvents : Obligations.AnswerEvents := by
  refine ⟨fun s s1 k tid fill m t c ht hw hs hlate => ?_, ?_⟩
  · have hend (x : Thread) : settled (s1.putThread x) = .next (s1.putThread x) := settled_putThread hs ht x
    refine ⟨fun r ty len bs hfills hb hc hlen => ?_, fun r ty b len bs hfills hb hc hlen => ?_, fun bs stop code hfills hb hcode => ?_,
      fun ty len old ok fl wid hb hc => ?_, fun p len old ok fl wid hb hc => ?_, fun p len ok hb hc => ?_, fun vm len v x level hb hc => ?_,
      fun vm len v x level hb hc hst => ?_, fun len nap htid hb hc hplace hst => ?_⟩
    · subst hc
      rw [execReadData_of_waiter ht hw hlate hfills hb, dataArrives, if_neg (not_not.mpr rfl)]
      simp only [accessBytes_of_length (n := (Cont.load (.n r) ty len).size) hlen, Cont.dst, State.writeWOf]
      rw [Cont.finish, s1.resume_next (t := t) (by simp) (by simp) (by simp)]
      simp only [Thread.setDst, Thread.setN, Thread.push]
      exact hend _
    · subst hc
      rw [execReadData_of_waiter ht hw hlate hfills hb, dataArrives, if_neg (not_not.mpr rfl)]
      simp only [accessBytes_of_length (n := (Cont.vload r ty b len).size) hlen, Cont.dst, State.writeWOf]
      rw [Cont.finish, s1.resume_next (t := t) (by simp) (by simp) (by simp)]
      simp only [Thread.setV]
      exact hend _
    · rw [execReadData_of_waiter ht hw hlate hfills hb]
      exact congrArg settled (if_pos hcode)
    · subst hc
      rw [execAtomicResult_of_waiter ht hw hb, resultArrives, if_neg (not_not.mpr rfl)]
      simp only [Cont.dst, State.writeWOf]
      rw [Cont.finishAtomic, s1.resume_next (t := t) (by simp) (by simp) (by simp)]
      simp only [Thread.flag, Thread.setDst, Thread.push]
      exact hend _
    · subst hc
      have hresume : resultArrives t (.scond p len) old ok fl 0 wid s1 = s1.resume ((t.setP p ok).next len) := rfl
      rw [execAtomicResult_of_waiter ht hw hb, hresume]
      rw [s1.resume_next (t := t) (by simp) (by simp) (by simp)]
      exact hend _
    · subst hc
      have hexec : exec (.barrierRelease k) s = settled (s1.resume ((t.setP p ok).next len)) := by
        change execBarrierRelease k s = _
        simp only [execBarrierRelease, ht, hb, hw]
      rw [hexec]
      rw [s1.resume_next (t := t) (by simp) (by simp) (by simp)]
      exact hend _
    · subst hc
      rw [execBoardReply_of_waiter ht hw hb rfl]
      simp only [Cont.finishBoard, Thread.setView, vset_fin]
      rw [s1.resume_next (t := t) (by simp) (by simp) (by simp)]
      simp only [Thread.setDst, Thread.push]
      exact hend _
    · subst hc
      rw [execBoardReply_of_waiter ht hw hb rfl]
      have hok : ¬ v.status.toNat ≥ 2 := by omega
      simp only [Cont.finishBoard, hok, if_false]
      rw [s1.resume_next (t := t) (by simp) (by simp) (by simp)]
      simp only [Thread.setDst, Thread.push]
      exact hend _
    · subst hc
      obtain ⟨hcore, hwait, hthread⟩ := core_of_waiter hw
      have hexec : exec (.wake k) s = settled (wakeMonitor t len s1) := by
        change execWake k s = _
        have hnot : ¬ (512 ≤ m.dst ∧ 2 ^ 64 ≤ tid) := by omega
        have hhere : ¬ (t.core ≠ m.dst ∨ t.status = .saved ∨ t.status = .exited) := by simp [hcore, hst]
        simp only [execWake, ht, hb, wakeArrives, hthread, hwait]
        rw [if_neg hnot, if_neg hhere]
      have hresume : wakeMonitor t len s1 = s1.resume (t.next len) := by
        unfold wakeMonitor
        split
        next r e hplace' => exact absurd hplace' (hplace r e)
        · rfl
      rw [hexec, hresume]
      rw [s1.resume_next (t := t) rfl rfl rfl]
      exact hend _
  · intro s s1 k tid fill m t l bs ht hs hl hwait hfills hb r ty len hc hlen
    change execReadData k s = _
    simp only [execReadData, ht, hb]
    rw [fillLine_of_no_fill hfills]
    simp only [loadArrives, hl, lateArrives, if_neg hwait]
    rw [if_neg (not_not.mpr rfl), hc, accessBytes_of_length (n := (Cont.load (.n r) ty len).size) hlen, Late.fill, hc]
    exact settled_putThread hs ht _

/-! ## A bank that changes to scratch or cache (R100, R101) -/

/-- A bank that changes to scratch or cache sends nothing; it has its new mode, and its `BANKM` has nothing left to do. -/
theorem changeBank_of_no_fifo (s : State) (tid plaza bank : Nat) {next : BankMode} (hnext : next = .scratch ∨ next = .cache) :
    ∃ u, changeBank tid plaza bank next s = u ∧ (∃ cs ps lm, u = { s with cores := cs, plazas := ps, lmem := lm }) ∧
      (u.plaza plaza).mode bank = next ∧ (u.plaza plaza).stage? bank = some (tid, .done) := by
  have hdrop : ∃ cs, (if (s.plaza plaza).mode bank = .cache then dropWay plaza bank s else s) = { s with cores := cs } := by
    split_ifs <;> exact ⟨_, rfl⟩
  obtain ⟨cs, hcs⟩ := hdrop
  refine ⟨_, rfl, ?_⟩
  obtain rfl | rfl := hnext
  · simp only [changeBank, hcs, State.plaza_setStage, State.plaza_setBank]
    exact ⟨⟨_, _, _, rfl⟩, (PlazaSt.mode_setMode _ _ _ _).trans (if_pos rfl), PlazaSt.stage?_putStage _ _ _⟩
  · simp only [changeBank, hcs, State.plaza_setStage, State.plaza_setBank]
    exact ⟨⟨_, _, _, rfl⟩, (PlazaSt.mode_setMode _ _ _ _).trans (if_pos rfl), PlazaSt.stage?_putStage _ _ _⟩

/-! ## Writes (R88, R89) -/

/-- A thread that does not wait is not retried. -/
theorem State.retryWrites_of_thread {s : State} {tid : Nat} {t : Thread} (h : s.thread? tid = some t)
    (hst : t.status ≠ .waiting ∧ t.status ≠ .parkedFault) : s.retryWrites tid = s := by
  obtain ⟨hw, hp⟩ := hst
  simp only [State.retryWrites, h]
  exact if_neg (fun hc => hc.2.1.elim hw hp)

/-- A thread that has not exited is not reaped. -/
theorem State.thread?_reap {s : State} {tid : Nat} {t : Thread} (h : s.thread? tid = some t) (hst : t.status ≠ .exited) :
    (s.reap tid).thread? tid = some t := by
  unfold State.thread? at h ⊢
  change (if s.th.tid = tid then some s.th else (s.threads.filter _).find? _) = _
  split_ifs at h ⊢
  · exact h
  · obtain ⟨htid, before, after, hsplit, hbefore⟩ := List.find?_eq_some_iff_append.mp h
    rw [List.find?_filter]
    refine List.find?_eq_some_iff_append.mpr ⟨?_, before, after, hsplit, fun x hx => ?_⟩
    · simp [hst, beq_iff_eq.mp htid]
    · have hne := hbefore x hx
      simp only [Bool.not_eq_true', beq_eq_false_iff_ne] at hne
      simp [hne]

theorem State.tid_of_thread? {s : State} {tid : Nat} {t : Thread} (h : s.thread? tid = some t) : t.tid = tid := by
  unfold State.thread? at h
  split_ifs at h with hth
  · obtain rfl := Option.some.inj h
    exact hth
  · exact beq_iff_eq.mp (List.find?_some h :)

/-- The writes of a thread that goes on change, and nothing else. -/
theorem retry_reap_of_ready {s : State} {tid : Nat} {t : Thread} (ht : t.tid = tid) (hst : t.status = .ready) :
    ∃ u, ((s.putThread t).retryWrites tid).reap tid = u ∧ u.thread? tid = some t ∧ ∃ th ths, u = { s with th := th, threads := ths } := by
  subst ht
  have hput := s.thread?_putThread t
  rw [State.retryWrites_of_thread hput (by simp [hst])]
  refine ⟨_, rfl, State.thread?_reap hput (by simp [hst]), ?_⟩
  unfold State.putThread
  split_ifs <;> exact ⟨_, _, rfl⟩

theorem find?_of_mem_id {ws : List SentWrite} {w : SentWrite} (h : w ∈ ws) : ∃ w', ws.find? (fun x => x.id == w.id) = some w' :=
  Option.isSome_iff_exists.mp (List.find?_isSome.mpr ⟨w, h, beq_self_eq_true _⟩)

section
variable {s : State} {core tid wid : Nat} {t : Thread} {w : SentWrite} (ht : s.thread? tid = some t)
include ht

/-- An acknowledged write of a thread that goes on is complete (R88). -/
theorem ackArrives_ok (hw : t.writes.find? (fun x => x.id == wid) = some w) :
    ackArrives core tid wid 0 0 s = ((s.putThread { t with writes := t.writes.filter (fun x => x.id != wid) }).retryWrites tid).reap tid := by
  have hnow : decide ((s.dtcOf (dieOf core)).toNat < (0 : W64).toNat) = false := decide_eq_false (by simp)
  simp only [ackArrives, ht, hw, if_true, hnow, Bool.and_false, Bool.false_eq_true, if_false]

/-- A failed write is kept with its code (R89). -/
theorem ackArrives_failed {code : Nat} (hw : t.writes.find? (fun x => x.id == wid) = some w) (hcode : code ≠ 0) (hst : t.status = .ready)
    (hcore : w.core = t.core) : ackArrives core tid wid 0 code s =
      s.putThread { t with writes := t.writes.map (fun x => if x.id = wid then { x with state := .failed code } else x) } := by
  have hexited : t.status ≠ .exited := by simp [hst]
  have hhere : ¬ (t.core ≠ w.core ∨ t.status = .outbound) := by simp [hst, hcore]
  simp only [ackArrives, ht, hw, if_neg hcode, if_neg hexited, if_neg hhere]
  obtain rfl := State.tid_of_thread? ht
  exact State.retryWrites_of_thread (s.thread?_putThread { t with writes := _ }) (by simp [hst])

end

/-! ## Queue messages (R100, R101, R296, R398) -/

section
variable {s : State} {core src plaza bank : Nat} {d : W64}

/-- An entry goes to the tail of its bank; where no `QPOP.W` waits for it, nothing else but its acknowledgement follows. -/
theorem entryArrives_of_fifo {bs : List Byte} {tid wid z n head tail fill : Nat} {p : Option W64} (hsrc : src < 1024)
    (hmode : (s.plaza plaza).mode bank = .fifo z n head tail fill p) (hnone : ∀ t ∈ s.allThreads, t.wait ≠ .entry plaza bank) :
    entryArrives core src plaza bank bs tid wid s =
      ((s.localWrite plaza (bank * 0x8000 + tail * z) (bs.take z)).setBank plaza bank (.fifo z n head ((tail + 1) % n) (fill + 1) p)).send core src 2
        (.ack tid wid 0 0) := by
  have hfind : s.allThreads.find? (fun t => t.status == .waiting && t.wait == .entry plaza bank) = none :=
    List.find?_eq_none.mpr fun t ht => by simp [hnone t ht]
  simp only [entryArrives, hmode, ackBody, hsrc, if_true]
  change (match s.allThreads.find? _ with | some t => _ | none => _) = _
  rw [hfind]

/-- A credit table with an entry to spare has a place for it (R397). -/
theorem exists_free_place {l : List CreditEntry} (h : l.length < 32) :
    ∃ k, (List.range 32).find? (fun k => !l.any (fun e => e.place == k)) = some k := by
  refine Option.isSome_iff_exists.mp (List.find?_isSome.mpr ?_)
  by_contra hall
  have hsub : List.range 32 ⊆ l.map CreditEntry.place := fun k hk => by
    by_contra hne
    exact hall ⟨k, hk, by simpa using fun e he hp => hne (List.mem_map.mpr ⟨e, he, hp⟩)⟩
  have hle := (List.subperm_of_subset List.nodup_range hsub).length_le
  rw [List.length_range, List.length_map] at hle
  omega

/-- A credit table with one more entry. -/
def CoreSt.addCredit (c : CoreSt) (e : CreditEntry) : CoreSt := { c with credits := c.credits ++ [e] }

theorem CoreSt.credit?_addCredit {c : CoreSt} {e : CreditEntry} (h : c.credit? e.desc = none) : (c.addCredit e).credit? e.desc = some e := by
  rw [CoreSt.credit?] at h
  simp [CoreSt.credit?, CoreSt.addCredit, List.find?_append, h]

/-- A grant that the table does not know takes the first free place, and is answered. -/
theorem grantArrives_of_new {z n c : Nat} (hnew : (s.core core).credit? d = none) (hroom : (s.core core).credits.length < 32) :
    ∃ place, place < 32 ∧ (∀ e ∈ (s.core core).credits, e.place ≠ place) ∧ grantArrives core src d z n c plaza bank true s =
      ((s.putCore ((s.core core).addCredit ⟨place, d, z, n, c, 0, 0⟩)).wakeWaiting (fun t => t.wait == .credit d && t.core == core)).send core src 2
        (.grantAck plaza bank true) := by
  obtain ⟨place, hplace⟩ := exists_free_place hroom
  have hfree := List.find?_some hplace
  have hnot : ¬ (s.core core).credits.length ≥ 32 := by omega
  refine ⟨place, List.mem_range.mp (List.mem_of_find?_eq_some hplace), by simpa using hfree, ?_⟩
  simp only [grantArrives, hnew, hplace, Option.isSome_none, Bool.false_eq_true, hnot, and_false, if_false, Option.getD_some, if_true]
  rfl

theorem credit?_putCore_addCredit {e : CreditEntry} (h : (s.core core).credit? e.desc = none) :
    ((s.putCore ((s.core core).addCredit e)).core core).credit? e.desc = some e := by
  rw [s.core_putCore_of_id (x := (s.core core).addCredit e) (s.core_id core)]
  exact CoreSt.credit?_addCredit h

theorem creditArrives_of_known {e : CreditEntry} (h : (s.core core).credit? d = some e) : creditArrives core d s =
    (s.putCore ((s.core core).putCredit { e with credits := e.credits + 1 })).wakeWaiting (fun t => t.wait == .credit d && t.core == core) := by
  simp only [creditArrives, h]

/-- A credit table without the entry of a queue. -/
def CoreSt.dropCredit (c : CoreSt) (d : W64) : CoreSt := { c with credits := c.credits.filter (fun e => e.desc != d) }

theorem credit?_putCore_dropCredit (s : State) (core : Nat) (d : W64) : ((s.putCore ((s.core core).dropCredit d)).core core).credit? d = none := by
  rw [s.core_putCore_of_id (x := (s.core core).dropCredit d) (s.core_id core)]
  simp [CoreSt.credit?, CoreSt.dropCredit]

theorem revokeReplied_of_empty {z n head tail who : Nat} {p : Option W64} {next : BankMode}
    (hmode : (s.plaza plaza).mode bank = .fifo z n head tail 0 p) (hstage : (s.plaza plaza).stage? bank = some (who, .revoking next)) :
    revokeReplied plaza bank s = (changeBank who plaza bank next s).wakeBank plaza bank := by
  simp only [revokeReplied, hmode, hstage, gt_iff_lt, lt_irrefl, if_false]

end

/-! ## Barriers and boards at their SYE (R378, R385, R389) -/

/-- Making room in the SRAM writes objects out, and of the SYE no more changes than its lists of objects. -/
theorem DieSt.evict_eq (l : List Nat) (d : DieSt) : ∃ full, d.evict l = { d with syeFull := full } ∧ ∀ o ∈ full, o ∈ d.syeFull ∨ o ∈ l := by
  induction l generalizing d with
  | nil => exact ⟨_, rfl, fun o ho => .inl ho⟩
  | cons x xs ih =>
    rw [DieSt.evict]
    split_ifs
    · exact ⟨_, rfl, fun o ho => .inl ho⟩
    · obtain ⟨full, heq, hfull⟩ := ih d
      exact ⟨full, heq, fun o ho => (hfull o ho).imp_right (List.mem_cons_of_mem _)⟩
    · obtain ⟨full, heq, hfull⟩ := ih { d with syeFull := d.syeFull ++ [x] }
      refine ⟨full, heq, fun o ho => (hfull o ho).elim (fun h => ?_) (fun h => .inr (List.mem_cons_of_mem _ h))⟩
      exact (List.mem_append.mp h).imp_right (fun h => List.mem_cons.mpr (.inl (List.mem_singleton.mp h)))

theorem DieSt.used_eq (d : DieSt) (o : Nat) :
    ∃ use full, d.used o = { d with syeUse := use, syeFull := full } ∧ ∀ x ∈ full, x ∈ d.syeFull ∨ x ≠ o := by
  obtain ⟨full, heq, hfull⟩ := DieSt.evict_eq ((d.syeUse.filter (· != o) ++ [o]).filter (· != o)) { d with syeUse := d.syeUse.filter (· != o) ++ [o] }
  refine ⟨_, full, heq, fun x hx => (hfull x hx).imp_right fun h => ?_⟩
  exact bne_iff_ne.mp (List.mem_filter.mp h).2

theorem State.die_putDie_of_id (s : State) {x : DieSt} {d : Nat} (h : x.id = d) : (s.putDie x).die d = x := h ▸ s.die_putDie x

theorem State.die_putDie_used (s : State) {x : DieSt} {die : Nat} (o : Nat) (h : x.id = die) : (s.putDie (x.used o)).die die = x.used o := by
  obtain ⟨_, _, hused, -⟩ := x.used_eq o
  exact s.die_putDie_of_id (x := x.used o) ((congrArg DieSt.id hused).trans h)

/-- A die with one barrier of its SYE replaced. -/
def DieSt.replaceBarrier (d : DieSt) (b : ModBarrier) : DieSt := { d with barriers := d.barriers.map (fun x => if x.index = b.index then b else x) }

/-- A die with one board of its SYE replaced. -/
def DieSt.replaceBoard (d : DieSt) (b : Board) : DieSt := { d with boards := d.boards.map (fun x => if x.index = b.index then b else x) }

section
variable {s : State} {die i : Nat}

theorem barrier?_putBarrier {b b' : ModBarrier} (h : (s.die die).barrier? i = some b) (hb : b'.index = i) :
    ((s.putBarrier die b').die die).barrier? i = some b' := by
  have hput := s.die_putDie_used (x := (s.die die).replaceBarrier b') (barrierObject b'.index) (s.die_id die)
  obtain ⟨_, _, hused, -⟩ := ((s.die die).replaceBarrier b').used_eq (barrierObject b'.index)
  refine (congrArg (DieSt.barrier? · i) hput).trans ?_
  rw [hused]
  exact find?_map_replace (key := ModBarrier.index) h hb

theorem board?_putBoard {b b' : Board} (h : (s.die die).board? i = some b) (hb : b'.index = i) :
    ((s.putBoard die b').die die).board? i = some b' := by
  have hput := s.die_putDie_used (x := (s.die die).replaceBoard b') (boardObject b'.index) (s.die_id die)
  obtain ⟨_, _, hused, -⟩ := ((s.die die).replaceBoard b').used_eq (boardObject b'.index)
  refine (congrArg (DieSt.board? · i) hput).trans ?_
  rw [hused]
  exact find?_map_replace (key := Board.index) h hb

/-- The last arrival releases the waiters and starts the next phase (R385). -/
theorem arrive_of_last {b : ModBarrier} {ident : List Nat} (hwhole : b.broken = false) (hlast : b.arrivals + 1 = b.parties) : arrive die b ident s =
    let u := s.putBarrier die { b with last := some true, phase := b.phase + 1, arrivals := 0, records := [], waiters := [] }
    { u with net := u.net ++ b.waiters.map (fun w => ⟨syeCore die, w.2, 2, false, .release w.1 true, .moving⟩) } := by
  simp only [arrive, hwhole, Bool.false_eq_true, if_false, hlast, if_true, releaseAll]
  exact foldl_send_eq (syeCore die) 2 Prod.snd (fun w => .release w.1 true) b.waiters _

/-- A post fills an empty slot and is answered (R389). -/
theorem serveBoard_post {core slot tid : Nat} {b : Board} {value : W64} {gen : BitVec 16} {mask : W64} (h : bitOf b.mask.toNat slot = false) :
    let b1 := { b with slots := b.slots.set slot value, mask := b.mask ||| (1 <<< slot), level := b.level + 1 }
    serveBoard die core 0 b slot value tid gen mask s = (s.putBoard die b1).send (syeCore die) core 2 (.boardReply tid (b1.view die 0) 0 b1.level) := by
  simp only [serveBoard, h, Bool.false_eq_true, if_false]

end

/-! ## Kicks and exit notices (R206, R210) -/

/-- Nothing changes but threads, and messages are sent. -/
def State.onlyThreads (s u : State) : Prop :=
  ∃ th ths sent, u = { s with th := th, threads := ths, net := s.net ++ sent } ∧ ∀ m ∈ sent, m.spot = .moving

theorem State.onlyThreads_refl (s : State) : s.onlyThreads s :=
  ⟨_, _, [], by rw [List.append_nil], fun _ h => absurd h List.not_mem_nil⟩

theorem State.onlyThreads_trans {s t u : State} (h : s.onlyThreads t) (h' : t.onlyThreads u) : s.onlyThreads u := by
  obtain ⟨_, _, sent, rfl, hsent⟩ := h
  obtain ⟨_, _, sent', rfl, hsent'⟩ := h'
  exact ⟨_, _, sent ++ sent', by rw [List.append_assoc], fun m hm => (List.mem_append.mp hm).elim (hsent m) (hsent' m)⟩

theorem State.onlyThreads_putThread (s : State) (t : Thread) : s.onlyThreads (s.putThread t) := by
  unfold State.putThread
  split_ifs <;> exact ⟨_, _, [], by rw [List.append_nil], fun _ h => absurd h List.not_mem_nil⟩

theorem State.onlyThreads_send (s : State) (src dst vc : Nat) (b : Body) : s.onlyThreads (s.send src dst vc b) :=
  ⟨_, _, [_], rfl, fun _ h => List.mem_singleton.mp h ▸ rfl⟩

theorem State.onlyThreads_wakeIdlers (w : Workgroup) (s : State) : s.onlyThreads (wakeIdlers w s) := by
  unfold wakeIdlers
  generalize s.allThreads.filter _ = l
  induction l generalizing s with
  | nil => exact s.onlyThreads_refl
  | cons t ts ih =>
    rw [List.foldl_cons]
    refine State.onlyThreads_trans ?_ (ih _)
    split_ifs
    · exact s.onlyThreads_putThread _
    · exact s.onlyThreads_send _ _ _ _

theorem State.wgBy_putWg_of_wid (s : State) {w : Workgroup} {wid : Nat} (h : w.wid = wid) : (s.putWg w).wgBy wid = w :=
  h ▸ lookupBy_putBy_self _ _ _ _

theorem kickArrives_increment (s : State) {wid tid nap : Nat} (h : (s.wgBy wid).wid = wid) : ∃ u, kickArrives wid true tid nap s = u ∧
    (s.putWg { s.wgBy wid with kick := (s.wgBy wid).kick + 1 }).onlyThreads u ∧ (u.wgBy wid).kick = (s.wgBy wid).kick + 1 := by
  obtain ⟨th, ths, sent, hu, hsent⟩ := State.onlyThreads_wakeIdlers { s.wgBy wid with kick := (s.wgBy wid).kick + 1 }
    (s.putWg { s.wgBy wid with kick := (s.wgBy wid).kick + 1 })
  refine ⟨_, rfl, ⟨th, ths, sent, hu, hsent⟩, ?_⟩
  have hput := s.wgBy_putWg_of_wid (w := { s.wgBy wid with kick := (s.wgBy wid).kick + 1 }) h
  have hwgs : (kickArrives wid true tid nap s).wgs = (s.putWg { s.wgBy wid with kick := (s.wgBy wid).kick + 1 }).wgs := (congrArg State.wgs hu :)
  rw [State.wgBy, hwgs]
  exact (congrArg Workgroup.kick hput :)

/-! ## The end of a barrier's phase (R380) -/

theorem barResult_eq (q : Sequencer) (t : Thread) : ∃ p, barResult q t = { t with p := p } := by
  unfold barResult
  split
  · exact ⟨_, rfl⟩
  · exact ⟨_, rfl⟩

theorem barOf_vset {w : Workgroup} {n : Nat} (x : Barrier) (hn : n < 16) : ({ w with bar := vset w.bar n x } : Workgroup).barOf n = x := by
  simp [Workgroup.barOf, vset, vget, hn]

theorem execBarrierPhaseEnd_of {s : State} {w n : Nat} (hrun : s.suspends (s.wgBy w) = false) (hn : n < 16)
    (harr : ((s.wgBy w).barOf n).arrived ≠ 0) (hall : (s.wgBy w).wgsize ≤ ((s.wgBy w).barOf n).arrived + (s.wgBy w).exited.length)
    (hbatch : ∀ b, b < 4 → bitOf ((s.wgBy w).barOf n).bmask.toNat b = true → (s.wgBy w).seq.state b ≠ 1) :
    exec (.barrierPhaseEnd w n) s = .next (
      (s.putWg { s.wgBy w with bar := vset (s.wgBy w).bar n ⟨((s.wgBy w).barOf n).phase + 1, 0, 0⟩ }).mapThreads (fun t =>
        if (s.wgBy w).is t && !t.spawned && t.atBar n then (barResult (s.wgBy w).seq t).released (s.core (s.wgBy w).anchor).ccnt.toNat else t)) := by
  have hnone : ((List.range 4).filter (fun b => bitOf ((s.wgBy w).barOf n).bmask.toNat b)).any (fun b => (s.wgBy w).seq.state b == 1) = false := by
    refine List.any_eq_false.mpr fun b hb => ?_
    obtain ⟨hlt, hbit⟩ := List.mem_filter.mp hb
    simpa using hbatch b (List.mem_range.mp hlt) hbit
  change execBarrierPhaseEnd w n s = _
  simp only [execBarrierPhaseEnd, hrun, Bool.false_eq_true, if_false, hn, if_true, hnone, harr, hall.not_gt, or_self]

/-- Settles O48: each message is taken out of the fabric, and what it does at its unit is said by the lemma of that unit. -/
theorem messageEvents : Obligations.MessageEvents := by
  intro s hs
  refine ⟨fun k m s1 ht => ⟨?_, ?_, ?_, ?_, ?_, ?_, ?_, ?_, ?_, ?_, ?_⟩, ?_, ?_, ?_, ?_⟩
  · intro tid wid t w hb hthread hw hid hst
    obtain ⟨w', hfind⟩ := find?_of_mem_id hw
    rw [hid] at hfind
    obtain ⟨u, hu, hget, th, ths, rfl⟩ := retry_reap_of_ready (s := s1) (t := { t with writes := t.writes.filter (fun x => x.id != wid) })
      (State.tid_of_thread? (t := t) hthread :) hst
    have hexec : exec (.writeAcknowledgement k) s = settled { s1 with th := th, threads := ths } := by
      change execWriteAcknowledgement k s = _
      simp only [execWriteAcknowledgement, ht, hb]
      rw [ackArrives_ok hthread hfind, hu]
    refine ⟨_, hexec.trans (settled_of_quiet hs ht rfl rfl), hget, ?_, rfl⟩
    rw [State.eq_of_take ht]
  · intro tid wid code t hb hcode hthread hst hwait hfail
    obtain ⟨w, hfind, hcore⟩ := hfail
    have hexec : exec (.writeAcknowledgement k) s = settled (ackArrives m.dst tid wid 0 code s1) := by
      change execWriteAcknowledgement k s = _
      simp only [execWriteAcknowledgement, ht, hb]
    rw [hexec, ackArrives_failed hthread hfind hcode hst hcore]
    exact settled_putThread hs ht _
  · intro plaza bank bs tid wid z n head tail fill p hb hsrc hmode hnone
    have hexec : exec (.queueEntry k) s = settled (entryArrives m.dst m.src plaza bank bs tid wid s1) := by
      change execQueueEntry k s = _
      simp only [execQueueEntry, ht, hb]
    rw [hexec, entryArrives_of_fifo hsrc hmode hnone]
    refine ⟨_, settled_of_take hs ht rfl rfl (fun _ h => List.mem_singleton.mp h ▸ rfl), ?_, ?_, ?_, rfl⟩
    · rw [State.eq_of_take ht]; rfl
    · rw [State.eq_of_take ht]; rfl
    · exact (congrArg (PlazaSt.mode · bank) (State.plaza_setBank _ plaza bank _)).trans ((PlazaSt.mode_setMode _ _ _ _).trans (if_pos rfl))
  · intro d z n c plaza bank hb hnew hroom
    obtain ⟨place, hlt, hfree, hgrant⟩ := grantArrives_of_new (src := m.src) (plaza := plaza) (bank := bank) (z := z) (n := n) (c := c) hnew hroom
    have hexec : exec (.grant k) s = settled (grantArrives m.dst m.src d z n c plaza bank true s1) := by
      change execGrant k s = _
      simp only [execGrant, ht, hb]
    rw [hexec, hgrant]
    exact ⟨_, settled_of_take hs ht rfl rfl (fun _ h => List.mem_singleton.mp h ▸ rfl),
      ⟨place, hlt, hfree, credit?_putCore_addCredit (e := ⟨place, d, z, n, c, 0, 0⟩) hnew⟩, rfl⟩
  · intro d e hb he
    have hexec : exec (.credit k) s = settled (creditArrives m.dst d s1) := by
      change execCredit k s = _
      simp only [execCredit, ht, hb]
    rw [hexec, creditArrives_of_known he]
    refine ⟨_, settled_of_quiet hs ht rfl rfl, ?_, State.credit?_putCore_putCredit he (CoreSt.desc_of_credit? (e := e) he :)⟩
    rw [State.eq_of_take ht]; rfl
  · intro d plaza bank hb
    have hexec : exec (.revoke k) s = settled ((s1.putCore ((s1.core m.dst).dropCredit d)).send m.dst m.src 0 (.revokeReply plaza bank)) := by
      change execRevoke k s = _
      simp only [execRevoke, ht, hb, revokeArrives, if_true]
      rfl
    exact ⟨_, hexec.trans (settled_of_take hs ht rfl rfl (fun _ h => List.mem_singleton.mp h ▸ rfl)), credit?_putCore_dropCredit s1 m.dst d, rfl⟩
  · intro plaza bank z n head tail p who next hb hmode hstage hnext
    obtain ⟨u, hu, ⟨cs, ps, lm, rfl⟩, hmode', hstage'⟩ := changeBank_of_no_fifo s1 who plaza bank hnext
    have hexec : exec (.revokeReply k) s = settled (revokeReplied plaza bank s1) := by
      change execRevokeReply k s = _
      simp only [execRevokeReply, ht, hb]
    rw [hexec, revokeReplied_of_empty hmode hstage, hu]
    refine ⟨_, settled_of_quiet hs ht rfl rfl, hmode', hstage', ?_⟩
    rw [State.eq_of_take ht]; rfl
  · intro index asid ident tid b hb hfree hfind hfull hwhole hlast hget
    have hindex : b.index = index := beq_iff_eq.mp (List.find?_some hget :)
    have hexec : exec (.barrierRequest k) s = settled (arrive (dieOf m.dst) b ident s1) := by
      have hwaits : barrierWaits (s1.die (dieOf m.dst)) b 0 = false := by
        simp only [barrierWaits, hfull, hlast, bne_self_eq_false, Bool.and_false, Bool.false_and, Bool.or_false]
      change execBarrierRequest k s = _
      simp only [execBarrierRequest, ht, hb, hfree, Bool.false_eq_true, if_false, hfind, hwaits, if_true]
    rw [hexec, arrive_of_last hwhole hlast]
    refine ⟨_, settled_of_take hs ht rfl rfl ?_, ?_, ?_, barrier?_putBarrier hget hindex⟩
    · intro x hx
      obtain ⟨w, -, rfl⟩ := List.mem_map.mp hx
      rfl
    · rw [State.eq_of_take ht]; rfl
    · exact fun w hw => List.mem_append_right _ (List.mem_map.mpr ⟨w, hw, rfl⟩)
  · intro index asid slot v tid g mask b hb hfree hlow hfind hget hfull hempty
    have hindex : b.index = index := beq_iff_eq.mp (List.find?_some hget :)
    have hexec : exec (.boardRequest k) s = settled (serveBoard (dieOf m.dst) m.src 0 b slot v tid g mask s1) := by
      change execBoardRequest k s = _
      simp only [execBoardRequest, ht, hb, hfree, Bool.false_eq_true, if_false, hfind, hfull]
    rw [hexec, serveBoard_post hempty]
    exact ⟨_, _, settled_of_take hs ht rfl rfl (fun _ h => List.mem_singleton.mp h ▸ rfl), board?_putBoard hget hindex, rfl, rfl⟩
  · intro wid tid nap hb hwid
    obtain ⟨u, hu, ⟨th, ths, sent, hframe, hsent⟩, hkick⟩ := kickArrives_increment s1 (tid := tid) (nap := nap) hwid
    have hexec : exec (.kick k) s = settled u := by
      change execKick k s = _
      simp only [execKick, ht, hb, hu]
    refine ⟨u, hexec.trans (settled_of_take (sent := sent) hs ht ?_ ?_ hsent), ?_, hkick⟩
    · rw [hframe]; rfl
    · rw [hframe]; rfl
    · rw [hframe, State.eq_of_take ht]; rfl
  · intro wid index hb hne hwid
    have hmem : s1.mem = s.mem := by rw [State.eq_of_take ht]
    have hexec : exec (.exitNotice k) s = settled (if (s1.wgBy wid).wid = 0 ∨ (s1.wgBy wid).exited.contains index then s1
        else s1.putWg { s1.wgBy wid with exited := index :: (s1.wgBy wid).exited }) := by
      change execExitNotice k s = _
      simp only [execExitNotice, ht, hb]
    rw [hexec]
    split_ifs with hknown
    · obtain hzero | hin := hknown
      · exact absurd (hwid.symm.trans hzero) hne
      · exact ⟨s1, settled_of_quiet hs ht rfl rfl, hmem, List.contains_iff_mem.mp hin, fun x hx => hx⟩
    · have hput := s1.wgBy_putWg_of_wid (w := { s1.wgBy wid with exited := index :: (s1.wgBy wid).exited }) hwid
      refine ⟨_, settled_of_quiet hs ht rfl rfl, hmem, ?_, fun x hx => ?_⟩
      · rw [hput]
        exact List.mem_cons_self
      · rw [hput]
        exact List.mem_cons_of_mem _ hx
  · intro tid t hthread hst hdone
    obtain ⟨u, hu, hget, th, ths, rfl⟩ := retry_reap_of_ready (s := s) (t := { t with writes := [] }) (State.tid_of_thread? (t := t) hthread :) hst
    have hexec : exec (.leasedWriteComplete tid) s = settled { s with th := th, threads := ths } := by
      change execLeasedWriteComplete tid s = _
      simp only [execLeasedWriteComplete, hthread]
      rw [(List.filter_eq_nil_iff (l := t.writes)).mpr, hu]
      intro w hw
      obtain ⟨v, hv, hle⟩ := hdone w hw
      simp [hv, hle]
    exact ⟨_, hexec.trans (settled_of_savesNothing _ (State.savesNothing_of_sends hs rfl fun m hm => .inl hm)), hget, rfl⟩
  · intro core hhold
    have hput := s.port_putPort_eq_ite (c := core) (d := core)
      (x := { s.port core with
        leases := (s.port core).leases.filter (fun x => (s.dtcOf (dieOf core)).toNat < x.2.2.2.toNat), ackHold := [] }) (s.port_id core)
    rw [if_pos rfl] at hput
    have hexec : exec (.leaseExpiry core) s = .next (s.putPort { s.port core with
        leases := (s.port core).leases.filter (fun x => (s.dtcOf (dieOf core)).toNat < x.2.2.2.toNat), ackHold := [] }) := by
      change execLeaseExpiry core s = _
      simp only [execLeaseExpiry, hhold, List.filter_nil, List.foldl_nil]
    exact ⟨_, hexec, rfl, rfl, congrArg PortSt.leases hput⟩
  · intro die o hfull
    have hput := s.die_putDie_used (x := { s.die die with syeFull := [] }) o (s.die_id die)
    have hexec : exec (.syeOverflow die o) s = .next (s.putDie ({ s.die die with syeFull := [] }.used o)) := by
      change execSyeOverflow die o s = _
      simp [execSyeOverflow, hfull]
    obtain ⟨use, full, hused, hout⟩ := DieSt.used_eq { s.die die with syeFull := [] } o
    refine ⟨_, hexec, ?_, ?_, ?_⟩
    · rw [hput, hused]
      exact fun h => (hout o h).elim List.not_mem_nil (fun hne => hne rfl)
    · rw [hput, hused]
    · rw [hput, hused]
  · intro w n g hrun hwid hn harr hall hbatch
    refine ⟨_, execBarrierPhaseEnd_of hrun hn harr hall hbatch, rfl, ?_, fun t ht his hspawned hbar => ?_⟩
    · have hput := s.wgBy_putWg_of_wid (w := { g with bar := vset g.bar n ⟨(g.barOf n).phase + 1, 0, 0⟩ }) hwid
      exact (congrArg (Workgroup.barOf · n) hput).trans (barOf_vset _ hn)
    · obtain ⟨p, hp⟩ := barResult_eq g.seq t
      refine ⟨_, List.mem_map.mpr ⟨t, ht, if_pos (by simp [his, hspawned, hbar, g])⟩, ?_⟩
      rw [hp]
      exact ⟨rfl, rfl, rfl, rfl, rfl⟩

end Sys2Proof.Machine

/-! SUPPORT. The statements of the family "object format and directives" and the lemmas they need: jobs in the tables of the graph scheduler
(R157, R158), phases and graphs (R136, R160-R162, R165), requests to a hub (R340, R341, R403), the ready queue (R152, R164), the completion and the
cancellation of launches (R156, R162, R166, R167), the takeover (R170), and the unload of an image (R141, R303). -/

namespace Sys2Proof.Machine

/-! ## Jobs in the tables of the graph scheduler -/

theorem State.num_of_job? {s : State} {num : Nat} {j : Job} (h : s.job? num = some j) : j.num = num :=
  beq_iff_eq.mp (List.find?_some h :)

theorem State.job?_putJob {s : State} {num : Nat} {j : Job} (h : j.num = num) : (s.putJob j).job? num = some j :=
  h ▸ State.job?_of_jobs rfl

@[simp] theorem State.wakeObjects_job? (s : State) (num : Nat) : s.wakeObjects.job? num = s.job? num := rfl

theorem Job.endPhase_of_ne_zero (j : Job) {o : Nat} (h : o ≠ 0) : j.endPhase o = { j with phases := j.phases ++ [o], stage := 3 } :=
  if_neg fun hzero => h hzero.1

theorem Job.endPhase_of_next {j : Job} (h : j.phase + 1 < j.nphase) : j.endPhase 0 =
    { j with phases := j.phases ++ [0], phase := j.phase + 1, stage := 1, tcbs := [], cancelGraph := false } :=
  if_pos ⟨rfl, h⟩

theorem Job.endPhase_of_last {j : Job} {o : Nat} (h : o ≠ 0 ∨ j.nphase ≤ j.phase + 1) :
    j.endPhase o = { j with phases := j.phases ++ [o], stage := 3 } :=
  if_neg fun hnext => h.elim (· hnext.1) (Nat.not_le.mpr hnext.2)

@[simp] theorem Job.endPhase_num (j : Job) (o : Nat) : (j.endPhase o).num = j.num := by
  unfold Job.endPhase
  split_ifs <;> rfl

@[simp] theorem Job.endPhase_phases (j : Job) (o : Nat) : (j.endPhase o).phases = j.phases ++ [o] := by
  unfold Job.endPhase
  split_ifs <;> rfl

/-! ## `JOB_SUBMIT` (R157) -/

section
variable {s : State} {r : JobRecord}

theorem State.recordStatus_malformed (h : r.w3 ≠ 0 ∨ bits r.w0.toNat 31 18 ≠ 0 ∨ bits r.w0.toNat 15 12 ≠ 0) : s.recordStatus r = 0x02 :=
  if_pos h

variable (h3 : r.w3 = 0) (hhi : bits r.w0.toNat 31 18 = 0) (hlo : bits r.w0.toNat 15 12 = 0)
include h3 hhi hlo

theorem State.recordStatus_foreign (h : bits r.w0.toNat 11 0 ≠ r.queueAsid) : s.recordStatus r = 0x04 := by
  simp [State.recordStatus, h3, hhi, hlo, h]

variable (ha : bits r.w0.toNat 11 0 = r.queueAsid)
include ha

theorem State.recordStatus_no_image (h : ∀ i ∈ s.gs.images, i.asid = r.queueAsid → indexOf i.code ≠ indexOf r.image) :
    s.recordStatus r = 0x01 := by
  have hnone : s.gs.images.find? (fun i => i.asid == r.queueAsid && indexOf i.code == indexOf r.image) = none := by
    simpa using h
  simp [State.recordStatus, h3, hhi, hlo, ha, hnone]

theorem State.recordStatus_of_image {i : Image}
    (hi : s.gs.images.find? (fun i => i.asid == r.queueAsid && indexOf i.code == indexOf r.image) = some i) :
    s.recordStatus r = if bits r.w0.toNat 63 48 = 0 ∨ i.phases.length < bits r.w0.toNat 47 32 + bits r.w0.toNat 63 48 then 0x03 else 0 := by
  simp [State.recordStatus, h3, hhi, hlo, ha, hi]

end

/-- The job of a record that passes its checks, at its first phase. -/
def State.submitted (s : State) (hub : Nat) (r : JobRecord) : Job :=
  { num := s.gs.nextJob, asid := r.queueAsid, hub := hub, image := r.image, notify := r.notify, cpol := bits r.w0.toNat 17 16,
    phase0 := bits r.w0.toNat 47 32, nphase := bits r.w0.toNat 63 48, phase := 0, stage := 1, graph := 0, tcbs := [], phases := [],
    outcome := 0, cause := 0, canc := 0, cancelGraph := false, cancelJob := false, suspended := false, doneOrder := 0 }

theorem execJobSubmit_rejects {s : State} {hub st : Nat} {r : JobRecord} (hup : s.hubUp hub = true) (hst : s.recordStatus r = st) (h : st ≠ 0) :
    exec (.jobSubmit hub r) s = .next { s with host := .jobQueue st 0 :: s.host } := by
  change execJobSubmit hub r s = _
  simp [execJobSubmit, hup, hst, h]

theorem execJobSubmit_accepts {s : State} {hub : Nat} {r : JobRecord} (hup : s.hubUp hub = true) (hst : s.recordStatus r = 0) :
    exec (.jobSubmit hub r) s = .next { s.putJob (s.submitted hub r) with
      gs := { (s.putJob (s.submitted hub r)).gs with nextJob := s.gs.nextJob + 1 } } := by
  change execJobSubmit hub r s = _
  simp [execJobSubmit, hup, hst, State.submitted]

/-! ## `PHASE_START` (R136, R165) -/

section
variable {s : State} {num : Nat} {j : Job} (hj : s.job? num = some j) (hstage : j.stage = 1)
include hj hstage

theorem execPhaseStart_cancelled (hc : j.cancelJob = true) :
    exec (.phaseStart num) s = .next (s.putJob (j.endPhase 1)).wakeObjects := by
  change execPhaseStart num s = _
  simp [execPhaseStart, hj, hstage, hc]

variable {p : Phase} {s1 : State} (hc : j.cancelJob = false) (hp : (s.imageOf j).bind (fun i => i.phases[j.phase0 + j.phase]?) = some p)
include hc hp

/-- A size word that cannot be read (log entry 92). -/
theorem execPhaseStart_unread {c : Nat} (hread : s.schedRead j p.sizew 4 = .ok (.error c, s1)) :
    exec (.phaseStart num) s = .next ((s1.forgetAnswers num).putJob (j.endPhase 2)).wakeObjects := by
  change execPhaseStart num s = _
  simp [execPhaseStart, hj, hstage, hc, hp, hread]

variable {bs : List Byte} (hread : s.schedRead j p.sizew 4 = .ok (.ok bs, s1))
include hread

theorem execPhaseStart_class {c : Nat × Nat} (hcl : p.classes.find? (fun c => leNat bs ≤ c.1) = some c) :
    exec (.phaseStart num) s = .next ((s1.forgetAnswers num).putJob { j with stage := 2, graph := c.2 }) := by
  change execPhaseStart num s = _
  simp [execPhaseStart, hj, hstage, hc, hp, hread, hcl]

theorem execPhaseStart_no_class (hcl : ∀ c ∈ p.classes, c.1 < leNat bs) :
    exec (.phaseStart num) s = .next ((s1.forgetAnswers num).putJob (j.endPhase 2)).wakeObjects := by
  have hnone : p.classes.find? (fun c => leNat bs ≤ c.1) = none := by simpa using hcl
  change execPhaseStart num s = _
  simp [execPhaseStart, hj, hstage, hc, hp, hread, hnone]

end

theorem State.job?_ended {s : State} {num : Nat} {j : Job} {o : Nat} (hnum : j.num = num) (ho : o ≠ 0) :
    (s.putJob (j.endPhase o)).wakeObjects.job? num = some { j with phases := j.phases ++ [o], stage := 3 } := by
  rw [State.wakeObjects_job?, State.job?_putJob ((j.endPhase_num o).trans hnum), j.endPhase_of_ne_zero ho]

/-! ## The launches of a graph (R160-R162) -/

@[simp] theorem Tcb.settle_index (t : Tcb) (now : W64) : (t.settle now).index = t.index := by unfold Tcb.settle; split_ifs <;> rfl
@[simp] theorem Tcb.settle_pred (t : Tcb) (now : W64) : (t.settle now).pred = t.pred := by unfold Tcb.settle; split_ifs <;> rfl
@[simp] theorem Tcb.settle_counter (t : Tcb) (now : W64) : (t.settle now).counter = t.counter := by unfold Tcb.settle; split_ifs <;> rfl
@[simp] theorem Tcb.settle_regions (t : Tcb) (now : W64) : (t.settle now).regions = t.regions := by unfold Tcb.settle; split_ifs <;> rfl
@[simp] theorem Tcb.settle_built (t : Tcb) (now : W64) : (t.settle now).built = t.built := by unfold Tcb.settle; split_ifs <;> rfl
@[simp] theorem Tcb.settle_complete (t : Tcb) (now : W64) : (t.settle now).complete = t.complete := by unfold Tcb.settle; split_ifs <;> rfl
@[simp] theorem Tcb.settle_cancel (t : Tcb) (now : W64) : (t.settle now).cancel = t.cancel := by unfold Tcb.settle; split_ifs <;> rfl

theorem Tcb.settle_state (t : Tcb) (now : W64) :
    (t.settle now).state = if t.built = true ∧ t.counter = 0 ∧ t.state = 0 then 1 else t.state := by
  unfold Tcb.settle
  split_ifs <;> rfl

/-- A launch before anything of its graph has happened. -/
def Tcb.pending (t : Tcb) : Prop := t.built = true ∧ t.state = 0

theorem Image.tcbAt_pending (i : Image) (g launch k : Nat) : (i.tcbAt g launch k).pending := ⟨rfl, rfl⟩

/-- The argument block gives a launch its words and regions, and nothing else. -/
theorem startTcb_eq {j : Job} {img : Image} {t t1 : Tcb} {s s1 : State} (h : startTcb j img t s = .ok (.ok t1, s1)) :
    ∃ ws rs, t1 = { t with words := ws, regions := rs } := by
  simp only [startTcb] at h
  split at h
  · cases h
  · split_ifs at h
    · cases h
      exact ⟨_, _, rfl⟩
    · cases h
    · split at h
      · cases h
      · cases h
      · cases h
        exact ⟨_, _, rfl⟩

theorem Tcb.pending_of_startTcb {j : Job} {img : Image} {t t1 : Tcb} {s s1 : State} (h : startTcb j img t s = .ok (.ok t1, s1))
    (ht : t.pending) : t1.pending := by
  obtain ⟨ws, rs, rfl⟩ := startTcb_eq h
  exact ht

/-- Where no fault has ended a launch, every one has its words and none has begun. -/
theorem startTcbs_pending {j : Job} {img : Image} {ts l : List Tcb} {s s1 : State} (h : startTcbs j img ts s = .ok (l, [], s1))
    (hts : ∀ t ∈ ts, t.pending) : l.length = ts.length ∧ ∀ t ∈ l, t.pending := by
  induction ts generalizing l s with
  | nil =>
    cases h
    exact ⟨rfl, fun _ ht => absurd ht List.not_mem_nil⟩
  | cons t ts ih =>
    simp only [startTcbs] at h
    split at h
    · cases h
    next r sa hstart =>
      split at h
      · cases h
      next lb bad sb hrest =>
        cases r with
        | error c => simp at h
        | ok t1 =>
          simp only [Except.ok.injEq, Prod.mk.injEq] at h
          obtain ⟨rfl, rfl, rfl⟩ := h
          obtain ⟨hlen, hall⟩ := ih hrest fun x hx => hts x (List.mem_cons_of_mem _ hx)
          have h1 := Tcb.pending_of_startTcb hstart (hts t List.mem_cons_self)
          exact ⟨congrArg (· + 1) hlen, fun x hx => (List.mem_cons.mp hx).elim (fun he => he ▸ h1) (hall x)⟩

/-- A launch of a graph with its predecessors among the others. -/
def Tcb.linked (edges : List (Nat × Nat)) (now : W64) (l : List Tcb) (t : Tcb) : Tcb :=
  let ps := predsOf edges (l.filter (fun e => e.index < t.index)) t
  { t with pred := ps, counter := ps.length }.settle now

theorem linkTcbs_eq (edges : List (Nat × Nat)) (now : W64) (l : List Tcb) : linkTcbs edges now l = l.map (Tcb.linked edges now l) := rfl

section
variable (edges : List (Nat × Nat)) (now : W64) (l : List Tcb) (t : Tcb)

@[simp] theorem Tcb.linked_index : (t.linked edges now l).index = t.index := Tcb.settle_index _ _
@[simp] theorem Tcb.linked_regions : (t.linked edges now l).regions = t.regions := Tcb.settle_regions _ _

theorem Tcb.linked_counter : (t.linked edges now l).counter = (t.linked edges now l).pred.length := by
  simp [Tcb.linked]

theorem Tcb.linked_state {t : Tcb} (h : t.pending) :
    (t.linked edges now l).state = if (t.linked edges now l).pred = [] then 1 else 0 := by
  obtain ⟨hbuilt, hstate⟩ := h
  simp [Tcb.linked, Tcb.settle_state, hbuilt, hstate]

theorem Tcb.mem_linked_pred (p : Nat) : p ∈ (t.linked edges now l).pred ↔
    ∃ e ∈ l, e.index = p ∧ p < t.index ∧ (regionsMeet e.regions t.regions = true ∨ (p, t.index) ∈ edges) := by
  simp only [Tcb.linked, Tcb.settle_pred, predsOf, List.mem_map, List.mem_filter, Bool.or_eq_true, List.contains_iff_mem, decide_eq_true_eq]
  constructor
  · rintro ⟨e, ⟨⟨he, hlt⟩, hmeet⟩, rfl⟩
    exact ⟨e, he, rfl, hlt, hmeet⟩
  · rintro ⟨e, he, rfl, hlt, hmeet⟩
    exact ⟨e, ⟨⟨he, hlt⟩, hmeet⟩, rfl⟩

end

/-- How a graph stands as it starts: counters and states follow from the predecessors, and those from the launches as they stand there. -/
theorem linkTcbs_starts {edges : List (Nat × Nat)} {now : W64} {l : List Tcb} (h : ∀ t ∈ l, t.pending) : ∀ t ∈ linkTcbs edges now l,
    t.counter = t.pred.length ∧ (t.pred = [] → t.state = 1) ∧ (t.pred ≠ [] → t.state = 0) ∧ ∀ p, p ∈ t.pred ↔
      ∃ e ∈ linkTcbs edges now l, e.index = p ∧ p < t.index ∧ (regionsMeet e.regions t.regions = true ∨ (p, t.index) ∈ edges) := by
  rw [linkTcbs_eq]
  intro t ht
  obtain ⟨x, hx, rfl⟩ := List.mem_map.mp ht
  have hstate := Tcb.linked_state edges now l (h x hx)
  refine ⟨Tcb.linked_counter _ _ _ _, fun hnil => hstate.trans (if_pos hnil), fun hne => hstate.trans (if_neg hne), fun p => ?_⟩
  simp [Tcb.mem_linked_pred]

/-! ## `GRAPH_START` (R161, R162) -/

theorem execGraphStart_handed {s : State} {num : Nat} {j : Job} (hj : s.job? num = some j) (hh : s.handedNow = true) :
    exec (.graphStart num) s = .next s := by
  change execGraphStart num s = _
  simp only [execGraphStart, hj, hh, or_true, if_true]
  split <;> rfl

/-- The graph of a job whose launches have all got their words. -/
theorem execGraphStart_starts {s s1 : State} {num : Nat} {j : Job} {img : Image} {l : List Tcb} (hj : s.job? num = some j) (hstage : j.stage = 2)
    (hh : s.handedNow = false) (hc : j.cancelGraph = false) (hi : s.imageOf j = some img)
    (hl : startTcbs j img ((List.range (img.tcbCount j.graph)).map (fun k => img.tcbAt j.graph (s.gs.nextLaunch + k) k)) s = .ok (l, [], s1)) :
    let s2 := (s1.forgetAnswers num).putJob { j with stage := 3, tcbs := linkTcbs (img.edges j.graph) (s.dtcOf (8 + s.activeHub)) l }
    exec (.graphStart num) s = .next { s2 with gs := { s2.gs with nextLaunch := s.gs.nextLaunch + img.tcbCount j.graph } } := by
  change execGraphStart num s = _
  simp [execGraphStart, hj, hstage, hh, hc, hi, hl]

/-! ## `HUB_REQUEST` (R340, R341, R403) -/

theorem State.copyMem_mem (s : State) (src dst n : Nat) : (s.copyMem src dst n).mem = memPaste s.mem dst n (memCut s.mem src n) := by
  simp only [State.copyMem]
  split_ifs <;> rfl

theorem State.copyMem_net (s : State) (src dst n : Nat) : (s.copyMem src dst n).net = s.net := by
  simp only [State.copyMem]
  split_ifs <;> rfl

/-- A child launch that has reached the hub. -/
def Tcb.arrive (now : W64) (ps : List Nat) (t : Tcb) : Tcb := { t with built := true, pred := ps, counter := ps.length }.settle now

theorem buildChild_eq {now : W64} {idx : Nat} {j : Job} (h : ∃ t ∈ j.tcbs, t.index = idx ∧ t.built = false) :
    ∃ ps, buildChild now idx j = j.mapTcb (fun x => x.index == idx) (Tcb.arrive now ps) := by
  unfold buildChild
  split
  next hnone =>
    obtain ⟨t, ht, hidx, hbuilt⟩ := h
    simpa [hidx, hbuilt] using List.find?_eq_none.mp hnone t ht
  · exact ⟨_, rfl⟩

theorem Job.mem_mapTcb {j : Job} {sel : Tcb → Bool} {g : Tcb → Tcb} {x : Tcb} (h : x ∈ (j.mapTcb sel g).tcbs) :
    ∃ t ∈ j.tcbs, x = if sel t then g t else t := by
  obtain ⟨t, ht, rfl⟩ := List.mem_map.mp h
  exact ⟨t, ht, rfl⟩

theorem buildChild_built {now : W64} {idx : Nat} {j : Job} (h : ∃ t ∈ j.tcbs, t.index = idx ∧ t.built = false) :
    (buildChild now idx j).num = j.num ∧ ∀ t ∈ (buildChild now idx j).tcbs, t.index = idx → t.built = true ∧ t.counter = t.pred.length := by
  obtain ⟨ps, hps⟩ := buildChild_eq (now := now) h
  rw [hps]
  refine ⟨rfl, fun x hx hidx => ?_⟩
  obtain ⟨t, ht, rfl⟩ := Job.mem_mapTcb hx
  split_ifs at hidx ⊢ with hsel
  · simp [Tcb.arrive]
  · exact absurd (beq_iff_eq.mpr hidx) hsel

section
variable {s s1 : State} {k : Nat} {m : Msg} (ht : s.take k = some (m, s1))
include ht

theorem execHubRequest_sectorFill {index sector : Nat} (hb : m.body = .sectorFill index sector) : exec (.hubRequest k) s =
    .next (s1.send m.dst m.src 3 (.sector index sector (memRead s1.mem (capAt (2048 * sector)) 2048))) := by
  change execHubRequest k s = _
  simp only [execHubRequest, ht, hb]

theorem execHubRequest_writeBack {index sector : Nat} {bs : List Byte} (hb : m.body = .writeBack index sector bs) :
    let s2 := s1.copyMem ((s1.port m.src).sectorAt index 0) (capAt (2048 * sector)) 2048
    exec (.hubRequest k) s =
      .next (({ s2 with mem := memWrite s2.mem (capAt (2048 * sector)) bs } : State).send m.dst m.src 2 (.writeBackAck index)) := by
  change execHubRequest k s = _
  simp only [execHubRequest, ht, hb]

theorem execHubRequest_child {req num idx : Nat} {j : Job} (hb : m.body = .hub req num idx) (hh : s.handedNow = false)
    (hj : s1.job? num = some j) : exec (.hubRequest k) s = .next (s1.putJob (buildChild (s1.dtcOf (8 + s1.activeHub)) idx j)) := by
  change execHubRequest k s = _
  simp [execHubRequest, ht, hb, hh, hj]

end

/-! ## `READY_HAND_ON` (R152, R164) -/

theorem execReadyHandOn_idle {s : State} (h : s.offers = []) : exec .readyHandOn s = .next s := by
  change execReadyHandOn s = _
  simp [execReadyHandOn, h]

section
variable {s : State} {o : Offer} {j : Job} {t : Tcb} {k : KDesc} (ho : s.offers = [o]) (hback : o.back = false)
  (hl : s.launch? o.launch = some (j, t)) (hk : (s.imageOf j).bind (fun i => i.kdesc? t.kdesc) = some k)
include ho hback hl hk

theorem execReadyHandOn_stays (hd : s.dieFor (t.launch, o.gang) k.need t.prio (s.candidateDies t.diemask) = none) :
    exec .readyHandOn s = .next s := by
  change execReadyHandOn s = _
  simp [execReadyHandOn, ho, hback, hl, hk, hd]

theorem execReadyHandOn_hands {die : Nat} (hd : s.dieFor (t.launch, o.gang) k.need t.prio (s.candidateDies t.diemask) = some die) :
    exec .readyHandOn s = .next (handOn o j t k.gangw die s).handing := by
  change execReadyHandOn s = _
  simp [execReadyHandOn, ho, hback, hl, hk, hd]

end

theorem State.die_enqueue (s : State) (die launch gang : Nat) :
    (s.enqueue die launch gang).die die = { s.die die with queue := (s.die die).queue ++ [(launch, gang)] } :=
  s.die_putDie_of_id (x := { s.die die with queue := (s.die die).queue ++ [(launch, gang)] }) (s.die_id die)

theorem handOn_queue (o : Offer) (j : Job) (t : Tcb) (width die : Nat) (s : State) :
    ((handOn o j t width die s).die die).queue = (s.die die).queue ++ [(t.launch, o.gang)] := by
  simp only [handOn, State.die_enqueue]
  rfl

theorem handOn_gangs (o : Offer) (j : Job) (t : Tcb) (width die : Nat) (s : State) : ∃ g ∈ (handOn o j t width die s).gs.gangs,
    g.launch = t.launch ∧ g.gang = o.gang ∧ g.state = .queued ∧ g.prio = t.prio ∧ g.die = die :=
  ⟨_, List.mem_append_right _ (List.mem_singleton.mpr rfl), rfl, rfl, rfl, rfl, rfl⟩

/-! ## `LAUNCH_COMPLETION` (R156, R162, R167) -/

/-- A launch as its completion leaves it. -/
def Tcb.completed (t : Tcb) : Tcb := { t with complete := true, state := if t.state = 5 then 5 else if t.cancel then 4 else 3 }

/-- The launches of a graph as the completion of one leaves them. -/
def Job.tcbsAfter (j : Job) (t : Tcb) (now : W64) : List Tcb :=
  (j.tcbs.map (fun (x : Tcb) => if x.index = t.index then t.completed else x)).map (t.completed.afterPred now)

/-- A job as the completion of one of its launches leaves it, before the end of a phase. -/
def Job.countDown (j : Job) (t : Tcb) (now : W64) : Job :=
  { j with tcbs := j.tcbsAfter t now, canc := if t.completed.state = 4 then min 65535 (j.canc + 1) else j.canc }

/-- The last launch ends the phase. -/
def Job.afterLaunch (j : Job) (t : Tcb) (now : W64) : Job :=
  if (j.tcbsAfter t now).all Tcb.complete then (j.countDown t now).endPhase (j.countDown t now).graphOutcome else j.countDown t now

section
variable {s : State} {num idx : Nat} {j : Job} {t : Tcb} (hj : s.job? num = some j) (ht : j.tcbs.find? (fun t => t.index == idx) = some t)
include hj ht

theorem execLaunchCompletion_waits (h : s.launchDone t = false ∨ s.handedNow = true) : exec (.launchCompletion num idx) s = .next s := by
  change execLaunchCompletion num idx s = _
  simp [execLaunchCompletion, hj, ht, h]

theorem execLaunchCompletion_done (hd : s.launchDone t = true) (hh : s.handedNow = false) :
    let s1 := s.putJob (j.afterLaunch t (s.dtcOf (8 + s.activeHub)))
    exec (.launchCompletion num idx) s =
      .next ({ s1 with gs := { s1.gs with gangs := s1.gs.gangs.filter (fun g => g.launch != t.launch) } } : State).wakeObjects := by
  change execLaunchCompletion num idx s = _
  simp only [execLaunchCompletion, hj, ht]
  exact congrArg _ (if_neg (by simp [hd, hh]))

end

@[simp] theorem Job.afterLaunch_num (j : Job) (t : Tcb) (now : W64) : (j.afterLaunch t now).num = j.num := by
  unfold Job.afterLaunch
  split_ifs
  · exact Job.endPhase_num _ _
  · rfl

theorem Job.afterLaunch_of_incomplete {j : Job} {t : Tcb} {now : W64} (h : ∃ x ∈ j.tcbsAfter t now, x.complete = false) :
    j.afterLaunch t now = j.countDown t now := by
  obtain ⟨x, hx, hfalse⟩ := h
  exact if_neg fun hall => Bool.false_ne_true (hfalse.symm.trans (List.all_eq_true.mp hall x hx))

theorem Job.afterLaunch_of_complete {j : Job} {t : Tcb} {now : W64} (h : ∀ x ∈ j.tcbsAfter t now, x.complete = true) :
    j.afterLaunch t now = (j.countDown t now).endPhase (j.countDown t now).graphOutcome :=
  if_pos (List.all_eq_true.mpr h)

theorem Tcb.completed_complete (t : Tcb) : t.completed.complete = true := rfl

theorem Tcb.completed_failed {t : Tcb} (h : t.state = 5 ∨ t.cancel = true) : t.completed.failed = true := by
  unfold Tcb.failed Tcb.completed
  split_ifs with h5 hc
  · rfl
  · rfl
  · exact absurd h (not_or.mpr ⟨h5, hc⟩)

theorem Tcb.completed_state_eq_five (t : Tcb) : t.completed.state = 5 ↔ t.state = 5 := by
  unfold Tcb.completed
  split_ifs with h <;> simp_all

section
variable (done t : Tcb) (now : W64)

@[simp] theorem Tcb.afterPred_index : (done.afterPred now t).index = t.index := by
  unfold Tcb.afterPred
  split_ifs <;> simp

@[simp] theorem Tcb.afterPred_complete : (done.afterPred now t).complete = t.complete := by
  unfold Tcb.afterPred
  split_ifs <;> simp

variable {t}

/-- A complete launch no longer counts what completes in front of it. -/
theorem Tcb.afterPred_of_complete (h : t.complete = true) : done.afterPred now t = t := by
  simp [Tcb.afterPred, h]

theorem Tcb.afterPred_of_pred (hp : done.index ∈ t.pred) (hc : t.complete = false) :
    done.afterPred now t = { t with counter := t.counter - 1, cancel := t.cancel || done.failed }.settle now := by
  simp [Tcb.afterPred, hp, hc]

end

section
variable {j : Job} {t x : Tcb} {now : W64}

theorem Job.mem_tcbsAfter_iff : x ∈ j.tcbsAfter t now ↔
    ∃ y ∈ j.tcbs, x = if y.index = t.index then t.completed else t.completed.afterPred now y := by
  have hdone : t.completed.afterPred now t.completed = t.completed := Tcb.afterPred_of_complete _ _ t.completed_complete
  simp only [Job.tcbsAfter, List.map_map, List.mem_map, Function.comp_apply]
  refine exists_congr fun y => and_congr_right fun _ => ?_
  split_ifs
  · rw [hdone, eq_comm]
  · exact eq_comm

theorem Job.complete_of_index (hx : x ∈ j.tcbsAfter t now) (hi : x.index = t.index) : x.complete = true := by
  obtain ⟨y, -, rfl⟩ := Job.mem_tcbsAfter_iff.mp hx
  split_ifs at hi ⊢ with h
  · exact t.completed_complete
  · exact absurd ((Tcb.afterPred_index _ _ _).symm.trans hi) h

theorem Job.mem_tcbsAfter_of_ne (hx : x ∈ j.tcbs) (hne : x.index ≠ t.index) : t.completed.afterPred now x ∈ j.tcbsAfter t now :=
  Job.mem_tcbsAfter_iff.mpr ⟨x, hx, (if_neg hne).symm⟩

/-- Where every other launch is complete, they stay as they are. -/
theorem Job.eq_or_mem_of_mem_tcbsAfter (hall : ∀ x ∈ j.tcbs, x.index ≠ t.index → x.complete = true) (hx : x ∈ j.tcbsAfter t now) :
    x = t.completed ∨ (x ∈ j.tcbs ∧ x.index ≠ t.index ∧ x.complete = true) := by
  obtain ⟨y, hy, rfl⟩ := Job.mem_tcbsAfter_iff.mp hx
  split_ifs with h
  · exact .inl rfl
  · rw [Tcb.afterPred_of_complete _ _ (hall y hy h)]
    exact .inr ⟨hy, h, hall y hy h⟩

theorem Job.tcbsAfter_complete (hall : ∀ x ∈ j.tcbs, x.index ≠ t.index → x.complete = true) : ∀ x ∈ j.tcbsAfter t now, x.complete = true := by
  intro x hx
  obtain rfl | ⟨-, -, hcomplete⟩ := Job.eq_or_mem_of_mem_tcbsAfter hall hx
  · exact t.completed_complete
  · exact hcomplete

/-- A successor of a launch that has completed. -/
theorem Tcb.successor_after (hc : x.complete = false) (hp : t.index ∈ x.pred) : let y := t.completed.afterPred now x
    y.index = x.index ∧ y.counter = x.counter - 1 ∧ (x.counter = 1 → x.built = true → x.state = 0 → y.state = 1) ∧
      (t.state = 5 ∨ t.cancel = true → y.cancel = true) := by
  refine ⟨Tcb.afterPred_index _ _ _, ?_⟩
  rw [Tcb.afterPred_of_pred t.completed now hp hc]
  refine ⟨Tcb.settle_counter _ _, fun hone hbuilt hstate => ?_, fun hfail => ?_⟩
  · simp [Tcb.settle_state, hone, hbuilt, hstate]
  · simp [Tcb.completed_failed hfail]

/-- The outcome of a graph whose last launch has completed (R156). -/
theorem Job.graphOutcome_after (ht : t ∈ j.tcbs) (hall : ∀ x ∈ j.tcbs, x.index ≠ t.index → x.complete = true) :
    (j.countDown t now).graphOutcome = if t.state = 5 ∨ ∃ x ∈ j.tcbs, x.index ≠ t.index ∧ x.state = 5 then 2
      else if j.cancelGraph || j.cancelJob then 1 else 0 := by
  have herr : (j.tcbsAfter t now).any (fun t => t.state == 5) = true ↔ t.state = 5 ∨ ∃ x ∈ j.tcbs, x.index ≠ t.index ∧ x.state = 5 := by
    rw [List.any_eq_true]
    constructor
    · rintro ⟨x, hx, hstate⟩
      obtain rfl | ⟨hmem, hne, -⟩ := Job.eq_or_mem_of_mem_tcbsAfter hall hx
      · exact .inl (t.completed_state_eq_five.mp (beq_iff_eq.mp hstate))
      · exact .inr ⟨x, hmem, hne, beq_iff_eq.mp hstate⟩
    · rintro (hstate | ⟨x, hx, hne, hstate⟩)
      · exact ⟨t.completed, Job.mem_tcbsAfter_iff.mpr ⟨t, ht, (if_pos rfl).symm⟩, beq_iff_eq.mpr (t.completed_state_eq_five.mpr hstate)⟩
      · refine ⟨_, Job.mem_tcbsAfter_of_ne hx hne, ?_⟩
        rw [Tcb.afterPred_of_complete _ _ (hall x hx hne)]
        exact beq_iff_eq.mpr hstate
  exact if_congr herr rfl rfl

end

/-! ## `JOB_COMPLETION` (R158) -/

section
variable {s : State} {num : Nat} {j : Job} (hj : s.job? num = some j)
include hj

theorem execJobCompletion_idle (hended : j.ended = false) (hstage : j.stage ≠ 5) : exec (.jobCompletion num) s = .next s := by
  change execJobCompletion num s = _
  simp [execJobCompletion, hj, hended, hstage]

theorem execJobCompletion_written {v : State} (hended : j.ended = true)
    (hv : s.writeBuf s.scheduler j.asid j.notify (leBytes 8 (j.status j.lastOutcome)) = .ok v) :
    exec (.jobCompletion num) s = .next (postStatus j v) := by
  change execJobCompletion num s = _
  simp [execJobCompletion, hj, hended, writeStatus, hv]

theorem execJobCompletion_posts (hstage : j.stage = 5) : exec (.jobCompletion num) s = .next (postStatus j s) := by
  have hended : j.ended = false := by simp [Job.ended, hstage]
  change execJobCompletion num s = _
  simp [execJobCompletion, hj, hended, hstage]

end

theorem postStatus_owed {j : Job} {v : State} (h : v.owes v.scheduler = true) : postStatus j v = v.putJob { j with stage := 5 } :=
  if_pos h

theorem postStatus_complete {j : Job} {v : State} (h : v.owes v.scheduler = false) : postStatus j v = completeJob j v := by
  simp [postStatus, h]

theorem completeJob_job? {j : Job} {num : Nat} (v : State) (hnum : j.num = num) :
    (completeJob j v).job? num = some { j with stage := 4, outcome := j.lastOutcome, doneOrder := v.gs.order } :=
  State.job?_putJob (s := v.forgetAnswers j.num) (j := { j with stage := 4, outcome := j.lastOutcome, doneOrder := v.gs.order }) hnum

/-- The barriers of a job go with it (R384). -/
theorem completeJob_barriers (j : Job) (v : State) : ∀ d ∈ (completeJob j v).dies, ∀ b ∈ d.barriers, b.job ≠ j.num := by
  intro d hd b hb
  obtain ⟨d0, -, rfl⟩ := List.mem_map.mp hd
  obtain ⟨-, hjob⟩ := List.mem_filter.mp (hb : b ∈ d0.barriers.filter (fun (b : ModBarrier) => b.job != j.num))
  exact bne_iff_ne.mp hjob

/-! ## `SCHEDULER_TAKEOVER` (R170) -/

theorem execSchedulerTakeover_none {s : State} (h : s.gs.active ≠ 0 ∨ s.hubUp 1 = false) : exec .schedulerTakeover s = .next s := by
  change execSchedulerTakeover s = _
  simp [execSchedulerTakeover, h]

theorem execSchedulerTakeover_takes {s : State} (ha : s.gs.active = 0) (hup : s.hubUp 1 = true) :
    exec .schedulerTakeover s = .next (s.takeOver 1) := by
  change execSchedulerTakeover s = _
  simp [execSchedulerTakeover, ha, hup]

theorem State.takeOver_early (s : State) (hub : Nat) : ∀ j ∈ (s.takeOver hub).gs.jobs, ∀ t ∈ j.tcbs, t.state = 1 ∨ t.state = 2 → t.early = true := by
  intro j hj t ht hstate
  obtain ⟨j0, -, rfl⟩ := List.mem_map.mp hj
  obtain ⟨t0, -, rfl⟩ := Job.mem_mapTcb ht
  split_ifs at hstate ⊢ with hsel
  · rfl
  · simp [hstate] at hsel

/-! ## `LAUNCH_CANCELLATION` (R166): what stops a gang leaves main memory and the gangs' records -/

/-- Main memory and the records of the gangs. -/
def State.memGangs (s : State) : Memory × List Gang := (s.mem, s.gs.gangs)

theorem memGangs_foldl {α : Type} {f : State → α → State} (hf : ∀ u x, (f u x).memGangs = u.memGangs) (l : List α) (s : State) :
    (l.foldl f s).memGangs = s.memGangs := by
  induction l generalizing s with
  | nil => rfl
  | cons x l ih => exact (ih _).trans (hf s x)

@[simp] theorem State.putWg_memGangs (s : State) (w : Workgroup) : (s.putWg w).memGangs = s.memGangs := rfl
@[simp] theorem State.send_memGangs (s : State) (src dst vc : Nat) (b : Body) : (s.send src dst vc b).memGangs = s.memGangs := rfl
@[simp] theorem State.wakeWaiting_memGangs (s : State) (p : Thread → Bool) : (s.wakeWaiting p).memGangs = s.memGangs := rfl
@[simp] theorem State.reap_memGangs (s : State) (tid : Nat) : (s.reap tid).memGangs = s.memGangs := rfl

@[simp] theorem State.putThread_memGangs (s : State) (t : Thread) : (s.putThread t).memGangs = s.memGangs := by
  simp [State.memGangs]

@[simp] theorem State.spawnedExit_memGangs (s : State) (job launch : Nat) : (s.spawnedExit job launch).memGangs = s.memGangs := by
  unfold State.spawnedExit
  split <;> rfl

@[simp] theorem State.stopThread_memGangs (s : State) (t : Thread) : (s.stopThread t).memGangs = s.memGangs := by
  simp only [State.stopThread]
  split_ifs <;> simp <;> rfl

@[simp] theorem State.removeThread_memGangs (s : State) (t : Thread) : (s.removeThread t).memGangs = s.memGangs := by
  simp only [State.removeThread, State.freeMonitors, State.reap_memGangs, State.wakeWaiting_memGangs, State.stopThread_memGangs]
  rfl

@[simp] theorem State.dropQueue_memGangs (s : State) (w : Workgroup) (q : Sequencer) : (s.dropQueue w q).memGangs = s.memGangs := by
  refine memGangs_foldl (fun u i => ?_) q.queue s
  rfl

@[simp] theorem State.clearSeq_memGangs (s : State) (wid : Nat) : (s.clearSeq wid).memGangs = s.memGangs :=
  State.dropQueue_memGangs s _ _

@[simp] theorem State.setJob_memGangs (s : State) (plaza : Nat) (j : EngJob) : (s.setJob plaza j).memGangs = s.memGangs := rfl

@[simp] theorem markRows_memGangs (j : EngJob) (ks : List Nat) (s : State) : (markRows j ks s).memGangs = s.memGangs := by
  unfold markRows setCb
  split_ifs
  · rfl
  · split <;> rfl

@[simp] theorem endJob_memGangs (plaza n : Nat) (j : EngJob) (st cause : Nat) (s : State) :
    (endJob plaza n j st cause s).memGangs = s.memGangs := by
  induction n generalizing j st cause s with
  | zero => rfl
  | succ n ih =>
    simp only [endJob]
    by_cases hend : st = 4 ∨ st = 5
    · rw [if_pos hend]
      rfl
    · rw [if_neg hend]
      refine (memGangs_foldl (fun u k => ?_) _ _).trans rfl
      split
      · split_ifs
        · exact ih _ _ _ _
        · rfl
      · rfl

@[simp] theorem stopJob_memGangs (plaza : Nat) (j : EngJob) (code : Nat) (s : State) : (stopJob plaza j code s).memGangs = s.memGangs := by
  unfold stopJob finishJob
  split_ifs <;> simp

/-- What a running gang of a cancelled launch was doing is stopped (R166). -/
theorem cancelGang_memGangs (g : Gang) (s : State) : (cancelGang g s).memGangs = s.memGangs := by
  unfold cancelGang
  refine (memGangs_foldl (fun u j => stopJob_memGangs _ _ _ _) _ _).trans ?_
  refine (memGangs_foldl (fun u w => ?_) _ _).trans (memGangs_foldl State.removeThread_memGangs _ _)
  simp only [State.putWg_memGangs]
  split <;> simp

theorem State.removeSpawned_memGangs (s : State) (launch : Nat) : (s.removeSpawned launch).memGangs = s.memGangs := by
  unfold State.removeSpawned
  refine (memGangs_foldl (fun u p => ?_) _ _).trans (memGangs_foldl State.removeThread_memGangs _ _)
  dsimp only
  split_ifs
  · rfl
  · exact (memGangs_foldl (fun v t => State.spawnedExit_memGangs v _ _) _ _).trans rfl

/-- A launch whose cancellation has been started is cancelled: the gangs that wait are withdrawn, the others stopped, the spawned threads removed. -/
def cancelLaunch (launch : Nat) (s : State) : State :=
  let s1 := s.withdraw launch
  ((s1.gs.gangs.filter (fun g => g.launch == launch && g.state != .retired)).foldl (fun s g => cancelGang g s) s1).removeSpawned launch

/-- The gangs of a cancelled launch that wait leave the tables; the others stand there as they did. -/
theorem cancelLaunch_memGangs (launch : Nat) (s : State) : (cancelLaunch launch s).memGangs = (s.withdraw launch).memGangs :=
  (State.removeSpawned_memGangs _ _).trans (memGangs_foldl (fun u g => cancelGang_memGangs g u) _ _)

section
variable {s : State} {num idx : Nat} {j : Job} {t : Tcb} (hj : s.job? num = some j) (ht : j.tcbs.find? (fun t => t.index == idx) = some t)
include hj ht

theorem execLaunchCancellation_idle (h : t.cancel = false ∨ t.complete = true) : exec (.launchCancellation num idx) s = .next s := by
  change execLaunchCancellation num idx s = _
  simp [execLaunchCancellation, hj, ht, h]

theorem execLaunchCancellation_cancels (hc : t.cancel = true) (hinc : t.complete = false) :
    exec (.launchCancellation num idx) s = .next (cancelLaunch t.launch s) := by
  change execLaunchCancellation num idx s = _
  simp [execLaunchCancellation, hj, ht, hc, hinc, cancelLaunch]

end

theorem State.not_queued_of_withdraw {s : State} {launch : Nat} {g : Gang} (hg : g ∈ (s.withdraw launch).gs.gangs) (hl : g.launch = launch) :
    g.state ≠ .queued := by
  simpa [hl] using List.of_mem_filter hg

/-! ## The events of jobs -/

theorem writeBack_read {m : Memory} {a : Nat} {bs : List Byte} (src : Nat) (h : Memory.wf m = true) :
    memRead (memWrite (memPaste m a 2048 (memCut m src 2048)) a bs) a bs.length = bs :=
  memRead_memWrite _ _ _ (memPaste_wf _ _ _ _ h)

/-- Settles O53: each event is an equation for the state that it leaves, and the job is found there under its number. -/
theorem jobEvents : Obligations.JobEvents := by
  intro s
  refine ⟨?submit, ?phase, ?handed, ?graph, ?hub, execReadyHandOn_idle, ?handOn, ?launch, ?job, execSchedulerTakeover_none, ?takeover, ?cancel⟩
  case submit =>
    intro hub r hup
    refine ⟨fun h => execJobSubmit_rejects hup (State.recordStatus_malformed h) (by decide), fun h3 hhi hlo =>
      ⟨fun ha => execJobSubmit_rejects hup (State.recordStatus_foreign h3 hhi hlo ha) (by decide), fun ha =>
      ⟨fun hi => execJobSubmit_rejects hup (State.recordStatus_no_image h3 hhi hlo ha hi) (by decide), fun i hi => ?_⟩⟩⟩
    have hst := State.recordStatus_of_image h3 hhi hlo ha hi
    refine ⟨fun h => execJobSubmit_rejects hup (hst.trans (if_pos h)) (by decide), fun hone hlen => ?_⟩
    have hok := hst.trans (if_neg (not_or.mpr ⟨Nat.ne_of_gt hone, Nat.not_lt.mpr hlen⟩))
    exact ⟨_, s.submitted hub r, execJobSubmit_accepts hup hok, State.job?_putJob (s := s) (j := s.submitted hub r) rfl,
      rfl, rfl, rfl, rfl, rfl, rfl, rfl, rfl, rfl, rfl, rfl, rfl⟩
  case phase =>
    intro num j hj hstage
    have hnum := State.num_of_job? hj
    refine ⟨fun hc => ⟨_, execPhaseStart_cancelled hj hstage hc, rfl, State.job?_ended hnum (by decide)⟩, fun p hc hp =>
      ⟨fun c s1 hread => ⟨_, execPhaseStart_unread hj hstage hc hp hread, rfl, State.job?_ended hnum (by decide)⟩, fun bs s1 hread =>
      ⟨fun c hcl => execPhaseStart_class hj hstage hc hp hread hcl, fun hcl =>
        ⟨_, execPhaseStart_no_class hj hstage hc hp hread hcl, rfl, State.job?_ended hnum (by decide)⟩⟩⟩⟩
  case handed => exact fun num j hj _ hh => execGraphStart_handed hj hh
  case graph =>
    intro num j img l s1 hj hstage hh hc hi n hl
    have hnum := State.num_of_job? hj
    obtain ⟨hlen, hpending⟩ := startTcbs_pending hl fun t ht => by
      obtain ⟨k, -, rfl⟩ := List.mem_map.mp ht
      exact img.tcbAt_pending _ _ _
    refine ⟨_, _, execGraphStart_starts hj hstage hh hc hi hl, rfl,
      State.job?_putJob (s := s1.forgetAnswers num) (j := { j with stage := 3, tcbs := _ }) hnum, rfl, ?_, rfl, linkTcbs_starts hpending⟩
    simpa [linkTcbs_eq] using hlen
  case hub =>
    intro k m s1 ht
    refine ⟨fun index sector hb => execHubRequest_sectorFill ht hb, fun index sector bs hb hwf => ?_, fun req num idx j hb hh hj hbuilt => ?_⟩
    · have hmem : s1.mem = s.mem := by rw [State.eq_of_take ht]
      refine ⟨_, execHubRequest_writeBack ht hb, ?_, ?_⟩
      · simp only [State.send_mem, State.copyMem_mem, hmem]
        exact writeBack_read _ hwf
      · exact congrArg (· ++ _) (State.copyMem_net _ _ _ _)
    · obtain ⟨hnum, hall⟩ := buildChild_built (now := s1.dtcOf (8 + s1.activeHub)) hbuilt
      have hmem : s1.mem = s.mem := by rw [State.eq_of_take ht]
      exact ⟨_, _, execHubRequest_child ht hb hh hj, hmem, State.job?_putJob (hnum.trans (State.num_of_job? hj)), hall⟩
  case handOn =>
    intro o j t k ho hback hl hk
    refine ⟨execReadyHandOn_stays ho hback hl hk, fun die hd => ?_⟩
    exact ⟨_, execReadyHandOn_hands ho hback hl hk hd, rfl, handOn_queue o j t k.gangw die s, rfl, handOn_gangs o j t k.gangw die s⟩
  case launch =>
    intro num j idx t hj ht
    have hidx : t.index = idx := beq_iff_eq.mp (List.find?_some ht :)
    refine ⟨execLaunchCompletion_waits hj ht, fun hd hh => ?_⟩
    refine ⟨_, _, execLaunchCompletion_done hj ht hd hh, rfl,
      State.job?_putJob (s := s) ((j.afterLaunch_num _ _).trans (State.num_of_job? hj)), fun g hg => ?_, ?_, ?_⟩
    · exact bne_iff_ne.mp (List.mem_filter.mp hg).2
    · rintro ⟨x, hx, hne, hinc⟩
      have hleft := Job.mem_tcbsAfter_of_ne (now := s.dtcOf (8 + s.activeHub)) hx (hidx ▸ hne)
      rw [Job.afterLaunch_of_incomplete ⟨_, hleft, (Tcb.afterPred_complete _ _ _).trans hinc⟩]
      exact ⟨rfl, fun y hy hi => Job.complete_of_index hy (hi.trans hidx.symm), fun y hy hne hinc hp =>
        ⟨_, Job.mem_tcbsAfter_of_ne hy (hidx ▸ hne), Tcb.successor_after hinc (hidx ▸ hp)⟩⟩
    · intro hall
      subst hidx
      have houtcome := Job.graphOutcome_after (now := s.dtcOf (8 + s.activeHub)) (List.mem_of_find?_eq_some ht) hall
      rw [Job.afterLaunch_of_complete (Job.tcbsAfter_complete hall)]
      refine ⟨_, Job.endPhase_phases _ _, fun herr => houtcome.trans (if_pos herr), fun h5 hnone => houtcome.trans (if_neg ?_),
        fun hzero hnext => ?_, fun hlast => ?_⟩
      · rintro (h | ⟨x, hx, hne, h⟩)
        · exact h5 h
        · exact hnone x hx hne h
      · rw [hzero, Job.endPhase_of_next (j := j.countDown t _) hnext]
        exact ⟨rfl, rfl⟩
      · rw [Job.endPhase_of_last (j := j.countDown t _) hlast]
  case job =>
    intro num j hj
    have hnum := State.num_of_job? hj
    refine ⟨execJobCompletion_idle hj, fun v hended hv => ?_, fun hstage howes => ?_⟩
    · have hexec := execJobCompletion_written hj hended hv
      exact ⟨fun howes => hexec.trans (congrArg _ (postStatus_owed howes)), fun howes =>
        ⟨_, hexec.trans (congrArg _ (postStatus_complete howes)), rfl, rfl, completeJob_job? v hnum, completeJob_barriers j v⟩⟩
    · exact ⟨_, (execJobCompletion_posts hj hstage).trans (congrArg _ (postStatus_complete howes)), rfl, rfl, completeJob_job? s hnum,
        completeJob_barriers j s⟩
  case takeover =>
    exact fun ha hup => ⟨_, execSchedulerTakeover_takes ha hup, rfl, rfl, rfl, s.takeOver_early 1⟩
  case cancel =>
    intro num j idx t hj ht
    refine ⟨execLaunchCancellation_idle hj ht, fun hc hinc => ?_⟩
    obtain ⟨hmem, hgangs⟩ := Prod.mk.inj (cancelLaunch_memGangs t.launch s)
    exact ⟨_, execLaunchCancellation_cancels hj ht hc hinc, hmem, fun g hg => State.not_queued_of_withdraw (hgangs ▸ hg)⟩

/-! ## `IMAGE_UNLOAD` (R141, R303) -/

/-- The image of ASID 0 in buffer 1, whose code is nothing but that buffer. -/
def unloadedImage : Image :=
  { asid := 0, code := handleOf 1 0, rodata := none, chain := none, kdescs := [], phases := [], sched := [], boards := [] }

/-- A core record numbered 512, the first hub's number, that holds a descriptor of buffer 1. -/
def coreBeyond : State :=
  let e : BufEntry :=
    { gen := 0, owner := 0, length := 64, count := 1, first := 0, gran := 1, imode := 0, pinned := false, replica := false, leased := false,
      tier := 0, at_ := false, wr := false, rd := true, peer := 0, mirror := 0 }
  { State.reset with
    gs := { Scheduler.blank with images := [unloadedImage] }
    cores := [{ CoreSt.blank 512 with desc := [(0, 1, e)] }] }

theorem exec_imageUnload_coreBeyond : ∃ u, exec (.imageUnload 0 (handleOf 1 0)) coreBeyond = .next u ∧ u.cores = coreBeyond.cores :=
  ⟨_, rfl, by decide +kernel⟩

/-- Refutes O57: its clause for the unload speaks of every core record of the state, and no premise says that these are the module's cores, 0 to 511.
Of a record numbered 512 `applyInval` takes the number for that of a hub's port, so that the record keeps its descriptor of the freed buffer. -/
theorem not_bootAndManagementEvents : ¬ Obligations.BootAndManagementEvents := by
  rintro ⟨-, -, hmanage⟩
  obtain ⟨-, -, -, -, -, -, -, hunload⟩ := hmanage coreBeyond
  obtain ⟨-, hfrees⟩ := hunload 0 (handleOf 1 0) unloadedImage (by decide +kernel)
  obtain ⟨u, hu, -, -, hdesc, -⟩ := hfrees rfl rfl (fun q hq => absurd hq List.not_mem_nil)
  obtain ⟨v, hv, hcores⟩ := exec_imageUnload_coreBeyond
  obtain rfl : u = v := Host.Outcome.next.inj (hu.symm.trans hv)
  rw [hcores] at hdesc
  exact hdesc _ List.mem_cons_self _ List.mem_cons_self _ List.mem_cons_self rfl rfl

end Sys2Proof.Machine

/-! SUPPORT. The statements of the family "launches, gangs and graphs" and the lemmas they need: what stands at a port as a die fails (R280, R304,
R426), and the placement, relocation, retirement, save and restore of gangs (R149-R155, R209-R213, R289). -/

namespace Sys2Proof.Machine

/-! ## `DIE_FATAL_ERROR` (R426) -/

/-- A thread of core 0 that has exited; one of its writes has not been acknowledged, so that it has not gone. -/
def exitedWaiter : Thread := { Thread.blank with tid := 1, writes := [⟨1, .home 0, 0, 64, false, handleOf 2 0, .sent⟩] }

/-- The monitor that the thread had asked for at core 64, behind the held writes of its page. -/
def heldArm : Request :=
  { Request.blank with who := .thread 1, handle := handleOf 2 0x40, size := 8, ty := 7, monitor := true, b := 1 }

/-- Buffer 2 at core 64, and its page as it moves from there to core 0. -/
def movedEntry : BufEntry :=
  { gen := 0, owner := 0, length := 65536, count := 1, first := 64, gran := 2, imode := 0, pinned := false, replica := false, leased := false,
    tier := 0, at_ := false, wr := true, rd := true, peer := 0, mirror := 0 }
def movedPme : Pme := { frame := 1, tier := 0, pin := false, wb := false, at_ := false, wr := true, rd := true, core := 64 }
def moveToLost : Move :=
  { asid := 0, ring := 0, index := 0, port := 64, key := ⟨0, 2, 0⟩, pmeAt := 0x40000, old := movedPme, new := { movedPme with core := 0 },
    stage := 1, mapOut := false, handle := handleOf 2 0 }

/-- Two dies run, and hub 0 moves the page from die 1 to die 0. -/
def movingToLost : State :=
  { State.reset with
    threads := [exitedWaiter]
    conf := { Conf.off with booted := true, admitted := 3, hubs := 1 }
    hubs := #v[{ HubSt.blank 0 with move := some moveToLost }, HubSt.blank 1]
    gs := { Scheduler.blank with asids := [(0, 0x20000, 0x30000)] }
    ports := [{ PortSt.blank 64 with rpen := false, desc := [(0, 2, movedEntry)], walking := [(⟨0, 2, 0⟩, 0, heldArm)] }]
    mem := memWrite [] 0x30020 (leBytes 8 0x40000 ++ leBytes 4 1) }

theorem exec_dieFatalError_movingToLost : ∃ u, exec (.dieFatalError 0 1) movingToLost = .next u ∧
    u.threads.map (fun t => (t.status, t.core)) = [(.parkedMonitor, 0)] :=
  ⟨_, rfl, by decide +kernel⟩

/-- Refutes O58: its clause that no thread is left on the lost die has no premise about the requests that ports hold for threads that have exited.
As die 0 fails, the move to it is given up and the port at core 64 serves what waits behind the page; the monitor that it arms puts the thread that
asked for it, exited and still at core 0, in PARKED-MONITOR. -/
theorem not_lossEvents : ¬ Obligations.LossEvents := by
  intro h
  obtain ⟨-, hfails, -, -, -⟩ := h movingToLost ⟨fun _ hg => absurd hg List.not_mem_nil, fun _ hm => absurd hm List.not_mem_nil⟩
  obtain ⟨u, hu, -, -, -, -, -, -, -, -, hgone⟩ := hfails 0 1 (by decide +kernel)
  obtain ⟨v, hv, hparked⟩ := exec_dieFatalError_movingToLost
  obtain rfl : u = v := Host.Outcome.next.inj (hu.symm.trans hv)
  obtain ⟨t, ht, hst⟩ := List.mem_map.mp (hparked ▸ List.mem_singleton_self _)
  obtain ⟨hstatus, hcore⟩ := Prod.mk.inj hst
  exact hgone rfl (by decide +kernel) (by decide +kernel) t ht (by simp [hstatus]) (by simp [hcore]) (by simp [hcore, dieOf])

end Sys2Proof.Machine

/-! SUPPORT. What gangs do as they start, are saved, retire and are restored. -/

namespace Sys2Proof.Machine

/-! ## Folds and lists -/

/-- What every step leaves as it is, the whole fold leaves so. -/
theorem foldl_same {α β : Type} (view : State → β) {f : State → α → State} (l : List α) (s : State)
    (hf : ∀ x ∈ l, ∀ u, view (f u x) = view u) : view (l.foldl f s) = view s :=
  List.foldlRecOn (motive := fun u => view u = view s) l f rfl fun u hu x hx => (hf x hx u).trans hu

/-- The first of a list that passes a test is the new record once those that pass it are replaced. -/
theorem find?_map_of_replaced {α : Type} {p : α → Bool} {q : α → Prop} [DecidablePred q] {l : List α} {a b : α} (h : l.find? p = some a)
    (hb : p b = true) (hq : ∀ x, q x ↔ p x = true) : (l.map (fun x => if q x then b else x)).find? p = some b := by
  induction l with
  | nil => exact absurd h.symm (Option.some_ne_none _)
  | cons x xs ih =>
    by_cases hx : p x = true
    · rw [List.map_cons, if_pos ((hq x).mpr hx)]
      exact List.find?_cons_of_pos hb
    · rw [List.map_cons, if_neg (mt (hq x).mp hx), List.find?_cons_of_neg hx]
      exact ih (by rwa [List.find?_cons_of_neg hx] at h)

/-- A test that no replaced record passes, before or after, finds what it found. -/
theorem find?_map_of_other {α : Type} {p : α → Bool} {q : α → Prop} [DecidablePred q] {l : List α} {b : α} (hb : p b = false)
    (hq : ∀ x, q x → p x = false) : (l.map (fun x => if q x then b else x)).find? p = l.find? p := by
  induction l with
  | nil => rfl
  | cons x xs ih =>
    by_cases hx : q x
    · simp [hx, hb, hq x hx, ih]
    · simp [hx, List.find?_cons, ih]

/-! ## The records of gangs -/

/-- The name of a gang. -/
def Gang.key (g : Gang) : Nat × Nat := (g.launch, g.gang)

theorem Gang.key_eq_iff (g : Gang) (L G : Nat) : g.key = (L, G) ↔ (g.launch == L && g.gang == G) = true := by
  simp [Gang.key]

theorem Gang.key_ne_iff (g : Gang) (L G : Nat) : g.key ≠ (L, G) ↔ (g.launch == L && g.gang == G) = false := by
  rw [Ne, Gang.key_eq_iff, Bool.not_eq_true]

theorem State.key_of_gang? {s : State} {L G : Nat} {g : Gang} (h : s.gang? L G = some g) : g.key = (L, G) :=
  (g.key_eq_iff L G).mpr (List.find?_some h :)

theorem State.gang?_putGang {s : State} {L G : Nat} {g g' : Gang} (h : s.gang? L G = some g) (hk : g'.key = (L, G)) :
    (s.putGang g').gang? L G = some g' := by
  refine find?_map_of_replaced h ((g'.key_eq_iff L G).mp hk) fun x => ?_
  obtain ⟨rfl, rfl⟩ := Prod.mk.inj hk
  simp

theorem State.gang?_putGang_ne {s : State} {L G : Nat} {g' : Gang} (hk : g'.key ≠ (L, G)) : (s.putGang g').gang? L G = s.gang? L G := by
  refine find?_map_of_other ((g'.key_ne_iff L G).mp hk) fun x hx => (x.key_ne_iff L G).mp ?_
  rwa [Gang.key, hx.1, hx.2]

/-- The workgroups of a gang bear its name. -/
theorem State.of_mem_gangWgs {s : State} {g : Gang} {w : Workgroup} (h : w ∈ s.gangWgs g) : w ∈ s.wgs ∧ (w.launch, w.gang) = g.key := by
  obtain ⟨p, -, hp⟩ := List.mem_filterMap.mp h
  have hw := List.find?_some hp
  simp only [Bool.and_eq_true, beq_iff_eq] at hw
  exact ⟨List.mem_of_find?_eq_some hp, Prod.ext hw.1.1 hw.1.2⟩

/-! ## What a save writes (R209-R212) -/

/-- The state but for main memory, the ports and the dies: what writes to the save pool leave as it is. -/
def State.besideMem (s : State) : State := { s with mem := [], ports := [], dies := [] }

theorem State.onlyCounts.besideMem_eq {s t : State} (h : s.onlyCounts t) : t.besideMem = s.besideMem := by
  obtain ⟨⟨_, _, rfl⟩, -⟩ := h
  rfl

theorem State.countRows_besideMem (s : State) (pa n : Nat) : (s.countRows pa n).besideMem = s.besideMem := by
  unfold State.countRows
  split_ifs
  · exact (onlyCounts_foldl_countRow _ _ s).besideMem_eq
  · rfl

theorem State.writePool_besideMem (s : State) (die x : Nat) (l : List W64) : (s.writePool die x l).besideMem = s.besideMem :=
  foldl_same State.besideMem _ s fun _ _ _ => State.countRows_besideMem _ _ _

theorem State.writeHeader_besideMem (s : State) (g : Gang) : (s.writeHeader g).besideMem = s.besideMem := by
  unfold State.writeHeader
  split
  · exact s.writePool_besideMem _ _ _
  · rfl

theorem State.writeRecord_besideMem (s : State) (t : Thread) (wcode : Nat) (wfail : W64) : (s.writeRecord t wcode wfail).besideMem = s.besideMem := by
  simp only [State.writeRecord]
  split
  · exact s.writePool_besideMem _ _ _
  · rfl

/-- The tables of the graph scheduler, and the workgroups. -/
def State.gsWgs (s : State) : Scheduler × List Workgroup := (s.gs, s.wgs)

theorem State.gsWgs_of_besideMem {s t : State} (h : t.besideMem = s.besideMem) : t.gsWgs = s.gsWgs := (congrArg State.gsWgs h :)

theorem State.putThread_gsWgs (s : State) (t : Thread) : (s.putThread t).gsWgs = s.gsWgs := by
  simp [State.gsWgs]

theorem State.save_gsWgs (s : State) (t : Thread) : (s.save t).gsWgs = s.gsWgs := by
  unfold State.save
  split_ifs
  · rfl
  · exact (State.putThread_gsWgs _ _).trans (Eq.trans (State.gsWgs_of_besideMem (State.writeRecord_besideMem _ _ _ _)) rfl)

theorem State.saveSweep_gsWgs (s : State) : s.saveSweep.gsWgs = s.gsWgs := by
  unfold State.saveSweep
  split_ifs
  · exact (foldl_same State.gsWgs _ s fun t _ u => u.save_gsWgs t :)
  · rfl

/-! ## The save of a gang starts (R210) -/

/-- The gang takes an area in its die's save pool, if it holds none. -/
theorem State.takeArea_eq {s s1 : State} {w : Workgroup} (h : s.takeArea w = some s1) :
    s1 = s ∨ ∃ g d base, s.gangOf w = some g ∧ s1 = (s.putDie d).putGang { g with saveArea := true, base := base } := by
  unfold State.takeArea at h
  split at h
  · exact .inl (Option.some.inj h).symm
  next g hg =>
    split_ifs at h
    · exact .inl (Option.some.inj h).symm
    · obtain ⟨base, -, rfl⟩ := Option.map_eq_some_iff.mp h
      exact .inr ⟨g, _, base, hg, rfl⟩

/-- The gang that a workgroup belongs to bears the workgroup's name. -/
theorem State.key_of_gangOf {s : State} {w : Workgroup} {g : Gang} (h : s.gangOf w = some g) : g.key = (w.launch, w.gang) :=
  State.key_of_gang? h

section
variable {s u : State} {r : Gang} {reason : Nat} {target : Option Nat} (h : s.startSave r reason target = some u)
include h

/-- Of the gangs and workgroups nothing changes but the gang that is saved: it holds a save area and is being saved for that reason. -/
theorem State.startSave_gsWgs : ∃ s1 w, w ∈ s.gangWgs r ∧ s.takeArea w = some s1 ∧ u.gsWgs =
    (s1.putGang { (s1.gangOf w).getD r with state := .saving, reason := reason, target := target, savedN := 0, images := [] }).gsWgs := by
  unfold State.startSave at h
  split at h
  · exact absurd h.symm (Option.some_ne_none _)
  next w rest hws =>
    obtain ⟨s1, harea, rfl⟩ := Option.map_eq_some_iff.mp h
    refine ⟨s1, w, hws ▸ List.mem_cons_self, harea, (State.saveSweep_gsWgs _).trans ?_⟩
    refine (foldl_same State.gsWgs _ _ fun a _ v => ?_).trans (State.gsWgs_of_besideMem (State.writeHeader_besideMem _ _))
    exact foldl_same State.gsWgs _ v fun _ _ _ => rfl

theorem State.startSave_wgs : u.wgs = s.wgs := by
  obtain ⟨s1, w, -, harea, hu⟩ := State.startSave_gsWgs h
  obtain rfl | ⟨g, d, base, -, rfl⟩ := State.takeArea_eq harea <;> exact (congrArg Prod.snd hu :)

theorem State.startSave_gang? : ∃ s1 w g1, (w.launch, w.gang) = r.key ∧ s.takeArea w = some s1 ∧ g1.key = r.key ∧ g1.state = .saving ∧ g1.target = target ∧
    ∀ L G, u.gang? L G = (s1.putGang g1).gang? L G := by
  obtain ⟨s1, w, hw, harea, hu⟩ := State.startSave_gsWgs h
  obtain ⟨-, hkey⟩ := State.of_mem_gangWgs hw
  refine ⟨s1, w, _, hkey, harea, ?_, rfl, rfl, fun L G => (congrArg (fun x => x.1.gangs.find? (fun g => g.launch == L && g.gang == G)) hu :)⟩
  cases hg : s1.gangOf w with
  | none => rfl
  | some g => exact (State.key_of_gangOf hg).trans hkey

theorem State.startSave_gang?_ne {L G : Nat} (hne : r.key ≠ (L, G)) : u.gang? L G = s.gang? L G := by
  obtain ⟨s1, w, g1, hkey, harea, hg1, -, -, hu⟩ := State.startSave_gang? h
  rw [hu, State.gang?_putGang_ne (hg1 ▸ hne)]
  obtain rfl | ⟨g, d, base, hg, rfl⟩ := State.takeArea_eq harea
  · rfl
  · exact State.gang?_putGang_ne (s := s.putDie d) ((State.key_of_gangOf hg).trans hkey ▸ hne)

theorem State.startSave_gang?_self {g : Gang} (hr : s.gang? r.launch r.gang = some g) :
    (u.gang? r.launch r.gang).map (fun g => (g.state, g.target)) = some (.saving, target) := by
  obtain ⟨s1, w, g1, hkey, harea, hg1, hst, htarget, hu⟩ := State.startSave_gang? h
  have hs1 : ∃ g, s1.gang? r.launch r.gang = some g := by
    obtain rfl | ⟨g', d, base, hg, rfl⟩ := State.takeArea_eq harea
    · exact ⟨g, hr⟩
    · exact ⟨_, State.gang?_putGang (s := s.putDie d) hr ((State.key_of_gangOf hg).trans hkey)⟩
  obtain ⟨g', hg'⟩ := hs1
  rw [hu, State.gang?_putGang hg' hg1, Option.map_some, hst, htarget]

end

/-! ## `RELOCATION` (R153, R154) -/

/-- The gang that is relocated is one of the module's. -/
theorem State.mem_of_relocation {s : State} {key : Nat × Nat} {n : Need} {prio die : Nat} {r : Gang} {x : Nat × Nat}
    (h : s.relocation key n prio die = some (r, x)) : r ∈ s.gs.gangs := by
  have hmem : ∀ y, s.relocation key n prio die = some y → y ∈ s.gs.gangs.filterMap (fun r => (relocatable s key n prio die r).map (fun x => (r, x))) := by
    refine List.foldlRecOn (motive := fun b => ∀ y, b = some y → y ∈ _) _ _ (fun _ hy => absurd hy.symm (Option.some_ne_none _)) fun b hb z hz y hy => ?_
    split at hy
    · exact Option.some.inj hy ▸ hz
    · split_ifs at hy
      · exact Option.some.inj hy ▸ hz
      · exact hb y hy
  obtain ⟨r', hr', hx⟩ := List.mem_filterMap.mp (hmem _ h)
  obtain ⟨_, -, hpair⟩ := Option.map_eq_some_iff.mp hx
  exact (Prod.mk.inj hpair).1 ▸ hr'

theorem State.gang?_of_mem {s : State} {g : Gang} (h : g ∈ s.gs.gangs) : ∃ g', s.gang? g.launch g.gang = some g' :=
  Option.isSome_iff_exists.mp (List.find?_isSome.mpr ⟨g, h, by simp⟩)

theorem execRelocation_no_queue {s : State} {die : Nat} (h : (s.die die).queue = []) : exec (.relocation die) s = .next s := by
  change execRelocation die s = _
  simp [execRelocation, h]

section
variable {s : State} {die : Nat} {g : Gang} {n : Need} (hg : (s.die die).queue.head?.bind (fun x => s.gang? x.1 x.2) = some g)
  (hn : s.needOf g = some n)
include hg hn

theorem execRelocation_waits (h : g.helped = true ∨ s.relocating die = true ∨ (s.findRun n die (fun _ => true)).isSome = true) :
    exec (.relocation die) s = .next s := by
  change execRelocation die s = _
  simp only [execRelocation, hg, hn, if_pos h]

variable (hhelped : g.helped = false) (hreloc : s.relocating die = false) (hrun : s.findRun n die (fun _ => true) = none)
  {r : Gang} {x target : Nat} (hr : s.relocation (g.launch, g.gang) n g.prio die = some (r, x, target))
include hhelped hreloc hrun hr

theorem execRelocation_no_room (hsave : s.startSave r 0 (some target) = none) :
    exec (.relocation die) s = .next (s.putGang { r with barred := some (g.launch, g.gang) }) := by
  change execRelocation die s = _
  simp [execRelocation, hg, hn, hhelped, hreloc, hrun, hr, hsave]

theorem execRelocation_saves {u : State} (hsave : s.startSave r 0 (some target) = some u) :
    exec (.relocation die) s = .next (u.putGang { g with helped := true }) := by
  change execRelocation die s = _
  simp [execRelocation, hg, hn, hhelped, hreloc, hrun, hr, hsave]

end

/-! ## `GANG_SAVE_NOTICE` and `SAVED_NOTICE` (R210) -/

/-- A gang whose threads have not all been saved goes on being saved. -/
theorem State.finishSave_waits {u : State} {g : Gang} (h : g.savedN < u.liveOf g) : u.finishSave g = u :=
  if_pos (.inr (.inl h))

section
variable {s s1 : State} {k : Nat} {m : Msg} (ht : s.take k = some (m, s1))
include ht

theorem execGangSaveNotice_own {L G : Nat} (hb : m.body = .saveNotice L G) (hsrc : m.src < 1024) :
    exec (.gangSaveNotice k) s = .next s1.saveSweep := by
  change execGangSaveNotice k s = _
  simp only [execGangSaveNotice, ht, hb, if_pos hsrc, settled]

theorem execSavedNotice_counts {L G : Nat} {g : Gang} (hb : m.body = .savedNotice L G) (hg : s1.gang? L G = some g)
    (hlive : g.savedN + 1 < s1.liveOf g) : exec (.savedNotice k) s =
      .next ((s1.putGang { g with savedN := g.savedN + 1 }).writeHeader { g with savedN := g.savedN + 1 }) := by
  have hwgs := State.writeHeader_besideMem (s1.putGang { g with savedN := g.savedN + 1 }) { g with savedN := g.savedN + 1 }
  have hkeep : ((s1.putGang { g with savedN := g.savedN + 1 }).writeHeader { g with savedN := g.savedN + 1 }).liveOf { g with savedN := g.savedN + 1 } =
      s1.liveOf g := (congrArg (State.liveOf · { g with savedN := g.savedN + 1 }) hwgs :)
  change execSavedNotice k s = _
  simp only [execSavedNotice, ht, hb, countSaved, hg]
  rw [State.finishSave_waits (hkeep ▸ hlive)]

end

/-! ## A gang starts (R149-R151) -/

/-- No thread executes, and every thread's number is below the next one. -/
def State.numbered (s : State) : Prop := s.th.tid = 0 ∧ 0 < s.nextTid ∧ ∀ t ∈ s.threads, t.tid < s.nextTid

theorem State.numbered.thread?_nextTid {s : State} (h : s.numbered) : s.thread? s.nextTid = none := by
  obtain ⟨hth, hpos, hlt⟩ := h
  unfold State.thread?
  rw [if_neg (by omega), List.find?_eq_none]
  intro t ht
  have := hlt t ht
  simp only [beq_iff_eq]
  omega

/-- Nothing changes but that threads and workgroups are added. -/
def State.adds (s u : State) : Prop :=
  u.numbered ∧ ∃ new ws tid id, u = { s with threads := s.threads ++ new, wgs := ws, nextTid := tid, nextId := id }

theorem State.adds_refl {s : State} (h : s.numbered) : s.adds s := ⟨h, [], _, _, _, by rw [List.append_nil]⟩

theorem State.adds_trans {s t u : State} (h : s.adds t) (h' : t.adds u) : s.adds u := by
  obtain ⟨-, new, _, _, _, rfl⟩ := h
  obtain ⟨hu, new', _, _, _, rfl⟩ := h'
  exact ⟨hu, new ++ new', _, _, _, by rw [List.append_assoc]⟩

theorem State.adds.subset {s u : State} (h : s.adds u) : s.threads ⊆ u.threads := by
  obtain ⟨-, new, _, _, _, rfl⟩ := h
  exact List.subset_append_left _ _

/-- Where every step adds threads, so does the fold, and what each step has added is there at its end. -/
theorem foldl_adds {α : Type} {f : State → α → State} {added : α → List Thread → Prop} (hmono : ∀ a l l', l ⊆ l' → added a l → added a l')
    (hf : ∀ u a, u.numbered → u.adds (f u a) ∧ added a (f u a).threads) (l : List α) {s : State} (hs : s.numbered) :
    s.adds (l.foldl f s) ∧ ∀ a ∈ l, added a (l.foldl f s).threads := by
  induction l generalizing s with
  | nil => exact ⟨State.adds_refl hs, fun _ ha => absurd ha List.not_mem_nil⟩
  | cons a as ih =>
    obtain ⟨hstep, hadded⟩ := hf s a hs
    obtain ⟨hrest, hall⟩ := ih hstep.1
    refine ⟨State.adds_trans hstep hrest, fun b hb => ?_⟩
    obtain rfl | hb := List.mem_cons.mp hb
    · exact hmono _ _ _ hrest.subset hadded
    · exact hall b hb

/-- A thread in the slot that it takes. -/
def State.seated (s : State) (t : Thread) : Thread :=
  { t with place := .slot (((List.range 24).find? (fun k => !s.slotTaken t.core t.lane k)).getD 0), since := (s.core t.core).ccnt.toNat + 1 }

theorem State.seat_of_new {s : State} {t : Thread} (h : s.thread? t.tid = none) : s.seat t = { s with threads := s.threads ++ [s.seated t] } := by
  simp only [State.seat, h]
  rfl

theorem State.seat_of_known {s : State} {t : Thread} (h : (s.thread? t.tid).isSome = true) : s.seat t = s.putThread (s.seated t) :=
  if_pos h

/-- Thread `i` of a workgroup is created and takes its slot. -/
def startThread (w : Workgroup) (s : State) (i : Nat) : State := { s.seat (newThread s.nextTid w i) with nextTid := s.nextTid + 1 }

theorem startThread_eq {w : Workgroup} {s : State} (i : Nat) (hs : s.numbered) :
    startThread w s i = { s with threads := s.threads ++ [s.seated (newThread s.nextTid w i)], nextTid := s.nextTid + 1 } := by
  rw [startThread, State.seat_of_new (t := newThread s.nextTid w i) hs.thread?_nextTid]

/-- A thread of a gang as it begins: at its kernel's entry, its registers zero (R149). -/
def Thread.begins (launch gang pos i core : Nat) (entry : W64) (k : KDesc) (x : Thread) : Prop :=
  x.launch = launch ∧ x.gang = gang ∧ x.wgpos = pos ∧ x.index = i ∧ x.anchor = core ∧ x.core = core ∧ x.status = .ready ∧ x.pc = entry ∧
    x.q = Vector.replicate 16 0 ∧ x.n = Vector.replicate 32 0 ∧ x.nbud = k.nbud ∧ x.vbud = k.vbud

section
variable (j : Job) (t : Tcb) (img : Image) (k : KDesc) (gang : Nat)

theorem newThread_begins (s : State) (tid pos i core lbase : Nat) :
    (newThread tid (newWorkgroup s j t img k gang pos core lbase) i).begins t.launch gang pos i core (handleOf (indexOf img.code) k.entry) k :=
  ⟨rfl, rfl, rfl, rfl, rfl, rfl, rfl, rfl, rfl, rfl, rfl, rfl⟩

/-- The threads of a workgroup of the gang have begun. -/
def begun (pos core : Nat) (l : List Thread) : Prop :=
  ∀ i, i < k.wgsize → ∃ x ∈ l, x.begins t.launch gang pos i core (handleOf (indexOf img.code) k.entry) k

theorem startWorkgroup_adds (pos core lbase : Nat) {s : State} (hs : s.numbered) :
    s.adds (startWorkgroup j t img k gang pos core lbase s) ∧ begun t img k gang pos core (startWorkgroup j t img k gang pos core lbase s).threads := by
  let w := newWorkgroup s j t img k gang pos core lbase
  let s1 : State := { s.putWg w with nextId := s.nextId + 1 }
  have hs1 : s.adds s1 := ⟨hs, [], _, _, _, by rw [List.append_nil]; rfl⟩
  have hfold := foldl_adds (f := startThread w)
    (added := fun i l => ∃ x ∈ l, x.begins t.launch gang pos i core (handleOf (indexOf img.code) k.entry) k)
    (fun i l l' hsub ⟨x, hx, hbegins⟩ => ⟨x, hsub hx, hbegins⟩) (fun u i hu => ?_) (List.range k.wgsize) hs1.1
  · exact ⟨State.adds_trans hs1 hfold.1, fun i hi => hfold.2 i (List.mem_range.mpr hi)⟩
  · rw [startThread_eq i hu]
    refine ⟨⟨⟨hu.1, Nat.succ_pos _, fun x hx => ?_⟩, _, _, _, _, rfl⟩,
      _, List.mem_append_right _ (List.mem_singleton_self _), newThread_begins j t img k gang s u.nextTid pos i core lbase⟩
    obtain hx | hx := List.mem_append.mp hx
    · exact Nat.lt_succ_of_lt (hu.2.2 x hx)
    · obtain rfl := List.mem_singleton.mp hx
      exact Nat.lt_succ_self u.nextTid

/-- The workgroups of the gang, each with its local range, at the cores of a run. -/
def startWorkgroups (first : Nat) (bases : List Nat) (s : State) : State :=
  bases.zipIdx.foldl (fun s x => startWorkgroup j t img k gang x.2 (first + x.2) x.1 s) s

theorem startWorkgroups_adds (first : Nat) (bases : List Nat) {s : State} (hs : s.numbered) :
    s.adds (startWorkgroups j t img k gang first bases s) ∧
      ∀ p, p < bases.length → begun t img k gang p (first + p) (startWorkgroups j t img k gang first bases s).threads := by
  have hfold := foldl_adds (f := fun s x => startWorkgroup j t img k gang x.2 (first + x.2) x.1 s)
    (added := fun (x : Nat × Nat) l => begun t img k gang x.2 (first + x.2) l)
    (fun x l l' hsub hbegun i hi => (hbegun i hi).imp fun _ hx => ⟨hsub hx.1, hx.2⟩)
    (fun u x hu => startWorkgroup_adds j t img k gang x.2 (first + x.2) x.1 hu) bases.zipIdx hs
  refine ⟨hfold.1, fun p hp => hfold.2 (bases[p], p) ?_⟩
  exact List.mk_mem_zipIdx_iff_getElem?.mpr (List.getElem?_eq_getElem hp)

end

/-- A range for each allocation that asks for one (R148). -/
theorem firstFits_length {n : Nat} {ps : List (Option Nat)} {used : List (Nat × Nat)} {l : List Nat} (h : firstFits used n ps = some l) :
    l.length = ps.length := by
  induction ps generalizing used l with
  | nil => cases h; rfl
  | cons p ps ih =>
    simp only [firstFits] at h
    split at h
    · exact absurd h.symm (Option.some_ne_none _)
    · obtain ⟨l', hl', rfl⟩ := Option.map_eq_some_iff.mp h
      exact congrArg (· + 1) (ih hl')

theorem State.findRun_length {s : State} {n : Need} {die first : Nat} {sel : Nat → Bool} {bases : List Nat}
    (h : s.findRun n die sel = some (first, bases)) : bases.length = n.places.length := by
  unfold State.findRun at h
  split_ifs at h
  obtain ⟨c, -, hc⟩ := List.exists_of_findSome?_eq_some h
  obtain ⟨l, hl, hpair⟩ := Option.map_eq_some_iff.mp hc
  obtain ⟨-, rfl⟩ := Prod.mk.inj hpair
  unfold State.runAt at hl
  split_ifs at hl
  exact firstFits_length hl

/-! ## `GANG_PLACEMENT` (R151) -/

theorem execGangPlacement_no_queue {s : State} {die : Nat} (h : (s.die die).queue = []) : exec (.gangPlacement die) s = .next s := by
  change execGangPlacement die s = _
  simp [execGangPlacement, h]

section
variable {s : State} {die L G : Nat} {rest : List (Nat × Nat)} {g : Gang} {j : Job} {t : Tcb} {img : Image} {k : KDesc}
  (hq : (s.die die).queue = (L, G) :: rest) (hg : s.gang? L G = some g) (hst : g.state = .queued) (hl : s.launch? L = some (j, t))
  (hc : t.cancel = false) (hr : s.relocating die = false) (hi : s.imageOf j = some img) (hk : img.kdesc? t.kdesc = some k)
include hq hg hst hl hc hr hi hk

theorem execGangPlacement_waits (h : s.findRun k.need die (fun _ => true) = none) : exec (.gangPlacement die) s = .next s := by
  change execGangPlacement die s = _
  simp [execGangPlacement, hq, hg, hst, hl, hc, hr, hi, hk, h]

theorem execGangPlacement_starts {first : Nat} {bases : List Nat} (h : s.findRun k.need die (fun _ => true) = some (first, bases)) :
    exec (.gangPlacement die) s = .next (startGang g j t img k first bases (s.putDie { s.die die with queue := rest })) := by
  change execGangPlacement die s = _
  simp [execGangPlacement, hq, hg, hst, hl, hc, hr, hi, hk, h]

end

/-- A gang that starts: it runs at its run, its threads have begun, and nothing else changes but the order of placements. -/
theorem startGang_starts {s : State} (hs : s.numbered) {L G : Nat} {g : Gang} (hg : s.gang? L G = some g) (j : Job) (t : Tcb) (img : Image)
    (k : KDesc) (first : Nat) (bases : List Nat) : let u := startGang g j t img k first bases s
    u.mem = s.mem ∧ u.dies = s.dies ∧ (u.gang? L G).map (fun g => (g.state, g.run, g.width)) = some (.running, first, k.gangw) ∧
      ∀ p, p < bases.length → begun t img k G p (first + p) u.threads := by
  intro u
  have hkey := State.key_of_gang? hg
  obtain ⟨hadds, hbegun⟩ := startWorkgroups_adds j t img k g.gang first bases hs
  let g1 : Gang := { g with state := .running, run := first, width := k.gangw, order := s.gs.order, helped := false }
  have hthreads : u.threads = (startWorkgroups j t img k g.gang first bases s).threads := rfl
  have hgang : u.gang? L G = ((startWorkgroups j t img k g.gang first bases s).putGang g1).gang? L G := rfl
  obtain ⟨-, new, ws, tid, id, heq⟩ := hadds
  have hgs : (startWorkgroups j t img k g.gang first bases s).gang? L G = some g := by rw [heq]; exact hg
  refine ⟨(congrArg State.mem heq :), (congrArg State.dies heq :), ?_, ?_⟩
  · rw [hgang, State.gang?_putGang hgs (g' := g1) hkey]
    rfl
  · rw [hthreads, ← (Prod.mk.inj hkey).2]
    exact hbegun

/-! ## What leaves the scheduler's tables, main memory and the messages as they are -/

/-- The tables of the graph scheduler, main memory and the messages in flight. -/
def State.outside (s : State) : Scheduler × Memory × List Msg := (s.gs, s.mem, s.net)

theorem markRows_outside (j : EngJob) (ks : List Nat) (s : State) : (markRows j ks s).outside = s.outside := by
  unfold markRows setCb
  split_ifs
  · rfl
  · split <;> rfl

theorem endJob_outside (plaza n : Nat) (j : EngJob) (st cause : Nat) (s : State) : (endJob plaza n j st cause s).outside = s.outside := by
  induction n generalizing j st cause s with
  | zero => rfl
  | succ n ih =>
    simp only [endJob]
    by_cases hend : st = 4 ∨ st = 5
    · rw [if_pos hend]
      rfl
    · rw [if_neg hend]
      refine (foldl_same State.outside _ _ fun k _ u => ?_).trans rfl
      split
      · split_ifs
        · exact ih _ _ _ _
        · rfl
      · rfl

/-- The engine jobs of a gang that do not go on end in its plaza (R331). -/
theorem State.cancelFaulted_outside (s : State) (g : Gang) : (s.cancelFaulted g).outside = s.outside := by
  refine foldl_same State.outside _ s fun j _ u => ?_
  split
  · split_ifs
    · exact (endJob_outside _ _ _ _ _ _).trans (markRows_outside _ _ _)
    · rfl
  · rfl

theorem State.releaseBanks_outside (s : State) (w : Workgroup) : (s.releaseBanks w).outside = s.outside := by
  refine foldl_same State.outside _ s fun b _ u => ?_
  dsimp only
  split_ifs <;> rfl

theorem State.leavePlaza_outside (s : State) (g : Gang) : (s.leavePlaza g).outside = s.outside :=
  (foldl_same State.outside _ s fun w _ u => u.releaseBanks_outside w :)

theorem State.dropArea_outside (s : State) (g : Gang) : (s.dropArea g).outside = s.outside := by
  unfold State.dropArea
  split
  · dsimp only
    split_ifs <;> rfl
  · rfl

/-! ## A gang retires (R155, R289) -/

/-- The gang has left its plaza and its save area; its workgroups and exited threads are gone. -/
def State.released (s : State) (g : Gang) : State :=
  let s1 := (if g.stands then s.leavePlaza g else s).dropArea g
  { s1.putGang { g with state := .retired, saveArea := false, images := [] } with
    wgs := s1.wgs.filter (fun w => !(w.launch == g.launch && w.gang == g.gang))
    threads := s1.threads.filter (fun t => !(g.owns t && t.status == .exited)) }

/-- The launch has one gang less to wait for. -/
def State.gangDone (s : State) (g : Gang) : State :=
  match s.job? g.job with
  | some j => s.putJob (j.mapTcb (fun t => t.launch == g.launch) (fun t => { t with gleft := t.gleft - 1 }))
  | none => s

theorem retireGang_eq (g : Gang) (s : State) : retireGang g s = ((s.released g).gangDone g).retrySuspends.suspendsDone := rfl

/-- The job of a number is suspended. -/
def State.jobSuspended (s : State) (num : Nat) : Bool := ((s.job? num).map Job.suspended).getD false

theorem State.gangDone_jobSuspended (s : State) (g : Gang) (num : Nat) : (s.gangDone g).jobSuspended num = s.jobSuspended num := by
  unfold State.gangDone
  split
  next j hj =>
    have hjob := State.num_of_job? hj
    by_cases hnum : j.num = num
    · obtain rfl : g.job = num := hjob.symm.trans hnum
      unfold State.jobSuspended
      rw [State.job?_putJob (j := j.mapTcb _ _) hjob, hj]
      rfl
    · have hne : (s.putJob (j.mapTcb (fun t => t.launch == g.launch) (fun t => { t with gleft := t.gleft - 1 }))).job? num = s.job? num :=
        find_putBy_ne Job.num s.gs.jobs hnum
      rw [State.jobSuspended, hne, State.jobSuspended]
  next => rfl

/-- Gangs, workgroups and main memory. -/
def State.gangsWgsMem (s : State) : List Gang × List Workgroup × Memory := (s.gs.gangs, s.wgs, s.mem)

theorem State.gangDone_gangsWgsMem (s : State) (g : Gang) : (s.gangDone g).gangsWgsMem = s.gangsWgsMem := by
  unfold State.gangDone
  split <;> rfl

theorem State.suspendsDone_gangsWgsMem (s : State) : s.suspendsDone.gangsWgsMem = s.gangsWgsMem := by
  unfold State.suspendsDone
  refine (foldl_same State.gangsWgsMem _ _ fun x _ u => ?_).trans ?_
  · rfl
  · rfl

theorem State.retrySuspends_of_none {s : State} (h : ∀ x ∈ s.gs.gangs, x.state = .running → s.jobSuspended x.job = false) : s.retrySuspends = s := by
  have hnil : s.gs.gangs.filter (fun g => g.state == .running && ((s.job? g.job).map Job.suspended).getD false) = [] := by
    refine List.filter_eq_nil_iff.mpr fun x hx => ?_
    by_cases hrun : x.state = .running
    · have hsusp : ((s.job? x.job).map Job.suspended).getD false = false := h x hx hrun
      simp [hsusp]
    · simp [hrun]
  unfold State.retrySuspends
  rw [hnil, List.foldl_nil]

/-- A suspend that tries again touches no gang but those that run. -/
theorem State.retrySuspends_gang? {s : State} {L G : Nat} (h : ∀ x ∈ s.gs.gangs, x.state = .running → x.key ≠ (L, G)) :
    s.retrySuspends.gang? L G = s.gang? L G ∧ s.retrySuspends.wgs = s.wgs := by
  refine Prod.mk.inj (foldl_same (fun u => (u.gang? L G, u.wgs)) _ s fun x hx u => ?_)
  obtain ⟨hmem, hrun⟩ := List.mem_filter.mp hx
  rw [Bool.and_eq_true, beq_iff_eq] at hrun
  cases hsave : u.startSave x 1 none with
  | none => rfl
  | some v => exact Prod.ext (State.startSave_gang?_ne hsave (h x hmem hrun.1)) (State.startSave_wgs hsave)

section
variable {s : State} {L G : Nat} {g : Gang} (hg : s.gang? L G = some g)
include hg

theorem State.released_facts : (s.released g).mem = s.mem ∧ (s.released g).gs.jobs = s.gs.jobs ∧ ((s.released g).gang? L G).map Gang.state = some .retired ∧
    (∀ w ∈ (s.released g).wgs, w.launch = L → w.gang ≠ G) ∧ ∀ x ∈ (s.released g).gs.gangs, x.state = .running → x ∈ s.gs.gangs ∧ x.key ≠ (L, G) := by
  have hkey := State.key_of_gang? hg
  have hout : ((if g.stands then s.leavePlaza g else s).dropArea g).outside = s.outside := by
    rw [State.dropArea_outside]
    split_ifs
    · exact s.leavePlaza_outside g
    · rfl
  obtain ⟨hgs, hmem⟩ := Prod.mk.inj hout
  obtain ⟨hmem, -⟩ := Prod.mk.inj hmem
  let g1 : Gang := { g with state := .retired, saveArea := false, images := [] }
  have hgang : (s.released g).gang? L G = some g1 :=
    State.gang?_putGang (s := (if g.stands then s.leavePlaza g else s).dropArea g) (g := g) (by rw [State.gang?, hgs]; exact hg) hkey
  refine ⟨hmem, (congrArg Scheduler.jobs hgs :), by rw [hgang]; rfl, fun w hw hl hgw => ?_, fun x hx hrun => ?_⟩
  · have hother := (List.mem_filter.mp hw).2
    obtain ⟨rfl, rfl⟩ := Prod.mk.inj hkey
    simp [hl, hgw] at hother
  · obtain ⟨y, hy, rfl⟩ := List.mem_map.mp hx
    rw [hgs] at hy
    split_ifs at hrun ⊢ with hsame
    exact ⟨hy, fun hk => hsame (Prod.mk.inj (hk.trans hkey.symm))⟩

/-- A gang that retires is retired, its workgroups are gone, and main memory stays where no suspend waits for its save area. -/
theorem retireGang_retires : ((retireGang g s).gang? L G).map Gang.state = some .retired ∧ (∀ w ∈ (retireGang g s).wgs, w.launch = L → w.gang ≠ G) ∧
    ((∀ x ∈ s.gs.gangs, x.state = .running → s.jobSuspended x.job = false) → (retireGang g s).mem = s.mem) := by
  obtain ⟨hmem, hjobs, hretired, hwgs, hrunning⟩ := State.released_facts hg
  let s3 := (s.released g).gangDone g
  obtain ⟨hgangs3, hrest3⟩ := Prod.mk.inj ((s.released g).gangDone_gangsWgsMem g)
  obtain ⟨hwgs3, hmem3⟩ := Prod.mk.inj hrest3
  obtain ⟨hgangs, hrest⟩ := Prod.mk.inj (s3.retrySuspends.suspendsDone_gangsWgsMem)
  obtain ⟨hwgsEnd, hmemEnd⟩ := Prod.mk.inj hrest
  obtain ⟨hgang, hwgsRetry⟩ := State.retrySuspends_gang? (s := s3) fun x hx hrun => (hrunning x (hgangs3 ▸ hx) hrun).2
  rw [retireGang_eq]
  refine ⟨?_, ?_, fun hsusp => ?_⟩
  · have hend : s3.retrySuspends.suspendsDone.gang? L G = s3.retrySuspends.gang? L G := congrArg (List.find? _) hgangs
    have h3 : s3.gang? L G = (s.released g).gang? L G := congrArg (List.find? _) hgangs3
    rw [hend, hgang, h3, hretired]
  · rw [hwgsEnd, hwgsRetry, hwgs3]
    exact hwgs
  · have hnone : s3.retrySuspends = s3 := State.retrySuspends_of_none fun x hx hrun => by
      have hjob : (s.released g).jobSuspended x.job = s.jobSuspended x.job :=
        congrArg (fun l => ((l.find? (fun j => j.num == x.job)).map Job.suspended).getD false) hjobs
      rw [State.gangDone_jobSuspended, hjob]
      exact hsusp x (hrunning x (hgangs3 ▸ hx) hrun).1 hrun
    rw [hmemEnd, hnone, hmem3, hmem]

end

/-! ## `GANG_RETIRE` (R155, R289, R331) -/

/-- The state in which the conditions of R155 are looked at: of a gang whose threads have all exited, the engine jobs that do not go on have ended. -/
def State.settledJobs (s : State) (g : Gang) : State := if g.stands && s.gangExited g then s.cancelFaulted g else s

theorem State.settledJobs_outside (s : State) (g : Gang) : (s.settledJobs g).outside = s.outside := by
  unfold State.settledJobs
  split_ifs
  · exact s.cancelFaulted_outside g
  · rfl

/-- A gang with a thread that has not exited does not retire. -/
theorem State.canRetire_of_not_exited {s : State} {g : Gang} (h : s.gangExited g = false) : s.canRetire g = false := by
  simp only [State.gangExited, Bool.not_eq_false', List.any_eq_true, Bool.and_eq_true] at h
  obtain ⟨t, ht, howns, hst⟩ := h
  have hany : s.allThreads.any (fun t => g.owns t && (t.status != .exited || !t.writes.isEmpty || !t.fwd.isEmpty)) = true :=
    List.any_eq_true.mpr ⟨t, ht, by simp [howns, hst]⟩
  simp [State.canRetire, hany]

/-- The workgroups of a gang whose FIFO banks have a producer that has not answered. -/
def State.heldUp (s : State) (g : Gang) : Bool := (if g.stands then s.gangWgs g else []).any (fun w => !(s.unrevoked w).isEmpty)

section
variable {s : State} {L G : Nat} {g : Gang} (hg : s.gang? L G = some g)
include hg

theorem execGangRetire_eq : let s1 := s.settledJobs g
    exec (.gangRetire L G) s = .next (if s1.canRetire g = false then s1
      else if s1.heldUp g then (if g.stands then s1.gangWgs g else []).foldl State.revokeBanks s1
      else retireGang g (s1.putDie { s1.die g.die with queue := (s1.die g.die).queue.filter (fun x => x != (L, G)) })) := by
  change execGangRetire L G s = _
  simp only [execGangRetire, hg, ← Bool.not_eq_true']
  rfl

theorem execGangRetire_waits (h : (s.settledJobs g).canRetire g = false) : exec (.gangRetire L G) s = .next (s.settledJobs g) := by
  rw [execGangRetire_eq hg, if_pos h]

theorem execGangRetire_runs (h : s.gangExited g = false) : exec (.gangRetire L G) s = .next s := by
  have hs1 : s.settledJobs g = s := by simp [State.settledJobs, h]
  rw [execGangRetire_waits hg (by rw [hs1]; exact State.canRetire_of_not_exited h), hs1]

variable (hcan : (s.settledJobs g).canRetire g = true)
include hcan

theorem execGangRetire_revokes {w : Workgroup} {x : Nat × W64} (hstands : g.stands = true) (hw : (s.settledJobs g).gangWgs g = [w])
    (hx : (s.settledJobs g).unrevoked w = [x]) : exec (.gangRetire L G) s = .next ((s.settledJobs g).revokeBanks w) := by
  rw [execGangRetire_eq hg]
  simp [State.heldUp, hcan, hstands, hw, hx]

theorem execGangRetire_retires (h : g.stands = true → ∀ w ∈ (s.settledJobs g).gangWgs g, (s.settledJobs g).unrevoked w = []) :
    ∃ d, exec (.gangRetire L G) s = .next (retireGang g ((s.settledJobs g).putDie d)) := by
  have hnone : (s.settledJobs g).heldUp g = false := by
    refine List.any_eq_false.mpr fun w hw => ?_
    split_ifs at hw with hstands
    · simp [h hstands w hw]
    · exact absurd hw List.not_mem_nil
  have hexec := execGangRetire_eq hg
  simp only [hcan, hnone, Bool.true_eq_false, Bool.false_eq_true, if_false] at hexec
  exact ⟨_, hexec⟩

end

/-- The producer of the one FIFO bank that has not been revoked is sent a revoke (log entry 87). -/
theorem State.revokeBanks_of_one {s : State} {w : Workgroup} {b : Nat} {pd : W64} (hx : s.unrevoked w = [(b, pd)])
    (hstage : (s.plaza (plazaOf w.anchor)).stage? b = none) : let p := plazaOf w.anchor
    s.revokeBanks w = (s.setStage p b (some (0, .releasing))).send (bankCore p b) ((parseDesc pd).dst w.asid) 2 (.revoke (bankDesc p b) p b true) := by
  simp only [State.revokeBanks, hx, List.foldl_cons, List.foldl_nil, hstage]

/-! ## Threads by their numbers -/

section
variable {α : Type} {key : α → Nat} {x : α} {l : List α}

theorem self_mem_putBy : x ∈ putBy key x l := by
  induction l with
  | nil => exact List.mem_singleton_self _
  | cons y ys ih =>
    rw [putBy]
    split_ifs
    · exact List.mem_cons_self
    · exact List.mem_cons_of_mem _ ih

theorem mem_putBy_of_ne {y : α} (hy : y ∈ l) (hne : key y ≠ key x) : y ∈ putBy key x l := by
  induction l with
  | nil => cases hy
  | cons z zs ih =>
    rw [putBy]
    obtain rfl | hy := List.mem_cons.mp hy
    · rw [if_neg hne]
      exact List.mem_cons_self
    · split_ifs
      · exact List.mem_cons_of_mem _ hy
      · exact List.mem_cons_of_mem _ (ih hy)

/-- Replacing a record leaves the keys as they are. -/
theorem map_putBy_of_mem (h : key x ∈ l.map key) : (putBy key x l).map key = l.map key := by
  induction l with
  | nil => cases h
  | cons y ys ih =>
    rw [putBy]
    split_ifs with hy
    · rw [List.map_cons, List.map_cons, hy]
    · rw [List.map_cons, List.map_cons, ih ((List.mem_cons.mp h).resolve_left (Ne.symm hy))]

end

/-- No thread executes, and threads have numbers of their own, none 0. -/
def State.distinct (s : State) : Prop := s.th.tid = 0 ∧ (s.threads.map Thread.tid).Nodup ∧ 0 ∉ s.threads.map Thread.tid

/-- A thread as it was, but that it stands elsewhere and is not saved. -/
def Thread.goesOnAs (t t' : Thread) : Prop :=
  t'.tid = t.tid ∧ t'.status ≠ .saved ∧ t'.pc = t.pc ∧ t'.q = t.q ∧ t'.n = t.n ∧ t'.v = t.v ∧ t'.p = t.p

theorem Thread.goesOnAs_trans {t t' t'' : Thread} (h : t.goesOnAs t') (h' : t'.goesOnAs t'') : t.goesOnAs t'' := by
  obtain ⟨h1, -, h3, h4, h5, h6, h7⟩ := h
  obtain ⟨i1, i2, i3, i4, i5, i6, i7⟩ := h'
  exact ⟨i1.trans h1, i2, i3.trans h3, i4.trans h4, i5.trans h5, i6.trans h6, i7.trans h7⟩

/-- Every thread is still there, and those that pass a test go on. -/
def State.carries (s u : State) (goes : Thread → Prop) : Prop :=
  u.distinct ∧ ∀ t ∈ s.threads, ∃ t' ∈ u.threads, t'.tid = t.tid ∧ (goes t → t.goesOnAs t')

/-- A thread that is not saved. -/
def Thread.unsaved (t : Thread) : Prop := t.status ≠ .saved

theorem State.carries_refl {s : State} (h : s.distinct) : s.carries s Thread.unsaved :=
  ⟨h, fun t ht => ⟨t, ht, rfl, fun hgo => ⟨rfl, hgo, rfl, rfl, rfl, rfl, rfl⟩⟩⟩

theorem State.carries_none {s : State} (h : s.distinct) : s.carries s (fun _ => False) :=
  ⟨h, fun t ht => ⟨t, ht, rfl, False.elim⟩⟩

theorem State.carries_trans {s u v : State} {goes : Thread → Prop} (h : s.carries u goes) (h' : u.carries v Thread.unsaved) : s.carries v goes := by
  refine ⟨h'.1, fun t ht => ?_⟩
  obtain ⟨t', ht', htid, hgo⟩ := h.2 t ht
  obtain ⟨t'', ht'', htid', hgo'⟩ := h'.2 t' ht'
  exact ⟨t'', ht'', htid'.trans htid, fun hg => Thread.goesOnAs_trans (hgo hg) (hgo' (hgo hg).2.1)⟩

theorem State.carries.mono {s u : State} {goes goes' : Thread → Prop} (h : s.carries u goes) (hle : ∀ t ∈ s.threads, goes' t → goes t) :
    s.carries u goes' :=
  ⟨h.1, fun t ht => (h.2 t ht).imp fun _ hx => ⟨hx.1, hx.2.1, fun hg => hx.2.2 (hle t ht hg)⟩⟩

/-- The threads alone say whether they are carried. -/
theorem State.carries_of_threads {s u v : State} {goes : Thread → Prop} (h : s.carries u goes) (hth : v.th = u.th) (hts : v.threads = u.threads) :
    s.carries v goes := by
  unfold State.carries State.distinct
  rw [hth, hts]
  exact h

/-- A thread put in the place of one that it goes on as. -/
theorem State.carries_putThread {s u : State} {goes : Thread → Prop} {x y : Thread} (hs : (s.threads.map Thread.tid).Nodup) (h : s.carries u goes)
    (hx : x ∈ s.threads) (hy : x.goesOnAs y) : s.carries (u.putThread y) (fun t => goes t ∨ t = x) := by
  obtain ⟨⟨hth, hnodup, hzero⟩, hall⟩ := h
  obtain ⟨x', hx', htid, -⟩ := hall x hx
  have hmem : y.tid ∈ u.threads.map Thread.tid := List.mem_map.mpr ⟨x', hx', htid.trans hy.1.symm⟩
  have hput : u.putThread y = { u with threads := putBy Thread.tid y u.threads } :=
    if_neg fun he : u.th.tid = y.tid => hzero (hth ▸ he ▸ hmem)
  rw [hput]
  refine ⟨⟨hth, ?_, ?_⟩, fun t ht => ?_⟩
  · exact (map_putBy_of_mem hmem).symm ▸ hnodup
  · exact (map_putBy_of_mem hmem).symm ▸ hzero
  · by_cases hsame : t.tid = x.tid
    · obtain rfl := List.inj_on_of_nodup_map hs ht hx hsame
      exact ⟨y, self_mem_putBy, hy.1, fun _ => hy⟩
    · obtain ⟨t', ht', htid', hgo⟩ := hall t ht
      refine ⟨t', mem_putBy_of_ne ht' (fun he => hsame (htid'.symm.trans (he.trans hy.1))), htid', fun hg => hgo (hg.resolve_right ?_)⟩
      rintro rfl
      exact hsame rfl

/-- Threads of a list are put back one after another, each as it goes on. -/
theorem State.carries_foldl {s u : State} {goes : Thread → Prop} {f : State → Thread → State} {l : List Thread}
    (hs : (s.threads.map Thread.tid).Nodup) (h : s.carries u goes) (hl : ∀ x ∈ l, x ∈ s.threads)
    (hf : ∀ x ∈ l, ∀ v goes, s.carries v goes → ∃ y, f v x = v.putThread y ∧ x.goesOnAs y) :
    s.carries (l.foldl f u) (fun t => goes t ∨ t ∈ l) := by
  induction l generalizing u goes with
  | nil => exact h.mono fun t _ hg => hg.resolve_right List.not_mem_nil
  | cons x xs ih =>
    obtain ⟨y, hstep, hgo⟩ := hf x List.mem_cons_self u goes h
    have hput := State.carries_putThread hs h (hl x List.mem_cons_self) hgo
    rw [← hstep] at hput
    refine (ih hput (fun z hz => hl z (List.mem_cons_of_mem _ hz)) fun z hz => hf z (List.mem_cons_of_mem _ hz)).mono fun t _ hg => ?_
    rw [List.mem_cons] at hg
    tauto

theorem State.carries.thread?_isSome {s u : State} {goes : Thread → Prop} {x : Thread} (h : s.carries u goes) (hx : x ∈ s.threads) :
    (u.thread? x.tid).isSome = true := by
  obtain ⟨⟨hth, -, hzero⟩, hall⟩ := h
  obtain ⟨x', hx', htid, -⟩ := hall x hx
  have hne : u.th.tid ≠ x.tid := fun he => hzero (List.mem_map.mpr ⟨x', hx', htid.trans (he.symm.trans hth)⟩)
  rw [State.thread?, if_neg hne]
  exact List.find?_isSome.mpr ⟨x', hx', beq_iff_eq.mpr htid⟩

/-! ## A gang is restored (R213) -/

theorem Thread.running_ne_saved (t : Thread) : t.running ≠ .saved := by
  unfold Thread.running
  split_ifs <;> exact Status.noConfusion

/-- An `IDLE` that ends goes on where it stood (R206, R208). -/
theorem wakeIdlers_carries (w : Workgroup) {u : State} (h : u.distinct) : u.carries (wakeIdlers w u) Thread.unsaved := by
  refine List.foldlRecOn (motive := fun v => u.carries v Thread.unsaved) _ _ (State.carries_refl h) fun v hv x hx => ?_
  have hmem : x ∈ u.threads := by
    have hall := List.mem_of_mem_filter hx
    rwa [State.allThreads, if_pos h.1] at hall
  split_ifs
  · refine State.carries.mono (State.carries_putThread h.2.1 hv hmem ?_) fun _ _ hg => .inl hg
    exact ⟨rfl, x.running_ne_saved, rfl, rfl, rfl, rfl, rfl⟩
  · exact State.carries_of_threads hv rfl rfl

/-- A saved thread takes a slot at its workgroup's new anchor, where it goes on. -/
theorem State.restoreThread_eq {s : State} (w : Workgroup) {t : Thread} (h : (s.thread? t.tid).isSome = true) :
    ∃ y, s.restoreThread w t = s.putThread y ∧ t.goesOnAs y := by
  refine ⟨_, State.seat_of_known h, rfl, ?_, rfl, rfl, rfl, rfl, rfl⟩
  cases t.wait <;> simp [State.seated, Thread.running_ne_saved]

/-- The tables of the graph scheduler and main memory. -/
def State.gsMem (s : State) : Scheduler × Memory := (s.gs, s.mem)

theorem State.putThread_gsMem (s : State) (t : Thread) : (s.putThread t).gsMem = s.gsMem := by
  simp [State.gsMem]

theorem State.seat_gsMem (s : State) (t : Thread) : (s.seat t).gsMem = s.gsMem := by
  unfold State.seat
  dsimp only
  split_ifs
  · exact s.putThread_gsMem _
  · rfl

theorem wakeIdlers_gsMem (w : Workgroup) (s : State) : (wakeIdlers w s).gsMem = s.gsMem := by
  obtain ⟨_, _, _, heq, -⟩ := State.onlyThreads_wakeIdlers w s
  rw [heq]
  rfl

/-- The tables of the graph scheduler, main memory and the threads: what the images of a gang leave as they are. -/
def State.besideImages (s : State) : (Scheduler × Memory) × Thread × List Thread := (s.gsMem, s.th, s.threads)

theorem restoreBank_besideImages (w : Workgroup) (s : State) (x : Nat × BankMode × List Byte) : (restoreBank w s x).besideImages = s.besideImages := by
  unfold restoreBank
  dsimp only
  split
  · rfl
  · split
    · split <;> rfl
    · rfl

theorem restoreWorkgroup_besideImages (m : List (Nat × Nat)) (img : GangImage) (core lbase : Nat) (s : State) (w : Workgroup) :
    (restoreWorkgroup m img core lbase s w).besideImages = s.besideImages :=
  (foldl_same State.besideImages _ _ fun x _ u => restoreBank_besideImages _ u x :)

/-- Every image of a gang stands where the gang's run has room for it. -/
def restoreImages (g : Gang) (first : Nat) (bases : List Nat) (s : State) : State :=
  let p := s.plaza (plazaOf first)
  let items := g.images.flatMap GangImage.items
  let top := (g.images.flatMap GangImage.stamps).foldl (fun v x => max v x.2) p.wctr
  (g.images.zip bases).foldl (fun s x =>
    match s.wgs.find? (fun w => w.launch == g.launch && w.gang == g.gang && w.wgpos == x.1.wgpos) with
    | some w => restoreWorkgroup (renumber p.nextSerial items) x.1 (first + x.1.wgpos) x.2 s w
    | none => s) (s.putPlaza { p with nextSerial := p.nextSerial + items.length, wctr := (top + 1) % 2 ^ 64 })

theorem restoreImages_besideImages (g : Gang) (first : Nat) (bases : List Nat) (s : State) :
    (restoreImages g first bases s).besideImages = s.besideImages := by
  refine (foldl_same State.besideImages _ _ fun x _ u => ?_).trans rfl
  split
  · exact restoreWorkgroup_besideImages _ _ _ _ _ _
  · rfl

/-- A restored gang as its run has it. -/
def Gang.restored (g : Gang) (first order : Nat) : Gang :=
  { g with state := .running, run := first, order := order, target := none, helped := false, images := [] }

/-- The gang runs again, and its threads are those of its images. -/
def State.runsAgain (s : State) (g : Gang) : State := { s.putGang g with gs := { (s.putGang g).gs with order := g.order + 1 } }

/-- The saved threads of a gang are created again. -/
def State.restoreThreads (s : State) (g : Gang) : State :=
  (s.threads.filter (fun t => g.owns t && t.status == .saved)).foldl (fun s t => s.restoreThread (s.wgOf t) t) s

theorem restoreGang_eq (g : Gang) (first : Nat) (bases : List Nat) (s : State) : ∃ ws : List Workgroup, restoreGang g first bases s =
    ws.foldl (fun s w => wakeIdlers w s) (((restoreImages g first bases s).runsAgain (g.restored first s.gs.order)).restoreThreads g) :=
  ⟨_, rfl⟩

theorem State.restoreThreads_gsMem (s : State) (g : Gang) : (s.restoreThreads g).gsMem = s.gsMem :=
  foldl_same State.gsMem _ s fun _ _ u => u.seat_gsMem _

theorem State.restoreThreads_carries {s : State} (h : s.distinct) (g : Gang) :
    s.carries (s.restoreThreads g) (fun t => g.owns t = true ∧ t.status = .saved) := by
  refine (State.carries_foldl h.2.1 (State.carries_none h) (fun x hx => List.mem_of_mem_filter hx) fun x hx v goes hv => ?_).mono fun t ht hg => .inr ?_
  · exact State.restoreThread_eq _ (hv.thread?_isSome (List.mem_of_mem_filter hx))
  · exact List.mem_filter.mpr ⟨ht, by simp [hg.1, hg.2]⟩

theorem foldl_wakeIdlers_carries (ws : List Workgroup) {u : State} (h : u.distinct) :
    u.carries (ws.foldl (fun s w => wakeIdlers w s) u) Thread.unsaved :=
  List.foldlRecOn (motive := fun v => u.carries v Thread.unsaved) _ _ (State.carries_refl h) fun _ hv w _ =>
    State.carries_trans hv (wakeIdlers_carries w hv.1)

/-- A gang that is restored runs at its new run, and each of its saved threads goes on where it was. -/
theorem restoreGang_restores {s : State} (h : s.distinct) {L G : Nat} {g : Gang} (hg : s.gang? L G = some g) (first : Nat) (bases : List Nat) :
    let u := restoreGang g first bases s
    u.mem = s.mem ∧ (u.gang? L G).map (fun g => (g.state, g.run)) = some (.running, first) ∧
      ∀ t ∈ s.threads, g.owns t = true → t.status = .saved → ∃ t' ∈ u.threads, t.goesOnAs t' := by
  intro u
  have hkey := State.key_of_gang? hg
  obtain ⟨ws, hu⟩ := restoreGang_eq g first bases s
  let s1 := restoreImages g first bases s
  let g1 := g.restored first s.gs.order
  let s2 := s1.runsAgain g1
  obtain ⟨hgsMem, hthreads⟩ := Prod.mk.inj (restoreImages_besideImages g first bases s)
  obtain ⟨hth, hts⟩ := Prod.mk.inj hthreads
  obtain ⟨hgs, hmem⟩ := Prod.mk.inj hgsMem
  have huGsMem : u.gsMem = s2.gsMem :=
    (congrArg State.gsMem hu).trans
      ((foldl_same State.gsMem ws _ fun w _ v => wakeIdlers_gsMem w v).trans (s2.restoreThreads_gsMem g))
  obtain ⟨huGs, huMem⟩ := Prod.mk.inj huGsMem
  have hgang : u.gang? L G = some g1 := by
    have hs1 : s1.gang? L G = some g := by rw [State.gang?, hgs]; exact hg
    rw [← State.gang?_putGang hs1 (g' := g1) hkey]
    exact congrArg (fun x => x.gangs.find? (fun g => g.launch == L && g.gang == G)) huGs
  have hdistinct : s2.distinct := (State.carries_of_threads (State.carries_none h) (v := s2) hth hts).1
  have hcarries := (s2.restoreThreads_carries hdistinct g)
  have hend := State.carries_trans hcarries (foldl_wakeIdlers_carries ws hcarries.1)
  rw [← hu] at hend
  refine ⟨huMem.trans hmem, by rw [hgang]; rfl, fun t ht howns hsaved => ?_⟩
  obtain ⟨t', ht', -, hgo⟩ := hend.2 t (hts ▸ ht)
  exact ⟨t', ht', hgo ⟨howns, hsaved⟩⟩

/-! ## `GANG_RESTORE` (R213) -/

section
variable {s : State} {L G : Nat} {g : Gang} {w : Workgroup} {rest : List Workgroup} {c : Nat} (hg : s.gang? L G = some g)
  (hws : s.gangWgs g = w :: rest) (hc : g.target = some c)
include hg hws hc

theorem execGangRestore_stays
    (h : g.state ≠ .saved ∨ s.dieUp g.die = false ∨ s.gangCancelled g = true ∨ s.runAt (s.gangNeed g w) c = none) :
    exec (.gangRestore L G) s = .next s := by
  change execGangRestore L G s = _
  simp only [execGangRestore, hg, hws, hc]
  by_cases hcheck : g.state ≠ .saved ∨ s.dieUp g.die = false ∨ s.gangCancelled g = true
  · rw [if_pos (by simpa using hcheck)]
  · obtain ⟨hst, hup, hcancel⟩ := not_or.mp hcheck |>.imp id not_or.mp
    have hrun : s.runAt (s.gangNeed g w) c = none := by tauto
    simp [hrun]

theorem execGangRestore_restores {bases : List Nat} (hst : g.state = .saved) (hup : s.dieUp g.die = true) (hcancel : s.gangCancelled g = false)
    (hrun : s.runAt (s.gangNeed g w) c = some bases) : exec (.gangRestore L G) s = .next (restoreGang g c bases s) := by
  change execGangRestore L G s = _
  simp [execGangRestore, hg, hws, hc, hst, hup, hcancel, hrun]

end

/-! ## The events of gangs -/

/-- Settles O54: each event is an equation for the state that it leaves; what begins, stays and goes on there is said by the lemmas about the start, the
save, the retirement and the restore of a gang. -/
theorem gangEvents : Obligations.GangEvents := by
  intro s hth hnext htids hnodup
  have hnumbered : s.numbered := ⟨hth, hnext, fun t ht => (htids t ht).2⟩
  have hdistinct : s.distinct := ⟨hth, hnodup, fun h0 => by
    obtain ⟨t, ht, htid⟩ := List.mem_map.mp h0
    exact (htids t ht).1.ne' htid⟩
  refine ⟨?placement, ?noQueue, ?relocation, ?gang, ?notices⟩
  case placement =>
    intro die L G rest g j t img k hq hg hst hl hc hr hi hk
    refine ⟨execGangPlacement_waits hq hg hst hl hc hr hi hk, fun first bases hrun => ?_⟩
    have hput := s.die_putDie_of_id (x := { s.die die with queue := rest }) (s.die_id die)
    obtain ⟨hmem, hdies, hgang, hbegun⟩ := startGang_starts (s := s.putDie { s.die die with queue := rest }) hnumbered hg j t img k first bases
    refine ⟨_, execGangPlacement_starts hq hg hst hl hc hr hi hk hrun, hmem, ?_, hgang, fun p i hp hik => hbegun p ?_ i hik⟩
    · rw [State.die, hdies]
      exact (congrArg DieSt.queue hput :)
    · rwa [State.findRun_length hrun, KDesc.need, List.length_replicate]
  case noQueue =>
    exact fun die h => ⟨execGangPlacement_no_queue h, execRelocation_no_queue h⟩
  case relocation =>
    intro die g n hg hn
    refine ⟨execRelocation_waits hg hn, fun r x target hhelped hreloc hrun hr _ => ⟨execRelocation_no_room hg hn hhelped hreloc hrun hr, fun u hu => ?_⟩⟩
    obtain ⟨r', hr'⟩ := State.gang?_of_mem (State.mem_of_relocation hr)
    exact ⟨execRelocation_saves hg hn hhelped hreloc hrun hr hu, State.startSave_gang?_self hu hr'⟩
  case gang =>
    intro L G g hg
    obtain ⟨hgs, hrest⟩ := Prod.mk.inj (s.settledJobs_outside g)
    obtain ⟨hmem, hnet⟩ := Prod.mk.inj hrest
    refine ⟨execGangRetire_runs hg, execGangRetire_waits hg, fun hcan hrevoked => ?_, fun w b pd hcan hstands hw hx hstage => ?_, fun w rest c hws hc => ?_⟩
    · obtain ⟨d, hexec⟩ := execGangRetire_retires hg hcan hrevoked
      obtain ⟨hretired, hwgs, hmemEnd⟩ := retireGang_retires (s := (s.settledJobs g).putDie d) (L := L) (G := G) (g := g) (by
        rw [State.gang?, State.putDie_gs, hgs]
        exact hg)
      refine ⟨_, hexec, hretired, hwgs, fun hsusp => (hmemEnd fun x hxg hrun => ?_).trans hmem⟩
      rw [State.putDie_gs, hgs] at hxg
      rw [State.jobSuspended, State.job?, State.putDie_gs, hgs]
      exact hsusp x hxg hrun
    · have hsends := State.revokeBanks_of_one (s := s.settledJobs g) hx hstage
      refine ⟨_, execGangRetire_revokes hg hcan hstands hw hx, ?_, ?_, ?_⟩
      · rw [hsends]
        exact hgs
      · rw [hsends]
        exact hmem
      · rw [hsends, ← hnet]
        rfl
    · refine ⟨execGangRestore_stays hg hws hc, fun bases hst hup hcancel hrun => ?_⟩
      obtain ⟨hmemEnd, hgang, hthreads⟩ := restoreGang_restores hdistinct hg c bases
      refine ⟨_, execGangRestore_restores hg hws hc hst hup hcancel hrun, hmemEnd, hgang, fun t ht howns hsaved => ?_⟩
      exact hthreads t ht howns hsaved
  case notices =>
    intro k m s1 ht
    refine ⟨fun L G hb hsrc => execGangSaveNotice_own ht hb hsrc, fun L G g hb hg hlive => ?_⟩
    have hkeep := State.writeHeader_besideMem (s1.putGang { g with savedN := g.savedN + 1 }) { g with savedN := g.savedN + 1 }
    have hkey := State.key_of_gang? hg
    have hcounted := State.gang?_putGang hg (g' := { g with savedN := g.savedN + 1 }) hkey
    have hgang := (congrArg (State.gang? · L G) hkeep :)
    obtain rfl := State.eq_of_take ht
    refine ⟨_, execSavedNotice_counts ht hb hg hlive, (congrArg State.threads hkeep :), (congrArg State.wgs hkeep :), (congrArg State.net hkeep :), ?_⟩
    exact (congrArg (Option.map Gang.savedN) (hgang.trans hcounted) :)

end Sys2Proof.Machine

/-! SUPPORT. What the proof of the invariant over the three memories needs: one lemma for each function of the model that gives a
state, in the order of the model's files. The lemma for `f` is `State.Canonical.f`: from a canonical state (and from continuations that keep
states canonical) `f` gives a canonical state. What an `Option`, an `Except` or an outcome gives is spoken of by `IfSome`, `IfOk`, `IfEither` and
`NextCanonical`. A write to a memory goes through `memWrite_wf` and `memPaste_wf`. -/

namespace Sys2Proof.Machine

/-- Main, local and tile memory are in canonical form. -/
def State.Canonical (s : State) : Prop := Memory.wf s.mem = true ∧ Memory.wf s.lmem = true ∧ Memory.wf s.tmem = true

/-- What an optional result holds, if there is one. -/
def IfSome {α : Type} (p : α → Prop) : Option α → Prop
  | some a => p a
  | none => True

/-- What a computation gives, if it goes through. -/
def IfOk {ε α : Type} (p : α → Prop) : Except ε α → Prop
  | .ok a => p a
  | .error _ => True

/-- What a computation gives, whether it goes through or not. -/
def IfEither {ε α : Type} (p : ε → Prop) (q : α → Prop) : Except ε α → Prop
  | .ok a => q a
  | .error x => p x

/-- The next state, if the outcome is one. -/
def NextCanonical : Host.Outcome State Fault Refusal → Prop
  | .next s => s.Canonical
  | .fault _ => True
  | .refused _ => True

/-- A proof for every value of a term, taken as an induction principle: it stands a variable in for a function of the model where the kernel,
which compares two `match`es by evaluating what they match on, would run that function. -/
theorem opaque_elim {α : Sort*} {motive : α → Prop} (var : ∀ x, motive x) (a : α) : motive a := var a

theorem NextCanonical.next {s : State} (hs : s.Canonical) : NextCanonical (.next s) := hs

theorem IfSome.intro {α : Type} {p : α → Prop} {a : α} (ha : p a) : IfSome p (some a) := ha

theorem IfOk.intro {ε α : Type} {p : α → Prop} {a : α} (ha : p a) : IfOk p (.ok a : Except ε α) := ha

theorem IfSome.of_eq {α : Type} {p : α → Prop} {r : Option α} {a : α} (hr : IfSome p r) (e : r = some a) : p a := by
  subst e; exact hr

theorem IfSome.ite {α : Type} {p : α → Prop} {c : Prop} [Decidable c] {r r' : Option α} (hr : IfSome p r) (hr' : IfSome p r') :
    IfSome p (if c then r else r') := by
  split
  · exact hr
  · exact hr'

theorem IfOk.of_eq {ε α : Type} {p : α → Prop} {r : Except ε α} {a : α} (hr : IfOk p r) (e : r = .ok a) : p a := by
  subst e; exact hr

theorem IfOk.any {ε α : Type} {r : Except ε α} : IfOk (fun _ => True) r := by
  cases r <;> trivial

theorem IfSome.any {α : Type} {r : Option α} : IfSome (fun _ => True) r := by
  cases r <;> trivial

theorem IfSome.map {α β : Type} {p : α → Prop} {q : β → Prop} {r : Option α} {g : α → β} (hr : IfSome p r)
    (hg : ∀ {a}, p a → q (g a)) :
    IfSome q (r.map g) := by
  cases r with
  | some a => exact hg hr
  | none => trivial

theorem IfSome.bind {α β : Type} {p : α → Prop} {q : β → Prop} {r : Option α} {g : α → Option β} (hr : IfSome p r)
    (hg : ∀ {a}, p a → IfSome q (g a)) : IfSome q (r.bind g) := by
  cases r with
  | some a => exact hg hr
  | none => trivial

theorem IfSome.foldlM {α β : Type} {p : α → Prop} {g : α → β → Option α} {l : List β} {a : α} (ha : p a)
    (hg : ∀ {a x}, p a → IfSome p (g a x)) : IfSome p (l.foldlM g a) := by
  induction l generalizing a with
  | nil => exact ha
  | cons x l ih => exact (hg ha).bind fun h => ih h

theorem IfSome.findSome? {α β : Type} {p : β → Prop} {g : α → Option β} {l : List α} (hg : ∀ {a}, IfSome p (g a)) :
    IfSome p (l.findSome? g) := by
  cases e : l.findSome? g with
  | none => trivial
  | some b =>
    obtain ⟨a, -, ha⟩ := List.exists_of_findSome?_eq_some e
    exact hg.of_eq ha

theorem IfOk.ite {ε α : Type} {p : α → Prop} {c : Prop} [Decidable c] {r r' : Except ε α} (hr : IfOk p r) (hr' : IfOk p r') :
    IfOk p (if c then r else r') := by
  split
  · exact hr
  · exact hr'

theorem IfEither.of_ok {ε α : Type} {p : ε → Prop} {q : α → Prop} {r : Except ε α} {a : α} (hr : IfEither p q r)
    (e : r = .ok a) : q a := by
  subst e; exact hr

theorem IfEither.of_error {ε α : Type} {p : ε → Prop} {q : α → Prop} {r : Except ε α} {x : ε} (hr : IfEither p q r) (e : r = .error x) :
    p x := by
  subst e; exact hr

theorem NextCanonical.of_eq {r : Host.Outcome State Fault Refusal} {s : State} (e : r = .next s) (hr : NextCanonical r) : s.Canonical := by
  subst e; exact hr

theorem NextCanonical.ite {c : Prop} [Decidable c] {r r' : Host.Outcome State Fault Refusal} (hr : NextCanonical r) (hr' : NextCanonical r') :
    NextCanonical (if c then r else r') := by
  split
  · exact hr
  · exact hr'

theorem IfOk.map {ε α β : Type} {p : α → Prop} {q : β → Prop} {r : Except ε α} {g : α → β} (hr : IfOk p r)
    (hg : ∀ {a}, p a → q (g a)) :
    IfOk q (r.map g) := by
  cases r with
  | ok a => exact hg hr
  | error x => trivial

theorem IfOk.mapError {ε ε' α : Type} {p : α → Prop} {r : Except ε α} {g : ε → ε'} (hr : IfOk p r) : IfOk p (r.mapError g) := by
  cases r with
  | ok a => exact hr
  | error x => trivial

theorem IfOk.bind {ε α β : Type} {p : α → Prop} {q : β → Prop} {r : Except ε α} {g : α → Except ε β} (hr : IfOk p r)
    (hg : ∀ {a}, p a → IfOk q (g a)) : IfOk q (r.bind g) := by
  cases r with
  | ok a => exact hg hr
  | error x => trivial

theorem IfOk.foldlM {ε α β : Type} {p : α → Prop} {g : α → β → Except ε α} {l : List β} {a : α} (ha : p a)
    (hg : ∀ {a x}, p a → IfOk p (g a x)) : IfOk p (l.foldlM g a) := by
  induction l generalizing a with
  | nil => exact ha
  | cons x l ih => exact (hg ha).bind fun h => ih h

namespace State.Canonical

variable {s t : State}

theorem snd_eq {α : Type} {r : α × State} {a : α} (hr : r.2.Canonical) (e : r = (a, t)) : t.Canonical := by
  subst e; exact hr

theorem fst_eq {α : Type} {r : State × α} {a : α} (hr : r.1.Canonical) (e : r = (t, a)) : t.Canonical := by
  subst e; exact hr

theorem reset : State.reset.Canonical := ⟨rfl, rfl, rfl⟩

theorem ite {c : Prop} [Decidable c] (hs : s.Canonical) (ht : t.Canonical) : (if c then s else t).Canonical := by
  split
  · exact hs
  · exact ht

theorem foldl {α : Type} {g : State → α → State} {l : List α} (hs : s.Canonical) (hg : ∀ {s x}, s.Canonical → (g s x).Canonical) :
    (l.foldl g s).Canonical := by
  induction l generalizing s with
  | nil => exact hs
  | cons x l ih => exact ih (hg hs)

theorem foldl_fst {α β : Type} {g : State × α → β → State × α} {l : List β} {x : State × α} (hx : x.1.Canonical)
    (hg : ∀ {x b}, x.1.Canonical → (g x b).1.Canonical) : (l.foldl g x).1.Canonical := by
  induction l generalizing x with
  | nil => exact hx
  | cons b l ih => exact ih (hg hx)

/-- A state with the memories of a canonical one is canonical, whatever else it holds. -/
theorem of_mems (hm : t.mem = s.mem) (hl : t.lmem = s.lmem) (ht : t.tmem = s.tmem) (hs : s.Canonical) : t.Canonical := by
  unfold State.Canonical
  rw [hm, hl, ht]
  exact hs

theorem putMem {m : Memory} (hs : s.Canonical) (hm : Memory.wf m = true) : { s with mem := m }.Canonical := ⟨hm, hs.2.1, hs.2.2⟩
theorem putLmem {m : Memory} (hs : s.Canonical) (hm : Memory.wf m = true) : { s with lmem := m }.Canonical := ⟨hs.1, hm, hs.2.2⟩
theorem putTmem {m : Memory} (hs : s.Canonical) (hm : Memory.wf m = true) : { s with tmem := m }.Canonical := ⟨hs.1, hs.2.1, hm⟩

end State.Canonical

theorem IfSome.getD {s : State} {r : Option State} (hr : IfSome State.Canonical r) (hs : s.Canonical) : (r.getD s).Canonical := by
  cases r with
  | some t => exact hr
  | none => exact hs

end Sys2Proof.Machine

namespace Sys2Proof.Machine

/-! The functions of Machine/Ops. -/

protected theorem State.Canonical.putCore {s : State} {x} (hs : s.Canonical) : (s.putCore x).Canonical := hs

protected theorem State.Canonical.putPort {s : State} {x} (hs : s.Canonical) : (s.putPort x).Canonical := hs

protected theorem State.Canonical.putPlaza {s : State} {x} (hs : s.Canonical) : (s.putPlaza x).Canonical := hs

protected theorem State.Canonical.putDie {s : State} {x} (hs : s.Canonical) : (s.putDie x).Canonical := hs

protected theorem State.Canonical.putHub {s : State} {h x} (hs : s.Canonical) : (s.putHub h x).Canonical := hs

protected theorem State.Canonical.putThread {s : State} {t} (hs : s.Canonical) : (s.putThread t).Canonical := .ite hs hs

protected theorem State.Canonical.mapThreads {s : State} {g} (hs : s.Canonical) : (s.mapThreads g).Canonical := hs

protected theorem State.Canonical.putWg {s : State} {w} (hs : s.Canonical) : (s.putWg w).Canonical := hs

protected theorem State.Canonical.writeW {s : State} {d v} (hs : s.Canonical) : (s.writeW d v).Canonical := by
  simp only [State.writeW]
  split
  exacts [hs.putWg, hs, hs, hs, hs]

protected theorem State.Canonical.onTh {s : State} {g} (hs : s.Canonical) : (s.onTh g).Canonical := hs

protected theorem State.Canonical.finishU {f} {s : State} (hs : s.Canonical) : (finishU f s).Canonical := hs.onTh

protected theorem State.Canonical.finishQ {f v} {s : State} (hs : s.Canonical) : (finishQ f v s).Canonical := hs.writeW.onTh

protected theorem State.Canonical.finishP {f b} {s : State} (hs : s.Canonical) : (finishP f b s).Canonical := hs.onTh

protected theorem State.Canonical.finishV {f v tag} {s : State} (hs : s.Canonical) : (finishV f v tag s).Canonical := hs.onTh

protected theorem State.Canonical.block {st w} {s : State} (hs : s.Canonical) : (block st w s).Canonical := hs.onTh

protected theorem State.Canonical.send {s : State} {src dst vc b} (hs : s.Canonical) : (s.send src dst vc b).Canonical := hs

protected theorem State.Canonical.putJob {s : State} {j} (hs : s.Canonical) : (s.putJob j).Canonical := hs

protected theorem State.Canonical.recordError {s : State} {job launch code} (hs : s.Canonical) : (s.recordError job launch code).Canonical := by
  simp only [State.recordError]
  split
  exacts [hs.putJob, hs]

protected theorem State.Canonical.spawnedExit {s : State} {job launch} (hs : s.Canonical) : (s.spawnedExit job launch).Canonical := by
  simp only [State.spawnedExit]
  split
  exacts [hs.putJob, hs]

protected theorem State.Canonical.stopThread {s : State} {t} (hs : s.Canonical) : (s.stopThread t).Canonical :=
  .ite (.ite (.spawnedExit (.putThread hs)) (.send (.putThread hs))) (.ite (.ite (.putThread hs) (.putWg (.putThread hs))) (.send (.ite (.putThread
      hs) (.putWg (.putThread hs)))))

protected theorem State.Canonical.launchErrorOf {s : State} {t code} (hs : s.Canonical) : (s.launchErrorOf t code).Canonical :=
  hs.stopThread.recordError

protected theorem State.Canonical.raiseAt {s : State} {t code info faddr} (hs : s.Canonical) : (s.raiseAt t code info faddr).Canonical :=
  .ite hs.launchErrorOf hs.putThread

protected theorem State.Canonical.raise {code faddr} {s : State} (hs : s.Canonical) : (raise code faddr s).Canonical := hs.raiseAt

protected theorem State.Canonical.wakeThread {s : State} {t} (hs : s.Canonical) : (s.wakeThread t).Canonical := hs.putThread

protected theorem State.Canonical.wakeWaiting {s : State} {p} (hs : s.Canonical) : (s.wakeWaiting p).Canonical := hs.mapThreads

protected theorem State.Canonical.freeMonitors {s : State} (hs : s.Canonical) : s.freeMonitors.Canonical := hs.wakeWaiting

protected theorem State.Canonical.countCore {s : State} {c k} (hs : s.Canonical) : (s.countCore c k).Canonical := hs.putCore

protected theorem State.Canonical.countDie {s : State} {d k} (hs : s.Canonical) : (s.countDie d k).Canonical := hs.putDie

/-! The functions of Machine/Homes. -/

protected theorem State.Canonical.withDesc {h k bad} {s : State} (hs : s.Canonical)
    (hk : ∀ {a u}, u.Canonical → (k a u).Canonical)
    (hbad : ∀ {u}, u.Canonical → (bad u).Canonical) : (withDesc h k bad s).Canonical := by
  simp only [withDesc]
  split
  exacts [hk hs, hbad hs, hs.block]

protected theorem State.Canonical.withHome {h k} {s : State} (hs : s.Canonical) (hk : ∀ {a b u}, u.Canonical → (k a b u).Canonical) :
    (withHome h k s).Canonical :=
  hs.withDesc (fun h => hk h) .raise

protected theorem State.Canonical.copyMem {s : State} {src dst n} (hs : s.Canonical) : (s.copyMem src dst n).Canonical :=
  .ite (.putMem hs (memPaste_wf _ _ _ _ hs.1)) (.putPort (.putMem hs (memPaste_wf _ _ _ _ hs.1)))

protected theorem State.Canonical.touch {s : State} {port key e p} (hs : s.Canonical) : (s.touch port key e p).Canonical := hs.putPort

protected theorem State.Canonical.looked {s : State} {port asid h} (hs : s.Canonical) : (s.looked port asid h).Canonical := by
  simp only [State.looked]
  split
  · exact hs
  · split
    exacts [hs.touch, hs.putPort]

/-! The functions of Machine/Context. -/

protected theorem State.Canonical.countRow {core row} {s : State} (hs : s.Canonical) : (countRow core row s).Canonical :=
  .ite hs (.ite hs.putPort.putDie hs.putPort)

protected theorem State.Canonical.countRows {s : State} {pa n} (hs : s.Canonical) : (s.countRows pa n).Canonical := .ite (hs.foldl .countRow) hs

protected theorem State.Canonical.pastePool {s : State} {die x n img} (hs : s.Canonical) : (s.pastePool die x n img).Canonical :=
  hs.foldl (fun h => .countRows (.putMem h (memPaste_wf _ _ _ _ h.1)))

protected theorem State.Canonical.writePool {s : State} {die x l} (hs : s.Canonical) : (s.writePool die x l).Canonical := hs.pastePool

protected theorem State.Canonical.writeArea {s : State} {t st entry} (hs : s.Canonical) : (s.writeArea t st entry).Canonical :=
  .countRows (.putMem hs (memWrite_wf _ _ _ hs.1))

/-! The functions of Machine/Operands. -/

protected theorem State.Canonical.guardOff {op f} {s : State} (hs : s.Canonical) : (guardOff op f s).Canonical := hs.onTh

protected theorem State.Canonical.awaitWrites {need loc k} {s : State} (hs : s.Canonical) (hk : ∀ {u}, u.Canonical → (k u).Canonical) :
    (awaitWrites need loc k s).Canonical := by
  simp only [awaitWrites]
  split
  exacts [hs.onTh.raise, .ite hs.onTh.countCore.block (.ite hs.onTh.block (.ite hs.block (hk hs)))]

protected theorem State.Canonical.awaitScope {scope k} {s : State} (hs : s.Canonical) (hk : ∀ {u}, u.Canonical → (k u).Canonical) :
    (awaitScope scope k s).Canonical :=
  hs.awaitWrites fun h => hk h

protected theorem State.Canonical.depart {dest} {s : State} (hs : s.Canonical) : (depart dest s).Canonical := .onTh (.countCore hs)

protected theorem State.Canonical.migrate {dest faddr} {s : State} (hs : s.Canonical) : (migrate dest faddr s).Canonical :=
  .ite hs.raise (.ite hs.raise (hs.awaitWrites (fun h => h.onTh.depart)))

protected theorem State.Canonical.atAnchor {k} {s : State} (hs : s.Canonical) (hk : ∀ {u}, u.Canonical → (k u).Canonical) :
    (atAnchor k s).Canonical :=
  .ite (hk hs) hs.migrate

protected theorem State.Canonical.atPlaza {k} {s : State} (hs : s.Canonical) (hk : ∀ {u}, u.Canonical → (k u).Canonical) :
    (atPlaza k s).Canonical :=
  .ite (hk hs) hs.migrate

protected theorem State.Canonical.runOp {op f body} {s : State} (hs : s.Canonical) (hbody : ∀ {u}, u.Canonical → (body u).Canonical) :
    NextCanonical (runOp op f body s) := by
  refine .next (.ite hs.guardOff ?_)
  split
  exacts [hs.raise, .ite (hs.atAnchor hbody) (hbody hs)]

/-! The functions of Machine/Batch. -/

protected theorem State.Canonical.putSeq {s : State} {w q} (hs : s.Canonical) : (s.putSeq w q).Canonical := hs.putWg.wakeWaiting

protected theorem State.Canonical.dropItem {s : State} {plaza serial} (hs : s.Canonical) : (s.dropItem plaza serial).Canonical := hs.putPlaza

protected theorem State.Canonical.dropParts {s : State} {w serial} (hs : s.Canonical) : (s.dropParts w serial).Canonical := .wakeWaiting hs

protected theorem State.Canonical.dropQueue {s : State} {w q} (hs : s.Canonical) : (s.dropQueue w q).Canonical :=
  hs.foldl fun h => h.dropItem.dropParts

protected theorem State.Canonical.clearSeq {s : State} {wid} (hs : s.Canonical) : (s.clearSeq wid).Canonical := hs.dropQueue.putSeq

protected theorem State.Canonical.issuerExit {s : State} {wid} (hs : s.Canonical) : (s.issuerExit wid).Canonical := .ite hs.clearSeq hs.putSeq

protected theorem State.Canonical.stopSeq {s : State} {wid cause step spos} (hs : s.Canonical) : (s.stopSeq wid cause step spos).Canonical :=
  .ite hs.putSeq.clearSeq hs.putSeq

/-! The functions of Machine/Fetch. -/

protected theorem State.Canonical.postBytes {s : State} {bs} (hs : s.Canonical) : IfSome State.Canonical (s.postBytes bs) :=
  .ite trivial (.putMem hs (memWrite_wf _ _ _ (memWrite_wf _ _ _ hs.1)))

protected theorem State.Canonical.postRecord {s : State} {core key h npos acc who} (hs : s.Canonical) :
    (s.postRecord core key h npos acc who).Canonical := by
  refine .ite hs ?_
  split
  exacts [hs.putPort.postBytes.of_eq ‹_›, hs.putPort]

protected theorem State.Canonical.used {s : State} {asid h} (hs : s.Canonical) : (s.used asid h).Canonical := by
  simp only [State.used]
  split
  · exact hs
  · refine .ite hs ?_
    split
    exacts [hs, hs.touch]

protected theorem State.Canonical.endCc {core} {s : State} (hs : s.Canonical) : (endCc core s).Canonical := by
  unfold endCc
  exact .mapThreads (of_mems rfl rfl rfl hs)

protected theorem State.Canonical.issueGroup {core} {s : State} (hs : s.Canonical) : (issueGroup core s).Canonical := by
  refine .ite hs ?_
  split
  · exact hs.endCc
  · exact of_mems rfl rfl rfl hs

protected theorem State.Canonical.takeThread {tid} {s : State} (hs : s.Canonical) : IfSome State.Canonical (takeThread tid s) := by
  simp only [takeThread]
  split
  exacts [trivial, hs]

protected theorem State.Canonical.putBack {s : State} (hs : s.Canonical) : (putBack s).Canonical := .ite (.endCc hs) hs

protected theorem State.Canonical.parkFetch {home key pos} {s : State} (hs : s.Canonical) : (parkFetch home key pos s).Canonical :=
  hs.countCore.block.postRecord

protected theorem State.Canonical.fetchStep {s : State} (hs : s.Canonical) : IfEither State.Canonical (fun r => r.2.Canonical) (fetchStep s) := by
  simp only [fetchStep]
  split
  · exact hs.onTh.raise
  · split
    exacts [hs.used, .raise (.ite hs.used hs), hs.parkFetch]

/-! The functions of Machine/Integer. -/

protected theorem State.Canonical.intResult {op f r} {s : State} (hs : s.Canonical) : NextCanonical (intResult op f r s) := hs.runOp .finishQ

protected theorem State.Canonical.execAdd {f} {s : State} (hs : s.Canonical) : NextCanonical (execAdd f s) := hs.intResult

protected theorem State.Canonical.execSub {f} {s : State} (hs : s.Canonical) : NextCanonical (execSub f s) := hs.intResult

protected theorem State.Canonical.execMul {f} {s : State} (hs : s.Canonical) : NextCanonical (execMul f s) := hs.intResult

protected theorem State.Canonical.execMulh {f} {s : State} (hs : s.Canonical) : NextCanonical (execMulh f s) := hs.intResult

protected theorem State.Canonical.execDiv {f} {s : State} (hs : s.Canonical) : NextCanonical (execDiv f s) := hs.intResult

protected theorem State.Canonical.execRem {f} {s : State} (hs : s.Canonical) : NextCanonical (execRem f s) := hs.intResult

protected theorem State.Canonical.execMad {f} {s : State} (hs : s.Canonical) : NextCanonical (execMad f s) := hs.intResult

protected theorem State.Canonical.execNeg {f} {s : State} (hs : s.Canonical) : NextCanonical (execNeg f s) := hs.intResult

protected theorem State.Canonical.execAbs {f} {s : State} (hs : s.Canonical) : NextCanonical (execAbs f s) := hs.intResult

protected theorem State.Canonical.execMin {f} {s : State} (hs : s.Canonical) : NextCanonical (execMin f s) := hs.intResult

protected theorem State.Canonical.execMax {f} {s : State} (hs : s.Canonical) : NextCanonical (execMax f s) := hs.intResult

protected theorem State.Canonical.execAnd {f} {s : State} (hs : s.Canonical) : NextCanonical (execAnd f s) := hs.intResult

protected theorem State.Canonical.execOr {f} {s : State} (hs : s.Canonical) : NextCanonical (execOr f s) := hs.intResult

protected theorem State.Canonical.execXor {f} {s : State} (hs : s.Canonical) : NextCanonical (execXor f s) := hs.intResult

protected theorem State.Canonical.execAndn {f} {s : State} (hs : s.Canonical) : NextCanonical (execAndn f s) := hs.intResult

protected theorem State.Canonical.execShl {f} {s : State} (hs : s.Canonical) : NextCanonical (execShl f s) := hs.intResult

protected theorem State.Canonical.execShr {f} {s : State} (hs : s.Canonical) : NextCanonical (execShr f s) := hs.intResult

protected theorem State.Canonical.execSra {f} {s : State} (hs : s.Canonical) : NextCanonical (execSra f s) := hs.intResult

protected theorem State.Canonical.execRol {f} {s : State} (hs : s.Canonical) : NextCanonical (execRol f s) := hs.intResult

protected theorem State.Canonical.execClz {f} {s : State} (hs : s.Canonical) : NextCanonical (execClz f s) := hs.intResult

protected theorem State.Canonical.execCtz {f} {s : State} (hs : s.Canonical) : NextCanonical (execCtz f s) := hs.intResult

protected theorem State.Canonical.execPopc {f} {s : State} (hs : s.Canonical) : NextCanonical (execPopc f s) := hs.intResult

protected theorem State.Canonical.execBrev {f} {s : State} (hs : s.Canonical) : NextCanonical (execBrev f s) := hs.intResult

protected theorem State.Canonical.execBfx {f} {s : State} (hs : s.Canonical) : NextCanonical (execBfx f s) := hs.intResult

protected theorem State.Canonical.execBfi {f} {s : State} (hs : s.Canonical) : NextCanonical (execBfi f s) := hs.intResult

protected theorem State.Canonical.execSext {f} {s : State} (hs : s.Canonical) : NextCanonical (execSext f s) := hs.intResult

protected theorem State.Canonical.execZext {f} {s : State} (hs : s.Canonical) : NextCanonical (execZext f s) := hs.intResult

protected theorem State.Canonical.execCmp {f} {s : State} (hs : s.Canonical) : NextCanonical (execCmp f s) := hs.runOp .finishP

protected theorem State.Canonical.execSel {f} {s : State} (hs : s.Canonical) : NextCanonical (execSel f s) := hs.intResult

protected theorem State.Canonical.execMov {f} {s : State} (hs : s.Canonical) : NextCanonical (execMov f s) := hs.intResult

protected theorem State.Canonical.execLim {f} {s : State} (hs : s.Canonical) : NextCanonical (execLim f s) := hs.intResult

protected theorem State.Canonical.execPlog {f} {s : State} (hs : s.Canonical) : NextCanonical (execPlog f s) := hs.runOp .finishP

protected theorem State.Canonical.execHmk {f} {s : State} (hs : s.Canonical) : NextCanonical (execHmk f s) := hs.runOp .finishQ

protected theorem State.Canonical.execHadd {f} {s : State} (hs : s.Canonical) : NextCanonical (execHadd f s) := hs.runOp .finishQ

protected theorem State.Canonical.execHidx {f} {s : State} (hs : s.Canonical) : NextCanonical (execHidx f s) := hs.runOp .finishQ

protected theorem State.Canonical.execHofs {f} {s : State} (hs : s.Canonical) : NextCanonical (execHofs f s) := hs.runOp .finishQ

protected theorem State.Canonical.execHchk {f} {s : State} (hs : s.Canonical) : NextCanonical (execHchk f s) :=
  hs.runOp fun h => h.withDesc .finishP .finishP

/-! The functions of Machine/Control. -/

protected theorem State.Canonical.jump {target} {s : State} (hs : s.Canonical) : (jump target s).Canonical := hs.onTh

protected theorem State.Canonical.execBra {f} {s : State} (hs : s.Canonical) : NextCanonical (execBra f s) := hs.runOp .jump

protected theorem State.Canonical.execBrp {f} {s : State} (hs : s.Canonical) : NextCanonical (execBrp f s) := hs.runOp .jump

protected theorem State.Canonical.callTo {f target} {s : State} (hs : s.Canonical) : (callTo f target s).Canonical := hs.finishQ.jump

protected theorem State.Canonical.execCall {f} {s : State} (hs : s.Canonical) : NextCanonical (execCall f s) := hs.runOp .callTo

protected theorem State.Canonical.execCallx {f} {s : State} (hs : s.Canonical) : NextCanonical (execCallx f s) := by
  refine hs.runOp (fun h => .ite h.raise (.ite h.raise ?_))
  split
  exacts [h.used.raise, h.parkFetch, .ite h.used.raise (.ite h.used.raise h.used.callTo)]

protected theorem State.Canonical.execRet {f} {s : State} (hs : s.Canonical) : NextCanonical (execRet f s) := hs.runOp .jump

protected theorem State.Canonical.execExit {f} {s : State} (hs : s.Canonical) : NextCanonical (execExit f s) := by
  refine hs.runOp (fun h => .ite h.raise (.ite (.issuerExit ?_) ?_))
  · split
    exacts [h.stopThread.recordError, h.stopThread]
  · split
    exacts [h.stopThread.recordError, h.stopThread]

protected theorem State.Canonical.execLoop {f} {s : State} (hs : s.Canonical) : NextCanonical (execLoop f s) :=
  hs.runOp fun h => .ite h.finishQ.jump h.finishQ

protected theorem State.Canonical.execNop {f} {s : State} (hs : s.Canonical) : NextCanonical (execNop f s) := hs.runOp .finishU

protected theorem State.Canonical.execBkpt {f} {s : State} (hs : s.Canonical) : NextCanonical (execBkpt f s) := hs.runOp .raise

protected theorem State.Canonical.execRdsp {f} {s : State} (hs : s.Canonical) : NextCanonical (execRdsp f s) := hs.runOp .finishQ

protected theorem State.Canonical.execCntrd {f} {s : State} (hs : s.Canonical) : NextCanonical (execCntrd f s) := hs.runOp .finishQ

/-! The functions of Machine/Lanes. -/

protected theorem State.Canonical.deposit {op f a b c} {s : State} (hs : s.Canonical) : (deposit op f a b c s).Canonical := hs.onTh

protected theorem State.Canonical.execShfl {f} {s : State} (hs : s.Canonical) : NextCanonical (execShfl f s) := hs.runOp .deposit

protected theorem State.Canonical.execVote {f} {s : State} (hs : s.Canonical) : NextCanonical (execVote f s) := hs.runOp .deposit

protected theorem State.Canonical.execBallot {f} {s : State} (hs : s.Canonical) : NextCanonical (execBallot f s) := hs.runOp .deposit

protected theorem State.Canonical.execGscan {f} {s : State} (hs : s.Canonical) : NextCanonical (execGscan f s) := hs.runOp .deposit

protected theorem State.Canonical.execRjoin {f} {s : State} (hs : s.Canonical) : NextCanonical (execRjoin f s) := hs.runOp .deposit

protected theorem State.Canonical.completeJoin {l} {s : State} (hs : s.Canonical) : (completeJoin l s).Canonical := by
  refine hs.foldl (fun h => .putThread ?_)
  split
  exacts [h.putWg, h]

protected theorem State.Canonical.execJoinInstance {w pc} {s : State} (hs : s.Canonical) : NextCanonical (execJoinInstance w pc s) :=
  hs.completeJoin.foldl fun h => .ite h.completeJoin h

/-! The functions of Machine/Local. -/

protected theorem State.Canonical.localWrite {s : State} {plaza x bs} (hs : s.Canonical) : (s.localWrite plaza x bs).Canonical :=
  .putLmem hs.putPlaza (memWrite_wf _ _ _ hs.2.1)

protected theorem State.Canonical.withLocal {o size align k} {s : State} (hs : s.Canonical) (hk : ∀ {a u}, u.Canonical → (k a u).Canonical) :
    (withLocal o size align k s).Canonical :=
  .ite hs.raise (hs.atPlaza fun h => .ite h.raise (by
    dsimp only
    split
    exacts [h.raise, hk h]))

protected theorem State.Canonical.readLocal {x n faddr k} {s : State} (hs : s.Canonical) (hk : ∀ {a u}, u.Canonical → (k a u).Canonical) :
    (readLocal x n faddr k s).Canonical := by
  simp only [readLocal]
  split
  · exact .ite (hk hs) hs.block
  · split
    exacts [hk hs, hs.raise]

protected theorem State.Canonical.writeLocal {x bs k} {s : State} (hs : s.Canonical) (hk : ∀ {u}, u.Canonical → (k u).Canonical) :
    (writeLocal x bs k s).Canonical :=
  .ite hs.block (hk (.onTh hs))

protected theorem State.Canonical.performLocal {tid} {s : State} (hs : s.Canonical) : (performLocal tid s).Canonical := by
  simp only [performLocal]
  split
  · exact hs
  · split
    · exact hs
    · refine .wakeWaiting (.putThread ?_)
      split
      exacts [hs.localWrite, hs]

/-! The functions of Machine/Port. -/

protected theorem State.Canonical.afterWrite {s : State} {port cell pa n} (hs : s.Canonical) : (s.afterWrite port cell pa n).Canonical :=
  .ite (hs.putPort.foldl .send) ((hs.putPort.foldl .send).freeMonitors)

protected theorem State.Canonical.writeMem {s : State} {pa bs} (hs : s.Canonical) : (s.writeMem pa bs).Canonical :=
  .ite (.putMem hs (memWrite_wf _ _ _ hs.1)) (.putPort (.putMem hs (memWrite_wf _ _ _ hs.1)))

protected theorem State.Canonical.raiseEvent {s : State} {i} (hs : s.Canonical) : (s.raiseEvent i).Canonical := hs

protected theorem State.Canonical.poisonIndex {s : State} {core i} (hs : s.Canonical) : (s.poisonIndex core i).Canonical :=
  .ite hs (.ite hs.putPort.raiseEvent hs.putPort)

protected theorem State.Canonical.countThrottled {core asid} {s : State} (hs : s.Canonical) : (countThrottled core asid s).Canonical := hs.putDie

protected theorem State.Canonical.joinRow {core row src r} {s : State} (hs : s.Canonical) : (joinRow core row src r s).Canonical :=
  .ite hs.putPort hs.putPort.countThrottled

protected theorem State.Canonical.joinToken {s : State} {core row who asid} (hs : s.Canonical) : (s.joinToken core row who asid).Canonical :=
  .ite hs hs.joinRow

protected theorem State.Canonical.noted {x : Stop} {who asid} {s : State} (hs : s.Canonical) : (x.noted who asid s).2.Canonical := by
  simp only [Stop.noted]
  split
  exacts [hs.joinToken, hs, hs.poisonIndex, hs.putPort, hs.touch, hs]

protected theorem State.Canonical.rowGate {who pa n} {s : State} (hs : s.Canonical) : IfOk State.Canonical (rowGate who pa n s) := by
  have hc : ((rowsAt pa n).foldl (fun s r => countRow (pa / 2 ^ 31) r s) s).Canonical := hs.foldl .countRow
  simp only [rowGate]
  split
  exacts [trivial, .intro (.ite hc hc.putPort)]

protected theorem State.Canonical.writeBack {core i} {s : State} (hs : s.Canonical) : (writeBack core i s).Canonical := hs.copyMem.putPort

protected theorem State.Canonical.fillSector {core a} {s : State} (hs : s.Canonical) : (fillSector core a s).Canonical := hs.copyMem.putPort

protected theorem State.Canonical.cacheSector {who core a write} {s : State} (hs : s.Canonical) :
    IfOk State.Canonical (cacheSector who core a write s) := by
  refine .ite trivial (.ite trivial (.ite trivial (.ite (.intro (.ite hs.putPort.putPort hs.putPort)) (.ite trivial (hs.rowGate.map fun h => ?_)))))
  exact .ite (State.Canonical.putPort (.fillSector (.ite h.writeBack h))) (.fillSector (.ite h.writeBack h))

protected theorem State.Canonical.ready {s : State} {who p lam n write} (hs : s.Canonical) :
    IfOk (fun r => r.2.Canonical) (s.ready who p lam n write) := by
  simp only [State.ready]
  split
  · refine .ite (.ite hs trivial) ?_
    split
    exacts [trivial, (hs.cacheSector.of_eq ‹_›).rowGate.map (fun h => h)]
  · exact hs
  · exact .ite (hs.rowGate.map (fun h => h)) trivial

protected theorem State.Canonical.mirrorUnit {who asid hm} {s : State} (hs : s.Canonical) :
    IfOk (fun r => r.2.Canonical) (mirrorUnit who asid hm s) := by
  simp only [mirrorUnit]
  split
  · trivial
  · refine .ite trivial ?_
    split
    exacts [trivial, .ite trivial (hs.ready.bind (fun h => .ite trivial h.touch))]

protected theorem State.Canonical.mirrorUnits {who asid e h pa n} {s : State} (hs : s.Canonical) :
    IfOk State.Canonical (mirrorUnits who asid e h pa n s) :=
  IfOk.foldlM hs fun h => h.mirrorUnit.map .writeMem

protected theorem State.Canonical.readClean {s : State} {who asid e h pa n} (hs : s.Canonical) :
    IfOk (fun r => r.2.Canonical) (s.readClean who asid e h pa n) :=
  .ite hs (.ite trivial (hs.mirrorUnits.map (fun h => h)))

protected theorem State.Canonical.grantLease {port asid buf line} {s : State} (hs : s.Canonical) :
    (grantLease port asid buf line s).2.Canonical := by
  simp only [grantLease]
  split
  · exact hs
  · split
    exacts [hs, hs.putPort]

protected theorem State.Canonical.respond {s : State} {unit src r bytes stop code} (hs : s.Canonical) :
    (s.respond unit src r bytes stop code).Canonical := by
  simp only [State.respond]
  split
  exacts [hs.send, hs.send, .ite hs.send hs, hs, hs, hs, hs, hs, hs]

protected theorem State.Canonical.respondAtomic {s : State} {unit src r old ok fl code} (hs : s.Canonical) :
    (s.respondAtomic unit src r old ok fl code).Canonical := by
  simp only [State.respondAtomic]
  split
  exacts [hs.send, hs.send, hs, hs, hs, hs, hs, hs, hs]

protected theorem State.Canonical.owe {s : State} {who port till} (hs : s.Canonical) : (s.owe who port till).Canonical := .ite hs hs

protected theorem State.Canonical.drained {s : State} {port r till code} (hs : s.Canonical) : (s.drained port r till code).Canonical := by
  refine .ite (.owe hs) ?_
  split
  exacts [hs, .send hs]

protected theorem State.Canonical.acknowledge {s : State} {unit src r till code} (hs : s.Canonical) :
    (s.acknowledge unit src r till code).Canonical := by
  simp only [State.acknowledge]
  split
  exacts [.ite hs.putPort hs.send, .ite hs (.ite (.ite hs.putPort hs) hs.drained)]

protected theorem State.Canonical.refuseAt {s : State} {unit src r code} (hs : s.Canonical) : (s.refuseAt unit src r code).Canonical := by
  simp only [State.refuseAt]
  split
  exacts [hs.respond, hs.acknowledge, .ite hs.acknowledge hs.respondAtomic]

protected theorem State.Canonical.answerRead {x r bs} {s : State} (hs : s.Canonical) : (answerRead x r bs s).Canonical := by
  refine .ite ?_ (.ite (.respond ?_) hs.respond)
  · split
    exacts [.ite hs.send (.ite hs.mapThreads hs.putPort.mapThreads), .ite hs.send (.ite hs hs.putPort), hs, hs, hs, hs, hs, hs, hs]
  · split
    exacts [hs, hs.grantLease]

protected theorem State.Canonical.waitMirror {x r y} {s : State} (hs : s.Canonical) : IfSome State.Canonical (waitMirror x r y s) := by
  simp only [waitMirror]
  split
  exacts [hs.joinRow, hs.putPort, trivial]

protected theorem State.Canonical.stopRead {s : State} {x r y} (hs : s.Canonical) : (s.stopRead x r y).Canonical := by
  simp only [State.stopRead]
  split
  exacts [hs.waitMirror.of_eq ‹_›, hs.noted.refuseAt]

protected theorem State.Canonical.performRead {x r pa} {s : State} (hs : s.Canonical) : (performRead x r pa s).Canonical := by
  simp only [performRead]
  split
  exacts [hs.stopRead, (hs.readClean.of_eq ‹_›).answerRead]

protected theorem State.Canonical.reserve {s : State} {port r unit} (hs : s.Canonical) : (s.reserve port r unit).Canonical := by
  simp only [State.reserve]
  split
  · exact hs
  · split
    exacts [.putPort hs, hs, hs, hs, hs]

protected theorem State.Canonical.performAt {x r0 pa} {s : State} (hs : s.Canonical) : (performAt x r0 pa s).Canonical := by
  simp only [performAt]
  split
  · exact hs.performRead
  · exact hs.writeMem.afterWrite.acknowledge
  · split
    · exact hs.stopRead
    · rename_i bs s1 he
      have h1 : s1.Canonical := (hs.readClean).of_eq he
      generalize atomNew _ _ _ _ _ _ = new
      split
      · refine .acknowledge ?_
        split
        exacts [h1.reserve.writeMem.afterWrite, h1.reserve]
      · split
        · refine .acknowledge (.respondAtomic ?_)
          split
          exacts [h1.reserve.writeMem.afterWrite, h1.reserve]
        · refine .respondAtomic ?_
          split
          exacts [h1.reserve.writeMem.afterWrite, h1.reserve]

protected theorem State.Canonical.passRows {core rows src r k} {s : State} (hs : s.Canonical) (hk : ∀ {u}, u.Canonical → (k u).Canonical) :
    (passRows core rows src r k s).Canonical := by
  simp only [passRows]
  split
  exacts [hs.joinRow, hk (hs.foldl .countRow)]

protected theorem State.Canonical.throttle {x r pa} {s : State} (hs : s.Canonical) : (throttle x r pa s).Canonical := hs.passRows .performAt

protected theorem State.Canonical.viaHub {x r} {s : State} (hs : s.Canonical) : (viaHub x r s).Canonical := by
  simp only [viaHub]
  refine .ite hs.refuseAt (.send ?_)
  split
  exacts [hs.grantLease, hs]

protected theorem State.Canonical.atMemory {x r} {s : State} (hs : s.Canonical) : (atMemory x r s).Canonical := by
  simp only [atMemory]
  split
  exacts [hs.send, .ite hs.viaHub hs.putPort, hs.throttle]

protected theorem State.Canonical.place {port src r e key p lam} {s : State} (hs : s.Canonical) : (place port src r e key p lam s).Canonical :=
  .ite hs.atMemory (.ite hs.refuseAt hs.send)

protected theorem State.Canonical.atHub {hub x r} {s : State} (hs : s.Canonical) : (atHub hub x r s).Canonical := by
  refine .ite ?_ hs.performAt
  split
  exacts [(hs.readClean.of_eq ‹_›).send, hs.send]

protected theorem State.Canonical.unitsArrive {x r bs code} {s : State} (hs : s.Canonical) : (unitsArrive x r bs code s).Canonical :=
  .ite hs.refuseAt hs.answerRead

protected theorem State.Canonical.serveHit {port src r e key p lam} {s : State} (hs : s.Canonical) :
    IfSome State.Canonical (serveHit port src r e key p lam s) := by
  simp only [serveHit]
  split
  exacts [hs.touch.refuseAt, hs.touch.refuseAt, hs.touch.place, .ite (.ite trivial hs.touch.putPort) hs.touch.place]

protected theorem State.Canonical.parkWhere {s : State} {p} (hs : s.Canonical) : (s.parkWhere p).Canonical := (hs.foldl .countCore).mapThreads

protected theorem State.Canonical.parkRequester {s : State} {who} (hs : s.Canonical) : (s.parkRequester who).Canonical := by
  simp only [State.parkRequester]
  split
  exacts [hs.parkWhere, hs]

protected theorem State.Canonical.holdWrite {s : State} {who wid held} (hs : s.Canonical) : (s.holdWrite who wid held).Canonical := by
  simp only [State.holdWrite]
  split
  exacts [.ite hs.mapThreads.parkWhere hs.mapThreads.mapThreads, hs]

protected theorem State.Canonical.joinHold {port src key r} {s : State} (hs : s.Canonical) :
    IfSome State.Canonical (joinHold port src key r s) :=
  .ite trivial hs.putPort.parkRequester.holdWrite

protected theorem State.Canonical.serveHome {port src r} {s : State} (hs : s.Canonical) : IfSome State.Canonical (serveHome port src r s) := by
  simp only [serveHome]
  split
  exacts [hs.looked.refuseAt, hs.putPort, .ite hs.putPort (.ite (.ite hs.putPort hs.joinHold) hs.serveHit)]

protected theorem State.Canonical.serve {port src r} {s : State} (hs : s.Canonical) : IfSome State.Canonical (serve port src r s) := by
  unfold serve
  split
  exacts [hs.serveHome, .intro (.ite hs.atMemory hs.atHub)]

protected theorem State.Canonical.parkRequest {port src key r} {s : State} (hs : s.Canonical) : (parkRequest port src key r s).1.Canonical := by
  simp only [parkRequest]
  split
  · split
    exacts [hs.respond, hs.postRecord.putPort.parkRequester]
  · split
    exacts [hs.postRecord.joinHold.of_eq ‹_›, hs.postRecord]

protected theorem State.Canonical.serveAll {port l} {s : State} (hs : s.Canonical) : (serveAll port l s).1.Canonical :=
  foldl_fst hs fun h => by
    dsimp only
    split
    · exact h
    · split
      exacts [h.serve.of_eq ‹_›, h]

protected theorem State.Canonical.parkAll {port l} {s : State} (hs : s.Canonical) : (parkAll port l s).1.Canonical :=
  foldl_fst hs fun h => by
    dsimp only
    split
    exacts [h, h.parkRequest]

protected theorem State.Canonical.parkThreads {core key} {s : State} (hs : s.Canonical) : (parkThreads core key s).Canonical := by
  simp only [parkThreads]
  split
  exacts [hs, (hs.foldl .countCore).mapThreads.postRecord]

protected theorem State.Canonical.wakeWalks {s : State} {core key kept} (hs : s.Canonical) : (s.wakeWalks core key kept).Canonical :=
  .ite hs hs.wakeWaiting

protected theorem State.Canonical.walkDone {core key} {s : State} (hs : s.Canonical) : (walkDone core key s).Canonical := by
  simp only [walkDone]
  split
  exacts [.ite hs hs.putPort.putPort.serveAll.wakeWalks.putPort, hs.putPort.parkAll.parkThreads.putPort]

protected theorem State.Canonical.readPiece {who asid h n} {s : State} (hs : s.Canonical) :
    IfOk (fun r => r.2.Canonical) (readPiece who asid h n s) := by
  unfold readPiece
  split
  · trivial
  · refine .ite trivial (.ite trivial (.ite trivial ?_))
    split
    · trivial
    · refine .ite trivial (.ite trivial ?_)
      split
      · trivial
      · rename_i he
        exact (hs.ready.of_eq he).readClean.map fun h => h.touch

/-- The induction is over the body of the loop with a variable in the place of `readPiece` (see `opaque_elim`). -/
protected theorem State.Canonical.readPieces {who asid h n k acc} {s : State} (hs : s.Canonical) :
    IfOk (fun r => r.2.Canonical) (readPieces who asid h n k acc s) := by
  have hread {h n} {s : State} (hs : s.Canonical) : IfOk (fun r => r.2.Canonical) (readPiece who asid h n s) := hs.readPiece
  revert hread
  generalize hf : readPieces = f
  delta readPieces readPieces._f at hf
  subst hf
  beta_reduce
  induction readPiece using opaque_elim with
  | var read =>
    intro hread
    induction k generalizing acc s with
    | zero => exact hs
    | succ k ih =>
      refine .ite hs ?_
      dsimp only
      split
      exacts [ih ((hread hs).of_eq ‹_›), trivial]

protected theorem State.Canonical.readBuf {s : State} {who asid h n} (hs : s.Canonical) :
    IfOk (fun r => r.2.Canonical) (s.readBuf who asid h n) :=
  hs.readPieces

protected theorem State.Canonical.holdInPlace {who home key h bs} {s : State} (hs : s.Canonical) :
    IfOk State.Canonical (holdInPlace who home key h bs s) := by
  unfold holdInPlace
  refine .ite trivial (.intro ?_)
  exact of_mems rfl rfl rfl hs

protected theorem State.Canonical.writePiece {who asid h bs} {s : State} (hs : s.Canonical) :
    IfOk State.Canonical (writePiece who asid h bs s) := by
  unfold writePiece
  split
  · trivial
  · refine .ite trivial (.ite trivial (.ite trivial ?_))
    split
    · trivial
    · refine .ite trivial (.ite trivial (.ite hs.holdInPlace ?_))
      split
      · trivial
      · rename_i he
        exact (hs.ready.of_eq he).writeMem.afterWrite.touch.owe

protected theorem State.Canonical.writePieces {who asid h k bs} {s : State} (hs : s.Canonical) :
    IfOk State.Canonical (writePieces who asid h k bs s) := by
  induction k generalizing h bs s with
  | zero => exact hs
  | succ k ih =>
    refine .ite hs ?_
    dsimp only
    split
    exacts [ih (hs.writePiece.of_eq ‹_›), trivial]

protected theorem State.Canonical.writeBuf {s : State} {who asid h bs} (hs : s.Canonical) : IfOk State.Canonical (s.writeBuf who asid h bs) :=
  hs.writePieces

/-! The functions of Machine/FloatOps. -/

protected theorem State.Canonical.withImage {k body} {s : State} (hs : s.Canonical) (hbody : ∀ {a u}, u.Canonical → (body a u).Canonical) :
    (withImage k body s).Canonical := by
  refine .ite hs.raise (.ite (hbody hs) ?_)
  split
  exacts [hbody hs, hs.send.block]

protected theorem State.Canonical.withNarrow {k body} {s : State} (hs : s.Canonical) (hbody : ∀ {a u}, u.Canonical → (body a u).Canonical) :
    (withNarrow k body s).Canonical := by
  refine hs.withImage fun h => ?_
  split
  exacts [hbody h, h.raise]

protected theorem State.Canonical.withFmt {t body} {s : State} (hs : s.Canonical) (hbody : ∀ {a u}, u.Canonical → (body a u).Canonical) :
    (withFmt t body s).Canonical :=
  .ite (hs.withNarrow (fun h => hbody h)) (hbody hs)

protected theorem State.Canonical.floatEnd {f r} {s : State} (hs : s.Canonical) : (floatEnd f r s).Canonical := hs.onTh.finishQ

protected theorem State.Canonical.floatOp {op n f r} {s : State} (hs : s.Canonical) : NextCanonical (floatOp op n f r s) := hs.runOp .floatEnd

protected theorem State.Canonical.execFadd {f} {s : State} (hs : s.Canonical) : NextCanonical (execFadd f s) := hs.floatOp

protected theorem State.Canonical.execFsub {f} {s : State} (hs : s.Canonical) : NextCanonical (execFsub f s) := hs.floatOp

protected theorem State.Canonical.execFmul {f} {s : State} (hs : s.Canonical) : NextCanonical (execFmul f s) := hs.floatOp

protected theorem State.Canonical.execFma {f} {s : State} (hs : s.Canonical) : NextCanonical (execFma f s) := hs.floatOp

protected theorem State.Canonical.execFdiv {f} {s : State} (hs : s.Canonical) : NextCanonical (execFdiv f s) := hs.floatOp

protected theorem State.Canonical.execFsqrt {f} {s : State} (hs : s.Canonical) : NextCanonical (execFsqrt f s) := hs.floatOp

protected theorem State.Canonical.execFrcp {f} {s : State} (hs : s.Canonical) : NextCanonical (execFrcp f s) := hs.floatOp

protected theorem State.Canonical.execFrsq {f} {s : State} (hs : s.Canonical) : NextCanonical (execFrsq f s) := hs.floatOp

protected theorem State.Canonical.execFex2 {f} {s : State} (hs : s.Canonical) : NextCanonical (execFex2 f s) := hs.floatOp

protected theorem State.Canonical.execFlg2 {f} {s : State} (hs : s.Canonical) : NextCanonical (execFlg2 f s) := hs.floatOp

protected theorem State.Canonical.execFmin {f} {s : State} (hs : s.Canonical) : NextCanonical (execFmin f s) := hs.floatOp

protected theorem State.Canonical.execFmax {f} {s : State} (hs : s.Canonical) : NextCanonical (execFmax f s) := hs.floatOp

protected theorem State.Canonical.execFcmp {f} {s : State} (hs : s.Canonical) : NextCanonical (execFcmp f s) := hs.runOp fun h => h.onTh.finishP

protected theorem State.Canonical.execFcls {f} {s : State} (hs : s.Canonical) : NextCanonical (execFcls f s) := hs.runOp .finishQ

protected theorem State.Canonical.execFcvt {f} {s : State} (hs : s.Canonical) : NextCanonical (execFcvt f s) :=
  hs.runOp (fun h => h.withFmt (fun h1 => h1.withFmt .floatEnd))

protected theorem State.Canonical.execIcvf {f} {s : State} (hs : s.Canonical) : NextCanonical (execIcvf f s) :=
  hs.runOp fun h => h.withFmt .floatEnd

protected theorem State.Canonical.execFcvi {f} {s : State} (hs : s.Canonical) : NextCanonical (execFcvi f s) :=
  hs.runOp (fun h => h.withFmt (fun h1 => h1.onTh.finishQ))

protected theorem State.Canonical.execFmtw {f} {s : State} (hs : s.Canonical) : NextCanonical (execFmtw f s) := hs.runOp fun h => h.putWg.finishU

protected theorem State.Canonical.execFmtr {f} {s : State} (hs : s.Canonical) : NextCanonical (execFmtr f s) :=
  hs.runOp fun h => h.withImage .finishQ

/-! The functions of Machine/Vector. -/

protected theorem State.Canonical.withVTy {t body} {s : State} (hs : s.Canonical) (hbody : ∀ {a u}, u.Canonical → (body a u).Canonical) :
    (withVTy t body s).Canonical :=
  .ite (hs.withNarrow (fun h => hbody h)) (hbody hs)

protected theorem State.Canonical.withTag {o t body} {s : State} (hs : s.Canonical) (hbody : ∀ {u}, u.Canonical → (body u).Canonical) :
    (withTag o t body s).Canonical :=
  .ite (hbody hs) hs.raise

protected theorem State.Canonical.vectorEnd {f T r} {s : State} (hs : s.Canonical) : (vectorEnd f T r s).Canonical := hs.onTh.finishV

protected theorem State.Canonical.withTags {os t body} {s : State} (hs : s.Canonical) (hbody : ∀ {u}, u.Canonical → (body u).Canonical) :
    (withTags os t body s).Canonical := by
  induction os generalizing s with
  | nil => exact hbody hs
  | cons o os ih => exact hs.withTag ih

protected theorem State.Canonical.vectorOp {op f os gi gf} {s : State} (hs : s.Canonical) : NextCanonical (vectorOp op f os gi gf s) :=
  hs.runOp (fun h => h.withVTy (fun h1 => h1.withTags .vectorEnd))

protected theorem State.Canonical.execVadd {f} {s : State} (hs : s.Canonical) : NextCanonical (execVadd f s) := hs.vectorOp

protected theorem State.Canonical.execVsub {f} {s : State} (hs : s.Canonical) : NextCanonical (execVsub f s) := hs.vectorOp

protected theorem State.Canonical.execVmul {f} {s : State} (hs : s.Canonical) : NextCanonical (execVmul f s) := hs.vectorOp

protected theorem State.Canonical.execVfma {f} {s : State} (hs : s.Canonical) : NextCanonical (execVfma f s) := hs.vectorOp

protected theorem State.Canonical.execVmin {f} {s : State} (hs : s.Canonical) : NextCanonical (execVmin f s) := hs.vectorOp

protected theorem State.Canonical.execVmax {f} {s : State} (hs : s.Canonical) : NextCanonical (execVmax f s) := hs.vectorOp

protected theorem State.Canonical.execVabs {f} {s : State} (hs : s.Canonical) : NextCanonical (execVabs f s) := hs.vectorOp

protected theorem State.Canonical.execVred {f} {s : State} (hs : s.Canonical) : NextCanonical (execVred f s) :=
  hs.runOp (fun h => h.withVTy (fun h1 => h1.withTag (fun h2 => .ite h2.finishQ h2.floatEnd)))

protected theorem State.Canonical.execVdot {f} {s : State} (hs : s.Canonical) : NextCanonical (execVdot f s) :=
  hs.runOp (fun h => h.withVTy (fun h1 => h1.withTags (fun h2 => .ite h2.finishQ h2.floatEnd)))

protected theorem State.Canonical.execVbcs {f} {s : State} (hs : s.Canonical) : NextCanonical (execVbcs f s) :=
  hs.runOp fun h => h.withVTy .finishV

protected theorem State.Canonical.withTagUnless64 {o t body} {s : State} (hs : s.Canonical) (hbody : ∀ {u}, u.Canonical → (body u).Canonical) :
    (withTagUnless64 o t body s).Canonical :=
  .ite (hbody hs) (hs.withTag (fun h => hbody h))

protected theorem State.Canonical.execVext {f} {s : State} (hs : s.Canonical) : NextCanonical (execVext f s) :=
  hs.runOp (fun h => h.withVTy (fun h1 => h1.withTagUnless64 (fun h2 => .ite h2.raise h2.finishQ)))

protected theorem State.Canonical.execVins {f} {s : State} (hs : s.Canonical) : NextCanonical (execVins f s) :=
  hs.runOp (fun h => h.withVTy (fun h1 => h1.withTagUnless64 (fun h2 => .ite h2.raise h2.finishV)))

protected theorem State.Canonical.execVprm {f} {s : State} (hs : s.Canonical) : NextCanonical (execVprm f s) :=
  hs.runOp (fun h => h.withVTy (fun h1 => .ite h1.raise (h1.withTag (fun h2 => h2.withTag .finishV))))

protected theorem State.Canonical.execVcmp {f} {s : State} (hs : s.Canonical) : NextCanonical (execVcmp f s) :=
  hs.runOp (fun h => h.withVTy (fun h1 => h1.withTags .vectorEnd))

protected theorem State.Canonical.execVsel {f} {s : State} (hs : s.Canonical) : NextCanonical (execVsel f s) :=
  hs.runOp (fun h => h.withVTy (fun h1 => h1.withTag (fun h2 => h2.withTags .finishV)))

protected theorem State.Canonical.execVcvt {f} {s : State} (hs : s.Canonical) : NextCanonical (execVcvt f s) :=
  hs.runOp (fun h => h.withVTy (fun h1 => h1.withVTy (fun h2 => h2.withTag (fun h3 => .ite h3.raise (.ite h3.vectorEnd (.ite (h3.withTag .vectorEnd)
      h3.vectorEnd))))))

protected theorem State.Canonical.quantEnd {f T F} {s : State} (hs : s.Canonical) : (quantEnd f T F s).Canonical :=
  .ite hs.raise (.ite hs.raise (.ite (hs.withTag (fun h => .ite h.finishV h.onTh.finishV)) (.ite hs.finishV hs.onTh.finishV)))

protected theorem State.Canonical.execVqnt {f} {s : State} (hs : s.Canonical) : NextCanonical (execVqnt f s) :=
  hs.runOp (fun h => .ite h.raise (.ite h.raise (h.withNarrow (fun h1 => h1.withNarrow (fun h2 => .ite h2.raise (.ite h2.raise h2.quantEnd))))))

protected theorem State.Canonical.withBlockFmts {k K tags acc body} {s : State} (hs : s.Canonical)
    (hbody : ∀ {a u}, u.Canonical → (body a u).Canonical) : (withBlockFmts k K tags acc body s).Canonical := by
  induction tags generalizing acc s with
  | nil => exact hbody hs
  | cons t ts ih => exact hs.withNarrow fun h => .ite h.raise (ih h)

protected theorem State.Canonical.execVdqn {f} {s : State} (hs : s.Canonical) : NextCanonical (execVdqn f s) :=
  hs.runOp (fun h => .ite h.raise (.ite h.raise (h.withNarrow (fun h1 => h1.withBlockFmts (fun h2 => h2.withTag (fun h3 => .ite h3.raise
      h3.vectorEnd))))))

protected theorem State.Canonical.execVtag {f} {s : State} (hs : s.Canonical) : NextCanonical (execVtag f s) :=
  hs.runOp fun h => h.withVTy .finishV

/-! The functions of Machine/Access. -/

protected theorem State.Canonical.awaitOwn {core} {s : State} (hs : s.Canonical) : (awaitOwn core s).Canonical := hs.block.onTh

protected theorem State.Canonical.issue {home e r wrap k} {s : State} (hs : s.Canonical) (hk : ∀ {u}, u.Canonical → (k u).Canonical) :
    (issue home e r wrap k s).Canonical := by
  refine .ite (hk hs.send) (.ite hs.awaitOwn ?_)
  split
  exacts [hk (hs.serve.of_eq ‹_›), hs.block]

protected theorem State.Canonical.awaitAnswer {h c} {s : State} (hs : s.Canonical) : (awaitAnswer h c s).Canonical := hs.block.onTh

protected theorem State.Canonical.writeWOf {s : State} {t d v} (hs : s.Canonical) : (s.writeWOf t d v).Canonical := by
  simp only [State.writeWOf]
  split
  exacts [hs.putWg, hs, hs, hs, hs]

protected theorem State.Canonical.readRemote {home e h c} {s : State} (hs : s.Canonical) : (readRemote home e h c s).Canonical :=
  hs.issue .awaitAnswer

protected theorem State.Canonical.readMirror {e h c} {s : State} (hs : s.Canonical) : (readMirror e h c s).Canonical := by
  refine .ite hs.raise ?_
  dsimp only
  split
  exacts [hs.raise, .ite hs.raise (hs.issue .awaitAnswer)]

protected theorem State.Canonical.startFill {s : State} {core asid h} (hs : s.Canonical) : (s.startFill core asid h).Canonical := by
  simp only [State.startFill]
  split
  exacts [of_mems rfl rfl rfl hs, hs]

protected theorem State.Canonical.readLeased {home e h c fin} {s : State} (hs : s.Canonical) (hfin : ∀ {a u}, u.Canonical → (fin a u).Canonical) :
    (readLeased home e h c fin s).Canonical := by
  refine .ite hs.readMirror (.ite ?_ hs.readRemote)
  split
  exacts [hfin hs, hs.startFill.issue .awaitAnswer]

protected theorem State.Canonical.loadHere {h c fin} {s : State} (hs : s.Canonical) (hfin : ∀ {a u}, u.Canonical → (fin a u).Canonical) :
    (loadHere h c fin s).Canonical := by
  simp only [loadHere]
  split
  · exact hs.looked.raise
  · exact hs.block
  · refine .ite hs.touch.awaitOwn (.ite hs.touch.block (.ite hs.touch.countCore.block (.ite ?_ hs.touch.readRemote)))
    have h1 {core key e p} {l : List Nat} : (l.foldl (fun s row => countRow core row s) (s.touch core key e p)).Canonical := .foldl hs.touch .countRow
    split
    · have h2 := h1.readClean.of_eq ‹_›
      exact hfin h2
    · exact .ite h1.noted.raise h1.readRemote

protected theorem State.Canonical.loadFrom {ldk stay h c fin} {s : State} (hs : s.Canonical) (hfin : ∀ {a u}, u.Canonical → (fin a u).Canonical) :
    (loadFrom ldk stay h c fin s).Canonical :=
  hs.withHome fun {e l s} h => by
    extract_lets checked
    have hchecked {k : State → State} (hk : ∀ {u}, u.Canonical → (k u).Canonical) : (checked k).Canonical := by
      unfold checked
      split
      exacts [h.raise, hk h]
    exact .ite (hchecked fun h => h.readLeased hfin) (.ite (hchecked fun h => .ite h.raise h.readRemote) (.ite (h.loadHere hfin)
      (.ite (hchecked fun h => .ite h.readMirror h.readRemote) (.ite (hchecked .migrate) (.ite h.readMirror h.migrate)))))

protected theorem State.Canonical.withHandle {op f align k} {s : State} (hs : s.Canonical) (hk : ∀ {a u}, u.Canonical → (k a u).Canonical) :
    (withHandle op f align k s).Canonical := by
  simp only [withHandle]
  split
  exacts [hs.raise, .ite hs.raise (hk hs)]

protected theorem State.Canonical.scalarLoad {op ldk f} {s : State} (hs : s.Canonical) : NextCanonical (scalarLoad op ldk f s) :=
  hs.runOp (fun h => h.withHandle (fun h1 => h1.loadFrom .finishQ))

protected theorem State.Canonical.execLd {f} {s : State} (hs : s.Canonical) : NextCanonical (execLd f s) := hs.scalarLoad

protected theorem State.Canonical.execLdk {f} {s : State} (hs : s.Canonical) : NextCanonical (execLdk f s) := hs.scalarLoad

protected theorem State.Canonical.execLdl {f} {s : State} (hs : s.Canonical) : NextCanonical (execLdl f s) :=
  hs.runOp (fun h => h.withLocal (fun h1 => h1.readLocal .finishQ))

protected theorem State.Canonical.release {rel scope k} {s : State} (hs : s.Canonical) (hk : ∀ {u}, u.Canonical → (k u).Canonical) :
    (release rel scope k s).Canonical :=
  .ite (hs.awaitScope (fun h => hk h)) (hk hs)

protected theorem State.Canonical.dropLine {s : State} {h} (hs : s.Canonical) : (s.dropLine h).Canonical := hs.putCore

protected theorem State.Canonical.postWrite {home e r wrap k} {s : State} (hs : s.Canonical) (hk : ∀ {u}, u.Canonical → (k u).Canonical) :
    (postWrite home e r wrap k s).Canonical :=
  .ite hs.block (.issue (.onTh (.ite hs.dropLine hs)) (fun h => hk h))

protected theorem State.Canonical.storeTo {f h bs} {s : State} (hs : s.Canonical) : (storeTo f h bs s).Canonical := by
  refine hs.withHome (fun h => ?_)
  split
  exacts [h.raise, .ite h.raise (h.release (fun h1 => h1.postWrite .finishU))]

protected theorem State.Canonical.execSt {f} {s : State} (hs : s.Canonical) : NextCanonical (execSt f s) :=
  hs.runOp fun h => h.withHandle .storeTo

protected theorem State.Canonical.localStore {op n f bs} {s : State} (hs : s.Canonical) : (localStore op n f bs s).Canonical :=
  hs.withLocal (fun h => h.release (fun h1 => h1.writeLocal .finishU))

protected theorem State.Canonical.execStl {f} {s : State} (hs : s.Canonical) : NextCanonical (execStl f s) := hs.runOp .localStore

protected theorem State.Canonical.prefetch {h n e} {s : State} (hs : s.Canonical) : (prefetch h n e s).Canonical := by
  have hf {c : Prop} [Decidable c] : (if c then s.startFill s.th.core s.th.asid h else s).Canonical := .ite hs.startFill hs
  simp only [prefetch]
  split
  · exact hs
  · exact .ite (hf.serve.getD hf) hf.send

protected theorem State.Canonical.execPrf {f} {s : State} (hs : s.Canonical) : NextCanonical (execPrf f s) := by
  refine hs.runOp (fun h => ?_)
  split
  exacts [h.finishU, h.withDesc (fun h1 => h1.prefetch.finishU) .finishU]

protected theorem State.Canonical.execFence {f} {s : State} (hs : s.Canonical) : NextCanonical (execFence f s) :=
  hs.runOp fun h => h.awaitScope .finishU

protected theorem State.Canonical.withKept {t k} {s : State} (hs : s.Canonical) (hk : ∀ {a u}, u.Canonical → (k a u).Canonical) :
    (withKept t k s).Canonical :=
  .ite (hs.withNarrow (fun h => hk h)) (hk hs)

protected theorem State.Canonical.execVld {f} {s : State} (hs : s.Canonical) : NextCanonical (execVld f s) :=
  hs.runOp (fun h => h.withKept (fun h1 => h1.withHandle (fun h2 => h2.loadFrom .finishV)))

protected theorem State.Canonical.execVst {f} {s : State} (hs : s.Canonical) : NextCanonical (execVst f s) :=
  hs.runOp fun h => h.withHandle .storeTo

protected theorem State.Canonical.execVldl {f} {s : State} (hs : s.Canonical) : NextCanonical (execVldl f s) :=
  hs.runOp (fun h => h.withKept (fun h1 => h1.withLocal (fun h2 => h2.readLocal .finishV)))

protected theorem State.Canonical.execVstl {f} {s : State} (hs : s.Canonical) : NextCanonical (execVstl f s) := hs.runOp .localStore

/-! The functions of Machine/Atomic. -/

protected theorem State.Canonical.atomEnd {f scond old ok fl} {s : State} (hs : s.Canonical) : (atomEnd f scond old ok fl s).Canonical :=
  .ite hs.finishU (.ite hs.finishP hs.onTh.finishQ)

protected theorem State.Canonical.localAtomic {op aop f} {s : State} (hs : s.Canonical) : (localAtomic op aop f s).Canonical := by
  refine hs.withLocal (fun h => h.release (fun h1 => .ite h1.block ?_))
  split
  · exact h1.raise
  · refine .atomEnd ?_
    split
    exacts [h1.localWrite, h1]

protected theorem State.Canonical.homeAtomic {op aop c f} {s : State} (hs : s.Canonical) : (homeAtomic op aop c f s).Canonical := by
  refine hs.withHandle (fun h => h.withHome (fun h1 => ?_))
  split
  · exact h1.raise
  · exact .ite h1.raise (h1.release (fun h2 => .ite (h2.postWrite .finishU) (.ite (h2.postWrite .awaitAnswer) (h2.issue .awaitAnswer))))

protected theorem State.Canonical.atomic {op aop f} {s : State} (hs : s.Canonical) : NextCanonical (atomic op aop f s) :=
  hs.runOp fun h => .ite h.localAtomic h.homeAtomic

protected theorem State.Canonical.execAtom {f} {s : State} (hs : s.Canonical) : NextCanonical (execAtom f s) := hs.atomic

protected theorem State.Canonical.execAtomf {f} {s : State} (hs : s.Canonical) : NextCanonical (execAtomf f s) := hs.atomic

protected theorem State.Canonical.execCas {f} {s : State} (hs : s.Canonical) : NextCanonical (execCas f s) := hs.atomic

protected theorem State.Canonical.execLres {f} {s : State} (hs : s.Canonical) : NextCanonical (execLres f s) := hs.runOp .homeAtomic

protected theorem State.Canonical.execScond {f} {s : State} (hs : s.Canonical) : NextCanonical (execScond f s) := hs.runOp .homeAtomic

protected theorem State.Canonical.execWaitc {f} {s : State} (hs : s.Canonical) : NextCanonical (execWaitc f s) := by
  refine hs.runOp (fun h => h.withHandle (fun h1 => h1.withHome (fun h2 => ?_)))
  split
  exacts [h2.raise, .ite h2.raise (.ite h2.block (h2.awaitAnswer.issue (fun h3 => h3)))]

protected theorem State.Canonical.execYield {f} {s : State} (hs : s.Canonical) : NextCanonical (execYield f s) :=
  hs.runOp fun h => h.finishU.block

protected theorem State.Canonical.migrCore {f a} {s : State} (hs : s.Canonical) : (migrCore f a s).Canonical :=
  .ite hs.raise (.ite hs.finishU hs.migrate)

protected theorem State.Canonical.execMigr {f} {s : State} (hs : s.Canonical) : NextCanonical (execMigr f s) := by
  refine hs.runOp (fun h => .ite ?_ h.migrCore)
  split
  exacts [h.raise, h.withHome (fun h1 => .ite h1.raise (.ite h1.migrate (.ite h1.finishU h1.migrate)))]

protected theorem State.Canonical.countSpawn {s : State} (hs : s.Canonical) : s.countSpawn.Canonical := by
  simp only [State.countSpawn]
  split
  exacts [hs.putJob, .ite hs hs.send]

protected theorem State.Canonical.execSpawn {f} {s : State} (hs : s.Canonical) : NextCanonical (execSpawn f s) :=
  hs.runOp fun h => .ite (.ite h.block (.finishU (.countSpawn (of_mems rfl rfl rfl h))))
    (h.withHome fun h => .ite h.raise (.ite h.raise (.ite h.raise (.finishU (.onTh (.countSpawn (of_mems rfl rfl rfl h)))))))

protected theorem State.Canonical.execHome {f} {s : State} (hs : s.Canonical) : NextCanonical (execHome f s) :=
  hs.runOp fun h => h.withHome .finishQ

/-! The functions of Machine/Queue. -/

protected theorem State.Canonical.withDescriptor {d k} {s : State} (hs : s.Canonical) (hk : ∀ {u}, u.Canonical → (k u).Canonical) :
    (withDescriptor d k s).Canonical := by
  simp only [withDescriptor]
  split
  exacts [hs.raise, hk hs]

protected theorem State.Canonical.pushEntry {f d e bs} {s : State} (hs : s.Canonical) : (pushEntry f d e bs s).Canonical :=
  .finishU (.onTh (of_mems rfl rfl rfl hs))

protected theorem State.Canonical.pushOn {f d bs} {s : State} (hs : s.Canonical) : (pushOn f d bs s).Canonical := by
  simp only [pushOn]
  split
  exacts [hs.block, .ite hs.raise (.ite (.block (.onTh (.ite hs hs.putCore))) hs.pushEntry)]

protected theorem State.Canonical.pushBytes {f k} {s : State} (hs : s.Canonical) (hk : ∀ {a u}, u.Canonical → (k a u).Canonical) :
    (pushBytes f k s).Canonical := by
  simp only [pushBytes]
  split
  exacts [hk hs, hk hs, hs.withLocal (fun h => h.readLocal (fun h1 => hk h1))]

protected theorem State.Canonical.execQpush {f} {s : State} (hs : s.Canonical) : NextCanonical (execQpush f s) :=
  hs.runOp (fun h => h.withDescriptor (fun h1 => h1.pushBytes .pushOn))

protected theorem State.Canonical.withBank {a k} {s : State} (hs : s.Canonical) (hk : ∀ {a u}, u.Canonical → (k a u).Canonical) :
    (withBank a k s).Canonical :=
  .ite (hk hs) hs.raise

protected theorem State.Canonical.clearBank {plaza bank} {s : State} (hs : s.Canonical) : (clearBank plaza bank s).Canonical :=
  .putLmem hs.putPlaza (filter_wf _ _ hs.2.1)

protected theorem State.Canonical.dropWay {plaza bank} {s : State} (hs : s.Canonical) : (dropWay plaza bank s).Canonical := hs.putCore

protected theorem State.Canonical.setBank {s : State} {plaza bank m} (hs : s.Canonical) : (s.setBank plaza bank m).Canonical := hs.putPlaza

protected theorem State.Canonical.setStage {s : State} {plaza bank st} (hs : s.Canonical) : (s.setStage plaza bank st).Canonical := hs.putPlaza

protected theorem State.Canonical.wakeBank {s : State} {plaza bank} (hs : s.Canonical) : (s.wakeBank plaza bank).Canonical := hs.wakeWaiting

protected theorem State.Canonical.changeBank {tid plaza bank next} {s : State} (hs : s.Canonical) :
    (changeBank tid plaza bank next s).Canonical := by
  simp only [changeBank]
  split
  exacts [.ite (.setStage (.setBank (.setBank (.clearBank (.ite hs.dropWay hs))))) (.send (.setStage (.setBank (.clearBank (.ite hs.dropWay hs))))),
      .setStage (.setBank (.ite hs.dropWay hs)), .setStage (.setBank (.ite hs.dropWay hs)), .setStage (.setBank (.clearBank (.ite hs.dropWay hs)))]

protected theorem State.Canonical.startBank {plaza bank next} {s : State} (hs : s.Canonical) : (startBank plaza bank next s).Canonical := by
  simp only [startBank]
  split
  · refine .ite hs.raise ?_
    split
    exacts [.ite hs.changeBank hs.setStage.send.block, hs.changeBank]
  · exact hs.changeBank

protected theorem State.Canonical.bankStep {f plaza bank} {s : State} (hs : s.Canonical) : (bankStep f plaza bank s).Canonical := by
  simp only [bankStep]
  split
  · refine .ite hs.block ?_
    split
    exacts [hs.setStage.wakeBank.finishU, hs.setStage.wakeBank.raise, hs.setStage.wakeBank.raise, hs.block, hs.block, hs.block, hs.block]
  · exact hs

protected theorem State.Canonical.execBankm {f} {s : State} (hs : s.Canonical) : NextCanonical (execBankm f s) := by
  refine hs.runOp (fun h => h.withBank (fun h1 => .ite h1.bankStep ?_))
  split
  exacts [h1.raise, h1.startBank.bankStep]

protected theorem State.Canonical.returnCredit {plaza bank producer} {s : State} (hs : s.Canonical) :
    (returnCredit plaza bank producer s).Canonical := by
  simp only [returnCredit]
  split
  exacts [hs.send, hs]

protected theorem State.Canonical.popEntry {f plaza bank x} {s : State} (hs : s.Canonical) : (popEntry f plaza bank x s).Canonical := by
  simp only [popEntry]
  split
  · split
    exacts [hs.raise, hs.localWrite.setBank.returnCredit.finishQ]
  · exact hs

protected theorem State.Canonical.execQpop {f} {s : State} (hs : s.Canonical) : NextCanonical (execQpop f s) := by
  refine hs.runOp (fun h => h.atPlaza (fun h1 => h1.withBank (fun h2 => ?_)))
  dsimp only
  split
  exacts [h2.withLocal (fun h3 => .ite h3.block (.ite (.ite h3.block h3.finishQ) h3.popEntry)), h2.raise]

protected theorem State.Canonical.execQcnt {f} {s : State} (hs : s.Canonical) : NextCanonical (execQcnt f s) :=
  hs.runOp (fun h => .ite (h.withDescriptor .finishQ) (h.atPlaza (fun h1 => h1.withBank .finishQ)))

protected theorem State.Canonical.entryArrives {core src plaza bank data tid wid} {s : State} (hs : s.Canonical) :
    (entryArrives core src plaza bank data tid wid s).Canonical := by
  simp only [entryArrives]
  split
  · split
    exacts [hs.localWrite.setBank.send.wakeThread, hs.localWrite.setBank.send]
  · exact hs

protected theorem State.Canonical.grantArrives {core src desc size count credits plaza bank fresh} {s : State} (hs : s.Canonical) :
    (grantArrives core src desc size count credits plaza bank fresh s).Canonical :=
  .ite hs.send (.ite hs.putCore.wakeWaiting.send hs.putCore.wakeWaiting)

protected theorem State.Canonical.grantAcked {plaza bank ok} {s : State} (hs : s.Canonical) : (grantAcked plaza bank ok s).Canonical := by
  simp only [grantAcked]
  split
  exacts [.wakeBank (.ite hs.setStage hs.clearBank.setBank.setStage), hs]

protected theorem State.Canonical.creditArrives {core desc} {s : State} (hs : s.Canonical) : (creditArrives core desc s).Canonical := by
  simp only [creditArrives]
  split
  exacts [hs, hs.putCore.wakeWaiting]

protected theorem State.Canonical.revokeArrives {core src desc plaza bank wantReply} {s : State} (hs : s.Canonical) :
    (revokeArrives core src desc plaza bank wantReply s).Canonical :=
  .ite hs.putCore.send hs.putCore

protected theorem State.Canonical.revokeReplied {plaza bank} {s : State} (hs : s.Canonical) : (revokeReplied plaza bank s).Canonical := by
  simp only [revokeReplied]
  split
  · refine .ite (.wakeBank ?_) hs.changeBank.wakeBank
    split
    exacts [hs.setStage.send, hs.setStage]
  · exact hs.setStage
  · exact hs

/-! The functions of Machine/Sync. -/

protected theorem State.Canonical.execBar {f} {s : State} (hs : s.Canonical) : NextCanonical (execBar f s) :=
  hs.runOp (fun h => .ite h.raise (.ite h.raise h.putWg.block))

protected theorem State.Canonical.execGbar {f} {s : State} (hs : s.Canonical) : NextCanonical (execGbar f s) := hs.runOp fun h => h.putWg.block

protected theorem State.Canonical.execBarrierPhaseEnd {w n} {s : State} (hs : s.Canonical) : NextCanonical (execBarrierPhaseEnd w n s) := by
  simp only [execBarrierPhaseEnd]
  split
  · exact hs
  · split <;> exact by split; exacts [hs, hs.putWg.mapThreads]

protected theorem State.Canonical.putBarrier {s : State} {die b} (hs : s.Canonical) : (s.putBarrier die b).Canonical := hs.putDie

protected theorem State.Canonical.putBoard {s : State} {die b} (hs : s.Canonical) : (s.putBoard die b).Canonical := hs.putDie

protected theorem State.Canonical.withBarrier {id k} {s : State} (hs : s.Canonical) (hk : ∀ {a u}, u.Canonical → (k a u).Canonical) :
    (withBarrier id k s).Canonical := by
  refine .ite hs.raise ?_
  split
  exacts [.ite (hk hs) hs.raise, hs.raise]

protected theorem State.Canonical.withBoard {id k} {s : State} (hs : s.Canonical) (hk : ∀ {a u}, u.Canonical → (k a u).Canonical) :
    (withBoard id k s).Canonical := by
  refine .ite hs.raise ?_
  split
  exacts [.ite (hk hs) hs.raise, hs.raise]

protected theorem State.Canonical.execPbari {f} {s : State} (hs : s.Canonical) : NextCanonical (execPbari f s) := by
  refine hs.runOp (fun h => .ite h.raise ?_)
  split
  exacts [h.finishQ, .ite h.finishQ h.putDie.finishQ]

protected theorem State.Canonical.execPbara {f} {s : State} (hs : s.Canonical) : NextCanonical (execPbara f s) :=
  hs.runOp (fun h => h.withBarrier (fun h1 => .ite h1.finishU h1.send.finishU))

protected theorem State.Canonical.execPbarw {f} {s : State} (hs : s.Canonical) : NextCanonical (execPbarw f s) :=
  hs.runOp (fun h => h.withBarrier (fun h1 => .ite h1.finishP h1.send.awaitAnswer))

protected theorem State.Canonical.releaseAll {die b whole} {s : State} (hs : s.Canonical) : (releaseAll die b whole s).Canonical := hs.foldl .send

protected theorem State.Canonical.arrive {die b ident} {s : State} (hs : s.Canonical) : (arrive die b ident s).Canonical :=
  .ite hs (.ite hs.putBarrier.releaseAll hs.putBarrier)

protected theorem State.Canonical.waitAt {die core b ident tid} {s : State} (hs : s.Canonical) : (waitAt die core b ident tid s).Canonical :=
  .ite hs.send (.ite hs.putBarrier hs.send)

protected theorem State.Canonical.boardRequest {id op slot value gen mask c} {s : State} (hs : s.Canonical) :
    (boardRequest id op slot value gen mask c s).Canonical :=
  hs.send.awaitAnswer

protected theorem State.Canonical.execNbpost {f} {s : State} (hs : s.Canonical) : NextCanonical (execNbpost f s) :=
  hs.runOp (fun h => h.withBoard (fun h1 => .ite h1.raise (.ite h1.onTh.finishQ h1.boardRequest)))

protected theorem State.Canonical.execNbview {f} {s : State} (hs : s.Canonical) : NextCanonical (execNbview f s) :=
  hs.runOp (fun h => h.withBoard (fun h1 => .ite h1.onTh.finishQ h1.boardRequest))

protected theorem State.Canonical.execNbload {f} {s : State} (hs : s.Canonical) : NextCanonical (execNbload f s) :=
  hs.runOp (fun h => .ite h.raise (h.withBoard (fun h1 => .ite h1.raise (.ite h1.onTh.finishQ h1.boardRequest))))

protected theorem State.Canonical.execNbmask {f} {s : State} (hs : s.Canonical) : NextCanonical (execNbmask f s) := hs.runOp .finishQ

protected theorem State.Canonical.execNbgen {f} {s : State} (hs : s.Canonical) : NextCanonical (execNbgen f s) :=
  hs.runOp (fun h => h.withBoard (fun h1 => .ite h1.raise (.ite h1.raise (.ite h1.finishU h1.boardRequest))))

protected theorem State.Canonical.serveBoard {die core op b slot value tid gen mask} {s : State} (hs : s.Canonical) :
    (serveBoard die core op b slot value tid gen mask s).Canonical := by
  simp only [serveBoard]
  split
  exacts [.ite hs.send hs.putBoard.send, hs.send, .ite hs.send hs.send, .ite hs.putBoard.send hs.send]

/-! The functions of Machine/System. -/

protected theorem State.Canonical.execTrap {f} {s : State} (hs : s.Canonical) : NextCanonical (execTrap f s) := hs.runOp .raise

protected theorem State.Canonical.execRte {f} {s : State} (hs : s.Canonical) : NextCanonical (execRte f s) :=
  hs.runOp fun h => .ite h.raise h.onTh

protected theorem State.Canonical.execSysrd {f} {s : State} (hs : s.Canonical) : NextCanonical (execSysrd f s) := by
  refine hs.runOp (fun h => .ite (.ite h.raise (.ite h.finishQ h.send.awaitAnswer)) ?_)
  split
  exacts [h.finishQ, h.raise]

protected theorem State.Canonical.execSyswr {f} {s : State} (hs : s.Canonical) : NextCanonical (execSyswr f s) := by
  refine hs.runOp (fun h => .ite (.ite h.raise h.send.finishU) (.ite h.raise ?_))
  split
  exacts [.finishU h, h.raise]

protected theorem State.Canonical.execSleep {f} {s : State} (hs : s.Canonical) : NextCanonical (execSleep f s) := by
  refine hs.runOp fun h => ?_
  dsimp only
  split
  exacts [h.finishU.onTh.block, h.finishU.onTh.block, h.block.onTh]

protected theorem State.Canonical.execIdle {f} {s : State} (hs : s.Canonical) : NextCanonical (execIdle f s) :=
  hs.runOp (fun h => .block (.onTh (.finishU (.ite h (.send h)))))

protected theorem State.Canonical.wakeIdlers {w} {s : State} (hs : s.Canonical) : (wakeIdlers w s).Canonical :=
  hs.foldl fun h => .ite h.wakeThread h.send

protected theorem State.Canonical.kickArrives {wid increment tid nap} {s : State} (hs : s.Canonical) :
    (kickArrives wid increment tid nap s).Canonical :=
  .ite hs.putWg.wakeIdlers hs.mapThreads

/-! The functions of Machine/Engine. -/

protected theorem State.Canonical.addItem {s : State} {plaza wid rs} (hs : s.Canonical) : (s.addItem plaza wid rs).Canonical := hs.putPlaza

protected theorem State.Canonical.setJob {s : State} {plaza j} (hs : s.Canonical) : (s.setJob plaza j).Canonical := hs.putPlaza

protected theorem State.Canonical.setOutcome {s : State} {wid id o} (hs : s.Canonical) : (s.setOutcome wid id o).Canonical := hs.putWg

protected theorem State.Canonical.endJob {plaza n j st cause} {s : State} (hs : s.Canonical) :
    (endJob plaza n j st cause s).Canonical := by
  induction n generalizing j st cause s with
  | zero => exact hs
  | succ n ih =>
    refine .ite hs.setJob.setOutcome.wakeWaiting (hs.setJob.setOutcome.wakeWaiting.putPlaza.foldl fun h => ?_)
    split
    exacts [.ite (ih h) h, h]

protected theorem State.Canonical.setCb {wid cb ks} {s : State} (hs : s.Canonical) : (setCb wid cb ks s).Canonical := by
  simp only [setCb]
  split
  exacts [hs, hs.putWg]

protected theorem State.Canonical.markRows {j ks} {s : State} (hs : s.Canonical) : (markRows j ks s).Canonical := .ite hs hs.setCb

protected theorem State.Canonical.settleRows {plaza j} {s : State} (hs : s.Canonical) : (settleRows plaza j s).Canonical := hs.markRows.setJob

protected theorem State.Canonical.finishJob {plaza j st cause} {s : State} (hs : s.Canonical) : (finishJob plaza j st cause s).Canonical :=
  hs.markRows.endJob

protected theorem State.Canonical.stopJob {plaza j code} {s : State} (hs : s.Canonical) : (stopJob plaza j code s).Canonical :=
  .ite hs.setJob (.ite hs.finishJob hs.finishJob)

protected theorem State.Canonical.scanChain {rd n i} {s : State} (hs : s.Canonical)
    (hrd : ∀ {a u}, u.Canonical → IfOk (fun r => r.2.Canonical) (rd a u)) : IfOk (fun r => r.2.Canonical) (scanChain rd n i s) := by
  induction n generalizing i s with
  | zero => exact hs
  | succ n ih =>
    simp only [scanChain]
    split
    · exact hs
    · trivial
    · exact .ite hs trivial
    · have h1 := (hrd hs).of_eq ‹_›
      exact .ite ((ih h1).map fun h => h) h1

/-- As for `readPieces`, with a variable in the place of `readPiece` (see `opaque_elim`). -/
protected theorem State.Canonical.readGot {who got asid h n k acc} {s : State} (hs : s.Canonical) :
    IfOk (fun r => r.2.Canonical) (readGot who got asid h n k acc s) := by
  have hread {h n} {s : State} (hs : s.Canonical) : IfOk (fun r => r.2.Canonical) (readPiece who asid h n s) := hs.readPiece
  revert hread
  generalize hf : readGot = f
  delta readGot readGot._f at hf
  subst hf
  beta_reduce
  induction readPiece using opaque_elim with
  | var read =>
    intro hread
    induction k generalizing acc s with
    | zero => exact hs
    | succ k ih =>
      refine .ite hs ?_
      dsimp only
      split
      · exact ih hs
      · split
        exacts [ih ((hread hs).of_eq ‹_›), trivial]

protected theorem State.Canonical.engRead {plaza w j isLocal a n} {s : State} (hs : s.Canonical) :
    IfOk (fun r => r.2.Canonical) (engRead plaza w j isLocal a n s) :=
  .ite (IfOk.any.map fun _ => hs) hs.readGot

protected theorem State.Canonical.engCardRead {plaza w j isLocal a n} {s : State} (hs : s.Canonical) :
    IfOk (fun r => r.2.Canonical) (engCardRead plaza w j isLocal a n s) :=
  .ite hs.engRead trivial

protected theorem State.Canonical.sendData {plaza j core pos k h bs} {s : State} (hs : s.Canonical) :
    IfOk State.Canonical (sendData plaza j core pos k h bs s) := by
  induction k generalizing h bs s with
  | zero => exact hs
  | succ k ih =>
    refine .ite hs ?_
    dsimp only
    split
    exacts [trivial, .ite trivial (ih hs.send)]

protected theorem State.Canonical.engCardWrite {plaza w j pos isLocal a bs} {s : State} (hs : s.Canonical) :
    IfOk State.Canonical (engCardWrite plaza w j pos isLocal a bs s) :=
  .ite trivial (.ite (IfOk.any.map fun _ => hs.localWrite) hs.sendData)

protected theorem State.Canonical.engStop {plaza j acc x} {s : State} (hs : s.Canonical) : (engStop plaza j acc x s).Canonical := by
  simp only [engStop]
  split
  exacts [(hs.noted.snd_eq ‹_›).stopJob, .ite ((hs.noted.snd_eq ‹_›).postRecord.stopJob) ((hs.noted.snd_eq ‹_›).postRecord.setJob), .ite
      (hs.noted.snd_eq ‹_›) ((hs.noted.snd_eq ‹_›).send), hs.noted.snd_eq ‹_›]

protected theorem State.Canonical.chainAt {plaza w j i} {s : State} (hs : s.Canonical) :
    IfOk (fun r => r.2.Canonical) (chainAt plaza w j i s) :=
  hs.engRead.map fun h => h

protected theorem State.Canonical.copyRows {plaza w j sl src n l} {s : State} (hs : s.Canonical) :
    IfOk (fun r => r.2.Canonical) (copyRows plaza w j sl src n l s) :=
  IfOk.foldlM hs (fun h => h.engCardRead.map (fun h1 => h1))

protected theorem State.Canonical.copyWrites {plaza w j dl dst l} {s : State} (hs : s.Canonical) :
    IfOk State.Canonical (copyWrites plaza w j dl dst l s) :=
  IfOk.foldlM hs fun h => h.engCardWrite

protected theorem State.Canonical.runCopy {plaza w j ws a b} {s : State} (hs : s.Canonical) : (runCopy plaza w j ws a b s).Canonical := by
  have hst {c : Prop} [Decidable c] : IfOk (fun r => r.2.Canonical)
      (if c then .ok ([0x13, 0, 0, 0], s) else chainAt plaza w j (j.entry + 1) s) := .ite hs hs.chainAt
  unfold runCopy
  refine .ite hs.stopJob ?_
  split
  · exact hs.engStop
  · rename_i t s0 he
    have h0 : s0.Canonical := hst.of_eq he
    refine .ite hs.stopJob ?_
    dsimp only
    split
    · exact hs.engStop
    · rename_i rows s1 he
      have h1 : s1.Canonical := h0.copyRows.of_eq he
      split
      · exact hs.engStop
      · have h2 := h1.copyWrites.of_eq ‹_›
        split
        exacts [h2.setJob, h2]

protected theorem State.Canonical.startRows {plaza w j x a b table} {s : State} (hs : s.Canonical) :
    IfOk (fun r => r.2.Canonical) (startRows plaza w j x a b table s) := by
  refine .ite trivial ?_
  split
  exacts [trivial, hs.engCardRead.of_eq ‹_›]

protected theorem State.Canonical.scatterRows {plaza w j todo} {s : State} (hs : s.Canonical) :
    IfOk State.Canonical (scatterRows plaza w j todo s) :=
  IfOk.foldlM hs fun h => by
    split
    · trivial
    · have h1 := h.engCardRead.of_eq ‹_›
      exact h1.engCardWrite

protected theorem State.Canonical.runRows {plaza w j x a b table} {s : State} (hs : s.Canonical) :
    (runRows plaza w j x a b table s).Canonical := by
  simp only [runRows]
  split
  · exact hs.engStop
  · refine .ite ((hs.startRows.of_eq ‹_›).setJob) ?_
    split
    exacts [(hs.startRows.of_eq ‹_›).engStop, ((hs.startRows.of_eq ‹_›).scatterRows.of_eq ‹_›).setJob]

protected theorem State.Canonical.runLoop {plaza j ws} {s : State} (hs : s.Canonical) : (runLoop plaza j ws s).Canonical :=
  .ite hs.stopJob (.ite hs.setJob (.ite hs.stopJob hs.setJob))

protected theorem State.Canonical.runCond {plaza w j x off value w3} {s : State} (hs : s.Canonical) :
    (runCond plaza w j x off value w3 s).Canonical := by
  refine .ite hs.stopJob (.ite hs.stopJob ?_)
  split
  exacts [hs.engStop, .ite hs.setJob hs.setJob]

protected theorem State.Canonical.runSignal {plaza w j x off value w3} {s : State} (hs : s.Canonical) :
    (runSignal plaza w j x off value w3 s).Canonical := by
  refine .ite hs.stopJob ?_
  split
  · exact .ite hs.stopJob hs.setCb.setJob
  · exact hs.kickArrives.setJob
  · refine .ite hs.stopJob ?_
    split
    · exact hs.engStop
    · refine .ite hs.stopJob ?_
      split
      exacts [hs.stopJob, hs.setJob.localWrite]

protected theorem State.Canonical.startEntry {plaza w j} {s : State} (hs : s.Canonical) : (startEntry plaza w j s).Canonical := by
  unfold startEntry
  refine .ite hs.stopJob ?_
  split
  · exact hs.engStop
  · have h1 := hs.chainAt.of_eq ‹_›
    dsimp only
    split
    exacts [.ite h1.finishJob h1.stopJob, h1.runCopy, h1.runRows, h1.runRows, h1.runLoop, h1.runCond, h1.runSignal, h1.stopJob]

protected theorem State.Canonical.chainStep {plaza j} {s : State} (hs : s.Canonical) : (chainStep plaza j s).Canonical :=
  .ite hs.stopJob (.ite hs.setJob (.ite hs hs.startEntry))

protected theorem State.Canonical.execChainEntry {plaza job} {s : State} (hs : s.Canonical) : NextCanonical (execChainEntry plaza job s) :=
  .next (by
    split
    exacts [.ite hs.settleRows (.ite hs.chainStep hs), hs])

protected theorem State.Canonical.execCondEvaluate {plaza job} {s : State} (hs : s.Canonical) : NextCanonical (execCondEvaluate plaza job s) :=
  .next (by
    split
    · split
      exacts [hs, .ite hs (.ite hs.setJob (.ite hs.finishJob (.ite hs.finishJob hs)))]
    · exact hs)

protected theorem State.Canonical.execCondTimeout {plaza job} {s : State} (hs : s.Canonical) : NextCanonical (execCondTimeout plaza job s) :=
  .next (by
    split
    exacts [.ite hs.finishJob hs, hs])

protected theorem State.Canonical.addDie {s : State} {d k n} (hs : s.Canonical) : (s.addDie d k n).Canonical := hs.putDie

protected theorem State.Canonical.gatherRow {plaza j k} {s : State} (hs : s.Canonical) : (gatherRow plaza j k s).Canonical := by
  unfold gatherRow
  dsimp only
  split
  · exact hs.engStop
  · have h1 := (hs.engCardRead.of_eq ‹_›).addDie (d := plaza / 8) (k := 6) (n := 1)
    split
    · exact h1.engStop
    · have h3 := (IfOk.foldlM h1 fun h => h.engCardWrite).of_eq ‹_›
      split
      exacts [h3.addDie.setCb.setJob, h3.addDie.setCb]

protected theorem State.Canonical.execDedupeFetch {plaza job position} {s : State} (hs : s.Canonical) :
    NextCanonical (execDedupeFetch plaza job position s) :=
  .next (by
    split
    exacts [.ite hs.gatherRow hs, hs])

protected theorem State.Canonical.pieceLanded {plaza j pos n} {s : State} (hs : s.Canonical) : (pieceLanded plaza j pos n s).Canonical := by
  simp only [pieceLanded]
  split
  exacts [hs.setJob, .ite hs hs.settleRows]

protected theorem State.Canonical.execEngineJobStart {plaza} {s : State} (hs : s.Canonical) : NextCanonical (execEngineJobStart plaza s) := by
  refine .next (.ite hs ?_)
  split
  exacts [hs.setJob, hs]

protected theorem State.Canonical.atEngine {k} {s : State} (hs : s.Canonical) (hk : ∀ {u}, u.Canonical → (k u).Canonical) :
    (atEngine k s).Canonical :=
  .ite hs.raise (hs.atPlaza (fun h => hk h))

protected theorem State.Canonical.readHandle {a n k} {s : State} (hs : s.Canonical) (hk : ∀ {a u}, u.Canonical → (k a u).Canonical) :
    (readHandle a n k s).Canonical := by
  refine hs.withHome (fun h => ?_)
  split
  · exact h.raise
  · split
    · exact hk (h.readGot.of_eq ‹_›)
    · split
      · exact (h.noted.snd_eq ‹_›).raise
      · exact (h.noted.snd_eq ‹_›).send.awaitAnswer
      · exact (h.noted.snd_eq ‹_›).countCore.block.postRecord
      · exact (h.noted.snd_eq ‹_›).block

protected theorem State.Canonical.readCard {h c i n k} {s : State} (hs : s.Canonical) (hk : ∀ {a u}, u.Canonical → (k a u).Canonical) :
    (readCard h c i n k s).Canonical :=
  .ite (hs.readHandle (fun h => hk h)) (hs.withLocal (fun h => h.readLocal (fun h1 => hk h1)))

protected theorem State.Canonical.cardWord {h c i} {s : State} (hs : s.Canonical) : IfOk (fun r => r.2.Canonical) (cardWord h c i s) :=
  .ite (hs.readGot.map (fun h => h)) (IfOk.any.map fun _ => hs)

protected theorem State.Canonical.enterJob {f h c x first rs scan} {s : State} (hs : s.Canonical) :
    (enterJob f h c x first rs scan s).Canonical :=
  .ite hs.block (.ite hs.block (.finishQ (of_mems rfl rfl rfl hs)))

protected theorem State.Canonical.withScan {h c first k} {s : State} (hs : s.Canonical) (hk : ∀ {a u}, u.Canonical → (k a u).Canonical) :
    (withScan h c first k s).Canonical := by
  simp only [withScan]
  split
  exacts [hk ((hs.scanChain fun h => h.cardWord).of_eq ‹_›), hs.send.awaitAnswer, hs.noted.block]

protected theorem State.Canonical.withCard {f h c} {s : State} (hs : s.Canonical) : (withCard f h c s).Canonical := by
  refine hs.readCard (fun h => .ite (.ite h.raise ?_) (h.readCard (fun h1 => .ite h1.raise ?_)))
  · split
    exacts [h.raise, h.awaitScope (fun h1 => h1.withScan .enterJob)]
  · split
    exacts [h1.raise, h1.awaitScope (fun h2 => h2.withScan .enterJob)]

protected theorem State.Canonical.execCpygo {f} {s : State} (hs : s.Canonical) : NextCanonical (execCpygo f s) :=
  hs.runOp (fun h => h.atEngine (fun h1 => .ite h1.raise h1.withCard))

protected theorem State.Canonical.execEngwait {f} {s : State} (hs : s.Canonical) : NextCanonical (execEngwait f s) := by
  refine hs.runOp (fun h => h.atEngine (fun h1 => ?_))
  dsimp only
  split
  exacts [.ite h1.block h1.finishP, h1.finishP]

protected theorem State.Canonical.execEngstat {f} {s : State} (hs : s.Canonical) : NextCanonical (execEngstat f s) :=
  hs.runOp fun h => h.atEngine .finishQ

protected theorem State.Canonical.execEngcan {f} {s : State} (hs : s.Canonical) : NextCanonical (execEngcan f s) := by
  refine hs.runOp (fun h => h.atEngine (fun h1 => ?_))
  dsimp only
  split
  exacts [h1.finishU, .ite h1.finishU (.ite h1.setJob.block h1.finishJob.finishU)]

protected theorem State.Canonical.execCbrd {f} {s : State} (hs : s.Canonical) : NextCanonical (execCbrd f s) :=
  hs.runOp (fun h => h.atEngine (fun h1 => .ite h1.finishQ (.ite h1.raise h1.finishQ)))

protected theorem State.Canonical.restartJob {plaza j} {s : State} (hs : s.Canonical) : (restartJob plaza j s).Canonical := hs.setJob

protected theorem State.Canonical.execCbrst {f} {s : State} (hs : s.Canonical) : NextCanonical (execCbrst f s) :=
  hs.runOp fun h => h.atEngine fun h => by
    dsimp only
    split
    · exact h.finishU
    · exact .ite (h.awaitScope fun h => h.restartJob.finishU) h.finishU

protected theorem State.Canonical.wakePromise {t} {s : State} (hs : s.Canonical) : (wakePromise t s).Canonical := by
  simp only [wakePromise]
  split
  exacts [hs.wakeThread, .ite hs.wakeThread (.ite hs.raiseAt hs)]

protected theorem State.Canonical.execSleepWake {tid} {s : State} (hs : s.Canonical) : NextCanonical (execSleepWake tid s) := by
  refine .next ?_
  split
  · exact hs
  · exact .ite hs (.ite hs.wakePromise (.ite hs.wakeThread (.ite hs (.ite hs.wakeThread hs))))

/-! The functions of Machine/Work. -/

protected theorem State.Canonical.enterLaunch {f k a b gangs words j} {s : State} (hs : s.Canonical) :
    (enterLaunch f k a b gangs words j s).Canonical :=
  .finishQ (.send (of_mems rfl rfl rfl hs))

protected theorem State.Canonical.launchChild {f k a b gangs words} {s : State} (hs : s.Canonical) :
    (launchChild f k a b gangs words s).Canonical := by
  simp only [launchChild]
  split
  exacts [hs.raise, .ite hs.block (.ite hs.raise hs.enterLaunch)]

protected theorem State.Canonical.execLaunch {f} {s : State} (hs : s.Canonical) : NextCanonical (execLaunch f s) := by
  refine hs.runOp (fun h => ?_)
  dsimp only
  split
  exacts [h.raise, .ite h.raise (h.awaitScope (fun h1 => .ite h1.launchChild (.ite h1.raise (h1.readHandle .launchChild))))]

protected theorem State.Canonical.execCancel {f} {s : State} (hs : s.Canonical) : NextCanonical (execCancel f s) := by
  refine hs.runOp fun h => ?_
  dsimp only
  split
  exacts [h.finishU, h.putJob.finishU]

protected theorem State.Canonical.execCwait {f} {s : State} (hs : s.Canonical) : NextCanonical (execCwait f s) := by
  refine hs.runOp (fun h => .ite h.raise (h.awaitScope (fun h1 => ?_)))
  split
  exacts [h1.block, h1.finishP, h1.raise]

/-! The functions of Machine/Tile. -/

protected theorem State.Canonical.writeRow {w t r c0 cells} {s : State} (hs : s.Canonical) : (writeRow w t r c0 cells s).Canonical :=
  .putTmem hs.putPlaza (memWrite_wf _ _ _ hs.2.2)

protected theorem State.Canonical.writeTile {w t rows} {s : State} (hs : s.Canonical) : (writeTile w t rows s).Canonical := hs.foldl .writeRow

protected theorem State.Canonical.withType {t k} {s : State} (hs : s.Canonical) (hk : ∀ {a u}, u.Canonical → (k a u).Canonical) :
    (withType t k s).Canonical := by
  refine .ite ?_ (hk hs)
  split
  exacts [hk hs, hs.raise]

protected theorem State.Canonical.withTile {t k} {s : State} (hs : s.Canonical) (hk : ∀ {u}, u.Canonical → (k u).Canonical) :
    (withTile t k s).Canonical :=
  .ite hs.raise (hk hs)

protected theorem State.Canonical.withQueue {k} {s : State} (hs : s.Canonical) (hk : ∀ {u}, u.Canonical → (k u).Canonical) :
    (withQueue k s).Canonical :=
  .ite (.ite hs.raise hs.block) (.ite hs.block (hk hs))

protected theorem State.Canonical.enterSeq {op f parts rs view} {s : State} (hs : s.Canonical) : (enterSeq op f parts rs view s).Canonical :=
  hs.putWg.addItem.finishU

protected theorem State.Canonical.execTdef {f} {s : State} (hs : s.Canonical) : NextCanonical (execTdef f s) :=
  hs.runOp (fun h => h.withQueue (fun h1 => h1.withTile .enterSeq))

protected theorem State.Canonical.execTzero {f} {s : State} (hs : s.Canonical) : NextCanonical (execTzero f s) :=
  hs.runOp (fun h => h.withQueue (fun h1 => h1.withTile (fun h2 => .ite h2.raise h2.enterSeq)))

protected theorem State.Canonical.withTileRegion {f k} {s : State} (hs : s.Canonical) (hk : ∀ {a u}, u.Canonical → (k a u).Canonical) :
    (withTileRegion f k s).Canonical := by
  refine .ite hs.raise (hs.withType (fun h => ?_))
  dsimp only
  split
  exacts [h.raise, hk h]

protected theorem State.Canonical.execTld {f} {s : State} (hs : s.Canonical) : NextCanonical (execTld f s) :=
  hs.runOp (fun h => h.withQueue (fun h1 => h1.withTile (fun h2 => h2.withTileRegion .enterSeq)))

protected theorem State.Canonical.execTst {f} {s : State} (hs : s.Canonical) : NextCanonical (execTst f s) :=
  hs.runOp (fun h => h.withQueue (fun h1 => h1.withTile (fun h2 => .ite h2.raise (.ite h2.raise (h2.withTileRegion .enterSeq)))))

protected theorem State.Canonical.execTcvt {f} {s : State} (hs : s.Canonical) : NextCanonical (execTcvt f s) :=
  hs.runOp (fun h => h.withQueue (fun h1 => h1.withTile (fun h2 => h2.withTile (fun h3 => .ite h3.raise h3.enterSeq))))

protected theorem State.Canonical.withCell {op f k} {s : State} (hs : s.Canonical) (hk : ∀ {a b c u}, u.Canonical → (k a b c u).Canonical) :
    (withCell op f k s).Canonical :=
  hs.withTile (fun h => .ite h.block (.ite h.raise (.ite h.raise (.ite h.raise (hk h)))))

protected theorem State.Canonical.execTget {f} {s : State} (hs : s.Canonical) : NextCanonical (execTget f s) :=
  hs.runOp (fun h => h.withCell (fun h1 => .ite h1.raise h1.finishQ))

protected theorem State.Canonical.execTset {f} {s : State} (hs : s.Canonical) : NextCanonical (execTset f s) :=
  hs.runOp (fun h => h.withCell (fun h1 => h1.writeRow.finishU))

protected theorem State.Canonical.orMflags {s : State} {wid fl} (hs : s.Canonical) : (s.orMflags wid fl).Canonical := hs.putWg

protected theorem State.Canonical.runTld {w i} {s : State} (hs : s.Canonical) : IfOk State.Canonical (runTld w i s) :=
  IfOk.any.bind fun _ => hs.writeTile.putWg.orMflags

protected theorem State.Canonical.runTst {w i} {s : State} (hs : s.Canonical) : IfOk State.Canonical (runTst w i s) := by
  simp only [runTst]
  split
  exacts [trivial, IfOk.any.bind (fun h => .ite trivial ((hs.foldl .localWrite).orMflags))]

protected theorem State.Canonical.runTcvt {w i} {s : State} (hs : s.Canonical) : IfOk State.Canonical (runTcvt w i s) := by
  simp only [runTcvt]
  split
  exacts [trivial, hs.writeTile.putWg.orMflags]

protected theorem State.Canonical.runTileStep {w i} {s : State} (hs : s.Canonical) : IfOk State.Canonical (runTileStep w i s) := by
  simp only [runTileStep]
  split
  exacts [hs.putWg, hs.writeTile, hs.runTld, hs.runTst, hs.runTcvt]

/-! The functions of Machine/Matrix. -/

protected theorem State.Canonical.execUfdef {f} {s : State} (hs : s.Canonical) : NextCanonical (execUfdef f s) :=
  hs.runOp (fun h => h.withQueue (fun h1 => .ite h1.raise (.ite h1.raise (.ite h1.raise h1.enterSeq))))

protected theorem State.Canonical.withMul {op f k} {s : State} (hs : s.Canonical) (hk : ∀ {a u}, u.Canonical → (k a u).Canonical) :
    (withMul op f k s).Canonical :=
  hs.withType (fun h => h.withType (fun h1 => .ite h1.raise (.ite h1.raise (hk h1))))

protected theorem State.Canonical.issueMul {op f} {s : State} (hs : s.Canonical) : NextCanonical (issueMul op f s) := by
  refine hs.runOp (fun h => h.withQueue (fun h1 => h1.withMul (fun h2 => ?_)))
  dsimp only
  split
  exacts [h2.raise, h2.enterSeq]

protected theorem State.Canonical.execMma {f} {s : State} (hs : s.Canonical) : NextCanonical (execMma f s) := hs.issueMul

protected theorem State.Canonical.execMmau {f} {s : State} (hs : s.Canonical) : NextCanonical (execMmau f s) := hs.issueMul

protected theorem State.Canonical.execMmas {f} {s : State} (hs : s.Canonical) : NextCanonical (execMmas f s) := hs.issueMul

protected theorem State.Canonical.execMtrans {f} {s : State} (hs : s.Canonical) : NextCanonical (execMtrans f s) := hs.issueMul

protected theorem State.Canonical.execMperm {f} {s : State} (hs : s.Canonical) : NextCanonical (execMperm f s) := hs.issueMul

protected theorem State.Canonical.execMrsum {f} {s : State} (hs : s.Canonical) : NextCanonical (execMrsum f s) := hs.issueMul

protected theorem State.Canonical.execMscale {f} {s : State} (hs : s.Canonical) : NextCanonical (execMscale f s) := hs.issueMul

protected theorem State.Canonical.beginMul {m w p} {s : State} (hs : s.Canonical) : IfOk State.Canonical (beginMul m w p s) := by
  refine .ite trivial (.ite trivial (.ite trivial ?_))
  split
  exacts [trivial, hs.writeTile.putWg]

protected theorem State.Canonical.stepMul {m i home w p step rs} {s : State} (hs : s.Canonical) :
    IfOk State.Canonical (stepMul m i home w p step rs s) := by
  refine .ite hs ?_
  split
  exacts [trivial, IfOk.any.bind (fun h => hs.writeTile.orMflags)]

/-! The functions of Machine/StepCache. -/

protected theorem State.Canonical.execSccfg {f} {s : State} (hs : s.Canonical) : NextCanonical (execSccfg f s) := by
  refine hs.runOp (fun h => h.withQueue (fun h1 => .ite (.ite h1.raise h1.enterSeq) (h1.withHome (fun h2 => ?_))))
  split
  exacts [h2.raise, .ite h2.raise (.ite h2.raise (.ite h2.raise (.ite h2.raise h2.enterSeq)))]

protected theorem State.Canonical.execSctag {f} {s : State} (hs : s.Canonical) : NextCanonical (execSctag f s) :=
  hs.runOp (fun h => h.withQueue (fun h1 => .ite h1.raise h1.enterSeq))

protected theorem State.Canonical.execScinv {f} {s : State} (hs : s.Canonical) : NextCanonical (execScinv f s) :=
  hs.runOp (fun h => h.withQueue (fun h1 => .ite h1.raise h1.enterSeq))

protected theorem State.Canonical.execScstat {f} {s : State} (hs : s.Canonical) : NextCanonical (execScstat f s) :=
  hs.runOp fun h => .ite h.block h.finishQ

protected theorem State.Canonical.seqRead {w serial pr h n} {s : State} (hs : s.Canonical) :
    IfOk (fun r => r.2.Canonical) (seqRead w serial pr h n s) :=
  hs.readGot

protected theorem State.Canonical.seqReadAgain {w serial pr h n} {s : State} (hs : s.Canonical) :
    IfOk (fun r => r.2.Canonical) (seqReadAgain w serial pr h n s) :=
  hs.seqRead

protected theorem State.Canonical.seqWritePiece {w serial h bs} {s : State} (hs : s.Canonical) :
    IfOk State.Canonical (seqWritePiece w serial h bs s) := by
  simp only [seqWritePiece]
  split
  exacts [hs.send, hs.writePiece]

protected theorem State.Canonical.seqWrite {w serial h bs} {s : State} (hs : s.Canonical) : IfOk State.Canonical (seqWrite w serial h bs s) :=
  IfOk.foldlM hs fun h => h.seqWritePiece

protected theorem State.Canonical.probeTile {m i home w p b cols pr} {s : State} (hs : s.Canonical) :
    IfOk (fun r => r.2.Canonical) (probeTile m i home w p b cols pr s) := by
  unfold probeTile
  dsimp only
  split
  · exact hs
  · refine .ite hs (IfOk.any.bind fun _ => hs.seqRead.bind fun h1 => .ite (h1.seqRead.bind fun h2 => h2.seqReadAgain.bind fun h3 => ?_) ?_)
    · exact .ite (.intro h3) (.ite (.intro h3) (.ite (.intro h3) (IfOk.any.bind fun _ => IfOk.any.bind fun _ => .intro h3)))
    · exact .ite (.intro h1) (.ite (.intro h1) (.ite (.intro h1) (IfOk.any.bind fun _ => IfOk.any.bind fun _ => .intro h1)))

protected theorem State.Canonical.probeTiles {m i home w p cols pr} {s : State} (hs : s.Canonical) :
    IfOk (fun r => r.2.Canonical) (probeTiles m i home w p cols pr s) :=
  IfOk.foldlM hs (fun h => h.probeTile.map (fun h1 => h1))

protected theorem State.Canonical.putRows {m w l} {s : State} (hs : s.Canonical) : IfOk State.Canonical (putRows m w l s) := by
  refine .ite hs.writeTile ?_
  split
  exacts [trivial, hs.writeTile.orMflags]

protected theorem State.Canonical.stepZero {m i home w p pr} {s : State} (hs : s.Canonical) :
    IfOk (fun r => r.1.Canonical) (stepZero m i home w p pr s) := by
  unfold stepZero
  refine hs.beginMul.mapError.bind fun h => h.probeTiles.bind fun h1 => .ite ?_ (h1.putRows.bind fun h2 => ?_)
  · exact h1.stepMul.mapError.bind fun h3 => h3.putWg.foldl .countDie
  · exact h2.stepMul.mapError.bind fun h3 => h3.putWg.foldl .countDie

protected theorem State.Canonical.writePhase {w serial l} {s : State} (hs : s.Canonical) : (writePhase w serial l s).2.1.Canonical := by
  induction l generalizing s with
  | nil => exact hs
  | cons x xs ih =>
    simp only [writePhase]
    split
    exacts [ih (hs.seqWritePiece.of_eq ‹_›), hs]

protected theorem State.Canonical.endMmas {m i home w p pr} {s : State} (hs : s.Canonical) :
    IfOk (fun r => r.1.Canonical) (endMmas m i home w p pr s) := by
  simp only [endMmas]
  split
  · trivial
  · exact .ite (hs.putRows.bind fun h => .intro h) (.intro hs)

protected theorem State.Canonical.stepMmas {m i home w p step pr} {s : State} (hs : s.Canonical) :
    IfOk (fun r => r.1.Canonical) (stepMmas m i home w p step pr s) :=
  .ite ((IfOk.map (q := fun r : State × Probe => r.1.Canonical) hs.stepMul.mapError fun h => h).bind fun h => .ite (.intro h) h.endMmas)
    (hs.stepZero.bind fun h => .ite (.intro h) h.endMmas)

protected theorem State.Canonical.clearSlot {w serial pr h site} {s : State} (hs : s.Canonical) :
    IfOk State.Canonical (clearSlot w serial pr h site s) :=
  hs.seqRead.bind fun h => .ite h.seqWrite h

protected theorem State.Canonical.runScinv {w i pr} {s : State} (hs : s.Canonical) : IfOk State.Canonical (runScinv w i pr s) := by
  unfold runScinv
  split
  exacts [hs, IfOk.foldlM hs fun h => h.clearSlot]

protected theorem State.Canonical.runCacheStep {w i pr} {s : State} (hs : s.Canonical) : IfOk State.Canonical (runCacheStep w i pr s) := by
  simp only [runCacheStep]
  split
  exacts [hs.putWg, hs.putWg, hs.runScinv]

/-! The functions of Machine/Save. -/

protected theorem State.Canonical.putGang {s : State} {g} (hs : s.Canonical) : (s.putGang g).Canonical := hs

protected theorem State.Canonical.takeArea {s : State} {w} (hs : s.Canonical) : IfSome State.Canonical (s.takeArea w) := by
  simp only [State.takeArea]
  split
  exacts [hs, .ite hs (IfSome.any.map (fun h => hs.putDie.putGang))]

protected theorem State.Canonical.writeHeader {s : State} {g} (hs : s.Canonical) : (s.writeHeader g).Canonical := by
  simp only [State.writeHeader]
  split
  exacts [hs.writePool, hs]

protected theorem State.Canonical.writeImages {s : State} {g w img} (hs : s.Canonical) : (s.writeImages g w img).Canonical :=
  hs.writePool.pastePool.pastePool.pastePool

protected theorem State.Canonical.writePark {s : State} {w tiles} (hs : s.Canonical) : (s.writePark w tiles).Canonical := by
  simp only [State.writePark]
  split
  exacts [hs, hs.writePool.pastePool]

/-! The functions of Machine/Steps. -/

protected theorem State.Canonical.execMcommit {f} {s : State} (hs : s.Canonical) : NextCanonical (execMcommit f s) :=
  hs.runOp fun h => .ite h.block h.putSeq.finishQ

protected theorem State.Canonical.execMwait {f} {s : State} (hs : s.Canonical) : NextCanonical (execMwait f s) := by
  refine hs.runOp fun h => ?_
  split
  exacts [h.block, h.finishP]

protected theorem State.Canonical.execMstat {f} {s : State} (hs : s.Canonical) : NextCanonical (execMstat f s) := by
  refine hs.runOp fun h => ?_
  dsimp only
  split
  exacts [h.finishQ, h.finishQ, h.finishQ, h.putWg.finishQ]

protected theorem State.Canonical.execMclear {f} {s : State} (hs : s.Canonical) : NextCanonical (execMclear f s) :=
  hs.runOp (fun h => .finishU (.ite h.clearSeq h))

protected theorem State.Canonical.resumeParts {s : State} {w serial} (hs : s.Canonical) : (s.resumeParts w serial).Canonical := hs

protected theorem State.Canonical.execMresume {f} {s : State} (hs : s.Canonical) : NextCanonical (execMresume f s) := by
  refine hs.runOp fun h => ?_
  dsimp only
  split
  exacts [h.resumeParts.putSeq.finishU, h.raise]

protected theorem State.Canonical.execMpark {f} {s : State} (hs : s.Canonical) : NextCanonical (execMpark f s) := by
  refine hs.runOp (fun h => .ite h.raise (.ite h.raise (.ite h.block ?_)))
  split
  exacts [h.block, (h.takeArea.of_eq ‹_›).writePark.putWg.finishU]

protected theorem State.Canonical.execMunpark {f} {s : State} (hs : s.Canonical) : NextCanonical (execMunpark f s) := by
  refine hs.runOp (fun h => ?_)
  dsimp only
  split
  exacts [.ite h.block (.finishU (.putTmem h.dropQueue.putWg (memPaste_wf _ _ _ _ h.dropQueue.putWg.2.2))), h.raise]

protected theorem State.Canonical.ranOf {s : State} {begun pr r} (hs : s.Canonical) (hr : IfOk State.Canonical r) :
    (ranOf s begun pr r).s.Canonical := by
  unfold ranOf
  split
  exacts [hr, hs]

protected theorem State.Canonical.runStep {i home w p step begun pr} {s : State} (hs : s.Canonical) :
    (runStep i home w p step begun pr s).s.Canonical := by
  simp only [runStep]
  split
  · exact hs.ranOf hs.runTileStep.mapError
  · split
    · exact hs.ranOf hs.putWg
    · split
      · split
        exacts [hs.stepMmas.of_eq ‹_›, hs]
      · split
        · split
          · exact hs.ranOf hs.stepMul.mapError
          · split
            exacts [(hs.beginMul.of_eq ‹_›).ranOf (hs.beginMul.of_eq ‹_›).stepMul.mapError, hs]
        · exact hs.ranOf hs.runCacheStep

protected theorem State.Canonical.underPark {wid run} {s : State} (hs : s.Canonical) (hrun : ∀ {u}, u.Canonical → (run u).s.Canonical) :
    (underPark wid run s).s.Canonical := by
  simp only [underPark]
  split
  · exact hrun hs
  · have hr {wg m} (hm : Memory.wf m = true) := hrun ((hs.putWg (w := wg)).putTmem hm)
    exact .putTmem (hr (memPaste_wf _ _ _ _ hs.2.2)).putWg (memPaste_wf _ _ _ _ (hr (memPaste_wf _ _ _ _ hs.2.2)).2.2)

protected theorem State.Canonical.waitFor {w serial write x} {s : State} (hs : s.Canonical) : (waitFor w serial write x s).1.Canonical := by
  simp only [waitFor]
  split
  all_goals have h1 := hs.noted.snd_eq ‹_›
  exacts [h1, h1.postRecord, .ite h1 h1.send, h1]

protected theorem State.Canonical.runWrites {w serial pr} {s : State} (hs : s.Canonical) : (runWrites w serial pr s).2.2.Canonical := by
  simp only [runWrites]
  split
  · exact hs
  · exact hs
  · split
    exacts [hs.writePhase, hs.writePhase.waitFor]

protected theorem State.Canonical.onHome {s : State} {home serial g} (hs : s.Canonical) : (s.onHome home serial g).Canonical := by
  refine .ite hs.putSeq ?_
  split
  exacts [.ite hs.putWg hs, hs]

protected theorem State.Canonical.startParts {s : State} {w i} (hs : s.Canonical) : (s.startParts w i).Canonical := hs

protected theorem State.Canonical.putPart {s : State} {wid serial p} (hs : s.Canonical) : (s.putPart wid serial p).Canonical := hs.putSeq

protected theorem State.Canonical.stopPart {w x code} {s : State} (hs : s.Canonical) : (stopPart w x code s).Canonical :=
  .ite (.ite hs.putPart hs.putPart.stopSeq) hs.putPart.onHome

protected theorem State.Canonical.stepPart {w x} {s : State} (hs : s.Canonical) : (stepPart w x s).Canonical := by
  have hr := hs.underPark (wid := w.wid)
    (run := fun s => runStep x.instr (s.homeFor w x.instr.serial) (s.wgBy w.wid) w.wgpos x.step x.begun x.probe s) .runStep
  simp only [stepPart]
  refine .ite hs (.ite (.ite hs (.ite hs.putPart.onHome hs.runWrites.putPart)) ?_)
  split
  · exact hr.putPart
  · exact .ite hr.waitFor.putPart hr.waitFor.stopPart

protected theorem State.Canonical.finishInstr {w i} {s : State} (hs : s.Canonical) : (finishInstr w i s).Canonical := hs.dropItem.putSeq

protected theorem State.Canonical.stopHead {w code step} {s : State} (hs : s.Canonical) : (stopHead w code step s).Canonical :=
  .ite hs.putWg hs.putWg.stopSeq

protected theorem State.Canonical.stepHead {w i} {s : State} (hs : s.Canonical) : (stepHead w i s).Canonical := by
  have hp : (if i.parts > 1 && !s.partsIn w i then s.startParts w i else s).Canonical := .ite hs.startParts hs
  simp only [stepHead]
  refine .ite hs (.ite (.ite hs (.ite hs.runWrites.putSeq (.ite hs.finishInstr hs))) (.ite hs.putPlaza.stopHead (.ite hs ?_)))
  have hr := hp.runStep (i := i) (home := w) (w := w) (p := 0) (step := w.seq.step) (begun := w.seq.begun) (pr := w.seq.probe)
  generalize runStep i w w 0 w.seq.step w.seq.begun w.seq.probe _ = r at hr ⊢
  split
  · exact .ite hr.putSeq.finishInstr hr.putSeq
  · exact .ite hr.putWg.waitFor hr.putWg.waitFor.stopHead

protected theorem State.Canonical.complete {hub tag status} {s : State} (hs : s.Canonical) : (complete hub tag status s).Canonical := hs

protected theorem State.Canonical.suspendsDone {s : State} (hs : s.Canonical) : s.suspendsDone.Canonical := .foldl hs .complete

protected theorem State.Canonical.revokeBanks {s : State} {w} (hs : s.Canonical) : (s.revokeBanks w).Canonical := by
  refine hs.foldl fun h => ?_
  split
  exacts [h, h, h.setStage, h.setStage.send, h.setStage.send, h.setStage.send, h.setStage.send, h.setStage.send]

protected theorem State.Canonical.releaseBanks {s : State} {w} (hs : s.Canonical) : (s.releaseBanks w).Canonical :=
  hs.foldl (fun h => .setStage (.setBank (.ite h.dropWay h)))

protected theorem State.Canonical.cancelFaulted {s : State} {g} (hs : s.Canonical) : (s.cancelFaulted g).Canonical := by
  refine hs.foldl fun h => ?_
  split
  exacts [.ite h.finishJob h, h]

protected theorem State.Canonical.leavePlaza {s : State} {g} (hs : s.Canonical) : (s.leavePlaza g).Canonical := (hs.foldl .releaseBanks).putPlaza

protected theorem State.Canonical.finishSave {s : State} {g} (hs : s.Canonical) : (s.finishSave g).Canonical :=
  .ite hs (.ite (hs.foldl .revokeBanks) ((hs.cancelFaulted.writeHeader.foldl .writeImages).leavePlaza.putGang.suspendsDone))

protected theorem State.Canonical.stepSequencer {w} {s : State} (hs : s.Canonical) : (stepSequencer w s).Canonical := by
  simp only [stepSequencer]
  split
  · exact hs.stepPart
  · split
    exacts [hs.stepHead, hs]

protected theorem State.Canonical.execKStep {w} {s : State} (hs : s.Canonical) : NextCanonical (execKStep w s) := by
  refine .next ?_
  dsimp only
  split
  · exact hs.stepSequencer
  · exact .ite (.ite hs.stepSequencer hs.finishSave) (.ite hs hs.stepSequencer)

protected theorem State.Canonical.execIssuerExitCommit {w} {s : State} (hs : s.Canonical) : NextCanonical (execIssuerExitCommit w s) :=
  .next (.ite hs.putSeq hs)

/-! The functions of Machine/Travel. -/

protected theorem State.Canonical.intoArea {s : State} {t reserved st} (hs : s.Canonical) : (s.intoArea t reserved st).Canonical :=
  hs.putThread.writeArea.countCore

protected theorem State.Canonical.writeRecord {s : State} {t wcode wfail} (hs : s.Canonical) : (s.writeRecord t wcode wfail).Canonical := by
  simp only [State.writeRecord]
  split
  exacts [hs.writePool, hs]

protected theorem State.Canonical.saveThread {s : State} {t} (hs : s.Canonical) : (s.saveThread t).Canonical :=
  .send (.freeMonitors (.putThread (.writeRecord hs)))

protected theorem State.Canonical.removeGuest {s : State} {t} (hs : s.Canonical) : (s.removeGuest t).Canonical := .freeMonitors hs

protected theorem State.Canonical.saveGuest {s : State} {t} (hs : s.Canonical) : (s.saveGuest t).Canonical := hs.removeGuest.send

protected theorem State.Canonical.save {s : State} {t} (hs : s.Canonical) : (s.save t).Canonical := .ite hs.saveGuest hs.saveThread

protected theorem State.Canonical.dropNotices {s : State} (hs : s.Canonical) : s.dropNotices.Canonical := hs

protected theorem State.Canonical.saveSweep {s : State} (hs : s.Canonical) : s.saveSweep.Canonical := .ite ((hs.foldl .save).dropNotices) hs

protected theorem State.Canonical.settled {s : State} (hs : s.Canonical) : NextCanonical (settled s) := hs.saveSweep

protected theorem State.Canonical.accept {s : State} {t src spawn} (hs : s.Canonical) : (s.accept t src spawn).Canonical := by
  simp only [State.accept]
  split <;> exact hs.send

protected theorem State.Canonical.firstPlace {t} {s : State} (hs : s.Canonical) : (firstPlace t s).2.Canonical := hs.putCore

protected theorem State.Canonical.land {s : State} {t k} (hs : s.Canonical) : (s.land t k).Canonical := hs.putThread.countCore

protected theorem State.Canonical.acceptContext {t src spawn put} {s : State} (hs : s.Canonical)
    (hput : ∀ {a u}, u.Canonical → (put a u).Canonical) : (acceptContext t src spawn put s).Canonical := by
  simp only [acceptContext]
  refine .ite ((hput ?_).stopThread.accept.saveSweep) (.ite (.saveSweep (.accept (.save (.putThread ?_)))) ((hput ?_).accept.saveSweep))
  · split
    exacts [hs.firstPlace, hs]
  · split
    exacts [hs.firstPlace, hs]
  · split
    exacts [hs.firstPlace, hs]

protected theorem State.Canonical.setSpot {s : State} {k m x} (hs : s.Canonical) : (s.setSpot k m x).Canonical := by
  simp only [State.setSpot]
  split
  exacts [.ite (.countCore hs) hs, .ite (.countCore hs) hs, hs]

protected theorem State.Canonical.arriveContext {t m cells spawn} {s : State} (hs : s.Canonical) :
    IfSome State.Canonical (arriveContext t m cells spawn s) := by
  simp only [arriveContext]
  split
  · exact hs.acceptContext .land
  · exact .ite (hs.acceptContext .intoArea) (.ite trivial (.intro (.ite hs.putThread.countCore hs.putThread)))

protected theorem State.Canonical.take {s : State} {k} (hs : s.Canonical) : IfSome (fun r => r.2.Canonical) (s.take k) := by
  simp only [State.take]
  split
  exacts [.ite hs trivial, trivial]

protected theorem State.Canonical.of_take {k m} {s t : State} (hs : s.Canonical) (e : s.take k = some (m, t)) : t.Canonical :=
  hs.take.of_eq e

protected theorem State.Canonical.stageAt {s : State} {k} (hs : s.Canonical) : (s.stageAt k).Canonical := by
  simp only [State.stageAt]
  split
  exacts [hs, .ite hs (.ite hs.setSpot (.ite hs.setSpot hs))]

protected theorem State.Canonical.linkAt {s : State} {k} (hs : s.Canonical) : (s.linkAt k).Canonical := by
  simp only [State.linkAt]
  split
  exacts [.ite hs.setSpot hs, hs]

protected theorem State.Canonical.execIssueGroupSelect {core} {s : State} (hs : s.Canonical) : NextCanonical (execIssueGroupSelect core s) :=
  .next (.ite hs.issueGroup hs)

protected theorem State.Canonical.holdSlot {t} {s : State} (hs : s.Canonical) : (holdSlot t s).Canonical := by
  simp only [holdSlot]
  split
  exacts [hs.putCore, hs]

protected theorem State.Canonical.execContextArrival {k} {s : State} (hs : s.Canonical) : NextCanonical (execContextArrival k s) := by
  refine .next ?_
  split
  · exact hs.stageAt
  · have h1 := hs.of_take ‹_›
    split
    · exact (State.Canonical.arriveContext (.ite h1.holdSlot h1)).getD hs.linkAt
    · exact hs

protected theorem State.Canonical.execSpawnMessage {k} {s : State} (hs : s.Canonical) : NextCanonical (execSpawnMessage k s) := by
  refine .next ?_
  split
  · exact hs.stageAt
  · have h1 := hs.of_take ‹_›
    split
    exacts [h1.arriveContext.getD hs.linkAt, hs]

protected theorem State.Canonical.heldPlaced {core tid} {s : State} (hs : s.Canonical) :
    IfSome (fun h => h.rest.Canonical) (s.heldPlaced core tid) := by
  unfold State.heldPlaced
  split
  exacts [trivial, .ite (IfSome.any.map fun _ => hs) trivial]

protected theorem State.Canonical.heldInLink {core} {s : State} (hs : s.Canonical) :
    IfSome (fun r => r.2.rest.Canonical) (s.heldInLink core) :=
  IfSome.findSome? (.ite (IfSome.any.map fun _ => by dsimp only; split; exacts [.holdSlot hs, hs]) trivial)

protected theorem State.Canonical.toArea {h : Held} (hr : h.rest.Canonical) : h.toArea.Canonical :=
  hr.acceptContext .intoArea

protected theorem State.Canonical.markFull {s : State} {k} (hs : s.Canonical) : (s.markFull k).Canonical := by
  simp only [State.markFull]
  split
  · exact hs
  · split
    exacts [hs.mapThreads, hs, hs]

protected theorem State.Canonical.execHoldTimeout {core tid} {s : State} (hs : s.Canonical) :
    NextCanonical (execHoldTimeout core tid s) := by
  unfold execHoldTimeout NextCanonical
  dsimp only
  split
  · exact .ite hs (.ite (.ite (.toArea (hs.heldPlaced.of_eq ‹_›)) hs) (.ite hs hs.putThread.countCore))
  · exact .ite hs (.ite (.ite (.toArea (hs.heldInLink.of_eq ‹_›)) hs) (.ite hs hs.markFull.countCore))
  · exact hs

protected theorem State.Canonical.execOverflowEntryFree {core} {s : State} (hs : s.Canonical) :
    NextCanonical (execOverflowEntryFree core s) := by
  refine .next (.ite hs ?_)
  split
  · exact (hs.heldPlaced.map .toArea).getD hs
  · exact .ite (.toArea (hs.heldInLink.of_eq ‹_›)) hs
  · exact hs

protected theorem State.Canonical.execLandingSlotRefill {core lane slot} {s : State} (hs : s.Canonical) :
    NextCanonical (execLandingSlotRefill core lane slot s) := by
  refine .next (.ite hs ?_)
  dsimp only
  split
  · exact hs
  · split
    exacts [hs.acceptContext .land, hs.land.saveSweep]

protected theorem State.Canonical.execLandedThreadMove {core lane} {s : State} (hs : s.Canonical) :
    NextCanonical (execLandedThreadMove core lane s) := by
  refine .next ?_
  split
  exacts [hs.putThread, hs]

protected theorem State.Canonical.execContextAcceptance {k} {s : State} (hs : s.Canonical) : NextCanonical (execContextAcceptance k s) := by
  refine .next ?_
  split
  · have h1 := hs.of_take ‹_›
    exact h1.putCore
  · exact hs

protected theorem State.Canonical.execSpawnQueuePlace {plaza lane} {s : State} (hs : s.Canonical) :
    NextCanonical (execSpawnQueuePlace plaza lane s) := by
  refine .next ?_
  dsimp only
  split
  · exact .ite hs.putPlaza.wakeWaiting.putCore.land.stopThread hs.putPlaza.wakeWaiting.putCore.land
  · exact hs

protected theorem State.Canonical.execParkedThreadSwapOut {tid} {s : State} (hs : s.Canonical) :
    NextCanonical (execParkedThreadSwapOut tid s) :=
  .next (by
    split
    exacts [hs, .ite hs.intoArea hs])

protected theorem State.Canonical.retryWrites {s : State} {tid} (hs : s.Canonical) : (s.retryWrites tid).Canonical := by
  simp only [State.retryWrites]
  split
  exacts [hs, .ite hs.wakeThread hs]

protected theorem State.Canonical.execWriteDrainInterlock {tid} {s : State} (hs : s.Canonical) :
    NextCanonical (execWriteDrainInterlock tid s) :=
  hs.retryWrites

/-! The functions of Machine/Deliver. -/

protected theorem State.Canonical.atPort {s : State} {m r} {s1 : State} (hs : s.Canonical) (hs1 : s1.Canonical) :
    (atPort s m r s1).Canonical :=
  hs1.serve.getD hs

protected theorem State.Canonical.execRemoteReadRequest {k} {s : State} (hs : s.Canonical) : NextCanonical (execRemoteReadRequest k s) := by
  refine .settled ?_
  split
  · exact hs.stageAt
  · split
    exacts [hs.atPort (hs.of_take ‹_›), (hs.of_take ‹_›).send, (hs.of_take ‹_›).send, hs]

protected theorem State.Canonical.execStoreRequest {k} {s : State} (hs : s.Canonical) : NextCanonical (execStoreRequest k s) := by
  refine .settled ?_
  split
  · split
    exacts [hs.atPort (hs.of_take ‹_›), hs]
  · exact hs.stageAt

protected theorem State.Canonical.execAtomicRequest {k} {s : State} (hs : s.Canonical) : NextCanonical (execAtomicRequest k s) := by
  refine .settled ?_
  split
  · split
    exacts [hs.atPort (hs.of_take ‹_›), hs]
  · exact hs.stageAt

protected theorem State.Canonical.execLeaseFillRequest {k} {s : State} (hs : s.Canonical) : NextCanonical (execLeaseFillRequest k s) := by
  refine .settled ?_
  split
  · split
    exacts [hs.atPort (hs.of_take ‹_›), hs]
  · exact hs.stageAt

protected theorem State.Canonical.execMonitorArm {k} {s : State} (hs : s.Canonical) : NextCanonical (execMonitorArm k s) := by
  refine .settled ?_
  split
  · split
    exacts [.ite (hs.atPort (hs.of_take ‹_›)) (hs.of_take ‹_›), hs]
  · exact hs.stageAt

protected theorem State.Canonical.resume {s : State} {t} (hs : s.Canonical) : (s.resume t).Canonical := hs.putThread

protected theorem State.Canonical.fillLine {core fill bytes stop} {s : State} (hs : s.Canonical) :
    (fillLine core fill bytes stop s).Canonical := by
  simp only [fillLine]
  split
  exacts [hs, hs.putCore]

protected theorem State.Canonical.dataArrives {t c bytes code} {s : State} (hs : s.Canonical) : (dataArrives t c bytes code s).Canonical := by
  refine .ite hs.raiseAt ?_
  split
  exacts [hs.wakeThread, hs.writeWOf.resume, hs.writeWOf.resume, hs]

protected theorem State.Canonical.lateArrives {t l bytes code} {s : State} (hs : s.Canonical) : (lateArrives t l bytes code s).Canonical :=
  .ite hs.raiseAt (.ite hs.wakeThread hs.putThread)

protected theorem State.Canonical.loadArrives {tid core bytes code} {s : State} (hs : s.Canonical) :
    (loadArrives tid core bytes code s).Canonical := by
  simp only [loadArrives]
  split
  exacts [hs.lateArrives, hs.dataArrives, hs]

protected theorem State.Canonical.imageReturns {tid core k img} {s : State} (hs : s.Canonical) : (imageReturns tid core k img s).Canonical := by
  simp only [imageReturns]
  split
  exacts [hs.wakeThread, hs]

protected theorem State.Canonical.kickReturns {tid core v} {s : State} (hs : s.Canonical) : (kickReturns tid core v s).Canonical := by
  simp only [kickReturns]
  split
  exacts [hs.writeWOf.resume, hs]

protected theorem State.Canonical.execReadData {k} {s : State} (hs : s.Canonical) : NextCanonical (execReadData k s) := by
  refine .settled ?_
  split
  · exact hs
  · split
    · exact (hs.of_take ‹_›).fillLine
    · exact (hs.of_take ‹_›).fillLine.loadArrives
    · exact (hs.of_take ‹_›).imageReturns
    · exact (hs.of_take ‹_›).kickReturns
    · exact hs

protected theorem State.Canonical.resultArrives {t c old ok fl code wid} {s : State} (hs : s.Canonical) :
    (resultArrives t c old ok fl code wid s).Canonical :=
  .ite hs.raiseAt hs.writeWOf.resume

protected theorem State.Canonical.execAtomicResult {k} {s : State} (hs : s.Canonical) : NextCanonical (execAtomicResult k s) := by
  refine .settled ?_
  split
  · have h1 := hs.of_take ‹_›
    split
    · split
      exacts [h1.resultArrives, h1]
    · exact hs
  · exact hs

protected theorem State.Canonical.reap {s : State} {tid} (hs : s.Canonical) : (s.reap tid).Canonical := hs

protected theorem State.Canonical.dropContext {s : State} {tid} (hs : s.Canonical) : (s.dropContext tid).Canonical := hs

protected theorem State.Canonical.ackArrives {core tid wid till code} {s : State} (hs : s.Canonical) :
    (ackArrives core tid wid till code s).Canonical := by
  simp only [ackArrives]
  split
  · exact hs
  · split
    exacts [hs, .ite hs.putThread.retryWrites.reap (.ite hs.putThread.recordError.reap (.ite hs.dropContext.putThread.launchErrorOf
        hs.putThread.retryWrites))]

protected theorem State.Canonical.execWriteAcknowledgement {k} {s : State} (hs : s.Canonical) : NextCanonical (execWriteAcknowledgement k s) := by
  refine .settled ?_
  split
  · split
    exacts [(hs.of_take ‹_›).ackArrives, hs]
  · exact hs

protected theorem State.Canonical.execLeasedWriteComplete {tid} {s : State} (hs : s.Canonical) :
    NextCanonical (execLeasedWriteComplete tid s) := by
  refine .settled ?_
  split
  exacts [hs, hs.putThread.retryWrites.reap]

protected theorem State.Canonical.execLeaseExpiry {core} {s : State} (hs : s.Canonical) : NextCanonical (execLeaseExpiry core s) := by
  refine hs.putPort.foldl fun h => ?_
  split
  exacts [h.send, h]

protected theorem State.Canonical.execEngineData {k} {s : State} (hs : s.Canonical) : NextCanonical (execEngineData k s) := by
  refine .next ?_
  split
  · have h1 := hs.of_take ‹_›
    split
    · split
      · exact h1
      · refine .ite hs ?_
        split
        · have h2 := hs.writePiece.of_eq ‹_›
          exact .pieceLanded (of_mems rfl rfl rfl h2)
        · have h2 {x who asid} := hs.noted (x := x) (who := who) (asid := asid)
          split
          · exact .ite h1.engStop hs.engStop
          · have h3 := h2.snd_eq ‹_›
            exact .stopJob (of_mems rfl rfl rfl h3)
          · exact h2.snd_eq ‹_›
    · exact hs
  · exact hs

protected theorem State.Canonical.execQueueEntry {k} {s : State} (hs : s.Canonical) : NextCanonical (execQueueEntry k s) := by
  refine .settled ?_
  split
  · split
    exacts [(hs.of_take ‹_›).entryArrives, hs]
  · exact hs.stageAt

protected theorem State.Canonical.execGrant {k} {s : State} (hs : s.Canonical) : NextCanonical (execGrant k s) := by
  refine .settled ?_
  split
  · split
    exacts [(hs.of_take ‹_›).grantArrives, (hs.of_take ‹_›).grantAcked, hs]
  · exact hs

protected theorem State.Canonical.execCredit {k} {s : State} (hs : s.Canonical) : NextCanonical (execCredit k s) := by
  refine .settled ?_
  split
  · split
    exacts [(hs.of_take ‹_›).creditArrives, hs]
  · exact hs

protected theorem State.Canonical.execRevoke {k} {s : State} (hs : s.Canonical) : NextCanonical (execRevoke k s) := by
  refine .settled ?_
  split
  · split
    exacts [(hs.of_take ‹_›).revokeArrives, hs]
  · exact hs

protected theorem State.Canonical.execRevokeReply {k} {s : State} (hs : s.Canonical) : NextCanonical (execRevokeReply k s) := by
  refine .settled ?_
  split
  · split
    exacts [(hs.of_take ‹_›).revokeReplied, hs]
  · exact hs.stageAt

protected theorem State.Canonical.holdAtSye {s : State} {k m} (hs : s.Canonical) : (s.holdAtSye k m).Canonical := .ite hs hs

protected theorem State.Canonical.execBarrierRequest {k} {s : State} (hs : s.Canonical) : NextCanonical (execBarrierRequest k s) := by
  refine .settled ?_
  split
  · exact hs
  · have h1 := hs.of_take ‹_›
    split
    · refine .ite hs.holdAtSye ?_
      split
      exacts [.ite h1.send h1, .ite hs.holdAtSye (.ite h1.arrive h1.waitAt)]
    · exact hs

protected theorem State.Canonical.execSyeOverflow {die object} {s : State} (hs : s.Canonical) : NextCanonical (execSyeOverflow die object s) :=
  .next (.ite hs.putDie hs)

protected theorem State.Canonical.execBarrierRelease {k} {s : State} (hs : s.Canonical) : NextCanonical (execBarrierRelease k s) := by
  refine .settled ?_
  split
  · split
    · split
      exacts [(hs.of_take ‹_›).resume, hs.of_take ‹_›]
    · exact hs
  · exact hs

protected theorem State.Canonical.execBoardRequest {k} {s : State} (hs : s.Canonical) : NextCanonical (execBoardRequest k s) := by
  refine .settled ?_
  split
  · exact hs
  · split
    · refine .ite hs.holdAtSye ?_
      split
      exacts [(hs.of_take ‹_›).send, .ite hs.holdAtSye ((hs.of_take ‹_›).serveBoard)]
    · exact hs

protected theorem State.Canonical.execBoardReply {k} {s : State} (hs : s.Canonical) : NextCanonical (execBoardReply k s) := by
  refine .settled ?_
  split
  · split
    · split
      exacts [(hs.of_take ‹_›).writeWOf.resume, hs.of_take ‹_›]
    · exact hs
  · exact hs

protected theorem State.Canonical.wakeMonitor {t len} {s : State} (hs : s.Canonical) : (wakeMonitor t len s).Canonical := by
  simp only [wakeMonitor]
  split
  exacts [hs.putThread, hs.resume]

protected theorem State.Canonical.ringWakes {hub asid} {s : State} (hs : s.Canonical) : (ringWakes hub asid s).Canonical := hs.putHub

protected theorem State.Canonical.wakeArrives {core tid nap} {s : State} (hs : s.Canonical) : (wakeArrives core tid nap s).Canonical := by
  refine .ite hs.ringWakes ?_
  split
  · exact hs
  · refine .ite hs ?_
    split
    exacts [hs.wakeMonitor, hs.wakeMonitor, .ite hs.wakeThread hs, hs]

protected theorem State.Canonical.execWake {k} {s : State} (hs : s.Canonical) : NextCanonical (execWake k s) := by
  refine .settled ?_
  split
  · split
    exacts [(hs.of_take ‹_›).wakeArrives, hs]
  · exact hs

protected theorem State.Canonical.execKick {k} {s : State} (hs : s.Canonical) : NextCanonical (execKick k s) := by
  refine .settled ?_
  split
  · split
    exacts [(hs.of_take ‹_›).kickArrives, hs]
  · exact hs

protected theorem State.Canonical.countAway {s : State} {job launch up} (hs : s.Canonical) : (s.countAway job launch up).Canonical := by
  simp only [State.countAway]
  split
  exacts [.ite hs.putJob hs.spawnedExit, hs]

protected theorem State.Canonical.execExitNotice {k} {s : State} (hs : s.Canonical) : NextCanonical (execExitNotice k s) := by
  refine .settled ?_
  split
  · have h1 := hs.of_take ‹_›
    split
    · exact .ite h1 h1.putWg
    · split
      exacts [h1.stopThread, h1]
    · exact h1.countAway
    · exact hs
  · exact hs

protected theorem State.Canonical.answerThread {src tid r code bs} {s : State} (hs : s.Canonical) :
    (answerThread src tid r code bs s).Canonical := by
  simp only [answerThread]
  split
  · exact hs.ackArrives
  · exact hs.ackArrives
  · exact hs.loadArrives
  · split
    exacts [hs.resultArrives, hs]

protected theorem State.Canonical.answerSequencer {wid serial r code bs} {s : State} (hs : s.Canonical) :
    (answerSequencer wid serial r code bs s).Canonical := by
  simp only [answerSequencer]
  split
  exacts [.ite hs.wakeWaiting.putPart (.ite hs.wakeWaiting.stopPart hs.wakeWaiting.putPart), .ite hs.wakeWaiting (.ite hs.wakeWaiting.putWg (.ite
      hs.wakeWaiting.stopHead hs.wakeWaiting.putWg))]

protected theorem State.Canonical.answerEngine {plaza key r code bs} {s : State} (hs : s.Canonical) :
    (answerEngine plaza key r code bs s).Canonical := by
  simp only [answerEngine]
  split
  exacts [hs, .ite hs.stopJob hs.setJob]

protected theorem State.Canonical.answerRequest {src r code bs} {s : State} (hs : s.Canonical) : (answerRequest src r code bs s).Canonical := by
  simp only [answerRequest]
  split
  · exact hs.answerThread
  · exact hs.answerSequencer
  · exact hs.answerEngine
  · split
    exacts [.ite hs.stopJob hs, hs]
  · exact hs
  · exact hs
  · exact hs
  · exact hs
  · exact hs

/-! The functions of Machine/Pages. -/

protected theorem State.Canonical.execDescriptorCacheFill {tid} {s : State} (hs : s.Canonical) :
    NextCanonical (execDescriptorCacheFill tid s) := by
  refine .next ?_
  split
  · exact hs
  · split
    · dsimp only
      split
      exacts [hs.putCore.wakeWaiting, hs.mapThreads.wakeWaiting]
    · exact hs

protected theorem State.Canonical.execPageMapWalk {core key} {s : State} (hs : s.Canonical) : NextCanonical (execPageMapWalk core key s) :=
  hs.walkDone.settled

protected theorem State.Canonical.execFaultPostRetry {core} {s : State} (hs : s.Canonical) : NextCanonical (execFaultPostRetry core s) := by
  refine .next ?_
  dsimp only
  split
  · exact hs
  · split
    · have h1 := hs.postBytes.of_eq ‹_›
      exact h1.putPort
    · exact hs.putPort

protected theorem State.Canonical.dropSector {core i} {s : State} (hs : s.Canonical) : (dropSector core i s).Canonical := .ite hs hs.putPort

protected theorem State.Canonical.flushSector {who core i} {s : State} (hs : s.Canonical) : IfOk State.Canonical (flushSector who core i s) :=
  .ite hs (.ite hs.poisonIndex (.ite (hs.rowGate.map fun h => h.writeBack.dropSector) (.intro (.ite hs hs.dropSector))))

protected theorem State.Canonical.dropSectors {p} {s : State} (hs : s.Canonical) : (dropSectors p s).Canonical :=
  hs.foldl fun h => .ite h h.dropSector

protected theorem State.Canonical.flushCovered {who unit hit} {s : State} (hs : s.Canonical) :
    IfOk State.Canonical (flushCovered who unit hit s) :=
  .ite hs (IfOk.foldlM hs (fun h => .ite h h.flushSector))

protected theorem State.Canonical.resetTrackers {hub hit} {s : State} (hs : s.Canonical) : (resetTrackers hub hit s).Canonical := hs.putHub

protected theorem State.Canonical.applyInval {hub unit asid level h n} {s : State} (hs : s.Canonical) :
    IfOk State.Canonical (applyInval hub unit asid level h n s) := by
  unfold applyInval
  refine .ite (hs.flushCovered.map fun h => ?_) hs.resetTrackers.putPort
  exact of_mems rfl rfl rfl h

protected theorem State.Canonical.execInvalidation {k} {s : State} (hs : s.Canonical) : NextCanonical (execInvalidation k s) := by
  refine .next ?_
  split
  · have h1 := hs.of_take ‹_›
    split
    · refine .ite hs ?_
      split
      · have h2 := h1.applyInval.of_eq ‹_›
        exact h2.send
      · exact hs.noted
    · exact hs
  · exact hs

protected theorem State.Canonical.setBases {asid bt l1} {s : State} (hs : s.Canonical) : (setBases asid bt l1 s).Canonical := hs

protected theorem State.Canonical.answered {s : State} {hub} (hs : s.Canonical) : IfOk State.Canonical (s.answered hub) := by
  simp only [State.answered]
  split
  · exact hs
  · refine .ite hs.putHub ?_
    split
    · exact hs.putHub.complete
    · exact (IfOk.foldlM hs.putHub.complete fun h => h.applyInval).map .setBases

protected theorem State.Canonical.execInvalidationAnswer {k} {s : State} (hs : s.Canonical) : NextCanonical (execInvalidationAnswer k s) := by
  refine .next ?_
  split
  · have h1 := hs.of_take ‹_›
    split
    · refine .ite hs ?_
      split
      exacts [h1.answered.of_eq ‹_›, hs.noted]
    · exact hs
  · exact hs

protected theorem State.Canonical.performSector {core index} {s : State} (hs : s.Canonical) : (performSector core index s).Canonical := by
  simp only [performSector]
  split
  · exact hs
  · split
    exacts [hs.putPort.putPort.joinRow, (hs.putPort.foldl .countRow).performAt]

protected theorem State.Canonical.refuseSector {core index code} {s : State} (hs : s.Canonical) : (refuseSector core index code s).Canonical := by
  simp only [refuseSector]
  split
  exacts [hs, hs.putPort.refuseAt]

protected theorem State.Canonical.askSector {core index a} {s : State} (hs : s.Canonical) : (askSector core index a s).Canonical := hs.putPort.send

protected theorem State.Canonical.missSector {core index a asid} {s : State} (hs : s.Canonical) : (missSector core index a asid s).Canonical := by
  refine .ite hs.putPort.refuseSector ?_
  split
  exacts [hs.noted, .ite ((hs.rowGate.of_eq ‹_›).putPort.send) ((hs.rowGate.of_eq ‹_›).askSector)]

protected theorem State.Canonical.execMemorySideCacheAccess {core index} {s : State} (hs : s.Canonical) :
    NextCanonical (execMemorySideCacheAccess core index s) := by
  refine .settled ?_
  dsimp only
  split
  · exact hs
  · exact .ite (.ite hs hs.putPort.atMemory) (.ite hs.refuseSector (.ite hs.poisonIndex.refuseSector
      (.ite hs (.ite hs.putPort.performSector hs.missSector))))

protected theorem State.Canonical.sectorFilled {core index sector} {s : State} (hs : s.Canonical) :
    (sectorFilled core index sector s).Canonical := by
  simp only [sectorFilled]
  split
  exacts [.ite hs.performSector hs, hs]

protected theorem State.Canonical.execSectorData {k} {s : State} (hs : s.Canonical) : NextCanonical (execSectorData k s) := by
  refine .settled ?_
  split
  · have h1 := hs.of_take ‹_›
    split
    · have h2 {a b n} := h1.copyMem (dst := a) (src := b) (n := n)
      exact .sectorFilled (.putPort (.putMem h2 (memWrite_wf _ _ _ h2.1)))
    · split
      exacts [h1.unitsArrive, h1.answerRequest]
    · exact hs
  · exact hs

protected theorem State.Canonical.execSectorWriteBackAck {k} {s : State} (hs : s.Canonical) : NextCanonical (execSectorWriteBackAck k s) := by
  refine .settled ?_
  split
  · split
    · dsimp only
      split
      exacts [.ite ((hs.of_take ‹_›).putPort.askSector) ((hs.of_take ‹_›).putPort.refuseSector), (hs.of_take ‹_›).putPort]
    · exact hs
  · exact hs

protected theorem State.Canonical.holdHost {x r} {s : State} (hs : s.Canonical) : (holdHost x r s).Canonical := hs.putPort

protected theorem State.Canonical.performHost {r} {s : State} (hs : s.Canonical) : (performHost r s).Canonical := by
  simp only [performHost]
  split
  exacts [hs, .ite hs hs.holdHost, (hs.foldl (fun h => h.writeMem.foldl .afterWrite)).acknowledge]

protected theorem State.Canonical.hostAccess {r} {s : State} (hs : s.Canonical) : (hostAccess r s).Canonical := hs.passRows .performHost

protected theorem State.Canonical.passLater {core row fresh rows src r k} {s : State} (hs : s.Canonical)
    (hk : ∀ {u}, u.Canonical → (k u).Canonical) : (passLater core row fresh rows src r k s).Canonical :=
  .ite (hs.passRows (fun h => hk h)) (hs.countRow.passRows (fun h => hk h))

protected theorem State.Canonical.performRow {core fresh x} {s : State} (hs : s.Canonical) : (performRow core fresh x s).Canonical := by
  simp only [performRow]
  split
  exacts [.ite hs.putPort (hs.passLater .performHost), .ite hs.putPort.atMemory (hs.passLater (fun h => .performAt (.ite h.putPort h)))]

protected theorem State.Canonical.performAll {core fresh l} {s : State} (hs : s.Canonical) : (performAll core fresh l s).Canonical :=
  hs.foldl .performRow

protected theorem State.Canonical.endWindow {die} {s : State} (hs : s.Canonical) : (endWindow die s).Canonical :=
  .ite hs (hs.putDie.foldl (fun h => h.putPort.performAll))

protected theorem State.Canonical.execRowWindow {die} {s : State} (hs : s.Canonical) : NextCanonical (execRowWindow die s) := hs.endWindow.settled

protected theorem State.Canonical.execThrottledActivation {core row} {s : State} (hs : s.Canonical) :
    NextCanonical (execThrottledActivation core row s) := by
  refine .settled ?_
  dsimp only
  split
  · exact hs
  · exact .ite hs hs.putPort.performAll

protected theorem State.Canonical.noticeStop {hub v rest write x} {s : State} (hs : s.Canonical) :
    (noticeStop hub v rest write x s).Canonical := by
  refine .ite hs.putHub ?_
  split
  exacts [(hs.noted.snd_eq ‹_›).postRecord, hs.noted.snd_eq ‹_›]

protected theorem State.Canonical.noticeStep {hub} {s : State} (hs : s.Canonical) : (noticeStep hub s).Canonical := by
  unfold noticeStep
  extract_lets x who
  split
  · exact hs
  · extract_lets free
    have hfree {u : State} (hu : u.Canonical) : (free u).Canonical := hu.putHub
    split
    · refine .ite hs ?_
      split
      exacts [hfree (hs.writeBuf.of_eq ‹_›), hs.noticeStop]
    · split
      · exact hfree hs
      · exact hs.noticeStop
      · have h1 := hs.readBuf.of_eq ‹s.readBuf _ _ _ _ = _›
        extract_lets tail n
        refine .ite (hfree hs) ?_
        extract_lets
        split
        · exact hs.noticeStop
        · exact (h1.writeBuf.of_eq ‹_›).putHub

protected theorem State.Canonical.trackRead {hub key pin} {s : State} (hs : s.Canonical) : (trackRead hub key pin s).Canonical := by
  simp only [trackRead]
  split
  exacts [hs, .ite hs (.ite hs.putHub.noticeStep.noticeStep hs.putHub)]

protected theorem State.Canonical.execCxlCacheCompletion {k} {s : State} (hs : s.Canonical) : NextCanonical (execCxlCacheCompletion k s) := by
  refine .settled ?_
  split
  · exact hs
  · have h1 := hs.of_take ‹_›
    split
    · refine .ite hs ?_
      split
      exacts [h1, .ite h1.performAt.trackRead h1.performAt]
    · refine .ite hs ?_
      split
      exacts [h1, .ite h1.performAt.trackRead h1.performAt]
    · exact hs

protected theorem State.Canonical.engineHold {hub asid write x} {s : State} (hs : s.Canonical) : (engineHold hub asid write x s).Canonical := by
  simp only [engineHold]
  split
  exacts [(hs.noted.snd_eq ‹_›).postRecord.putHub, hs.noted.snd_eq ‹_›]

protected theorem State.Canonical.moveState {hub asid ring index frame state} {s : State} (hs : s.Canonical) :
    IfOk State.Canonical (moveState hub asid ring index frame state s) :=
  hs.writeBuf

protected theorem State.Canonical.finishMove {hub asid ring index frame state} {s : State} (hs : s.Canonical) :
    IfOk State.Canonical (finishMove hub asid ring index frame state s) :=
  hs.moveState.bind fun h => h.writeBuf

protected theorem State.Canonical.startCopy {hub v} {s : State} (hs : s.Canonical) : (startCopy hub v s).Canonical := by
  refine .ite hs.putHub ?_
  split
  exacts [(hs.moveState.of_eq ‹_›).putHub, .ite hs.putHub hs.putHub.engineHold]

protected theorem State.Canonical.execWbNotice {k} {s : State} (hs : s.Canonical) : NextCanonical (execWbNotice k s) := by
  refine .next ?_
  split
  · have h1 := hs.of_take ‹_›
    split
    · refine .send ?_
      split
      exacts [h1.putPort, h1]
    · split
      exacts [h1.startCopy, h1]
    · exact hs
  · exact hs

protected theorem State.Canonical.takeFrom {s : State} {from_ asid f} (hs : s.Canonical) : (s.takeFrom from_ asid f).Canonical :=
  .ite hs.putPort hs.putHub

protected theorem State.Canonical.beginMove {hub v from_ f} {s : State} (hs : s.Canonical) : (beginMove hub v from_ f s).Canonical :=
  .send (.putHub (.putMem hs.takeFrom (memWrite_wf _ _ _ hs.takeFrom.1)))

/-- A variable stands in the place of `finishMove` (see `opaque_elim`). -/
protected theorem State.Canonical.takeMove {hub rq} {s0 : State} (hs0 : s0.Canonical) : (takeMove hub rq s0).Canonical := by
  have hfinish {state} {s : State} (hs : s.Canonical) :
      IfOk State.Canonical (finishMove hub rq.asid rq.ring rq.index (bits rq.w2 39 8) state s) := hs.finishMove
  revert hfinish
  generalize hf : takeMove = f
  delta takeMove at hf
  subst hf
  beta_reduce
  induction finishMove using opaque_elim with
  | var finish =>
    intro hfinish
    dsimp only
    generalize hs1 : s0.putHub hub _ = s
    have hs : s.Canonical := by rw [← hs1]; exact hs0.putHub
    have hfail {st} : (match finish hub rq.asid rq.ring rq.index (bits rq.w2 39 8) st s with
      | .ok s1 => s1.putHub hub { s1.hub hub with request := none }
      | .error x => if x.final then s.putHub hub { s.hub hub with request := none } else engineHold hub rq.asid true x s).Canonical := by
      split
      · have h1 := (hfinish hs).of_eq ‹_›
        exact h1.putHub
      · exact .ite hs.putHub hs.engineHold
    split
    · exact hfail
    · refine .ite hfail (.ite hfail ?_)
      split
      · refine .ite hfail (.ite hfail ?_)
        split
        exacts [hfail, hs.beginMove]
      · exact hs.engineHold

protected theorem State.Canonical.armRing {hub asid ring done} {s : State} (hs : s.Canonical) : (armRing hub asid ring done s).Canonical := by
  simp only [armRing]
  split
  exacts [hs, .ite hs hs.putPort.putHub]

protected theorem State.Canonical.execMoveRequestTake {hub asid} {s : State} (hs : s.Canonical) :
    NextCanonical (execMoveRequestTake hub asid s) := by
  refine .next (.ite hs ?_)
  split
  · exact hs
  · exact .ite hs.takeMove hs
  · exact hs
  · refine .ite hs ?_
    split
    · exact hs.engineHold
    · have h1 := hs.readBuf.of_eq ‹_›
      refine .ite h1.armRing ?_
      split
      · exact h1.engineHold
      · have h2 := h1.readBuf.of_eq ‹_›
        exact h2.takeMove

protected theorem State.Canonical.poisonUnits {s : State} {a n} (hs : s.Canonical) : (s.poisonUnits a n).Canonical := .ite hs hs.putPort

protected theorem State.Canonical.checkSector {s : State} {p lam} (hs : s.Canonical) : (s.checkSector p lam).Canonical := .ite hs hs.poisonIndex

protected theorem State.Canonical.copySector {who old new} {s : State} {k} (hs : s.Canonical) :
    IfOk State.Canonical (copySector who old new s k) :=
  .ite (hs.rowGate.bind (fun h => h.rowGate.map .copyMem)) (hs.checkSector.rowGate.map .poisonUnits)

protected theorem State.Canonical.copyPage {who old new} {s : State} (hs : s.Canonical) : IfOk State.Canonical (copyPage who old new s) :=
  IfOk.foldlM hs.dropSectors fun h => h.copySector

protected theorem State.Canonical.drainHeld {port key} {s : State} (hs : s.Canonical) : (drainHeld port key s).Canonical := hs.putPort.walkDone

protected theorem State.Canonical.switchPage {who v cur} {s : State} (hs : s.Canonical) : IfOk State.Canonical (switchPage who v cur s) :=
  hs.copyPage.map (fun h => .wakeWaiting (.drainHeld (.ite (.putPort (.putMem h.dropSectors (memWrite_wf _ _ _ h.dropSectors.1))) (.putHub (.putPort
      (.putMem h.dropSectors (memWrite_wf _ _ _ h.dropSectors.1)))))))

protected theorem State.Canonical.reportMove {s : State} {v old new} (hs : s.Canonical) : (s.reportMove v old new).Canonical := hs

/-- A variable stands in the place of `finishMove` (see `opaque_elim`). -/
protected theorem State.Canonical.reportDone {hub v} {s : State} (hs : s.Canonical) : (reportDone hub v s).Canonical := by
  have hfinish {index frame state} {s : State} (hs : s.Canonical) :
      IfOk State.Canonical (finishMove hub v.asid v.ring index frame state s) := hs.finishMove
  revert hfinish
  generalize hf : reportDone = f
  delta reportDone at hf
  subst hf
  beta_reduce
  induction finishMove using opaque_elim with
  | var finish =>
    intro hfinish
    dsimp only
    split
    · have h1 := (hfinish hs).of_eq ‹_›
      exact h1.putHub
    · exact .ite hs.putHub hs.putHub.engineHold

protected theorem State.Canonical.moveEnds {hub v} {s : State} (hs : s.Canonical) : (moveEnds hub v s).Canonical :=
  .ite hs (.ite hs.putHub.reportMove hs.reportDone)

protected theorem State.Canonical.execPageCopyDone {hub} {s : State} (hs : s.Canonical) : NextCanonical (execPageCopyDone hub s) := by
  refine .settled ?_
  split
  · exact hs
  · refine .ite hs (.ite hs.startCopy (.ite hs.reportDone (.ite hs.moveEnds (.ite hs ?_))))
    split
    · exact hs.engineHold
    · split
      · exact hs.noted
      · have h1 := hs.switchPage.of_eq ‹_›
        exact h1.putHub.moveEnds

protected theorem State.Canonical.execLayerEvaluation {stack} {s : State} (hs : s.Canonical) : NextCanonical (execLayerEvaluation stack s) := hs

protected theorem State.Canonical.emptyCarve {core} {s : State} (hs : s.Canonical) : IfOk State.Canonical (emptyCarve core s) :=
  IfOk.foldlM hs fun h => h.flushSector

protected theorem State.Canonical.moveReserved {core layer} {s : State} (hs : s.Canonical) :
    IfOk State.Canonical (moveReserved core layer s) :=
  .ite trivial (IfOk.foldlM hs (fun h => h.rowGate.bind (fun h1 => h1.rowGate.map (fun h2 => h2.copyMem.putPort))))

protected theorem State.Canonical.rasEvent {s : State} {code die detail} (hs : s.Canonical) : (s.rasEvent code die detail).Canonical := hs

/-- Stated over any configuration first: the kernel would compare the sums of capacities by counting them out. -/
protected theorem State.Canonical.writeConf {s : State} (hs : s.Canonical) : s.writeConf.Canonical := by
  have key (conf) : { s with conf := conf }.Canonical := of_mems rfl rfl rfl hs
  exact key _

protected theorem State.Canonical.mapOutNext {x} {s : State} (hs : s.Canonical) : (mapOutNext x s).Canonical := by
  refine .ite hs ?_
  split
  exacts [hs, hs.beginMove]

protected theorem State.Canonical.mapOutStart {stack layer} {s : State} (hs : s.Canonical) : (mapOutStart stack layer s).Canonical := by
  simp only [mapOutStart]
  split
  · have h1 := ((IfOk.foldlM hs fun h => h.emptyCarve).bind fun h => IfOk.foldlM h fun h => h.moveReserved).of_eq ‹_›
    exact h1
  · exact .ite hs hs.noted

protected theorem State.Canonical.execLayerMapOut {stack layer} {s : State} (hs : s.Canonical) :
    NextCanonical (execLayerMapOut stack layer s) := by
  refine .settled ?_
  split
  · exact .ite hs hs.mapOutStart
  · refine .ite hs (.ite hs.mapOutStart (.ite hs ?_))
    split
    exacts [hs.mapOutNext, .ite hs (.rasEvent (.writeConf hs))]

/-! The functions of Machine/Gangs. -/

protected theorem State.Canonical.seat {s : State} {t} (hs : s.Canonical) : (s.seat t).Canonical := .ite hs.putThread hs

protected theorem State.Canonical.startWorkgroup {j t img k gang pos core lbase} {s : State} (hs : s.Canonical) :
    (startWorkgroup j t img k gang pos core lbase s).Canonical :=
  .foldl (of_mems rfl rfl rfl hs) fun h => of_mems rfl rfl rfl h.seat

protected theorem State.Canonical.startGang {g j t img k first bases} {s : State} (hs : s.Canonical) :
    (startGang g j t img k first bases s).Canonical := by
  have key {t : State} {gs} (h : t.Canonical) : { t with gs := gs }.Canonical := of_mems rfl rfl rfl h
  exact key (.putGang (.foldl hs .startWorkgroup))

protected theorem State.Canonical.execGangPlacement {die} {s : State} (hs : s.Canonical) : NextCanonical (execGangPlacement die s) := by
  refine .next ?_
  dsimp only
  split
  · exact hs
  · split
    · refine .ite hs ?_
      split
      · exact hs
      · split
        · exact hs
        · split
          exacts [hs.putDie.startGang, hs]
    · exact hs.putDie

protected theorem State.Canonical.startSave {s : State} {g reason target} (hs : s.Canonical) :
    IfSome State.Canonical (s.startSave g reason target) := by
  simp only [State.startSave]
  split
  exacts [trivial, hs.takeArea.map (fun h => (h.putGang.writeHeader.foldl (fun h1 => h1.foldl .send)).saveSweep)]

protected theorem State.Canonical.countSaved {launch gang} {s : State} (hs : s.Canonical) : (countSaved launch gang s).Canonical := by
  simp only [countSaved]
  split
  exacts [hs.putGang.writeHeader.finishSave, hs]

protected theorem State.Canonical.savedAway {tid ws} {s : State} (hs : s.Canonical) : (savedAway tid ws s).Canonical := by
  simp only [savedAway]
  split
  · exact hs
  · split
    exacts [.ite hs hs.writePool.putThread.countSaved, hs]

protected theorem State.Canonical.execSavedNotice {k} {s : State} (hs : s.Canonical) : NextCanonical (execSavedNotice k s) := by
  refine .next ?_
  split
  · have h1 := hs.of_take ‹_›
    split
    exacts [h1.countSaved, h1.savedAway, hs]
  · exact hs

protected theorem State.Canonical.restoreThread {s : State} {w t} (hs : s.Canonical) : (s.restoreThread w t).Canonical := hs.seat

protected theorem State.Canonical.restoreBank {w} {s : State} {x} (hs : s.Canonical) : (restoreBank w s x).Canonical := by
  simp only [restoreBank]
  split
  · exact hs
  · split
    · split
      exacts [.send (.putLmem hs.setBank (memWrite_wf _ _ _ hs.setBank.2.1)), .putLmem hs.setBank (memWrite_wf _ _ _ hs.setBank.2.1)]
    · exact hs.setBank

protected theorem State.Canonical.restoreWorkgroup {m img core lbase} {s : State} {w} (hs : s.Canonical) :
    (restoreWorkgroup m img core lbase s w).Canonical :=
  .foldl (.putTmem (.putLmem hs.putPlaza.putWg (memPaste_wf _ _ _ _ hs.putPlaza.putWg.2.1)) (memPaste_wf _ _ _ _ hs.putPlaza.putWg.2.2))
      .restoreBank

protected theorem State.Canonical.restoreGang {g first bases} {s : State} (hs : s.Canonical) : (restoreGang g first bases s).Canonical := by
  have key {t : State} {gs} (h : t.Canonical) : { t with gs := gs }.Canonical := of_mems rfl rfl rfl h
  refine .foldl (.foldl (key (.putGang (.foldl hs.putPlaza fun h => ?_))) .restoreThread) .wakeIdlers
  split
  exacts [h.restoreWorkgroup, h]

protected theorem State.Canonical.execGangRestore {launch gang} {s : State} (hs : s.Canonical) :
    NextCanonical (execGangRestore launch gang s) := by
  refine .next ?_
  split
  · exact hs
  · split
    · refine .ite hs ?_
      split
      exacts [hs.restoreGang, hs]
    · refine .ite hs ?_
      split
      exacts [hs.putDie.restoreGang, hs]
    · exact hs

protected theorem State.Canonical.without {s : State} {g} (hs : s.Canonical) : (s.without g).Canonical := hs

protected theorem State.Canonical.execRelocation {die} {s : State} (hs : s.Canonical) : NextCanonical (execRelocation die s) := by
  refine .next ?_
  split
  · exact hs
  · split
    · exact hs
    · refine .ite hs ?_
      split
      · exact hs
      · split
        exacts [(hs.startSave.of_eq ‹_›).putGang, hs.putGang]

protected theorem State.Canonical.dropArea {s : State} {g} (hs : s.Canonical) : (s.dropArea g).Canonical := by
  simp only [State.dropArea]
  split
  exacts [.ite hs.putDie.wakeWaiting hs, hs]

protected theorem State.Canonical.retrySuspends {s : State} (hs : s.Canonical) : s.retrySuspends.Canonical := hs.foldl fun h => h.startSave.getD h

protected theorem State.Canonical.retireGang {g} {s : State} (hs : s.Canonical) : (retireGang g s).Canonical := by
  have key {t : State} {g wgs threads} (h : t.Canonical) : { t.putGang g with wgs := wgs, threads := threads }.Canonical :=
    of_mems rfl rfl rfl h
  have h1 : ((if g.stands then s.leavePlaza g else s).dropArea g).Canonical := .dropArea (.ite hs.leavePlaza hs)
  refine .suspendsDone (.retrySuspends ?_)
  dsimp only
  split
  exacts [(key h1).putJob, key h1]

protected theorem State.Canonical.execGangRetire {launch gang} {s : State} (hs : s.Canonical) : NextCanonical (execGangRetire launch gang s) := by
  refine .next ?_
  split
  · exact hs
  · rename_i g _
    have h1 : (if g.stands && s.gangExited g then s.cancelFaulted g else s).Canonical := .ite hs.cancelFaulted hs
    exact .ite h1 (.ite (.foldl h1 .revokeBanks) h1.putDie.retireGang)

protected theorem State.Canonical.removeThread {s : State} {t} (hs : s.Canonical) : (s.removeThread t).Canonical :=
  .reap (.freeMonitors (.stopThread hs))

protected theorem State.Canonical.execGangSaveNotice {k} {s : State} (hs : s.Canonical) : NextCanonical (execGangSaveNotice k s) := by
  refine .settled ?_
  split
  · have h1 := hs.of_take ‹_›
    split
    exacts [.ite h1 (.ite h1 hs), hs]
  · exact hs

protected theorem State.Canonical.cancelGang {g} {s : State} (hs : s.Canonical) : (cancelGang g s).Canonical := by
  refine ((hs.foldl .removeThread).foldl (fun h => .putWg ?_)).foldl .stopJob
  split
  exacts [h.clearSeq.dropQueue, h.clearSeq]

protected theorem State.Canonical.withdraw {s : State} {launch} (hs : s.Canonical) : (s.withdraw launch).Canonical := hs

protected theorem State.Canonical.removeSpawned {s : State} {launch} (hs : s.Canonical) : (s.removeSpawned launch).Canonical :=
  (hs.foldl .removeThread).foldl (fun h => .ite h (h.putPlaza.wakeWaiting.foldl .spawnedExit))

protected theorem State.Canonical.execLaunchCancellation {job tcb} {s : State} (hs : s.Canonical) :
    NextCanonical (execLaunchCancellation job tcb s) := by
  refine .next ?_
  split
  · exact hs
  · split
    · exact hs
    · exact .ite hs (.removeSpawned (.foldl hs.withdraw .cancelGang))

/-! The functions of Machine/Graph. -/

protected theorem State.Canonical.execJobSubmit {hub record} {s : State} (hs : s.Canonical) : NextCanonical (execJobSubmit hub record s) :=
  .next (.ite hs (.ite hs (of_mems rfl rfl rfl hs)))

protected theorem State.Canonical.wakeObjects {s : State} (hs : s.Canonical) : s.wakeObjects.Canonical := hs.wakeWaiting

protected theorem State.Canonical.forgetAnswers {s : State} {job} (hs : s.Canonical) : (s.forgetAnswers job).Canonical := hs

protected theorem State.Canonical.askPeer {s : State} {job home r} (hs : s.Canonical) : (s.askPeer job home r).Canonical := .ite hs hs.send

protected theorem State.Canonical.schedRead {s : State} {j h n} (hs : s.Canonical) :
    IfEither State.Canonical (fun r => r.2.Canonical) (s.schedRead j h n) := by
  simp only [State.schedRead]
  split
  · exact hs.readGot.of_eq ‹_›
  · split
    · exact hs.noted.snd_eq ‹_›
    · exact (hs.noted.snd_eq ‹_›).postRecord
    · split
      exacts [hs.noted.snd_eq ‹_›, (hs.noted.snd_eq ‹_›).askPeer]
    · exact hs.noted.snd_eq ‹_›

protected theorem State.Canonical.execPhaseStart {job} {s : State} (hs : s.Canonical) : NextCanonical (execPhaseStart job s) := by
  refine .next ?_
  split
  · exact hs
  · refine .ite hs (.ite hs.putJob.wakeObjects ?_)
    split
    · exact hs.putJob.wakeObjects
    · split
      · exact hs.schedRead.of_error ‹_›
      · have h1 := hs.schedRead.of_ok ‹_›
        exact h1.forgetAnswers.putJob.wakeObjects
      · have h1 := hs.schedRead.of_ok ‹_›
        split
        exacts [h1.forgetAnswers.putJob.wakeObjects, h1.forgetAnswers.putJob]

protected theorem State.Canonical.startTcb {j img t} {s : State} (hs : s.Canonical) :
    IfEither State.Canonical (fun r => r.2.Canonical) (startTcb j img t s) := by
  simp only [startTcb]
  split
  · exact hs
  · split
    · exact hs
    · split
      · exact hs
      · split
        exacts [hs.schedRead.of_error ‹_›, hs.schedRead.of_ok ‹_›, hs.schedRead.of_ok ‹_›]

protected theorem State.Canonical.startTcbs {j img l} {s : State} (hs : s.Canonical) :
    IfEither State.Canonical (fun r => r.2.2.Canonical) (startTcbs j img l s) := by
  induction l generalizing s with
  | nil => exact hs
  | cons t ts ih =>
    simp only [startTcbs]
    split
    · exact hs.startTcb.of_error ‹_›
    · have h1 := hs.startTcb.of_ok ‹_›
      split
      · exact (ih h1).of_error ‹_›
      · have h2 := (ih h1).of_ok ‹_›
        split <;> exact h2

protected theorem State.Canonical.execGraphStart {job} {s : State} (hs : s.Canonical) : NextCanonical (execGraphStart job s) := by
  refine .next ?_
  split
  · exact hs
  · split
    · exact hs
    · refine .ite hs (.ite hs.putJob.wakeObjects ?_)
      dsimp only
      split
      · exact hs.startTcbs.of_error ‹_›
      · have h1 := hs.startTcbs.of_ok ‹_›
        exact of_mems rfl rfl rfl (h1.forgetAnswers (job := job))

protected theorem State.Canonical.execHubRequest {k} {s : State} (hs : s.Canonical) : NextCanonical (execHubRequest k s) := by
  refine .next ?_
  split
  · exact hs
  · have h1 := hs.of_take ‹_›
    split
    · refine .ite hs ?_
      split
      exacts [h1.putJob, h1]
    · exact h1.send
    · have h2 {a b n} := h1.copyMem (dst := a) (src := b) (n := n)
      exact .send (.putMem h2 (memWrite_wf _ _ _ h2.1))
    · exact hs

protected theorem State.Canonical.resumesDone {s : State} (hs : s.Canonical) : s.resumesDone.Canonical := .foldl hs .complete

protected theorem State.Canonical.enqueue {s : State} {die launch gang} (hs : s.Canonical) : (s.enqueue die launch gang).Canonical :=
  of_mems rfl rfl rfl hs

protected theorem State.Canonical.handOn {o j t width die} {s : State} (hs : s.Canonical) : (handOn o j t width die s).Canonical :=
  .enqueue (of_mems rfl rfl rfl hs)

protected theorem State.Canonical.handing {s : State} (hs : s.Canonical) : s.handing.Canonical := hs

protected theorem State.Canonical.execReadyHandOn {s : State} (hs : s.Canonical) : NextCanonical (execReadyHandOn s) := by
  refine .next ?_
  split
  · exact hs
  · refine .ite ?_ ?_
    · split
      · exact hs
      · split
        exacts [hs, .ite hs.putGang.enqueue.handing.resumesDone hs]
    · split
      · exact hs
      · split
        · exact hs
        · split
          exacts [hs.handOn.handing, hs]

protected theorem State.Canonical.execLaunchCompletion {job tcb} {s : State} (hs : s.Canonical) :
    NextCanonical (execLaunchCompletion job tcb s) := by
  refine .next ?_
  split
  · exact hs
  · split
    · exact hs
    · exact .ite hs (.wakeObjects (of_mems rfl rfl rfl hs))

protected theorem State.Canonical.completeJob {j} {s : State} (hs : s.Canonical) : (completeJob j s).Canonical :=
  .wakeObjects (of_mems rfl rfl rfl (hs.forgetAnswers (job := j.num)))

protected theorem State.Canonical.postStatus {j} {s : State} (hs : s.Canonical) : (postStatus j s).Canonical := .ite hs.putJob hs.completeJob

protected theorem State.Canonical.writeStatus {j} {s : State} (hs : s.Canonical) : (writeStatus j s).Canonical := by
  simp only [writeStatus]
  split
  · exact (hs.writeBuf.of_eq ‹_›).postStatus
  · split
    · exact (hs.noted.snd_eq ‹_›).completeJob
    · exact (hs.noted.snd_eq ‹_›).postRecord
    · exact .ite ((hs.noted.snd_eq ‹_›).completeJob) ((hs.noted.snd_eq ‹_›).askPeer)
    · exact hs.noted.snd_eq ‹_›

protected theorem State.Canonical.execJobCompletion {job} {s : State} (hs : s.Canonical) : NextCanonical (execJobCompletion job s) := by
  refine .next ?_
  split
  · exact hs
  · exact .ite hs.writeStatus (.ite hs.postStatus hs)

protected theorem State.Canonical.takeOver {s : State} {hub} (hs : s.Canonical) : (s.takeOver hub).Canonical := hs

protected theorem State.Canonical.execSchedulerTakeover {s : State} (hs : s.Canonical) : NextCanonical (execSchedulerTakeover s) :=
  .next (.ite hs hs.takeOver)

/-! The functions of Machine/Hubs. -/

protected theorem State.Canonical.runCommand {code anyAsid c go} {s : State} (hs : s.Canonical) (hgo : ∀ {u}, u.Canonical → (go u).Canonical) :
    NextCanonical (runCommand code anyAsid c go s) :=
  .settled (.ite hs (.ite hs.complete (.ite hs (.ite hs.complete (.ite hs.complete (hgo hs))))))

protected theorem State.Canonical.broadcast {c level h n bases} {s : State} (hs : s.Canonical) : (broadcast c level h n bases s).Canonical :=
  hs.putHub.foldl .send

protected theorem State.Canonical.execInval {c} {s : State} (hs : s.Canonical) : NextCanonical (execInval c s) :=
  hs.runCommand (fun h => .ite h.complete (.ite h.complete h.broadcast))

protected theorem State.Canonical.execRegasid {c} {s : State} (hs : s.Canonical) : NextCanonical (execRegasid c s) :=
  hs.runCommand fun h => .ite h.setBases.complete h.broadcast

protected theorem State.Canonical.retryPage {port key} {s : State} (hs : s.Canonical) : (retryPage port key s).Canonical := .walkDone (.putPort hs)

protected theorem State.Canonical.releaseJobs {port key} {s : State} (hs : s.Canonical) : (releaseJobs port key s).Canonical := hs

protected theorem State.Canonical.wakeParked {port key} {s : State} (hs : s.Canonical) : (wakeParked port key s).Canonical :=
  .ite hs.mapThreads hs.wakeWaiting

protected theorem State.Canonical.releaseSequencers {port key} {s : State} (hs : s.Canonical) : (releaseSequencers port key s).Canonical := hs

protected theorem State.Canonical.execFaultdone {c} {s : State} (hs : s.Canonical) : NextCanonical (execFaultdone c s) := by
  refine hs.runCommand fun h => ?_
  dsimp only
  split
  exacts [h.complete, h.retryPage.wakeParked.wakeWaiting.releaseJobs.releaseSequencers.complete]

protected theorem State.Canonical.execFaultq {c} {s : State} (hs : s.Canonical) : NextCanonical (execFaultq c s) :=
  hs.runCommand fun h => h.putHub.complete

protected theorem State.Canonical.execTrack {c} {s : State} (hs : s.Canonical) : NextCanonical (execTrack c s) :=
  hs.runCommand (fun h => .ite h.putHub.complete (.ite h.complete h.putHub.complete))

protected theorem State.Canonical.execPool {c} {s : State} (hs : s.Canonical) : NextCanonical (execPool c s) :=
  hs.runCommand (fun h => .ite h.complete (.complete (.ite h.putPort h.putHub)))

protected theorem State.Canonical.disarmRing {hub asid} {s : State} (hs : s.Canonical) : (disarmRing hub asid s).Canonical :=
  hs.ringWakes (hub := hub) (asid := asid)

protected theorem State.Canonical.execMovering {c} {s : State} (hs : s.Canonical) : NextCanonical (execMovering c s) :=
  hs.runCommand (fun h => .ite h.disarmRing.putHub.complete (.ite h.complete h.disarmRing.putHub.complete))

protected theorem State.Canonical.suspendGang {s : State} {g} (hs : s.Canonical) : (suspendGang s g).Canonical := by
  simp only [suspendGang]
  split
  exacts [hs.startSave.getD hs, hs.putGang, hs.putGang, hs.putDie.putGang, hs, hs]

protected theorem State.Canonical.execSuspend {c} {s : State} (hs : s.Canonical) : NextCanonical (execSuspend c s) := by
  refine hs.runCommand (fun h => ?_)
  split
  exacts [h.complete, .ite h.complete (.suspendsDone ((h.putJob.foldl .withdraw).foldl .suspendGang))]

protected theorem State.Canonical.execResume {c} {s : State} (hs : s.Canonical) : NextCanonical (execResume c s) :=
  hs.runCommand fun {u} h => by
    split
    · exact h.complete
    · exact .ite h.complete (.ite h.complete (.resumesDone (of_mems rfl rfl rfl h)))

protected theorem State.Canonical.execLease {c} {s : State} (hs : s.Canonical) : NextCanonical (execLease c s) :=
  hs.runCommand fun h => .ite h.putDie.complete h.complete

protected theorem State.Canonical.execPeertab {c} {s : State} (hs : s.Canonical) : NextCanonical (execPeertab c s) :=
  hs.runCommand fun h => .complete h

/-! The functions of Machine/Loader. -/

protected theorem State.Canonical.fillBuffer {asid h bs} {s : State} (hs : s.Canonical) : IfSome State.Canonical (fillBuffer asid h bs s) :=
  IfSome.foldlM hs fun h => by
    split
    exacts [trivial, IfSome.any.map fun _ => h.putMem (memWrite_wf _ _ _ h.1)]

protected theorem State.Canonical.createBuffer {asid bt slot leased bs} {s : State} (hs : s.Canonical) :
    IfSome State.Canonical (createBuffer asid bt slot leased bs s) := by
  refine .ite hs ?_
  split
  · trivial
  · exact (hs.putMem (memWrite_wf _ _ _ hs.1)).fillBuffer

protected theorem State.Canonical.createBoards {s : State} {asid code l} (hs : s.Canonical) : (s.createBoards asid code l).Canonical :=
  hs.foldl .putDie

protected theorem State.Canonical.loadImage {asid file} {s : State} (hs : s.Canonical) : IfOk State.Canonical (loadImage asid file s) := by
  unfold loadImage
  refine IfOk.any.bind fun _ => IfOk.any.bind fun _ => IfOk.any.bind fun _ => ?_
  dsimp only
  split
  swap; · trivial
  refine IfOk.any.bind fun _ => ?_
  split
  swap; · trivial
  refine IfOk.any.bind fun _ => ?_
  split
  swap; · trivial
  refine IfOk.any.bind fun _ => IfOk.any.bind fun _ => ?_
  split
  swap; · trivial
  refine IfOk.any.bind fun _ => IfOk.any.bind fun _ => ?_
  split
  swap; · trivial
  have h1 := ((hs.createBuffer.bind fun h => h.createBuffer).bind fun h => h.createBuffer).of_eq ‹_›
  refine IfOk.bind (p := State.Canonical) h1.createBoards fun h2 => ?_
  split
  exacts [IfOk.any.bind fun _ => h2, trivial]

protected theorem State.Canonical.execImageLoad {asid image} {s : State} (hs : s.Canonical) : NextCanonical (execImageLoad asid image s) := by
  refine .next (.ite hs ?_)
  split
  · have h1 := hs.loadImage.of_eq ‹_›
    exact h1
  · exact hs

protected theorem State.Canonical.freeSlot {bt h} {s : State} (hs : s.Canonical) : (freeSlot bt h s).Canonical :=
  .putMem hs (memWrite_wf _ _ _ hs.1)

protected theorem State.Canonical.dropBuffer {asid bt} {s : State} {h} (hs : s.Canonical) : IfOk State.Canonical (dropBuffer asid bt s h) :=
  IfOk.foldlM hs.freeSlot fun h => h.applyInval

protected theorem State.Canonical.execImageUnload {asid code} {s : State} (hs : s.Canonical) : NextCanonical (execImageUnload asid code s) := by
  refine .next ?_
  split
  · exact hs
  · refine .ite hs ?_
    dsimp only
    split
    · exact hs.noted
    · have h1 := (IfOk.foldlM hs fun h => h.dropBuffer).of_eq ‹_›
      exact of_mems rfl rfl rfl (h1.foldl .putDie)

/-! The functions of Machine/Links. -/

protected theorem State.Canonical.discardCell {s : State} {die} (hs : s.Canonical) : (s.discardCell die).Canonical := hs.putDie.rasEvent

protected theorem State.Canonical.putLink {s : State} {l} (hs : s.Canonical) : (s.putLink l).Canonical := hs

protected theorem State.Canonical.crossCell {s : State} {k m} (hs : s.Canonical) : (s.crossCell k m).Canonical := by
  simp only [State.crossCell]
  split
  exacts [hs, hs]

protected theorem State.Canonical.afterCells {x n} {s : State} (hs : s.Canonical) : (State.afterCells x n s).Canonical := by
  induction n generalizing s with
  | zero => exact hs
  | succ n ih =>
    simp only [State.afterCells]
    split
    exacts [ih hs.crossCell, hs]

protected theorem State.Canonical.resend {s : State} {die n} (hs : s.Canonical) : (s.resend die n).Canonical :=
  hs.foldl fun h => .ite h.countDie h

protected theorem State.Canonical.loseMessage {s : State} {die k} (hs : s.Canonical) : (s.loseMessage die k).Canonical := .discardCell hs

protected theorem State.Canonical.acceptFlit {l fromA flip} {s : State} (hs : s.Canonical) : (acceptFlit l fromA flip s).Canonical := by
  simp only [acceptFlit]
  split
  exacts [hs.putLink, .ite hs.putLink.loseMessage hs.putLink.crossCell]

protected theorem State.Canonical.execFlitReceive {link flit} {s : State} (hs : s.Canonical) : NextCanonical (execFlitReceive link flit s) :=
  .next (by
    split
    · exact hs
    · refine .ite hs (.ite hs (.ite hs.acceptFlit (.ite hs.putLink (.ite hs ?_))))
      dsimp only
      split
      exacts [hs, hs.putLink])

protected theorem State.Canonical.execNak {link} {s : State} (hs : s.Canonical) : NextCanonical (execNak link s) :=
  .next (by
    split
    exacts [hs, .ite hs (.ite hs.putLink hs.resend.putLink)])

protected theorem State.Canonical.linksDown {s : State} {p} (hs : s.Canonical) : (s.linksDown p).Canonical := hs

protected theorem State.Canonical.execLinkRetrain {link succeeds} {s : State} (hs : s.Canonical) :
    NextCanonical (execLinkRetrain link succeeds s) := by
  refine .next ?_
  split
  · exact hs
  · exact .ite hs (.ite hs.resend.resend.putLink (.ite hs.putLink.raiseEvent hs.putLink))

protected theorem State.Canonical.execLinkDown {link} {s : State} (hs : s.Canonical) : NextCanonical (execLinkDown link s) := by
  refine .next ?_
  split
  · exact hs
  · exact .ite hs hs.linksDown.raiseEvent

protected theorem State.Canonical.execLinkRateStep {link up} {s : State} (hs : s.Canonical) : NextCanonical (execLinkRateStep link up s) := by
  refine .next ?_
  split
  · exact hs
  · refine .ite hs ?_
    dsimp only
    split
    exacts [hs.putLink, hs]

protected theorem State.Canonical.stopCores {s : State} {b} (hs : s.Canonical) : (s.stopCores b).Canonical := hs.foldl .putCore

protected theorem State.Canonical.moduleClock {step} {s : State} (hs : s.Canonical) : (moduleClock step s).Canonical := by
  refine .ite hs ?_
  split
  exacts [.stopCores hs, .ite hs ((hs.foldl .putDie).stopCores)]

protected theorem State.Canonical.execFrequencyChange {clock} {s : State} (hs : s.Canonical) : NextCanonical (execFrequencyChange clock s) :=
  .next (.ite hs (.ite hs.moduleClock (.ite hs (.ite hs.moduleClock (.ite hs.putDie hs)))))

protected theorem State.Canonical.lowerClock {die} {s : State} (hs : s.Canonical) : (lowerClock die s).Canonical :=
  .ite hs.moduleClock (.ite hs.putDie hs)

protected theorem State.Canonical.execThermalStep {die} {s : State} (hs : s.Canonical) : NextCanonical (execThermalStep die s) :=
  .next (.ite hs (.ite hs.moduleClock (.ite hs.rasEvent.lowerClock (.ite hs.rasEvent.lowerClock hs))))

protected theorem State.Canonical.execThermalTrip {die} {s : State} (hs : s.Canonical) : NextCanonical (execThermalTrip die s) :=
  .next (.ite hs (.ite hs.raiseEvent (.ite hs.raiseEvent hs)))

protected theorem State.Canonical.execHbmChannelRetrain {core succeeds} {s : State} (hs : s.Canonical) :
    NextCanonical (execHbmChannelRetrain core succeeds s) :=
  .next (.ite hs (.ite hs.putPort hs.putPort.raiseEvent))

protected theorem State.Canonical.execPortFailure {hub} {s : State} (hs : s.Canonical) : NextCanonical (execPortFailure hub s) :=
  .next (.ite hs hs.putHub.putHub.rasEvent)

protected theorem State.Canonical.execPortTrained {port} {s : State} (hs : s.Canonical) : NextCanonical (execPortTrained port s) :=
  .next (.ite hs hs.putHub.putHub.rasEvent)

protected theorem State.Canonical.execCxlSnoop {hub _address} {s : State} (hs : s.Canonical) : NextCanonical (execCxlSnoop hub _address s) :=
  .next (.ite hs hs)

protected theorem State.Canonical.hostWriteTo {a bs mask} {s : State} (hs : s.Canonical) : (hostWriteTo a bs mask s).Canonical :=
  .ite hs.hostAccess hs

protected theorem State.Canonical.execCxlMemAccess {acc} {s : State} (hs : s.Canonical) : NextCanonical (execCxlMemAccess acc s) := by
  refine .settled (.ite hs ?_)
  split
  exacts [.ite hs.hostAccess hs, hs.hostWriteTo, hs.hostWriteTo, .ite hs hs]

/-! The functions of Machine/Peers. -/

protected theorem State.Canonical.deliverPeer {src asid m} {s : State} (hs : s.Canonical) : (deliverPeer src asid m s).Canonical := by
  simp only [deliverPeer]
  split
  · exact hs
  · exact hs
  · exact hs
  · exact hs
  · exact hs
  · split
    exacts [hs.putThread, .ite hs hs]
  · split
    exacts [hs, hs]
  · exact hs
  · split
    exacts [hs, hs]
  · exact hs
  · split
    exacts [hs, hs]
  · split
    exacts [hs, hs]
  · exact hs
  · exact hs
  · exact hs
  · exact hs

protected theorem State.Canonical.execPeerMessageIn {hub m} {s : State} (hs : s.Canonical) : NextCanonical (execPeerMessageIn hub m s) := by
  refine .next (.ite hs ?_)
  split
  exacts [hs.discardCell, .ite hs.deliverPeer hs.discardCell]

protected theorem State.Canonical.contextFails {tid} {s : State} (hs : s.Canonical) : (contextFails tid s).Canonical := by
  simp only [contextFails]
  split
  exacts [hs.raiseAt, hs]

protected theorem State.Canonical.contextLeaves {tid dst} {s : State} (hs : s.Canonical) : (contextLeaves tid dst s).Canonical := by
  simp only [contextLeaves]
  split
  exacts [.ite hs.holdSlot hs.holdSlot.putThread, hs]

protected theorem State.Canonical.replyThread {m tid r code bs} {s : State} (hs : s.Canonical) : (replyThread m tid r code bs s).Canonical := by
  refine .ite hs.send (.ite (.ite hs.send (.ite hs.send ?_)) (.ite hs.send hs.send))
  split
  exacts [hs.putThread, hs]

protected theorem State.Canonical.peerAnswers {m code bs} {s : State} (hs : s.Canonical) : (peerAnswers m code bs s).Canonical := by
  simp only [peerAnswers]
  split
  · split
    exacts [hs.replyThread, hs.answerRequest]
  · split
    exacts [hs.replyThread, hs.answerRequest]
  · split
    exacts [hs.replyThread, hs.answerRequest]
  · split
    exacts [hs.replyThread, hs.answerRequest]
  · split
    exacts [hs.replyThread, hs.answerRequest]
  · exact hs.send
  · exact .ite hs.contextLeaves.send hs.contextFails
  · split
    exacts [.ite hs.pieceLanded hs.stopJob, hs]
  · exact hs.send
  · exact hs.send
  · exact .ite hs.send hs
  · exact .ite hs.send hs
  · exact hs

protected theorem State.Canonical.execPeerAcknowledgement {k code data} {s : State} (hs : s.Canonical) :
    NextCanonical (execPeerAcknowledgement k code data s) := by
  refine .settled ?_
  split
  exacts [hs, .ite hs (.peerAnswers hs)]

protected theorem State.Canonical.cancelLaunch {s : State} {job launch} (hs : s.Canonical) : (s.cancelLaunch job launch).Canonical := by
  simp only [State.cancelLaunch]
  split
  exacts [hs.putJob, hs]

protected theorem State.Canonical.loseThread {s : State} {t} (hs : s.Canonical) : (s.loseThread t).Canonical := hs.removeThread.cancelLaunch

protected theorem State.Canonical.failWaiter {s : State} {tid core} (hs : s.Canonical) : (s.failWaiter tid core).Canonical := by
  simp only [State.failWaiter]
  split
  exacts [hs.raiseAt, hs.lateArrives, hs]

protected theorem State.Canonical.settleMessage {m} {s : State} (hs : s.Canonical) : (settleMessage m s).Canonical := by
  simp only [settleMessage]
  split
  · exact hs.answerRequest
  · exact hs.answerRequest
  · exact hs.answerRequest
  · exact hs.answerRequest
  · exact hs.answerRequest
  · exact hs.ackArrives
  · exact hs.contextFails
  · split
    exacts [hs.stopJob, hs]
  · exact hs.failWaiter
  · exact hs.failWaiter
  · exact .ite hs.grantAcked hs
  · exact .ite hs.revokeReplied hs
  · exact hs

protected theorem State.Canonical.settlePeer {hub p} {s : State} (hs : s.Canonical) : (settlePeer hub p s).Canonical := by
  unfold settlePeer
  refine ((hs.foldl fun h => .ite ?_ h).foldl .loseThread).foldl .raiseAt
  exact .settleMessage h

protected theorem State.Canonical.execRodTimeout {port peer} {s : State} (hs : s.Canonical) : NextCanonical (execRodTimeout port peer s) :=
  .settled (.ite hs hs.settlePeer.rasEvent)

/-! The functions of Machine/Fence. -/

protected theorem State.Canonical.dropPassed {die r} {s : State} (hs : s.Canonical) : (dropPassed die r s).Canonical := by
  simp only [dropPassed]
  split
  exacts [.ite hs hs.refuseAt, hs]

protected theorem State.Canonical.dropMessage {die} {s : State} {m} (hs : s.Canonical) : (dropMessage die s m).Canonical := by
  simp only [dropMessage]
  split
  · exact .ite hs.send hs
  · exact .ite hs.send hs
  · exact hs.dropPassed
  · exact hs.dropPassed
  · exact hs.dropPassed
  · exact hs.dropPassed
  · exact hs.dropPassed
  · exact hs.dropPassed
  · exact hs.dropPassed
  · exact hs.dropPassed
  · exact hs.spawnedExit
  · split
    exacts [hs.stopJob, hs]
  · exact .ite hs.grantAcked hs
  · exact hs.grantAcked
  · exact .ite hs.revokeReplied hs
  · exact hs.revokeReplied
  · exact hs

protected theorem State.Canonical.dropThose {die p} {s : State} (hs : s.Canonical) : (dropThose die p s).Canonical := .foldl hs .dropMessage

protected theorem State.Canonical.dropMessages {die} {s : State} (hs : s.Canonical) : (dropMessages die s).Canonical := hs.dropThose

protected theorem State.Canonical.dropMove {hub} {s : State} (hs : s.Canonical) : (dropMove hub s).Canonical := by
  simp only [dropMove]
  split
  exacts [hs, .wakeWaiting (.drainHeld (.ite (.putPort (.putMem hs.putHub (memWrite_wf _ _ _ hs.putHub.1))) (.putMem hs.putHub (memWrite_wf _ _ _
      hs.putHub.1))))]

protected theorem State.Canonical.dropSpawns {die} {s : State} (hs : s.Canonical) : (dropSpawns die s).Canonical :=
  hs.foldl (fun h => h.putPlaza.wakeWaiting.foldl (fun h1 => h1.spawnedExit.cancelLaunch))

protected theorem State.Canonical.takeBack {s : State} {t} (hs : s.Canonical) : (takeBack s t).Canonical := by
  simp only [takeBack]
  split
  · split
    exacts [hs.putThread.putCore, hs]
  · exact hs

protected theorem State.Canonical.takeBackHeld {s : State} {die} (hs : s.Canonical) : (s.takeBackHeld die).Canonical := hs.foldl .takeBack

protected theorem State.Canonical.stopDie {die} {s : State} (hs : s.Canonical) : (stopDie die s).Canonical := by
  have key {t : State} {gs ports issuing} (h : t.Canonical) : { t with gs := gs, ports := ports, issuing := issuing }.Canonical :=
    of_mems rfl rfl rfl h
  unfold stopDie
  refine .linksDown (key (.putDie (.dropMessages (.foldl (.foldl (.foldl hs.takeBackHeld.dropMessages.dropSpawns ?_) ?_) ?_))))
  exacts [.cancelLaunch, .loseThread, .cancelGang]

protected theorem State.Canonical.sendLoss {from_ die} {s : State} (hs : s.Canonical) : (sendLoss from_ die s).Canonical := hs.foldl .send

protected theorem State.Canonical.execDieFatalError {die cause} {s : State} (hs : s.Canonical) :
    NextCanonical (execDieFatalError die cause s) := by
  have key {t : State} {conf gs} (h : t.Canonical) : { t with conf := conf, gs := gs }.Canonical := of_mems rfl rfl rfl h
  refine .settled (.ite hs (.rasEvent (.sendLoss (.writeConf (key (.foldl hs.stopDie ?_))))))
  exact fun h => .ite h.dropMove h

protected theorem State.Canonical.againLate {die} {s : State} (hs : s.Canonical) : (againLate die s).Canonical := hs.foldl .wakeThread

protected theorem State.Canonical.goOn {s : State} {t} (hs : s.Canonical) : (s.goOn t).Canonical := by
  simp only [State.goOn]
  split
  exacts [hs.putThread, hs.wakeThread]

protected theorem State.Canonical.resumeOutbound {die} {s : State} (hs : s.Canonical) : (resumeOutbound die s).Canonical := hs.foldl .wakeThread

protected theorem State.Canonical.failWrites {die lost} {s : State} (hs : s.Canonical) : (failWrites die lost s).Canonical := hs.foldl .ackArrives

protected theorem State.Canonical.freeLostSlots {die} {s : State} (hs : s.Canonical) : (freeLostSlots die s).Canonical := hs

protected theorem State.Canonical.breakBarriers {die lost} {s : State} (hs : s.Canonical) : (breakBarriers die lost s).Canonical :=
  hs.foldl fun h => .ite h.putBarrier.releaseAll h

protected theorem State.Canonical.dropBetween {die lost} {s : State} (hs : s.Canonical) : (dropBetween die lost s).Canonical := hs.dropThose

protected theorem State.Canonical.dropWaiters {die lost} {s : State} (hs : s.Canonical) : (dropWaiters die lost s).Canonical := hs.putDie

protected theorem State.Canonical.processLoss {die lost} {s : State} (hs : s.Canonical) : (processLoss die lost s).Canonical :=
  hs.dropBetween.putDie.breakBarriers.dropWaiters.resumeOutbound.failWrites.freeLostSlots.againLate.foldl .goOn

protected theorem State.Canonical.execDieLossNotice {k} {s : State} (hs : s.Canonical) : NextCanonical (execDieLossNotice k s) := by
  refine .settled ?_
  split
  · have h1 := hs.of_take ‹_›
    split
    exacts [.ite h1.processLoss h1, hs]
  · exact hs

protected theorem State.Canonical.failSectors {hub} {s : State} (hs : s.Canonical) : (failSectors hub s).Canonical :=
  hs.foldl fun h => h.putPort.foldl .refuseSector

protected theorem State.Canonical.controlBy {s : State} {hub} (hs : s.Canonical) : (s.controlBy hub).Canonical := .rasEvent hs

protected theorem State.Canonical.hubMessages {hub} {s : State} (hs : s.Canonical) : (hubMessages hub s).Canonical := hs.dropMessages

protected theorem State.Canonical.stopHub {hub} {s : State} (hs : s.Canonical) : (stopHub hub s).Canonical := by
  unfold stopHub
  extract_lets +lift other s1 conf s2 s3 s4 s5 x blank s6 gs
  have h1 : s1.Canonical := .ite hs.dropMove hs
  have h2 : s2.Canonical := .hubMessages (of_mems rfl rfl rfl h1)
  have h4 : s4.Canonical := .ite h2.failSectors.takeOver h2.failSectors
  have h5 : s5.Canonical := .ite h4.controlBy h4
  have h6 : s6.Canonical := h5.putHub.putHub
  clear_value s6
  exact .linksDown (of_mems rfl rfl rfl h6)

protected theorem State.Canonical.execHubFatalError {hub cause} {s : State} (hs : s.Canonical) :
    NextCanonical (execHubFatalError hub cause s) :=
  .settled (.ite hs ((hs.settlePeer.foldl .rasEvent).stopHub.writeConf.sendLoss.rasEvent))

/-! The functions of Machine/Manage. -/

protected theorem State.Canonical.powered {s : State} : s.powered.Canonical := State.Canonical.reset

protected theorem State.Canonical.bootDies {b} {s : State} (hs : s.Canonical) : (bootDies b s).Canonical :=
  .rasEvent (.writeConf (.foldl (.foldl hs .rasEvent) .rasEvent))

protected theorem State.Canonical.execColdBoot {b} {s : State} : NextCanonical (execColdBoot b s) :=
  have h : s.powered.Canonical := State.Canonical.powered
  .next (.ite h.rasEvent (.ite h.rasEvent h.bootDies))

protected theorem State.Canonical.execSpdmRequest {block} {s : State} (hs : s.Canonical) : NextCanonical (execSpdmRequest block s) :=
  .next (by split <;> exact hs)

protected theorem State.Canonical.execFirmwareUpdate {image} {s : State} (hs : s.Canonical) : NextCanonical (execFirmwareUpdate image s) := hs

protected theorem State.Canonical.execActivateFirmware {signatureGood} {s : State} (hs : s.Canonical) :
    NextCanonical (execActivateFirmware signatureGood s) :=
  .next (.ite hs hs)

protected theorem State.Canonical.execPowerCapEffecter {c} {s : State} (hs : s.Canonical) : NextCanonical (execPowerCapEffecter c s) :=
  .next (by
    split
    · exact hs
    · split <;> exact hs)

protected theorem State.Canonical.execHeartbeatCheck {beat} {s : State} (hs : s.Canonical) : NextCanonical (execHeartbeatCheck beat s) :=
  .next (.ite hs (.ite hs (.ite hs hs.controlBy)))

/-! The functions of Machine/Auto. -/

protected theorem State.Canonical.passCycles {s : State} {core cc} (hs : s.Canonical) : (s.passCycles core cc).Canonical := .ite hs.putCore hs

protected theorem State.Canonical.endWindows {s : State} (hs : s.Canonical) : s.endWindows.Canonical := hs.foldl .endWindow

protected theorem State.Canonical.passTime {s : State} {die ns} (hs : s.Canonical) : (s.passTime die ns).Canonical := by
  simp only [State.passTime]
  split
  exacts [.endWindows hs, .endWindows (.foldl hs .passCycles)]

protected theorem State.Canonical.setTemp {s : State} {die tenths} (hs : s.Canonical) : (s.setTemp die tenths).Canonical := hs.putDie

protected theorem State.Canonical.setDiePower {s : State} {die watts} (hs : s.Canonical) : (s.setDiePower die watts).Canonical := hs.putDie

protected theorem State.Canonical.upset {s : State} {kind core word} (hs : s.Canonical) : (s.upset kind core word).Canonical := by
  simp only [State.upset]
  split
  exacts [hs.putPlaza, hs.putPlaza, hs.putPort, hs.putPort, hs.putPort, hs.putPort]

protected theorem State.Canonical.splitStore {s : State} {k order} (hs : s.Canonical) : (s.splitStore k order).Canonical := by
  simp only [State.splitStore]
  split
  · exact hs
  · split
    · refine .ite hs ?_
      split
      exacts [hs, hs]
    · exact hs

protected theorem State.Canonical.splitLocal {s : State} {tid order} (hs : s.Canonical) : (s.splitLocal tid order).Canonical := hs.mapThreads

protected theorem State.Canonical.tick {s : State} {core} (hs : s.Canonical) : (s.tick core).Canonical := .ite (.endWindows hs) hs

/-! The functions of Machine/Dispatch. -/

protected theorem State.Canonical.exec {i} {s : State} (hs : s.Canonical) : NextCanonical (exec i s) := by
  simp only [exec]
  split
  exacts [hs.execAdd, hs.execSub, hs.execMul, hs.execMulh, hs.execDiv, hs.execRem, hs.execMad, hs.execNeg, hs.execAbs, hs.execMin, hs.execMax,
      hs.execAnd, hs.execOr, hs.execXor, hs.execAndn, hs.execShl, hs.execShr, hs.execSra, hs.execRol, hs.execClz, hs.execCtz, hs.execPopc,
      hs.execBrev, hs.execBfx, hs.execBfi, hs.execSext, hs.execZext, hs.execCmp, hs.execSel, hs.execMov, hs.execLim, hs.execPlog, hs.execHmk,
      hs.execHadd, hs.execHidx, hs.execHofs, hs.execHchk, hs.execBra, hs.execBrp, hs.execCall, hs.execCallx, hs.execRet, hs.execExit, hs.execRjoin,
      hs.execLoop, hs.execNop, hs.execBkpt, hs.execRdsp, hs.execCntrd, hs.execShfl, hs.execVote, hs.execBallot, hs.execGscan, hs.execLd, hs.execSt,
      hs.execLdk, hs.execLdl, hs.execStl, hs.execPrf, hs.execQpush, hs.execQpop, hs.execQcnt, hs.execBankm, hs.execFence, hs.execAtom, hs.execAtomf,
      hs.execCas, hs.execLres, hs.execScond, hs.execWaitc, hs.execSleep, hs.execYield, hs.execBar, hs.execGbar, hs.execPbari, hs.execPbara,
      hs.execPbarw, hs.execMigr, hs.execSpawn, hs.execLaunch, hs.execHome, hs.execCancel, hs.execCwait, hs.execNbpost, hs.execNbload, hs.execNbview,
      hs.execNbmask, hs.execNbgen, hs.execFadd, hs.execFsub, hs.execFmul, hs.execFma, hs.execFdiv, hs.execFsqrt, hs.execFrcp, hs.execFrsq,
      hs.execFex2, hs.execFlg2, hs.execFmin, hs.execFmax, hs.execFcmp, hs.execFcls, hs.execFcvt, hs.execIcvf, hs.execFcvi, hs.execVld, hs.execVst,
      hs.execVldl, hs.execVstl, hs.execVadd, hs.execVsub, hs.execVmul, hs.execVfma, hs.execVmin, hs.execVmax, hs.execVabs, hs.execVred, hs.execVdot,
      hs.execVbcs, hs.execVext, hs.execVins, hs.execVprm, hs.execVcvt, hs.execVqnt, hs.execVdqn, hs.execVtag, hs.execVcmp, hs.execVsel, hs.execFmtw,
      hs.execFmtr, hs.execTdef, hs.execTzero, hs.execTld, hs.execTst, hs.execTcvt, hs.execTget, hs.execTset, hs.execUfdef, hs.execMma, hs.execMmau,
      hs.execMmas, hs.execMtrans, hs.execMperm, hs.execMrsum, hs.execMscale, hs.execMcommit, hs.execMwait, hs.execMstat, hs.execMclear,
      hs.execMresume, hs.execMpark, hs.execMunpark, hs.execSccfg, hs.execSctag, hs.execScinv, hs.execScstat, hs.execCpygo, hs.execEngwait,
      hs.execEngstat, hs.execEngcan, hs.execCbrd, hs.execCbrst, hs.execTrap, hs.execRte, hs.execSysrd, hs.execSyswr, hs.execIdle,
      hs.execIssueGroupSelect, hs.execWriteDrainInterlock, hs.execContextArrival, hs.execHoldTimeout, hs.execOverflowEntryFree,
      hs.execLandingSlotRefill, hs.execLandedThreadMove, hs.execContextAcceptance, hs.execSpawnMessage, hs.execSpawnQueuePlace,
      hs.execRemoteReadRequest, hs.execStoreRequest, hs.execAtomicRequest, hs.execQueueEntry, hs.execLeaseFillRequest, hs.execMonitorArm,
      hs.execHubRequest, hs.execRevokeReply, hs.execReadData, hs.execAtomicResult, hs.execWriteAcknowledgement, hs.execLeasedWriteComplete,
      hs.execLeaseExpiry, hs.execGrant, hs.execCredit, hs.execRevoke, hs.execInvalidation, hs.execInvalidationAnswer, hs.execBarrierRequest,
      hs.execBarrierRelease, hs.execBoardRequest, hs.execBoardReply, hs.execWake, hs.execKick, hs.execGangSaveNotice, hs.execSavedNotice,
      hs.execExitNotice, hs.execWbNotice, hs.execDieLossNotice, hs.execEngineData, hs.execSectorData, hs.execSectorWriteBackAck, hs.execFlitReceive,
      hs.execNak, hs.execLinkRetrain, hs.execLinkDown, hs.execLinkRateStep, hs.execFrequencyChange, hs.execThermalStep, hs.execThermalTrip,
      hs.execDescriptorCacheFill, hs.execPageMapWalk, hs.execFaultPostRetry, hs.execMoveRequestTake, hs.execPageCopyDone,
      hs.execMemorySideCacheAccess, hs.execRowWindow, hs.execThrottledActivation, hs.execLayerEvaluation, hs.execLayerMapOut, hs.execJobSubmit,
      hs.execJobCompletion, hs.execPhaseStart, hs.execGraphStart, hs.execLaunchCompletion, hs.execReadyHandOn, hs.execGangPlacement,
      hs.execRelocation, hs.execGangRetire, hs.execLaunchCancellation, hs.execSchedulerTakeover, hs.execGangRestore, hs.execJoinInstance,
      hs.execBarrierPhaseEnd, hs.execSleepWake, hs.execKStep, hs.execIssuerExitCommit, hs.execEngineJobStart, hs.execChainEntry,
      hs.execCondEvaluate, hs.execCondTimeout, hs.execDedupeFetch, hs.execSyeOverflow, hs.execInval, hs.execFaultdone, hs.execRegasid, hs.execTrack,
      hs.execPool, hs.execFaultq, hs.execSuspend, hs.execResume, hs.execLease, hs.execMovering, hs.execPeertab, hs.execImageLoad,
      hs.execImageUnload, hs.execCxlMemAccess, hs.execCxlSnoop, hs.execPortFailure, hs.execPortTrained, hs.execPeerAcknowledgement,
      hs.execPeerMessageIn, hs.execRodTimeout, State.Canonical.execColdBoot, hs.execSpdmRequest, hs.execFirmwareUpdate, hs.execActivateFirmware,
      hs.execPowerCapEffecter, hs.execHeartbeatCheck, hs.execDieFatalError, hs.execHubFatalError, hs.execHbmChannelRetrain,
      hs.execCxlCacheCompletion, hs.execParkedThreadSwapOut]

/-! The functions of Machine/Turns. -/

protected theorem State.Canonical.execAhead {l i} {s : State} (hs : s.Canonical) : NextCanonical (execAhead l i s) := by
  have hwait : NextCanonical (.next (Machine.block .waiting .late s)) := hs.block
  unfold execAhead
  split
  · exact hwait
  · refine .ite hwait ?_
    have h := hs.exec (i := i)
    split
    · rw [‹exec i s = _›] at h
      exact .ite (.onTh h) hwait
    · exact h

protected theorem State.Canonical.runAhead {s : State} {tid} (hs : s.Canonical) : (s.runAhead tid).Canonical := by
  simp only [State.runAhead]
  split
  · exact hs
  · split
    exacts [.ite hs hs.resume, hs]

protected theorem State.Canonical.runThread {s : State} (hs : s.Canonical) : NextCanonical (runThread s) := by
  unfold runThread
  split
  · exact (hs.fetchStep.of_error ‹_›).putBack
  · exact hs.block.putBack
  · rename_i i s0 he
    have h0 : s0.Canonical := hs.fetchStep.of_ok he
    split
    · refine State.Canonical.putBack (NextCanonical.of_eq ‹_› ?_)
      split
      exacts [h0.execAhead, h0.exec]
    all_goals trivial

protected theorem State.Canonical.runMember {tid rest} {s : State} (hs : s.Canonical) : NextCanonical (runMember tid rest s) := by
  simp only [runMember]
  split
  · exact (hs.takeThread.of_eq ‹_›).runThread
  · exact .next (.ite (State.Canonical.endCc hs) hs)

protected theorem State.Canonical.runTurn {t} {s : State} (hs : s.Canonical) : NextCanonical (runTurn t s) := by
  simp only [runTurn]
  split
  · split
    exacts [hs, hs.exec]
  · split
    · split
      exacts [hs.exec, hs]
    · exact hs
  · exact hs.passTime
  · exact hs.passCycles
  · exact hs.performLocal.saveSweep
  · exact hs.splitStore
  · exact hs.splitLocal
  · exact hs.noticeStep.settled
  · exact hs.execFlitReceive
  · exact hs.execNak
  · exact hs.moduleClock
  · exact hs.upset
  · exact hs.setTemp
  · exact hs
  · exact hs.setDiePower
  · exact hs
  · exact hs.runAhead

protected theorem State.Canonical.tryTurn {t} {s : State} (hs : s.Canonical) : IfSome NextCanonical (tryTurn t s) := by
  have h := hs.runTurn (t := t)
  unfold tryTurn
  split
  · rw [‹runTurn t s = _›] at h
    exact .ite trivial h
  · exact h

protected theorem State.Canonical.firstTurn {l} {s : State} (hs : s.Canonical) : IfSome NextCanonical (firstTurn l s) := by
  induction l with
  | nil => trivial
  | cons t ts ih =>
    unfold firstTurn
    split
    exacts [hs.tryTurn.of_eq ‹_›, ih]

protected theorem State.Canonical.autoStep {s : State} (hs : s.Canonical) : NextCanonical (autoStep s) := by
  unfold autoStep
  split
  · exact hs.firstTurn.of_eq ‹_›
  · split
    exacts [hs.tick.runTurn, hs.runTurn]

/-! The functions of Machine/Step. -/

protected theorem State.Canonical.step {s : State} (hs : s.Canonical) : NextCanonical (step s) := by
  simp only [step]
  split
  · exact hs.runMember
  · split
    exacts [State.Canonical.runTurn hs, hs.autoStep]

/-- Settles O60: what each function of the model does keeps the three memories canonical, up to the step itself. -/
theorem everyStepKeepsTheMemoriesCanonical : Obligations.EveryStepKeepsTheMemoriesCanonical := by
  intro s t h hm hl ht
  have hn : NextCanonical (core.step s) := State.Canonical.step ⟨hm, hl, ht⟩
  rw [h] at hn
  exact hn

end Sys2Proof.Machine

section
/-! SUPPORT. The issue of a sequencer instruction (R172-R177, R189, R190, R431): one lemma per shared check, and the entry into the queue. -/

namespace Sys2Proof.Machine

/-! ## The shared checks of the issue -/

theorem withQueue_full {k : State → State} {s : State} (h : 64 ≤ s.wg.seq.queue.length) :
    withQueue k s = if s.wg.seq.stopped then raise 0x12 0 s else block .waiting .sequencer s := if_pos h

theorem withQueue_room {k : State → State} {s : State} (h : s.wg.seq.queue.length < 64) (hf : s.th.fwd = []) : withQueue k s = k s := by
  unfold withQueue
  rw [if_neg (Nat.not_le_of_lt h), hf]
  rfl

theorem withTile_beyond {t : Nat} {k : State → State} {s : State} (h : s.th.tiles ≤ t) : withTile t k s = raise 0x04 0 s := if_pos h

theorem withTile_below {t : Nat} {k : State → State} {s : State} (h : t < s.th.tiles) : withTile t k s = k s := if_neg (Nat.not_le_of_lt h)

theorem withType_of_typeFor {t : Nat} {k : Narrow → State → State} {s : State} {K : Narrow} (h : s.typeFor t = some K) :
    withType t k s = k K s := by
  unfold State.typeFor at h
  unfold withType
  split_ifs with hn
  · rw [if_pos hn] at h
    rw [h]
  · rw [if_neg hn] at h
    rw [Option.some.inj h]

theorem withTileRegion_passes {f : Fields} {k : Stored → State → State} {s : State} {K : Narrow} (ho : tileOff f.ext % 4 = 0)
    (hp : tilePitch f.ext % 4 = 0) (hK : s.typeFor (typeOf f.func) = some K) (hg : (tileStored s.wg f.func f.ext K).check s s.wg = none) :
    withTileRegion f k s = k (tileStored s.wg f.func f.ext K) s := by
  unfold withTileRegion
  rw [if_neg (by simp [ho, hp]), withType_of_typeFor hK]
  simp only [hg]

/-- An instruction of the multiply group with its formats as the issue knows them. -/
def mulIssued (op : Nat) (f : Fields) (KA KB : Narrow) : Mul := ⟨op, f.func, f.imm11, f.ext, KA, KB⟩

section
variable {op : Nat} {f : Fields} {k : Mul → State → State} {s : State} {KA KB : Narrow}

theorem withMul_mismatch (hA : s.typeFor (mulTA f.func) = some KA) (hB : s.typeFor (mulTB f.func) = some KB)
    (h : (mulIssued op f KA KB).cls ≠ widthClass (typeWidth (mulTB f.func) KB)) : withMul op f k s = raise 0x05 0 s := by
  unfold withMul
  rw [withType_of_typeFor hA, withType_of_typeFor hB]
  exact if_pos h

theorem withMul_passes (hA : s.typeFor (mulTA f.func) = some KA) (hB : s.typeFor (mulTB f.func) = some KB)
    (h : (mulIssued op f KA KB).cls = widthClass (typeWidth (mulTB f.func) KB)) (hD : mulD f.imm11 < s.th.tiles)
    (hC : mulCV f.imm11 = true → mulC f.imm11 < s.th.tiles) : withMul op f k s = k (mulIssued op f KA KB) s := by
  unfold withMul
  rw [withType_of_typeFor hA, withType_of_typeFor hB]
  refine (if_neg (not_not_intro h)).trans (if_neg ?_)
  rintro (hd | ⟨hcv, hc⟩)
  · exact absurd hD (Nat.not_lt_of_le hd)
  · exact absurd (hC hcv) (Nat.not_lt_of_le hc)

end

/-! ## Entering the queue -/

/-- An instruction that enters the open batch with its operands, format images and pc captured (R172, R174, R177, R232); `view` says what becomes of
the issue view. -/
def State.enters (s : State) (f : Fields) (i : Instr) (op parts : Nat) (view : Sequencer → Sequencer) : Prop :=
  ∃ (u : State) (x : SeqInstr),
    exec i s = .next (finishU f u) ∧ u.th = s.th ∧ u.mem = s.mem ∧ u.lmem = s.lmem ∧ u.tmem = s.tmem ∧ u.net = s.net ∧
    (u.wgBy s.wg.wid).seq = view { s.wg.seq with queue := s.wg.seq.queue ++ [x], openLen := s.wg.seq.openLen + 1 } ∧
    x.op.toNat = op ∧ x.func = f.func ∧ x.imm11 = f.imm11 ∧ x.ext = f.ext ∧ x.a = src op f 0 s ∧ x.b = src op f 1 s ∧ x.imgs = s.wg.f ∧
    x.pc = s.th.pc ∧ x.batch = none ∧ x.pos = s.wg.seq.openLen ∧ x.parts = parts ∧ x.serial = (s.plaza (plazaOf s.wg.anchor)).nextSerial

/-- The instruction as it enters the queue. -/
def captured (op : Nat) (f : Fields) (parts : Nat) (s : State) : SeqInstr :=
  { word := BitVec.ofNat 64 (baseWord op f), op := BitVec.ofNat 8 op, func := f.func, imm11 := f.imm11, ext := f.ext, a := src op f 0 s,
    b := src op f 1 s, c := src op f 2 s, imgs := s.wg.f, pc := s.th.pc, batch := none, pos := s.wg.seq.openLen,
    serial := (s.plaza (plazaOf s.wg.anchor)).nextSerial, parts := parts, partsDone := 0 }

theorem State.enters_of_enterSeq {s : State} {f : Fields} {i : Instr} {op parts : Nat} {rs : List Region} {view : Sequencer → Sequencer}
    (hop : op < 256) (h : exec i s = .next (enterSeq op f parts rs view s)) : s.enters f i op parts view := by
  have hop8 : (BitVec.ofNat 8 op).toNat = op := (BitVec.toNat_ofNat op 8).trans (Nat.mod_eq_of_lt hop)
  have hput := s.wgBy_putWg_of_wid
    (w := { s.wg with seq := view { s.wg.seq with queue := s.wg.seq.queue ++ [captured op f parts s], openLen := s.wg.seq.openLen + 1 } }) rfl
  exact ⟨_, captured op f parts s, h, rfl, rfl, rfl, rfl, rfl, congrArg Workgroup.seq hput, hop8, rfl, rfl, rfl, rfl, rfl, rfl, rfl, rfl, rfl, rfl,
    rfl⟩

/-! ## Instructions of the multiply group -/

/-- What `issueMul` does once types and register indices are checked: steps 3 to 6 of R431, then the entry. -/
def mulEnter (op : Nat) (f : Fields) (m : Mul) (s : State) : State :=
  match (match mulScalar m (src op f 0 s) s.wg.seq with
    | some c => some c
    | none => match mulSplit m s.wg with
      | some c => some c
      | none => match mulRegions m s s.wg with
        | some c => some c
        | none => mulCheckC m s.wg.seq) with
  | some c => raise c 0 s
  | none => enterSeq op f (mulParts m) (mulFootprint m s.wg)
      (fun q => q.setView (mulD m.imm) ⟨mulM m.imm, min (mulN m.ext) 128, accTag (mulTA m.func)⟩) s

theorem mulEnter_enters {op : Nat} {f : Fields} {m : Mul} {s : State} (hscalar : mulScalar m (src op f 0 s) s.wg.seq = none)
    (hsplit : mulSplit m s.wg = none) (hregions : mulRegions m s s.wg = none) (hcheck : mulCheckC m s.wg.seq = none) :
    mulEnter op f m s = enterSeq op f (mulParts m) (mulFootprint m s.wg)
      (fun q => q.setView (mulD m.imm) ⟨mulM m.imm, min (mulN m.ext) 128, accTag (mulTA m.func)⟩) s := by
  unfold mulEnter
  simp only [hscalar, hsplit, hregions, hcheck]

/-- The instructions of the multiply group with their codes (R178). -/
def mulInstrs (f : Fields) : List (Instr × Nat) :=
  [(.mma f, 0xC8), (.mmau f, 0xC9), (.mmas f, 0xCA), (.mtrans f, 0xCB), (.mperm f, 0xCC), (.mrsum f, 0xCD), (.mscale f, 0xCE)]

theorem exec_of_mulInstrs {f : Fields} {i : Instr} {op : Nat} (h : (i, op) ∈ mulInstrs f) : (∀ s, exec i s = issueMul op f s) ∧ op < 256 := by
  simp only [mulInstrs, List.mem_cons, Prod.mk.injEq, List.not_mem_nil, or_false] at h
  obtain ⟨rfl, rfl⟩ | ⟨rfl, rfl⟩ | ⟨rfl, rfl⟩ | ⟨rfl, rfl⟩ | ⟨rfl, rfl⟩ | ⟨rfl, rfl⟩ | ⟨rfl, rfl⟩ := h
  all_goals exact ⟨fun _ => rfl, by decide⟩

/-! ## Instructions with a queue that has room -/

theorem execTdef_full {f : Fields} {s : State} (h : mayRun 0xC0 f s = true) (hq : 64 ≤ s.wg.seq.queue.length) :
    exec (.tdef f) s = .next (if s.wg.seq.stopped then raise 0x12 0 s else block .waiting .sequencer s) :=
  (runOp_mayRun _ h).trans (congrArg _ (withQueue_full hq))

section
variable {f : Fields} {s : State} (hq : s.wg.seq.queue.length < 64) (hf : s.th.fwd = [])
include hq hf

theorem runOp_withQueue {op : Nat} (k : State → State) (h : mayRun op f s = true) : runOp op f (withQueue k) s = .next (k s) :=
  (runOp_mayRun _ h).trans (congrArg _ (withQueue_room hq hf))

theorem runOp_withTile {op t : Nat} (k : State → State) (h : mayRun op f s = true) (ht : t < s.th.tiles) :
    runOp op f (withQueue (withTile t k)) s = .next (k s) :=
  (runOp_withQueue hq hf _ h).trans (congrArg _ (withTile_below ht))

theorem execTdef_beyond (h : mayRun 0xC0 f s = true) (ht : s.th.tiles ≤ tileReg f.imm11) : exec (.tdef f) s = .next (raise 0x04 0 s) :=
  (runOp_withQueue hq hf _ h).trans (congrArg _ (withTile_beyond ht))

theorem execTdef_enters (h : mayRun 0xC0 f s = true) (ht : tileReg f.imm11 < s.th.tiles) :
    s.enters f (.tdef f) 0xC0 1 (fun q => q.setView (tileReg f.imm11) ⟨tdefRows f.ext, tdefCols f.ext, resultTag f.func⟩) :=
  State.enters_of_enterSeq (by decide) (runOp_withTile hq hf _ h ht)

theorem execTzero_undefined (h : mayRun 0xC1 f s = true) (ht : tileReg f.imm11 < s.th.tiles)
    (hv : (s.wg.seq.viewOf (tileReg f.imm11)).tag = 0) : exec (.tzero f) s = .next (raise 0x05 0 s) :=
  (runOp_withTile hq hf _ h ht).trans (congrArg _ (if_pos hv))

theorem execTzero_enters (h : mayRun 0xC1 f s = true) (ht : tileReg f.imm11 < s.th.tiles)
    (hv : (s.wg.seq.viewOf (tileReg f.imm11)).tag ≠ 0) : s.enters f (.tzero f) 0xC1 1 (fun q => q) :=
  State.enters_of_enterSeq (by decide) ((runOp_withTile hq hf _ h ht).trans (congrArg _ (if_neg hv)))

section
variable {K : Narrow} (ho : tileOff f.ext % 4 = 0) (hp : tilePitch f.ext % 4 = 0) (hK : s.typeFor (typeOf f.func) = some K)
  (hg : (tileStored s.wg f.func f.ext K).check s s.wg = none)
include ho hp hK hg

theorem execTld_enters (h : mayRun 0xC2 f s = true) (ht : tileReg f.imm11 < s.th.tiles) :
    s.enters f (.tld f) 0xC2 1 (fun q => q.setView (tileReg f.imm11) ⟨tileRows f.ext, tileCols f.ext, accTag (typeOf f.func)⟩) :=
  State.enters_of_enterSeq (by decide) ((runOp_withTile hq hf _ h ht).trans (congrArg _ (withTileRegion_passes ho hp hK hg)))

theorem execTst_enters (h : mayRun 0xC3 f s = true) (ht : tileReg f.imm11 < s.th.tiles)
    (hv : (s.wg.seq.viewOf (tileReg f.imm11)).tag = accTag (typeOf f.func)) (hr : tileRows f.ext ≤ (s.wg.seq.viewOf (tileReg f.imm11)).rows)
    (hc : tileCols f.ext ≤ (s.wg.seq.viewOf (tileReg f.imm11)).cols) : s.enters f (.tst f) 0xC3 1 (fun q => q) := by
  have hfits : ¬(tileRows f.ext > (s.wg.seq.viewOf (tileReg f.imm11)).rows ∨ tileCols f.ext > (s.wg.seq.viewOf (tileReg f.imm11)).cols) := by
    omega
  exact State.enters_of_enterSeq (by decide) ((runOp_withTile hq hf _ h ht).trans (congrArg _
    ((if_neg (not_not_intro hv)).trans ((if_neg hfits).trans (withTileRegion_passes ho hp hK hg)))))

end

section
variable (h : mayRun 0xC4 f s = true) (ht : tileReg f.imm11 < s.th.tiles) (hs : tileSrc f.imm11 < s.th.tiles)
include h ht hs

theorem execTcvt_mismatch (hv : (s.wg.seq.viewOf (tileSrc f.imm11)).tag ≠ tcvtSrcTag f.func) : exec (.tcvt f) s = .next (raise 0x05 0 s) :=
  (runOp_withTile hq hf _ h ht).trans (congrArg _ ((withTile_below hs).trans (if_pos hv)))

theorem execTcvt_enters (hv : (s.wg.seq.viewOf (tileSrc f.imm11)).tag = tcvtSrcTag f.func) : s.enters f (.tcvt f) 0xC4 1
    (fun q => q.setView (tileReg f.imm11) { s.wg.seq.viewOf (tileSrc f.imm11) with tag := resultTag f.func }) :=
  State.enters_of_enterSeq (by decide)
    ((runOp_withTile hq hf _ h ht).trans (congrArg _ ((withTile_below hs).trans (if_neg (not_not_intro hv)))))

end

/-- The descriptor that `UFDEF` defines (R187). -/
def unfoldIssued (f : Fields) (s : State) : BitVec 5 × W64 × W64 × W64 :=
  (BitVec.ofNat 5 (typeOf f.func), src 0xC7 f 0 s, src 0xC7 f 1 s, f.ext)

/-- A descriptor with an empty dimension, or with no output (R187). -/
def Unfold.isEmpty (u : Unfold) : Prop := u.W = 0 ∨ u.H = 0 ∨ u.CH = 0 ∨ u.N = 0 ∨ u.outH < 1 ∨ u.outW < 1

section
variable (h : mayRun 0xC7 f s = true)
include h

theorem execUfdef_empty (hu : (parseUnfold (unfoldIssued f s)).isEmpty) : exec (.ufdef f) s = .next (raise 0x06 0 s) :=
  (runOp_withQueue hq hf _ h).trans (congrArg _ (if_pos hu))

theorem execUfdef_enters (hu : ¬(parseUnfold (unfoldIssued f s)).isEmpty)
    (hl : (parseUnfold (unfoldIssued f s)).base + (parseUnfold (unfoldIssued f s)).bytes ≤ s.wg.localLen)
    (hb : (s.plaza (plazaOf s.wg.anchor)).badBank (s.wg.lbase + (parseUnfold (unfoldIssued f s)).base)
      (parseUnfold (unfoldIssued f s)).bytes = none) :
    s.enters f (.ufdef f) 0xC7 1 (fun q => { q with issueUf := some (unfoldIssued f s) }) :=
  State.enters_of_enterSeq (by decide) ((runOp_withQueue hq hf _ h).trans (congrArg _
    ((if_neg hu).trans ((if_neg (Nat.not_lt_of_le hl)).trans (if_neg (Option.not_isSome_iff_eq_none.mpr hb))))))

end

section
variable {op : Nat} {KA KB : Narrow} (h : mayRun op f s = true) (hA : s.typeFor (mulTA f.func) = some KA) (hB : s.typeFor (mulTB f.func) = some KB)
include h hA hB

theorem issueMul_mismatch (hcls : (mulIssued op f KA KB).cls ≠ widthClass (typeWidth (mulTB f.func) KB)) :
    issueMul op f s = .next (raise 0x05 0 s) :=
  (runOp_withQueue hq hf _ h).trans (congrArg _ (withMul_mismatch hA hB hcls))

theorem issueMul_enters {i : Instr} (hi : exec i s = issueMul op f s) (hop : op < 256)
    (hcls : (mulIssued op f KA KB).cls = widthClass (typeWidth (mulTB f.func) KB)) (hD : mulD f.imm11 < s.th.tiles)
    (hC : mulCV f.imm11 = true → mulC f.imm11 < s.th.tiles) (hscalar : mulScalar (mulIssued op f KA KB) (src op f 0 s) s.wg.seq = none)
    (hsplit : mulSplit (mulIssued op f KA KB) s.wg = none) (hregions : mulRegions (mulIssued op f KA KB) s s.wg = none)
    (hcheck : mulCheckC (mulIssued op f KA KB) s.wg.seq = none) :
    s.enters f i op ((mulN f.ext + 127) / 128)
      (fun q => q.setView (mulD f.imm11) ⟨mulM f.imm11, min (mulN f.ext) 128, accTag (mulTA f.func)⟩) := by
  have hrun := (runOp_withQueue hq hf _ h).trans (congrArg _ (withMul_passes (k := mulEnter op f) hA hB hcls hD hC))
  exact State.enters_of_enterSeq hop (hi.trans (hrun.trans (congrArg _ (mulEnter_enters hscalar hsplit hregions hcheck))))

end

section
variable (h : mayRun 0xD8 f s = true)
include h

theorem execSccfg_none (ha : src 0xD8 f 0 s = 0) (hb : tauOk (src 0xD8 f 1 s) = true) : s.enters f (.sccfg f) 0xD8 1 (fun q => q) :=
  State.enters_of_enterSeq (by decide) ((runOp_withQueue hq hf _ h).trans (congrArg _ ((if_pos ha).trans (if_neg (by rw [hb]; decide)))))

theorem execSccfg_enters (ha : src 0xD8 f 0 s ≠ 0) {e : BufEntry} (he : lookupDesc s (src 0xD8 f 0 s) = .hit e)
    (hcheck : srcCheck e (offsetOf (src 0xD8 f 0 s)) 1 0 = none) (hwr : e.wr = true)
    (halign : offsetOf (src 0xD8 f 0 s) % cfgSize f.ext.toNat = 0)
    (hlen : offsetOf (src 0xD8 f 0 s) + cfgSlots f.ext.toNat * cfgSize f.ext.toNat ≤ e.length) (hb : tauOk (src 0xD8 f 1 s) = true) :
    s.enters f (.sccfg f) 0xD8 1 (fun q => q) := by
  refine State.enters_of_enterSeq (rs := []) (by decide)
    ((runOp_withQueue hq hf _ h).trans (congrArg _ ((if_neg ha).trans ((withHome_hit he).trans ?_))))
  simp only [hcheck, hwr, halign, hb, Nat.not_lt_of_le hlen, Bool.not_true, Bool.false_eq_true, ne_eq, not_true_eq_false, if_false]

end

theorem execSctag_wide (h : mayRun 0xD9 f s = true) (ha : 2 ^ 32 ≤ (src 0xD9 f 0 s).toNat) : exec (.sctag f) s = .next (raise 0x06 0 s) :=
  (runOp_withQueue hq hf _ h).trans (congrArg _ (if_pos ha))

theorem execSctag_enters (h : mayRun 0xD9 f s = true) (ha : (src 0xD9 f 0 s).toNat < 2 ^ 32) : s.enters f (.sctag f) 0xD9 1 (fun q => q) :=
  State.enters_of_enterSeq (by decide) ((runOp_withQueue hq hf _ h).trans (congrArg _ (if_neg (Nat.not_le_of_lt ha))))

theorem execScinv_enters (h : mayRun 0xDA f s = true) (ha : fbits f.func 1 0 = 1 → (src 0xDA f 0 s).toNat < 2 ^ 16) :
    s.enters f (.scinv f) 0xDA 1 (fun q => q) :=
  State.enters_of_enterSeq (by decide)
    ((runOp_withQueue hq hf _ h).trans (congrArg _ (if_neg fun hw => Nat.not_le_of_lt (ha hw.1) hw.2)))

end

/-- Settles O41: each instruction's checks pass one by one, and `enterSeq` does the rest. -/
theorem sequencerInstructionsEnterTheQueue : Obligations.SequencerInstructionsEnterTheQueue := by
  intro f s
  refine ⟨fun h hq => execTdef_full h hq, fun hq hf => ⟨execTdef_beyond hq hf, ?tiles, ?unfold, ?mul, ?cfg, ?tag, ?inv⟩⟩
  case tiles =>
    intro ht
    refine ⟨fun h => execTdef_enters hq hf h ht, fun h => ⟨execTzero_undefined hq hf h ht, execTzero_enters hq hf h ht⟩,
      fun h ho hp K hK hg => execTld_enters hq hf ho hp hK hg h ht,
      fun h hv hr hc ho hp K hK hg => execTst_enters hq hf ho hp hK hg h ht hv hr hc, fun h hs => ?_⟩
    exact ⟨execTcvt_mismatch hq hf h ht hs, execTcvt_enters hq hf h ht hs⟩
  case unfold =>
    intro h
    refine ⟨execUfdef_empty hq hf h, fun hW hH hCH hN hoh how hl hb => execUfdef_enters hq hf h ?_ hl hb⟩
    rintro (h0 | h0 | h0 | h0 | h0 | h0)
    exacts [hW h0, hH h0, hCH h0, hN h0, absurd hoh (Int.not_le_of_gt h0), absurd how (Int.not_le_of_gt h0)]
  case mul =>
    intro i op KA KB hmem h hA hB
    obtain ⟨hi, hop⟩ := exec_of_mulInstrs hmem
    exact ⟨fun hcls => (hi s).trans (issueMul_mismatch hq hf h hA hB hcls),
      fun hcls hD hC hscalar hsplit hregions hcheck => issueMul_enters hq hf h hA hB (hi s) hop hcls hD hC hscalar hsplit hregions hcheck⟩
  case cfg =>
    exact fun h => ⟨execSccfg_none hq hf h, fun ha e he hcheck hwr halign hlen hb => execSccfg_enters hq hf h ha he hcheck hwr halign hlen hb⟩
  case tag => exact fun h => ⟨execSctag_wide hq hf h, execSctag_enters hq hf h⟩
  case inv => exact execScinv_enters hq hf

end Sys2Proof.Machine
end

section
/-! SUPPORT. Tile cells and the control of the sequencer (R174, R176, R191-R194, R270): how a batch settles and what dropping the instructions of a
queue leaves unchanged; then each instruction. -/

namespace Sys2Proof.Machine

/-! ## Batches (R174) -/

/-- Settling changes the states of batches alone. -/
theorem Sequencer.settleFrom_keeps (q : Sequencer) (ns : List Nat) : ∃ b, q.settleFrom ns = { q with batches := b } := by
  induction ns generalizing q with
  | nil => exact ⟨_, rfl⟩
  | cons n ns ih =>
    unfold Sequencer.settleFrom
    split_ifs
    · obtain ⟨b, hb⟩ := ih { q with batches := vset q.batches n 2 }
      exact ⟨b, hb⟩
    · exact ⟨_, rfl⟩
    · exact ih q

theorem Sequencer.settle_keeps (q : Sequencer) : ∃ b, q.settle = { q with batches := b } := q.settleFrom_keeps _

theorem Sequencer.commit_eq (q : Sequencer) : ∃ b, q.commit = { q with
    queue := q.queue.map (fun i => if i.batch.isNone then { i with batch := some q.nextNo } else i)
    batches := b, last := q.nextNo, lvalid := true, openLen := 0, pendingCommit := false } :=
  Sequencer.settle_keeps _

theorem Sequencer.answer_running {q : Sequencer} {b : Nat} (h : q.state b = 1) (hs : q.stopped = false) : q.answer b = none := by
  simp [Sequencer.answer, h, hs]

theorem Sequencer.answer_ended {q : Sequencer} {b : Nat} (h : q.state b ≠ 1 ∨ q.stopped = true) : q.answer b = some (q.state b == 2) := by
  unfold Sequencer.answer
  split
  next h1 =>
    obtain hne | hs := h
    · exact absurd h1 hne
    · simp [h1, hs]
  next h2 => simp [h2]
  next h2 => exact congrArg some (beq_eq_false_iff_ne.mpr h2).symm

/-! ## What changes nothing but parts at sequencers (R185) -/

/-- A workgroup with other parts at its sequencer. -/
def Workgroup.withParts (w : Workgroup) (ps : List SeqPart) : Workgroup := { w with seq := { w.seq with parts := ps } }

theorem Thread.onlyWait_trans {t u v : Thread} (h1 : t.onlyWait u) (h2 : u.onlyWait v) : t.onlyWait v := by
  obtain ⟨_, _, _, rfl⟩ := h1
  obtain ⟨_, _, _, rfl⟩ := h2
  exact ⟨_, _, _, rfl⟩

/-- Of workgroups only the parts at their sequencers change, and of the executing thread only its wait; memories and messages stay. -/
def State.onlyParts (s u : State) : Prop :=
  (∃ ps : Workgroup → List SeqPart, u.wgs = s.wgs.map (fun w => w.withParts (ps w))) ∧ s.th.onlyWait u.th ∧
    u.mem = s.mem ∧ u.lmem = s.lmem ∧ u.tmem = s.tmem ∧ u.net = s.net

theorem State.onlyParts_of_wgs {s u : State} (h : u.wgs = s.wgs) (hth : s.th.onlyWait u.th) (hm : u.mem = s.mem) (hl : u.lmem = s.lmem)
    (ht : u.tmem = s.tmem) (hn : u.net = s.net) : s.onlyParts u :=
  ⟨⟨fun w => w.seq.parts, h.trans (List.map_id' _).symm⟩, hth, hm, hl, ht, hn⟩

theorem State.onlyParts_refl (s : State) : s.onlyParts s := State.onlyParts_of_wgs rfl s.th.onlyWait_refl rfl rfl rfl rfl

theorem State.onlyParts_trans {s t u : State} (h1 : s.onlyParts t) (h2 : t.onlyParts u) : s.onlyParts u := by
  obtain ⟨⟨ps, hw⟩, hth, hm, hl, ht, hn⟩ := h1
  obtain ⟨⟨ps', hw'⟩, hth', hm', hl', ht', hn'⟩ := h2
  refine ⟨⟨fun w => ps' (w.withParts (ps w)), ?_⟩, Thread.onlyWait_trans hth hth', hm'.trans hm, hl'.trans hl, ht'.trans ht, hn'.trans hn⟩
  rw [hw', hw, List.map_map]
  rfl

theorem State.onlyParts_wakeWaiting (s : State) (p : Thread → Bool) : s.onlyParts (s.wakeWaiting p) :=
  State.onlyParts_of_wgs rfl (s.wakeWaiting_th p) rfl rfl rfl rfl

theorem State.onlyParts_dropItem (s : State) (plaza serial : Nat) : s.onlyParts (s.dropItem plaza serial) :=
  State.onlyParts_of_wgs rfl s.th.onlyWait_refl rfl rfl rfl rfl

/-- Parts changed at every workgroup of a gang. -/
theorem State.onlyParts_gang (s : State) (launch gang : Nat) (ps : Workgroup → List SeqPart) : s.onlyParts { s with
    wgs := s.wgs.map (fun x => if x.launch = launch ∧ x.gang = gang then x.withParts (ps x) else x) } := by
  refine ⟨⟨fun x => if x.launch = launch ∧ x.gang = gang then ps x else x.seq.parts, List.map_congr_left fun x _ => ?_⟩,
    s.th.onlyWait_refl, rfl, rfl, rfl, rfl⟩
  by_cases hx : x.launch = launch ∧ x.gang = gang
  · simp only [hx, and_self, if_true]
  · simp only [hx, if_false]
    rfl

theorem State.onlyParts_dropParts (s : State) (w : Workgroup) (serial : Nat) : s.onlyParts (s.dropParts w serial) :=
  State.onlyParts_trans (s.onlyParts_gang w.launch w.gang fun x => x.seq.parts.filter (fun p => p.instr.serial != serial))
    (State.onlyParts_wakeWaiting _ _)

theorem State.onlyParts_resumeParts (s : State) (w : Workgroup) (serial : Nat) : s.onlyParts (s.resumeParts w serial) :=
  s.onlyParts_gang w.launch w.gang fun x => x.seq.parts.map (fun p : SeqPart => if p.instr.serial = serial then { p with stop := 0 } else p)

theorem State.onlyParts_dropQueue (s : State) (w : Workgroup) (q : Sequencer) : s.onlyParts (s.dropQueue w q) := by
  unfold State.dropQueue
  generalize q.queue = l
  induction l generalizing s with
  | nil => exact s.onlyParts_refl
  | cons i l ih =>
    exact State.onlyParts_trans (State.onlyParts_trans (s.onlyParts_dropItem _ _) (State.onlyParts_dropParts _ _ _)) (ih _)

theorem State.onlyParts.wgBy {s u : State} (h : s.onlyParts u) (wid : Nat) : ∃ ps, u.wgBy wid = (s.wgBy wid).withParts ps := by
  obtain ⟨⟨ps, hw⟩, -⟩ := h
  unfold State.wgBy
  rw [hw]
  generalize s.wgs = l
  induction l with
  | nil => exact ⟨_, rfl⟩
  | cons x l ih =>
    by_cases hx : x.wid = wid
    · refine ⟨ps x, ?_⟩
      simp [lookupBy, Workgroup.withParts, hx]
    · obtain ⟨ps', ih⟩ := ih
      refine ⟨ps', ?_⟩
      simpa [lookupBy, Workgroup.withParts, hx] using ih

theorem State.onlyParts.wg {s u : State} (h : s.onlyParts u) : ∃ ps, u.wg = s.wg.withParts ps := by
  obtain ⟨⟨ps, hw⟩, ⟨st, wt, since, hth⟩, -⟩ := h
  have hfind : u.wgs.find? (fun w => w.is u.th) = (s.wgs.find? (fun w => w.is s.th)).map (fun w => w.withParts (ps w)) := by
    rw [hw, hth, List.find?_map]
    rfl
  unfold State.wg State.wgOf
  rw [hfind]
  cases s.wgs.find? (fun w => w.is s.th) with
  | none => exact ⟨_, rfl⟩
  | some w => exact ⟨_, rfl⟩

theorem State.wg_wid_known (s : State) : s.wg.wid = 0 ∨ ∃ w ∈ s.wgs, w.wid = s.wg.wid := by
  unfold State.wg State.wgOf
  cases hf : s.wgs.find? (fun w => w.is s.th) with
  | none => exact .inl rfl
  | some w => exact .inr ⟨w, List.mem_of_find?_eq_some hf, rfl⟩

/-- The workgroup looked up by the key of the executing thread's one bears that key. -/
theorem State.wgBy_wg_wid (s : State) : (s.wgBy s.wg.wid).wid = s.wg.wid := by
  have hknown := s.wg_wid_known
  generalize s.wg.wid = k at hknown
  unfold State.wgBy
  generalize s.wgs = l at hknown
  induction l with
  | nil =>
    obtain h0 | ⟨w, hw, -⟩ := hknown
    · exact h0.symm
    · exact absurd hw List.not_mem_nil
  | cons x l ih =>
    by_cases hx : x.wid = k
    · exact (congrArg Workgroup.wid (if_pos hx)).trans hx
    · refine (congrArg Workgroup.wid (if_neg hx)).trans (ih (hknown.imp_right ?_))
      rintro ⟨w, hw, hk⟩
      exact ⟨w, (List.mem_cons.mp hw).resolve_left fun hwx => hx (hwx ▸ hk), hk⟩

theorem State.wgBy_putSeq (s : State) {w : Workgroup} {wid : Nat} (q : Sequencer) (h : w.wid = wid) :
    (s.putSeq w q).wgBy wid = { w with seq := q } :=
  State.wgBy_putWg_of_wid s (w := { w with seq := q }) h

theorem State.clearSeq_clears (s : State) : (s.clearSeq s.wg.wid).mem = s.mem ∧ (s.clearSeq s.wg.wid).lmem = s.lmem ∧
    (s.clearSeq s.wg.wid).tmem = s.tmem ∧ ((s.clearSeq s.wg.wid).wgBy s.wg.wid).seq.queue = [] ∧
    ((s.clearSeq s.wg.wid).wgBy s.wg.wid).seq.stopped = false := by
  have hdrop := s.onlyParts_dropQueue (s.wgBy s.wg.wid) (s.wgBy s.wg.wid).seq
  obtain ⟨ps, hw⟩ := hdrop.wgBy s.wg.wid
  obtain ⟨-, -, hm, hl, ht, -⟩ := hdrop
  have hwid : ((s.dropQueue (s.wgBy s.wg.wid) (s.wgBy s.wg.wid).seq).wgBy s.wg.wid).wid = s.wg.wid :=
    (congrArg Workgroup.wid hw).trans s.wgBy_wg_wid
  have hseq : ((s.clearSeq s.wg.wid).wgBy s.wg.wid).seq = Sequencer.clear _ := congrArg Workgroup.seq (State.wgBy_putSeq _ _ hwid)
  rw [hseq]
  exact ⟨hm, hl, ht, rfl, rfl⟩

/-! ## The save area of `MPARK` (R194, R209) -/

theorem State.pastePool_besideMem (s : State) (die x n : Nat) (img : Memory) : (s.pastePool die x n img).besideMem = s.besideMem :=
  foldl_same State.besideMem _ s fun _ _ _ => State.countRows_besideMem _ _ _

theorem State.writePark_besideMem (s : State) (w : Workgroup) (tiles : Memory) : (s.writePark w tiles).besideMem = s.besideMem := by
  unfold State.writePark
  split
  · rfl
  · exact (State.pastePool_besideMem _ _ _ _ _).trans (s.writePool_besideMem _ _ _)

/-- A workgroup with its sequencer set aside (R194); the parts of other workgroups' instructions stay (R185). -/
def Workgroup.parked (w : Workgroup) (tiles : Memory) : Workgroup :=
  { w with park := some { w.seq with parts := [] }, parkTiles := tiles, seq := { Sequencer.idle with parts := w.seq.parts } }

/-- A workgroup whose parked sequencer is back (R194). -/
def Workgroup.unparked (w : Workgroup) (p : Sequencer) : Workgroup :=
  { w with seq := { p with parts := w.seq.parts }, park := none, parkTiles := [] }

theorem State.takeArea_keeps {s s1 : State} {w : Workgroup} (h : s.takeArea w = some s1) : s1.th = s.th ∧ s1.tmem = s.tmem := by
  obtain rfl | ⟨g, d, base, -, rfl⟩ := State.takeArea_eq h
  · exact ⟨rfl, rfl⟩
  · exact ⟨rfl, rfl⟩

/-! ## The instructions -/

section
variable {f : Fields} {s : State}

theorem withCell_passes {op : Nat} {k : Shape → Nat → Nat → State → State} (ht : tileReg f.imm11 < s.th.tiles)
    (hq : s.wg.seq.stopped = true ∨ s.wg.seq.queue.any (fun i => i.names (tileReg f.imm11)) = false)
    (hp : s.wg.park = none → s.wg.seq.parts.any (fun p => p.begun && p.instr.names (tileReg f.imm11)) = false)
    (htag : (s.wg.seq.shapeOf (tileReg f.imm11)).tag ≠ 0) (hr : (src op f 0 s).toNat < (s.wg.seq.shapeOf (tileReg f.imm11)).rows)
    (hc : (src op f 1 s).toNat < (s.wg.seq.shapeOf (tileReg f.imm11)).cols) :
    withCell op f k s = k (s.wg.seq.shapeOf (tileReg f.imm11)) (src op f 0 s).toNat (src op f 1 s).toNat s := by
  have hfree : ((!s.wg.seq.stopped && s.wg.seq.queue.any (fun i => i.names (tileReg f.imm11))) ||
      (s.wg.park.isNone && s.wg.seq.parts.any (fun p => p.begun && p.instr.names (tileReg f.imm11)))) = false := by
    rw [Bool.or_eq_false_iff]
    refine ⟨?_, ?_⟩
    · obtain h | h := hq <;> simp [h]
    · cases hpark : s.wg.park with
      | none => exact hp hpark
      | some p => rfl
  unfold withCell
  rw [withTile_below ht]
  refine (if_neg (Bool.eq_false_iff.mp hfree)).trans ?_
  exact (if_neg htag).trans ((if_neg (Nat.not_le_of_lt hr)).trans (if_neg (Nat.not_le_of_lt hc)))

theorem execMcommit_held (h : mayRun 0xD0 f s = true) (hn : s.wg.seq.holds s.wg.seq.nextNo = true) :
    exec (.mcommit f) s = .next (block .waiting .sequencer s) :=
  (runOp_mayRun _ h).trans (congrArg _ (if_pos hn))

theorem execMcommit_free (h : mayRun 0xD0 f s = true) (hn : s.wg.seq.holds s.wg.seq.nextNo = false) :
    exec (.mcommit f) s = .next (finishQ f (BitVec.ofNat 64 s.wg.seq.nextNo) (s.putSeq s.wg s.wg.seq.commit)) :=
  (runOp_mayRun _ h).trans (congrArg _ (if_neg (Bool.eq_false_iff.mp hn)))

theorem execMwait_waits (h : mayRun 0xD1 f s = true) (hst : s.wg.seq.state ((src 0xD1 f 0 s).toNat % 4) = 1) (hs : s.wg.seq.stopped = false) :
    exec (.mwait f) s = .next (block .waiting .sequencer s) := by
  refine (runOp_mayRun _ h).trans (congrArg _ ?_)
  rw [Sequencer.answer_running hst hs]

theorem execMwait_answers (h : mayRun 0xD1 f s = true)
    (hst : s.wg.seq.state ((src 0xD1 f 0 s).toNat % 4) ≠ 1 ∨ s.wg.seq.stopped = true) :
    exec (.mwait f) s = .next (finishP f (s.wg.seq.state ((src 0xD1 f 0 s).toNat % 4) == 2) s) := by
  refine (runOp_mayRun _ h).trans (congrArg _ ?_)
  rw [Sequencer.answer_ended hst]

theorem execMstat_selects (h : mayRun 0xD2 f s = true) :
    (fbits f.func 1 0 = 0 → exec (.mstat f) s = .next (finishQ f s.wg.seq.statusWord s)) ∧
    (fbits f.func 1 0 = 1 → exec (.mstat f) s = .next (finishQ f s.wg.seq.spc s)) ∧
    (fbits f.func 1 0 = 2 → exec (.mstat f) s = .next (finishQ f (s.wg.seq.mflags.zeroExtend 64) s)) ∧
    (fbits f.func 1 0 = 3 → exec (.mstat f) s =
      .next (finishQ f (s.wg.seq.mflags.zeroExtend 64) (s.putWg { s.wg with seq := { s.wg.seq with mflags := 0 } }))) := by
  refine ⟨fun hk => ?_, fun hk => ?_, fun hk => ?_, fun hk => ?_⟩
  all_goals
    refine (runOp_mayRun _ h).trans (congrArg _ ?_)
    rw [hk]
    rfl

theorem execMclear_running (h : mayRun 0xD3 f s = true) (hs : s.wg.seq.stopped = false) : exec (.mclear f) s = .next (finishU f s) :=
  (runOp_mayRun _ h).trans (congrArg (fun u => Host.Outcome.next (finishU f u)) (if_neg (Bool.eq_false_iff.mp hs)))

theorem execMclear_stopped (h : mayRun 0xD3 f s = true) (hs : s.wg.seq.stopped = true) :
    exec (.mclear f) s = .next (finishU f (s.clearSeq s.wg.wid)) :=
  (runOp_mayRun _ h).trans (congrArg (fun u => Host.Outcome.next (finishU f u)) (if_pos hs))

theorem execMresume_none (h : mayRun 0xD4 f s = true) (hs : s.wg.seq.stopped = false ∨ s.wg.seq.queue = []) :
    exec (.mresume f) s = .next (raise 0x12 0 s) := by
  refine (runOp_mayRun _ h).trans (congrArg _ ?_)
  dsimp only
  split
  next i l hst hq =>
    obtain hs | hs := hs
    · exact absurd (hst.symm.trans hs) (by decide)
    · exact absurd (hq.symm.trans hs) (List.cons_ne_nil _ _)
  next => rfl

theorem execMresume_resumes (h : mayRun 0xD4 f s = true) (hs : s.wg.seq.stopped = true) (hq : s.wg.seq.queue ≠ []) :
    ∃ u : State, exec (.mresume f) s = .next (finishU f u) ∧ u.mem = s.mem ∧ u.lmem = s.lmem ∧ u.tmem = s.tmem ∧
      (u.wgBy s.wg.wid).seq.queue = s.wg.seq.queue ∧ (u.wgBy s.wg.wid).seq.stopped = false := by
  obtain ⟨i, l, hil⟩ := List.exists_cons_of_ne_nil hq
  have hparts := s.onlyParts_resumeParts s.wg i.serial
  obtain ⟨ps, hw⟩ := hparts.wg
  obtain ⟨-, -, hm, hl, ht, -⟩ := hparts
  have hrun : exec (.mresume f) s = .next (finishU f ((s.resumeParts s.wg i.serial).putSeq (s.resumeParts s.wg i.serial).wg
      (s.resumeParts s.wg i.serial).wg.seq.resume)) := by
    refine (runOp_mayRun _ h).trans (congrArg _ ?_)
    simp only [hs, hil]
  have hseq := congrArg Workgroup.seq (State.wgBy_putSeq (s.resumeParts s.wg i.serial) (s.resumeParts s.wg i.serial).wg.seq.resume
    ((congrArg Workgroup.wid hw).trans rfl : (s.resumeParts s.wg i.serial).wg.wid = s.wg.wid))
  refine ⟨_, hrun, hm, hl, ht, ?_, congrArg Sequencer.stopped hseq⟩
  exact (congrArg Sequencer.queue hseq).trans (congrArg (fun w => w.seq.queue) hw)

section
variable (h : mayRun 0xD5 f s = true)
include h

theorem execMpark_outside (hh : s.th.hnd = false) : exec (.mpark f) s = .next (raise 0x0E 0 s) :=
  (runOp_mayRun _ h).trans (congrArg _ (if_pos (by rw [hh]; rfl)))

theorem execMpark_parked (hh : s.th.hnd = true) (hp : s.wg.park ≠ none) : exec (.mpark f) s = .next (raise 0x12 0 s) :=
  (runOp_mayRun _ h).trans (congrArg _ ((if_neg (by rw [hh]; decide)).trans (if_pos (Option.isSome_iff_ne_none.mpr hp))))

theorem execMpark_parks (hh : s.th.hnd = true) (hp : s.wg.park = none) (hf : s.seqFlight s.wg.wid = false) (ha : s.takeArea s.wg ≠ none) :
    ∃ (u : State) (p : Sequencer), exec (.mpark f) s = .next (finishU f u) ∧ u.th = s.th ∧ u.tmem = s.tmem ∧
      (u.wgBy s.wg.wid).park = some p ∧ p.queue = s.wg.seq.queue ∧ p.batches = s.wg.seq.batches ∧ (u.wgBy s.wg.wid).seq.queue = [] ∧
      (u.wgBy s.wg.wid).seq.stopped = false ∧
      (u.wgBy s.wg.wid).parkTiles = memCut s.tmem (tileAt s.wg.anchor s.wg.tbase) (65536 * s.wg.tiles) := by
  obtain ⟨s1, hs1⟩ := Option.ne_none_iff_exists'.mp ha
  obtain ⟨hth, htm⟩ := State.takeArea_keeps hs1
  generalize htiles : memCut s.tmem (tileSlice s.wg) (65536 * s.wg.tiles) = tiles
  have hrun : exec (.mpark f) s = .next (finishU f ((s1.writePark s.wg tiles).putWg (s.wg.parked tiles))) := by
    refine (runOp_mayRun _ h).trans (congrArg _ ?_)
    simp only [hh, hp, hf, hs1, htiles, Bool.not_true, Bool.false_eq_true, if_false, Option.isSome_none]
    rfl
  have hbeside := s1.writePark_besideMem s.wg tiles
  have hput := State.wgBy_putWg_of_wid (s1.writePark s.wg tiles) (w := s.wg.parked tiles) rfl
  exact ⟨_, { s.wg.seq with parts := [] }, hrun, (congrArg State.th hbeside :).trans hth, (congrArg State.tmem hbeside :).trans htm,
    congrArg Workgroup.park hput, rfl, rfl, congrArg (fun w => w.seq.queue) hput, congrArg (fun w => w.seq.stopped) hput,
    (congrArg Workgroup.parkTiles hput).trans htiles.symm⟩

end

section
variable (h : mayRun 0xD6 f s = true)
include h

theorem execMunpark_outside (hh : s.th.hnd = false) : exec (.munpark f) s = .next (raise 0x0E 0 s) := by
  refine (runOp_mayRun _ h).trans (congrArg _ ?_)
  simp only [hh]

theorem execMunpark_waits (hh : s.th.hnd = true) (hp : s.wg.park ≠ none) (hb : s.wg.seq.batches.any (· == 1) = true) :
    exec (.munpark f) s = .next (block .waiting .sequencer s) := by
  obtain ⟨p, hp⟩ := Option.ne_none_iff_exists'.mp hp
  refine (runOp_mayRun _ h).trans (congrArg _ ?_)
  simp only [hh, hp, hb, if_true]

theorem execMunpark_unparks {p : Sequencer} (hh : s.th.hnd = true) (hp : s.wg.park = some p) (hb : s.wg.seq.batches.any (· == 1) = false) :
    ∃ u : State, exec (.munpark f) s = .next (finishU f u) ∧ u.th.q = s.th.q ∧ u.mem = s.mem ∧ (u.wgBy s.wg.wid).park = none ∧
      (u.wgBy s.wg.wid).seq.queue = p.queue ∧ (u.wgBy s.wg.wid).seq.batches = p.batches ∧
      u.tmem = memPaste s.tmem (tileAt s.wg.anchor s.wg.tbase) (65536 * s.wg.tiles) s.wg.parkTiles := by
  have hdrop := s.onlyParts_dropQueue s.wg s.wg.seq
  obtain ⟨ps, hw⟩ := hdrop.wg
  obtain ⟨-, ⟨_, _, _, hth⟩, hm, -, ht, -⟩ := hdrop
  have hrun : exec (.munpark f) s = .next (finishU f { (s.dropQueue s.wg s.wg.seq).putWg ((s.dropQueue s.wg s.wg.seq).wg.unparked p) with
      tmem := memPaste (s.dropQueue s.wg s.wg.seq).tmem (tileSlice s.wg) (65536 * s.wg.tiles) s.wg.parkTiles }) := by
    refine (runOp_mayRun _ h).trans (congrArg _ ?_)
    simp only [hh, hp, hb, Bool.false_eq_true, if_false]
    rfl
  have hput := State.wgBy_putWg_of_wid (s.dropQueue s.wg s.wg.seq) (w := (s.dropQueue s.wg s.wg.seq).wg.unparked p)
    ((congrArg Workgroup.wid hw).trans rfl : (s.dropQueue s.wg s.wg.seq).wg.wid = s.wg.wid)
  exact ⟨_, hrun, (congrArg Thread.q hth :), hm, congrArg Workgroup.park hput, congrArg (fun w => w.seq.queue) hput,
    congrArg (fun w => w.seq.batches) hput, congrArg (fun m => memPaste m (tileSlice s.wg) (65536 * s.wg.tiles) s.wg.parkTiles) ht⟩

end

section
variable (h : mayRun 0xDB f s = true)
include h

theorem execScstat_waits (hs : s.wg.seq.stopped = false) (hq : s.wg.seq.queue ≠ []) :
    exec (.scstat f) s = .next (block .waiting .sequencer s) :=
  (runOp_mayRun _ h).trans (congrArg _ (if_pos (by simp [hs, hq])))

theorem execScstat_reads (hs : s.wg.seq.stopped = true ∨ s.wg.seq.queue = []) :
    exec (.scstat f) s = .next (finishQ f ((s.wg.sc.sel (fbits f.func 2 0)).zeroExtend 64) s) := by
  refine (runOp_mayRun _ h).trans (congrArg _ (if_neg ?_))
  obtain hs | hs := hs <;> simp [hs]

end

end

/-- Settles O42, one lemma per instruction; what `MCLEAR`, `MRESUME` and `MUNPARK` drop at other sequencers of the gang changes parts alone. -/
theorem sequencerControl : Obligations.SequencerControl := by
  intro f s
  refine ⟨fun h hfree hbad => ?get, fun h hfree => ?set, fun h => ⟨execMcommit_held h, fun hn => ⟨execMcommit_free h hn, ?commit⟩⟩,
    fun h => ⟨execMwait_waits h, execMwait_answers h⟩, execMstat_selects, fun h => ⟨execMclear_running h, fun hs => ?clear⟩,
    fun h => ⟨execMresume_none h, execMresume_resumes h⟩, fun h => ⟨execMpark_outside h, execMpark_parked h, execMpark_parks h⟩,
    fun h => ⟨execMunpark_outside h, execMunpark_waits h, fun p => execMunpark_unparks h⟩,
    fun h => ⟨execScstat_waits h, execScstat_reads h⟩⟩
  case get =>
    obtain ⟨ht, hq, hp, htag, hr, hc⟩ := hfree
    exact (runOp_mayRun _ h).trans (congrArg _ ((withCell_passes ht hq hp htag hr hc).trans (if_neg (Bool.eq_false_iff.mp hbad))))
  case set =>
    obtain ⟨ht, hq, hp, htag, hr, hc⟩ := hfree
    refine ⟨_, (runOp_mayRun _ h).trans (congrArg _ (withCell_passes ht hq hp htag hr hc)), rfl, rfl, rfl, rfl, ?_⟩
    exact congrArg (memWrite s.tmem _) (List.append_nil _)
  case commit =>
    obtain ⟨b, hb⟩ := s.wg.seq.commit_eq
    rw [hb]
    exact ⟨rfl, rfl, rfl, rfl⟩
  case clear => exact ⟨_, execMclear_stopped h hs, s.clearSeq_clears⟩

end Sys2Proof.Machine
end

section
/-! SUPPORT. One step of the instruction at the head of a sequencer (R174, R183, R184, R187, R191): rows of cells written and read back, the
groups of a k-step as one sum, what becomes of the queue and its batches; then each instruction. -/

namespace Sys2Proof.Machine

/-! ## Several writes to a memory -/

/-- Writes of bytes to places, one after another. -/
def writeAll (m : Memory) (l : List (Nat × List Byte)) : Memory := l.foldl (fun m x => memWrite m x.1 x.2) m

theorem memByte_writeAll_outside {m : Memory} {l : List (Nat × List Byte)} {a : Nat} (hwf : Memory.wf m = true)
    (h : ∀ x ∈ l, a < x.1 ∨ x.1 + x.2.length ≤ a) : memByte (writeAll m l) a = memByte m a := by
  induction l generalizing m with
  | nil => rfl
  | cons x l ih =>
    refine (ih (memWrite_wf m x.1 x.2 hwf) fun y hy => h y (List.mem_cons_of_mem _ hy)).trans ?_
    rw [memByte_memWrite m x.1 a x.2 hwf, if_neg]
    have hx := h x List.mem_cons_self
    omega

/-- A byte that some of the writes cover, where all that cover it agree on it. -/
theorem memByte_writeAll_of_agree {m : Memory} {l : List (Nat × List Byte)} {a : Nat} {b : Byte} (hwf : Memory.wf m = true)
    (hcov : ∃ x ∈ l, x.1 ≤ a ∧ a < x.1 + x.2.length) (hb : ∀ x ∈ l, x.1 ≤ a → a < x.1 + x.2.length → x.2.getD (a - x.1) 0 = b) :
    memByte (writeAll m l) a = b := by
  induction l generalizing m with
  | nil =>
    obtain ⟨x, hx, -⟩ := hcov
    exact absurd hx List.not_mem_nil
  | cons x l ih =>
    have htail : ∀ y ∈ l, y.1 ≤ a → a < y.1 + y.2.length → y.2.getD (a - y.1) 0 = b := fun y hy => hb y (List.mem_cons_of_mem _ hy)
    have hwf' := memWrite_wf m x.1 x.2 hwf
    by_cases hl : ∃ y ∈ l, y.1 ≤ a ∧ a < y.1 + y.2.length
    · exact ih hwf' hl htail
    · have hout : ∀ y ∈ l, a < y.1 ∨ y.1 + y.2.length ≤ a := fun y hy => by
        by_contra hn
        exact hl ⟨y, hy, by omega, by omega⟩
      obtain ⟨y, hy, h1, h2⟩ := hcov
      obtain rfl : y = x := (List.mem_cons.mp hy).resolve_right fun hyl => hl ⟨y, hyl, h1, h2⟩
      refine (memByte_writeAll_outside hwf' hout).trans ?_
      rw [memByte_memWrite m y.1 a y.2 hwf, if_pos ⟨h1, h2⟩]
      exact hb y List.mem_cons_self h1 h2

/-! ## Cells -/

/-- The bytes of a row of cells. -/
def cellBytes (cells : List Nat) : List Byte := (cells.map (leBytes 4)).flatten

theorem cellBytes_length (cells : List Nat) : (cellBytes cells).length = 4 * cells.length := by
  induction cells with
  | nil => rfl
  | cons x xs ih =>
    rw [cellBytes, List.map_cons, List.flatten_cons, List.length_append, leBytes_length]
    exact (congrArg (4 + ·) ih).trans (by rw [List.length_cons]; omega)

theorem cellBytes_getD {cells : List Nat} {c k : Nat} (hc : c < cells.length) (hk : k < 4) :
    (cellBytes cells).getD (4 * c + k) 0 = (leBytes 4 (cells.getD c 0)).getD k 0 := by
  induction cells generalizing c with
  | nil => exact absurd hc (Nat.not_lt_zero _)
  | cons x xs ih =>
    rw [cellBytes, List.map_cons, List.flatten_cons]
    cases c with
    | zero =>
      rw [List.getD_append _ _ _ _ (by rw [leBytes_length]; omega), Nat.mul_zero, Nat.zero_add]
      rfl
    | succ c =>
      rw [List.getD_append_right _ _ _ _ (by rw [leBytes_length]; omega), leBytes_length, List.getD_cons_succ]
      exact (congrArg ((cellBytes xs).getD · 0) (by omega)).trans (ih (Nat.lt_of_succ_lt_succ hc))

theorem memNat_of_bytes {m : Memory} {a n v : Nat} (h : ∀ k, k < n → memByte m (a + k) = (leBytes n v).getD k 0) :
    memNat m a n = v % 256 ^ n := by
  have hread : memRead m a n = leBytes n v := by
    rw [memRead_eq]
    refine List.ext_getElem (by rw [List.length_map, List.length_range, leBytes_length]) fun k h1 h2 => ?_
    rw [List.getElem_map, List.getElem_range, h k (by simpa using h1)]
    simp [h2]
  rw [memNat, hread, leNat_leBytes]

/-- Rows of cells at a pitch, each of which ends before the next begins, hold after the writes what was written. -/
theorem memNat_writeRows {m : Memory} (hwf : Memory.wf m = true) {base pitch n len : Nat} {row : Nat → List Nat}
    (hlen : ∀ r, r < n → (row r).length = len) (hp : 4 * len ≤ pitch) {r c : Nat} (hr : r < n) (hc : c < len) :
    memNat (writeAll m ((List.range n).map (fun r => (base + r * pitch, cellBytes (row r))))) (base + r * pitch + 4 * c) 4 =
      (row r).getD c 0 % 2 ^ 32 := by
  refine memNat_of_bytes fun k hk => ?_
  have hbytes : ∀ r, r < n → (cellBytes (row r)).length = 4 * len := fun r hr => by rw [cellBytes_length, hlen r hr]
  refine memByte_writeAll_of_agree hwf ⟨_, List.mem_map.mpr ⟨r, List.mem_range.mpr hr, rfl⟩, by dsimp only; omega, ?_⟩ ?_
  · dsimp only
    rw [hbytes r hr]
    omega
  · rintro _ hx h1 h2
    obtain ⟨r', hr', rfl⟩ := List.mem_map.mp hx
    dsimp only at h1 h2 ⊢
    rw [hbytes r' (List.mem_range.mp hr')] at h2
    obtain rfl : r' = r := by
      obtain h | h | h := Nat.lt_trichotomy r' r
      · have := Nat.mul_le_mul_right pitch (Nat.succ_le_of_lt h)
        rw [Nat.succ_mul] at this
        omega
      · exact h
      · have := Nat.mul_le_mul_right pitch (Nat.succ_le_of_lt h)
        rw [Nat.succ_mul] at this
        omega
    rw [show base + r' * pitch + 4 * c + k - (base + r' * pitch) = 4 * c + k by omega]
    exact cellBytes_getD (by rw [hlen r' hr]; exact hc) hk

theorem leBytes_congr {n x y : Nat} (h : x % 256 ^ n = y % 256 ^ n) : leBytes n x = leBytes n y := by
  induction n generalizing x y with
  | zero => rfl
  | succ n ih =>
    rw [Nat.pow_succ', Nat.mod_mul, Nat.mod_mul] at h
    have hlow : x % 256 = y % 256 := by omega
    have hbyte : BitVec.ofNat 8 x = BitVec.ofNat 8 y := BitVec.eq_of_toNat_eq (by simpa using hlow)
    rw [leBytes, leBytes, hbyte, ih (by omega : x / 256 % 256 ^ n = y / 256 % 256 ^ n)]

theorem leBytes_add (m n x : Nat) : leBytes (m + n) x = leBytes m x ++ leBytes n (x / 256 ^ m) := by
  induction m generalizing x with
  | zero => simp [leBytes]
  | succ m ih =>
    rw [Nat.succ_add, leBytes, leBytes, ih, List.cons_append, Nat.div_div_eq_div_mul, Nat.pow_succ']

/-- Cells packed at 32 bits a cell are their bytes. -/
theorem leBytes_packElems (cells : List Nat) : leBytes (4 * cells.length) (packElems 32 cells) = cellBytes cells := by
  induction cells with
  | nil => rfl
  | cons x xs ih =>
    have hlow : (x % 2 ^ 32 + 2 ^ 32 * packElems 32 xs) % 256 ^ 4 = x % 256 ^ 4 := by omega
    have hhigh : (x % 2 ^ 32 + 2 ^ 32 * packElems 32 xs) / 256 ^ 4 = packElems 32 xs := by omega
    rw [List.length_cons, Nat.mul_succ, Nat.add_comm, packElems, leBytes_add, leBytes_congr hlow, hhigh, ih]
    rfl

/-! ## The groups of a k-step (R184) -/

theorem chunks_flatten {α : Type} {g : Nat} (hg : 0 < g) {n : Nat} {l : List α} (h : l.length ≤ n) : (chunks g n l).flatten = l := by
  induction n generalizing l with
  | zero => exact (List.length_eq_zero_iff.mp (Nat.le_zero.mp h)).symm
  | succ n ih =>
    cases l with
    | nil => rfl
    | cons x xs =>
      have hdrop : ((x :: xs).drop g).length ≤ n := by
        rw [List.length_drop]
        rw [List.length_cons] at h ⊢
        omega
      exact (congrArg ((x :: xs).take g ++ ·) (ih hdrop)).trans (List.take_append_drop g _)

theorem toSigned_emod (x : Nat) : toSigned 32 x % 2 ^ 32 = (x : Int) % 2 ^ 32 := by
  unfold toSigned
  dsimp only
  split_ifs <;> omega

/-- The sum of the products of pairs. -/
def productSum (ps : List (Val × Val)) : Int := (ps.map (fun p => valInt p.1 * valInt p.2)).sum

theorem groupInt_emod (d : Nat) (ps : List (Val × Val)) : (((groupInt d ps).1 : Nat) : Int) = (toSigned 32 d + productSum ps) % 2 ^ 32 := by
  have hsum : ∀ a : Int, ps.foldl (fun r p => r + valInt p.1 * valInt p.2) a = a + productSum ps := by
    induction ps with
    | nil => exact fun a => (add_zero a).symm
    | cons p ps ih => exact fun a => (ih _).trans (by rw [productSum, productSum, List.map_cons, List.sum_cons, add_assoc])
  rw [groupInt, hsum, zero_add]
  exact Int.toNat_of_nonneg (Int.emod_nonneg _ (by decide))

theorem foldGroups_int {g : Nat} (hg : 0 < g) (d : Nat) (ps : List (Val × Val)) :
    (((foldGroups true g d ps).1 : Nat) : Int) % 2 ^ 32 = (toSigned 32 d + productSum ps) % 2 ^ 32 := by
  have hfold : ∀ (cs : List (List (Val × Val))) (d : Nat) (fl : BitVec 8),
      (((cs.foldl (fun r c => let (x, fl) := addGroup true r.1 c; (x, r.2 ||| fl)) (d, fl)).1 : Nat) : Int) % 2 ^ 32 =
        (toSigned 32 d + productSum cs.flatten) % 2 ^ 32 := by
    intro cs
    induction cs with
    | nil =>
      intro d fl
      rw [List.flatten_nil, productSum, List.map_nil, List.sum_nil, add_zero]
      exact (toSigned_emod d).symm
    | cons c cs ih =>
      intro d fl
      refine (ih (addGroup true d c).1 (fl ||| (addGroup true d c).2)).trans ?_
      have hgroup : (((addGroup true d c).1 : Nat) : Int) = _ := groupInt_emod d c
      have hsigned := toSigned_emod (addGroup true d c).1
      have hflat : productSum (c :: cs).flatten = productSum c + productSum cs.flatten := by
        rw [productSum, List.flatten_cons, List.map_append, List.sum_append]
        rfl
      rw [hflat]
      omega
  rw [foldGroups, hfold, chunks_flatten hg le_rfl]

/-! ## The end of an instruction (R174) -/

theorem vget_vset {α : Type} {n : Nat} (v : Vector α n) (i j : Nat) (x d : α) :
    vget (vset v i x) j d = if i = j ∧ j < n then x else vget v j d := by
  unfold vget vset
  by_cases hj : j < n
  · by_cases hi : i < n
    · rw [dif_pos hj, dif_pos hi, dif_pos hj, Vector.getElem_set]
      simp [hj]
    · rw [dif_pos hj, dif_neg hi, dif_pos hj, if_neg]
      omega
  · rw [dif_neg hj, dif_neg hj, if_neg fun h => hj h.2]

theorem Sequencer.lt_of_state {q : Sequencer} {n : Nat} (h : q.state n = 1) : n < 4 := by
  by_contra hn
  rw [Sequencer.state, vget, dif_neg hn] at h
  exact absurd h (by decide)

theorem Sequencer.settleFrom_ended {q : Sequencer} (h : ∀ m, q.holds m = false) (ns : List Nat) : q.settleFrom ns = q := by
  induction ns with
  | nil => rfl
  | cons n ns ih =>
    have hn : ¬q.state n = 1 := fun h1 => Bool.eq_false_iff.mp (h n) (by rw [Sequencer.holds, h1]; rfl)
    unfold Sequencer.settleFrom
    rw [if_neg fun hc => hn hc.1, if_neg (Bool.eq_false_iff.mp (h n)), ih]

/-- The only batch that holds its number is DONE once its last instruction has finished. -/
theorem Sequencer.settleFrom_done {q : Sequencer} {n : Nat} (h1 : q.state n = 1) (honly : ∀ m, q.holds m = true → m = n)
    (hq : ∀ j ∈ q.queue, j.batch ≠ some n) {ns : List Nat} (hmem : n ∈ ns) : (q.settleFrom ns).state n = 2 := by
  induction ns with
  | nil => exact absurd hmem List.not_mem_nil
  | cons m ns ih =>
    by_cases hm : m = n
    · subst hm
      have hnone : q.queue.any (fun i => i.batch == some m) = false := List.any_eq_false.mpr fun j hj => by simpa using hq j hj
      have hstate : ∀ k, ({ q with batches := vset q.batches m 2 } : Sequencer).state k = if m = k ∧ k < 4 then 2 else q.state k :=
        fun k => vget_vset q.batches m k 2 0
      have hheld : ∀ k, ({ q with batches := vset q.batches m 2 } : Sequencer).holds k = false := fun k => by
        rw [Sequencer.holds, hstate]
        split_ifs with hk
        · rfl
        · by_contra hh
          have hkm := honly k (Bool.eq_true_of_not_eq_false hh)
          exact hk ⟨hkm.symm, hkm ▸ q.lt_of_state h1⟩
      unfold Sequencer.settleFrom
      rw [if_pos ⟨h1, by rw [hnone]; rfl⟩, Sequencer.settleFrom_ended hheld, hstate, if_pos ⟨rfl, q.lt_of_state h1⟩]
    · have hfree : q.holds m = false := Bool.eq_false_iff.mpr fun hh => hm (honly m hh)
      have hrun : ¬q.state m = 1 := fun hs => Bool.eq_false_iff.mp hfree (by rw [Sequencer.holds, hs]; rfl)
      unfold Sequencer.settleFrom
      rw [if_neg fun hc => hrun hc.1, if_neg (Bool.eq_false_iff.mp hfree)]
      exact ih ((List.mem_cons.mp hmem).resolve_left (Ne.symm hm))

theorem Sequencer.settle_done {q : Sequencer} {n : Nat} (h1 : q.state n = 1) (honly : ∀ m, q.holds m = true → m = n)
    (hq : ∀ j ∈ q.queue, j.batch ≠ some n) : q.settle.state n = 2 := by
  have hn := q.lt_of_state h1
  refine Sequencer.settleFrom_done h1 honly hq ?_
  simp only [List.mem_cons, List.not_mem_nil, or_false]
  omega

/-- The head instruction `i` of a sequencer has left it, and its batch is DONE if nothing holds it back (R174). -/
def Sequencer.endsHead (x : Sequencer) (i : SeqInstr) (rest : List SeqInstr) (q : Sequencer) : Prop :=
  q.queue = rest ∧ q.step = 0 ∧ q.begun = false ∧
    ∀ n, i.batch = some n → x.state n = 1 → (∀ m, x.holds m = true → m = n) → (∀ j ∈ rest, j.batch ≠ some n) → q.state n = 2

theorem Sequencer.finishHead_ends {x q : Sequencer} {i : SeqInstr} {rest : List SeqInstr} (hb : q.batches = x.batches)
    (hq : q.queue = i :: rest) : x.endsHead i rest q.finishHead ∧ q.finishHead.shape = q.shape ∧ q.finishHead.unfold = q.unfold := by
  have hstate : ∀ n, x.state n = q.state n := fun n => congrArg (vget · n 0) hb.symm
  have hholds : ∀ n, x.holds n = q.holds n := fun n => by rw [Sequencer.holds, hstate, Sequencer.holds]
  have hdrop : q.queue.drop 1 = rest := by rw [hq]; rfl
  refine ⟨⟨?_, ?_, ?_, fun n _ h1 honly hrest => ?_⟩, ?_, ?_⟩
  case refine_4 =>
    exact Sequencer.settle_done ((hstate n).symm.trans h1) (fun m hm => honly m ((hholds m).trans hm)) (fun j hj => hrest j (hdrop ▸ hj))
  all_goals
    unfold Sequencer.finishHead
    obtain ⟨b, hset⟩ := Sequencer.settle_keeps
      { q with queue := q.queue.drop 1, step := 0, begun := false, held := false, ownDone := false, probe := Probe.none }
    rw [hset]
  · exact hdrop

/-! ## The step of a head instruction (R183) -/

/-- A running gang's sequencer that has nothing to wait for but the step of its head instruction, which has no other part. -/
structure State.HeadReady (s : State) (w : Nat) (i : SeqInstr) (rest : List SeqInstr) : Prop where
  wid : (s.wgBy w).wid = w
  gang : ∃ g, s.gangOf (s.wgBy w) = some g ∧ g.state = .running
  noPart : nextPart (s.wgBy w) = none
  queue : (s.wgBy w).seq.queue = i :: rest
  held : (s.wgBy w).seq.held = false
  fault : (s.wgBy w).seq.fault = none
  ownDone : (s.wgBy w).seq.ownDone = false
  flight : s.seqFlight w = false
  writes : (s.wgBy w).seq.probe.writes = []
  parts : i.parts = 1
  partsDone : i.partsDone = 0

/-- Nothing earlier in the plaza holds the head instruction back (R317, R185). -/
def State.headFree (s : State) (x : Workgroup) (i : SeqInstr) : Prop :=
  x.mixes i = false ∧ (s.plaza (plazaOf x.anchor)).doomed.contains i.serial = false ∧
    (∀ it ∈ (s.plaza (plazaOf x.anchor)).items, i.serial ≤ it.serial) ∧
    ∀ j ∈ (s.plaza (plazaOf x.anchor)).jobs, j.unfinished = true → i.serial ≤ j.serial

theorem PlazaSt.not_blocked {p : PlazaSt} {serial : Nat} (hi : ∀ it ∈ p.items, serial ≤ it.serial)
    (hj : ∀ j ∈ p.jobs, j.unfinished = true → serial ≤ j.serial) (rs : List Region) : p.blocked serial rs = false := by
  unfold PlazaSt.blocked
  rw [Bool.or_eq_false_iff]
  refine ⟨List.any_eq_false.mpr fun j hm => ?_, List.any_eq_false.mpr fun it hm => ?_⟩
  · cases hu : j.unfinished with
    | false => simp
    | true =>
      have := hj j hm hu
      simp [Nat.not_lt_of_le this]
  · have := hi it hm
    simp [Nat.not_lt_of_le this]

/-- A sequencer whose head instruction has made `n` steps. -/
def Sequencer.stepDone (q : Sequencer) (i : SeqInstr) (n : Nat) (pr : Probe) : Sequencer :=
  { q with step := n, begun := true, probe := pr, ownDone := n ≥ i.steps }

/-- What becomes of the head instruction after its step: `stepHead` from there on. -/
def headAfter (w : Workgroup) (i : SeqInstr) (r : Ran) : State :=
  let w1 := r.s.wgBy w.wid
  match r.stop with
  | none =>
    let s2 := r.s.putSeq w1 (w1.seq.stepDone i (w.seq.step + 1) r.probe)
    if w.seq.step + 1 ≥ i.steps && i.partsDone + 1 ≥ i.parts && r.probe.writes.isEmpty && !s2.seqFlight w.wid then finishInstr w i s2 else s2
  | some y =>
    let (s2, code) := waitFor w i.serial false y (r.s.putWg { w1 with seq := { w1.seq with begun := r.begun, fault := y.page? } })
    if code = 0 then s2 else stopHead w code w.seq.step s2

/-- What a step leaves where it goes through: of the sequencer nothing has changed but shapes, flags and the unfold descriptor. -/
def State.stepped (s u : State) (w : Nat) : Prop :=
  u.mem = s.mem ∧ u.net = s.net ∧ u.owed = s.owed ∧ u.dtc = s.dtc ∧ (u.wgBy w).wid = w ∧
    ∃ sh mf uf, (u.wgBy w).seq = { (s.wgBy w).seq with shape := sh, mflags := mf, unfold := uf }

theorem State.seqFlight_congr {s u : State} (w : Nat) (hn : u.net = s.net) (ho : u.owed = s.owed) (hd : u.dtc = s.dtc) :
    u.seqFlight w = s.seqFlight w := by
  have hdue : ∀ x, u.isDue x = s.isDue x := fun x => by
    unfold State.isDue State.dtcOf
    rw [hd]
  unfold State.seqFlight
  rw [hn, ho]
  simp only [hdue]

section
variable {s : State} {w : Nat} {i : SeqInstr} {rest : List SeqInstr} (h : s.HeadReady w i rest)
include h

theorem execKStep_stepHead : exec (.kStep w) s = .next (stepHead (s.wgBy w) i s) := by
  obtain ⟨g, hg, hrun⟩ := h.gang
  refine congrArg Host.Outcome.next ?_
  dsimp only
  rw [hg]
  dsimp only
  rw [hrun, if_neg (by decide), if_neg (by decide)]
  unfold stepSequencer
  rw [h.noPart]
  dsimp only
  rw [h.queue]

theorem execKStep_after (hfree : (s.wgBy w).seq.begun = true ∨ s.headFree (s.wgBy w) i) : exec (.kStep w) s = .next
    (headAfter (s.wgBy w) i (runStep i (s.wgBy w) (s.wgBy w) 0 (s.wgBy w).seq.step (s.wgBy w).seq.begun (s.wgBy w).seq.probe s)) := by
  refine (execKStep_stepHead h).trans (congrArg Host.Outcome.next ?_)
  have hparts : ¬(decide (i.parts > 1) && !s.partsIn (s.wgBy w) i) = true := by rw [h.parts]; simp
  unfold stepHead
  dsimp only
  rw [h.held, h.fault, if_neg (by decide), h.ownDone, if_neg (by decide), if_neg hparts]
  obtain hbegun | ⟨hmix, hdoom, hitems, hjobs⟩ := hfree
  · rw [hbegun]
    simp only [Bool.not_true, Bool.false_and, Bool.false_eq_true, if_false]
    rfl
  · rw [hdoom, hmix, PlazaSt.not_blocked hitems hjobs]
    simp only [Bool.and_false, Bool.or_false, Bool.false_eq_true, if_false]
    rfl

end

theorem finishInstr_finishes {s : State} {x : Workgroup} {w : Nat} (i : SeqInstr) (hx : x.wid = w) (hw : (s.wgBy w).wid = w) :
    (finishInstr x i s).mem = s.mem ∧ (finishInstr x i s).net = s.net ∧ (finishInstr x i s).lmem = s.lmem ∧
      (finishInstr x i s).tmem = s.tmem ∧ ((finishInstr x i s).wgBy w).seq = (s.wgBy w).seq.finishHead := by
  subst hx
  exact ⟨rfl, rfl, rfl, rfl, congrArg Workgroup.seq (State.wgBy_putSeq (s.dropItem (plazaOf x.anchor) i.serial) (s.wgBy x.wid).seq.finishHead hw)⟩

/-- What the last step of a head instruction leaves. -/
def State.headEnds (s s1 u : State) (w : Nat) (i : SeqInstr) (rest : List SeqInstr) : Prop :=
  u.mem = s.mem ∧ u.net = s.net ∧ u.lmem = s1.lmem ∧ u.tmem = s1.tmem ∧ (s.wgBy w).seq.endsHead i rest (u.wgBy w).seq ∧
    (u.wgBy w).seq.shape = (s1.wgBy w).seq.shape ∧ (u.wgBy w).seq.unfold = (s1.wgBy w).seq.unfold

section
variable {s s1 : State} {w : Nat} {i : SeqInstr} {rest : List SeqInstr} {begun : Bool} {pr : Probe} (h : s.HeadReady w i rest)
  (hstep : s.stepped s1 w)
include h hstep

theorem headAfter_last (hpr : pr.writes = []) (hlast : i.steps ≤ (s.wgBy w).seq.step + 1) :
    s.headEnds s1 (headAfter (s.wgBy w) i ⟨s1, begun, pr, none⟩) w i rest := by
  obtain ⟨hm, hn, ho, hd, hw, sh, mf, uf, hseq⟩ := hstep
  generalize hq : (s1.wgBy w).seq.stepDone i ((s.wgBy w).seq.step + 1) pr = q
  have hafter : headAfter (s.wgBy w) i ⟨s1, begun, pr, none⟩ = finishInstr (s.wgBy w) i (s1.putSeq (s1.wgBy w) q) := by
    have hflight : (s1.putSeq (s1.wgBy w) q).seqFlight w = false := (State.seqFlight_congr w hn ho hd).trans h.flight
    unfold headAfter
    dsimp only
    rw [h.wid, hq, if_pos]
    rw [h.partsDone, h.parts, hpr, hflight]
    simpa using hlast
  have hput : (s1.putSeq (s1.wgBy w) q).wgBy w = { s1.wgBy w with seq := q } := State.wgBy_putSeq s1 q hw
  obtain ⟨hm', hn', hl', ht', hseq'⟩ := finishInstr_finishes (s := s1.putSeq (s1.wgBy w) q) i h.wid (by rw [hput]; exact hw)
  rw [hput] at hseq'
  have hbatches : q.batches = (s.wgBy w).seq.batches := by rw [← hq, hseq]; rfl
  have hqueue : q.queue = i :: rest := by rw [← hq, hseq]; exact h.queue
  obtain ⟨hends, hshape, hunfold⟩ := Sequencer.finishHead_ends hbatches hqueue
  rw [hafter]
  refine ⟨hm'.trans hm, hn'.trans hn, hl', ht', ?_, ?_, ?_⟩
  all_goals rw [hseq']
  · exact hends
  · rw [hshape, ← hq]
    rfl
  · rw [hunfold, ← hq]
    rfl

theorem headAfter_next (hlast : (s.wgBy w).seq.step + 1 < i.steps) : let u := headAfter (s.wgBy w) i ⟨s1, begun, pr, none⟩
    u.mem = s.mem ∧ u.net = s.net ∧ u.lmem = s1.lmem ∧ u.tmem = s1.tmem ∧ (u.wgBy w).seq.queue = i :: rest ∧
      (u.wgBy w).seq.step = (s.wgBy w).seq.step + 1 := by
  obtain ⟨hm, hn, ho, hd, hw, sh, mf, uf, hseq⟩ := hstep
  have hafter : headAfter (s.wgBy w) i ⟨s1, begun, pr, none⟩ =
      s1.putSeq (s1.wgBy w) ((s1.wgBy w).seq.stepDone i ((s.wgBy w).seq.step + 1) pr) := by
    unfold headAfter
    dsimp only
    rw [h.wid, if_neg]
    simp [hlast]
  have hput := congrArg Workgroup.seq (State.wgBy_putSeq s1 ((s1.wgBy w).seq.stepDone i ((s.wgBy w).seq.step + 1) pr) hw)
  dsimp only
  rw [hafter]
  exact ⟨hm, hn, rfl, rfl, (congrArg Sequencer.queue hput).trans ((congrArg Sequencer.queue hseq).trans h.queue), congrArg Sequencer.step hput⟩

end

/-! ## A fault of a step (R183) -/

theorem Sequencer.stop_head {q : Sequencer} {i : SeqInstr} {rest : List SeqInstr} (hq : q.queue = i :: rest) (cause step spos : Nat) :
    let y := q.stop cause step spos
    y.queue = i :: rest ∧ y.cause = cause ∧ y.sstep = step ∧ y.sidx = i.pos ∧ y.spc = i.pc ∧ y.spos = spos := by
  unfold Sequencer.stop
  dsimp only
  split
  next hnil => exact absurd (hnil.symm.trans hq) (List.cons_ne_nil _ _).symm
  next hcons =>
    obtain ⟨rfl, rfl⟩ := List.cons.inj (hcons.symm.trans hq)
    exact ⟨hq, rfl, rfl, rfl, rfl, rfl⟩

/-- The workgroup whose head instruction's own steps are stopped. -/
def Workgroup.headHeld (w : Workgroup) : Workgroup :=
  { w with seq := { w.seq with held := true, ownDone := false, probe := { w.seq.probe with got := [] } } }

theorem stopHead_stops {s : State} {x : Workgroup} {w code step : Nat} (hx : x.wid = w) (hw : (s.wgBy w).wid = w)
    (hrun : (s.wgBy w).seq.stopped = false) (hgone : (s.wgBy w).issuerGone = false) : stopHead x code step s =
      (s.putWg (s.wgBy w).headHeld).putSeq (s.wgBy w).headHeld ((s.wgBy w).headHeld.seq.stop code step 0) := by
  have hheld : (s.putWg (s.wgBy w).headHeld).wgBy w = (s.wgBy w).headHeld := State.wgBy_putWg_of_wid s hw
  subst hx
  refine (if_neg (Bool.eq_false_iff.mp hrun)).trans ?_
  change (s.putWg (s.wgBy x.wid).headHeld).stopSeq x.wid code step 0 = _
  unfold State.stopSeq
  rw [hheld]
  exact if_neg (Bool.eq_false_iff.mp hgone)

theorem headAfter_fault {s : State} {w : Nat} {i : SeqInstr} {rest : List SeqInstr} {begun : Bool} {pr : Probe} {c : Nat}
    (h : s.HeadReady w i rest) (hc : c ≠ 0) (hgone : (s.wgBy w).issuerGone = false) (hrun : (s.wgBy w).seq.stopped = false) :
    let u := headAfter (s.wgBy w) i ⟨s, begun, pr, some (.code c)⟩
    u.mem = s.mem ∧ u.net = s.net ∧ u.tmem = s.tmem ∧ u.lmem = s.lmem ∧ (u.wgBy w).seq.queue = i :: rest ∧ (u.wgBy w).seq.cause = c ∧
      (u.wgBy w).seq.sstep = (s.wgBy w).seq.step ∧ (u.wgBy w).seq.sidx = i.pos ∧ (u.wgBy w).seq.spc = i.pc ∧ (u.wgBy w).seq.spos = 0 := by
  generalize hy : { s.wgBy w with seq := { (s.wgBy w).seq with begun := begun, fault := none } } = y
  have hwid : y.wid = w := by rw [← hy]; exact h.wid
  have hqueue : y.headHeld.seq.queue = i :: rest := by rw [← hy]; exact h.queue
  have hput : (s.putWg y).wgBy w = y := State.wgBy_putWg_of_wid s hwid
  have hstop := stopHead_stops (s := s.putWg y) (code := c) (step := (s.wgBy w).seq.step) h.wid (by rw [hput]; exact hwid)
    (by rw [hput, ← hy]; exact hrun) (by rw [hput, ← hy]; exact hgone)
  rw [hput] at hstop
  have hafter : headAfter (s.wgBy w) i ⟨s, begun, pr, some (.code c)⟩ = stopHead (s.wgBy w) c (s.wgBy w).seq.step (s.putWg y) := by
    unfold headAfter waitFor
    dsimp only [Stop.noted, Stop.page?]
    rw [h.wid, if_neg hc, hy]
  dsimp only
  rw [hafter, hstop, State.wgBy_putSeq (w := y.headHeld) (wid := w) _ _ hwid]
  exact ⟨rfl, rfl, rfl, rfl, Sequencer.stop_head hqueue c _ 0⟩

/-! ## Cells of tile and local memory written by a step -/

/-- Nothing changes but local and tile memory and the records of plazas. -/
def State.onlyCells (s u : State) : Prop := ∃ ps lm tm, u = { s with plazas := ps, lmem := lm, tmem := tm }

theorem State.onlyCells_refl (s : State) : s.onlyCells s := ⟨_, _, _, rfl⟩

theorem State.onlyCells.wgBy_eq {s u : State} (h : s.onlyCells u) (w : Nat) : u.wgBy w = s.wgBy w := by
  obtain ⟨_, _, _, rfl⟩ := h
  rfl

theorem State.stepped_of_cells {s u : State} {w : Nat} (h : s.onlyCells u) (hw : (s.wgBy w).wid = w) : s.stepped u w := by
  obtain ⟨_, _, _, rfl⟩ := h
  exact ⟨rfl, rfl, rfl, rfl, hw, _, _, _, rfl⟩

theorem State.stepped_putWg {s u : State} {w : Nat} {y : Workgroup} (h : s.onlyCells u) (hy : y.wid = w)
    (hseq : ∃ sh mf uf, y.seq = { (s.wgBy w).seq with shape := sh, mflags := mf, unfold := uf }) : s.stepped (u.putWg y) w := by
  obtain ⟨_, _, _, rfl⟩ := h
  refine ⟨rfl, rfl, rfl, rfl, ?_⟩
  rw [State.wgBy_putWg_of_wid _ hy]
  exact ⟨hy, hseq⟩

theorem State.orMflags_wgBy {u : State} {w : Nat} (hw : (u.wgBy w).wid = w) (fl : BitVec 8) : (u.orMflags w fl).wgBy w =
    { u.wgBy w with seq := { (u.wgBy w).seq with mflags := (u.wgBy w).seq.mflags ||| fl } } :=
  State.wgBy_putWg_of_wid u (w := { u.wgBy w with seq := { (u.wgBy w).seq with mflags := (u.wgBy w).seq.mflags ||| fl } }) hw

theorem State.stepped_orMflags {s u : State} {w : Nat} (h : s.stepped u w) (fl : BitVec 8) : s.stepped (u.orMflags w fl) w := by
  obtain ⟨hm, hn, ho, hd, hw, sh, mf, uf, hseq⟩ := h
  refine ⟨hm, hn, ho, hd, ?_⟩
  rw [State.orMflags_wgBy hw]
  exact ⟨hw, sh, (u.wgBy w).seq.mflags ||| fl, uf, by rw [hseq]⟩

theorem cellAt_eq (x : Workgroup) (t r c : Nat) : cellAt x t r c = cellAt x t 0 0 + r * 512 + 4 * c := by
  unfold cellAt tileAt
  omega

theorem writeTile_eq (x : Workgroup) (t : Nat) (rows : List (Nat × List Nat)) (s : State) : ∃ ps, writeTile x t rows s =
    { s with plazas := ps, tmem := writeAll s.tmem (rows.map (fun r => (cellAt x t r.1 0, cellBytes r.2))) } := by
  induction rows generalizing s with
  | nil => exact ⟨_, rfl⟩
  | cons r rows ih =>
    obtain ⟨ps, hps⟩ := ih (writeRow x t r.1 0 r.2 s)
    exact ⟨ps, hps⟩

theorem writeTile_tmem (x : Workgroup) (t : Nat) (rows : List (Nat × List Nat)) (s : State) :
    (writeTile x t rows s).tmem = writeAll s.tmem (rows.map (fun r => (cellAt x t r.1 0, cellBytes r.2))) := by
  obtain ⟨ps, h⟩ := writeTile_eq x t rows s
  rw [h]

theorem writeTile_lmem (x : Workgroup) (t : Nat) (rows : List (Nat × List Nat)) (s : State) : (writeTile x t rows s).lmem = s.lmem := by
  obtain ⟨ps, h⟩ := writeTile_eq x t rows s
  rw [h]

theorem State.onlyCells_writeTile (x : Workgroup) (t : Nat) (rows : List (Nat × List Nat)) (s : State) : s.onlyCells (writeTile x t rows s) := by
  obtain ⟨ps, h⟩ := writeTile_eq x t rows s
  exact ⟨ps, _, _, h⟩

/-- A register's rows of at most 128 cells hold after the writes what was written. -/
theorem writeTile_cell {x : Workgroup} {t n len : Nat} {row : Nat → List Nat} {s : State} (hwf : Memory.wf s.tmem = true)
    (hlen : ∀ r, r < n → (row r).length = len) (hp : len ≤ 128) {r c : Nat} (hr : r < n) (hc : c < len) :
    memNat (writeTile x t ((List.range n).map (fun r => (r, row r))) s).tmem (cellAt x t r c) 4 = (row r).getD c 0 % 2 ^ 32 := by
  have hrows : ((List.range n).map (fun r => (r, row r))).map (fun r => (cellAt x t r.1 0, cellBytes r.2)) =
      (List.range n).map (fun r => (cellAt x t 0 0 + r * 512, cellBytes (row r))) := by
    rw [List.map_map]
    refine List.map_congr_left fun r _ => Prod.ext ?_ rfl
    exact (cellAt_eq x t r 0).trans (by rw [Nat.mul_zero, Nat.add_zero])
  rw [writeTile_tmem, hrows, cellAt_eq x t r c]
  exact memNat_writeRows hwf hlen (by omega) hr hc

theorem cellBytes_replicate (n : Nat) : cellBytes (List.replicate n 0) = List.replicate (4 * n) 0 := by
  induction n with
  | zero => rfl
  | succ n ih =>
    rw [List.replicate_succ, Nat.mul_succ, Nat.add_comm, List.replicate_add, ← ih]
    rfl

theorem memNat_lt (m : Memory) (a : Nat) : memNat m a 4 < 2 ^ 32 := by
  have h := leNat_lt (memRead m a 4)
  rw [memRead_length] at h
  exact h.trans_eq (by norm_num)

/-- A cleared register: its cells are zero and no other byte changes. -/
theorem writeTile_zero {x : Workgroup} {t n len : Nat} {s : State} (hwf : Memory.wf s.tmem = true) :
    let m := (writeTile x t ((List.range n).map (fun r => (r, List.replicate len 0))) s).tmem
    (∀ r c, r < n → c < len → memNat m (cellAt x t r c) 4 = 0) ∧
      ∀ a, (∀ r c, r < n → c < len → a < cellAt x t r c ∨ cellAt x t r c + 4 ≤ a) → memByte m a = memByte s.tmem a := by
  dsimp only
  rw [writeTile_tmem, List.map_map]
  refine ⟨fun r c hr hc => ?_, fun a ha => ?_⟩
  · refine (memNat_of_bytes (v := 0) fun k hk => ?_).trans (Nat.zero_mod _)
    have hz : (leBytes 4 0).getD k 0 = 0 := by
      interval_cases k <;> rfl
    rw [hz]
    refine memByte_writeAll_of_agree hwf ⟨_, List.mem_map.mpr ⟨r, List.mem_range.mpr hr, rfl⟩, ?_, ?_⟩ ?_
    · dsimp only [Function.comp]
      rw [cellAt_eq x t r 0, cellAt_eq x t r c]
      omega
    · dsimp only [Function.comp]
      rw [cellBytes_length, List.length_replicate, cellAt_eq x t r 0, cellAt_eq x t r c]
      omega
    · rintro _ hx h1 h2
      obtain ⟨r', -, rfl⟩ := List.mem_map.mp hx
      dsimp only [Function.comp] at h1 h2 ⊢
      rw [cellBytes_length, List.length_replicate] at h2
      rw [cellBytes_replicate, List.getD_eq_getElem _ _ (by rw [List.length_replicate]; omega), List.getElem_replicate]
  · refine memByte_writeAll_outside hwf fun y hy => ?_
    obtain ⟨r, hr, rfl⟩ := List.mem_map.mp hy
    dsimp only [Function.comp]
    rw [cellBytes_length, List.length_replicate]
    by_contra hn
    have hd : cellAt x t r ((a - cellAt x t r 0) / 4) = cellAt x t r 0 + 4 * ((a - cellAt x t r 0) / 4) := by
      rw [cellAt_eq x t r 0, cellAt_eq]
      omega
    have := ha r ((a - cellAt x t r 0) / 4) (List.mem_range.mp hr) (by omega)
    omega

/-! ## Rows read and fetched -/

theorem mapM_pure_of_mem {m : Type → Type} [Monad m] [LawfulMonad m] {α β : Type} {f : α → m β} {g : α → β} {l : List α}
    (h : ∀ a ∈ l, f a = pure (g a)) : l.mapM f = pure (l.map g) := by
  induction l with
  | nil => rw [List.mapM_nil, List.map_nil]
  | cons a l ih =>
    rw [List.mapM_cons, h a List.mem_cons_self, ih fun b hb => h b (List.mem_cons_of_mem _ hb), pure_bind, pure_bind, List.map_cons]

/-- The cells of a row of a register. -/
def tileRow (s : State) (x : Workgroup) (t n r : Nat) : List Nat := (List.range n).map (fun c => memNat s.tmem (cellAt x t r c) 4)

theorem tileRow_length (s : State) (x : Workgroup) (t n r : Nat) : (tileRow s x t n r).length = n := by
  rw [tileRow, List.length_map, List.length_range]

theorem tileRow_getD (s : State) (x : Workgroup) (t : Nat) {n r c : Nat} (hc : c < n) :
    (tileRow s x t n r).getD c 0 = memNat s.tmem (cellAt x t r c) 4 := by
  rw [tileRow, List.getD_eq_getElem _ _ (by simpa using hc), List.getElem_map, List.getElem_range]

theorem readTile_good {s : State} {x : Workgroup} {t n : Nat} {rs : List Nat} (h : ∀ r ∈ rs, s.tileBad x t r 0 n = false) :
    readTile s x t rs n = some (rs.map (tileRow s x t n)) :=
  mapM_pure_of_mem fun r hr => if_neg (Bool.eq_false_iff.mp (h r hr))

theorem localWrites_eq (plaza : Nat) (l : List (Nat × List Byte)) (s : State) :
    ∃ ps, l.foldl (fun s x => s.localWrite plaza x.1 x.2) s =
      { s with plazas := ps, lmem := writeAll s.lmem (l.map (fun x => (localAt plaza x.1, x.2))) } := by
  induction l generalizing s with
  | nil => exact ⟨_, rfl⟩
  | cons x l ih =>
    obtain ⟨ps, hps⟩ := ih (s.localWrite plaza x.1 x.2)
    exact ⟨ps, hps⟩

/-! ## The tile instructions and `UFDEF` (R187, R191) -/

theorem SeqInstr.steps_of_other {i : SeqInstr} (h : ¬(0xC8 ≤ i.op.toNat ∧ i.op.toNat ≤ 0xCE)) : i.steps = 1 := if_neg h

theorem tileReg_lt (imm : BitVec 11) : tileReg imm < 8 := Nat.mod_lt _ (by decide)

theorem Sequencer.shapeOf_of_vset {q q' : Sequencer} {t : Nat} {x : Shape} (ht : t < 8) (h : q'.shape = vset q.shape t x) : q'.shapeOf t = x := by
  unfold Sequencer.shapeOf
  rw [h, vget_vset, if_pos ⟨rfl, ht⟩]

/-- The descriptor that `UFDEF` defines (R187). -/
def Workgroup.setUnfold (w : Workgroup) (i : SeqInstr) : Workgroup :=
  { w with seq := { w.seq with unfold := some (BitVec.ofNat 5 (typeOf i.func), i.a, i.b, i.ext) } }

section
variable {s s1 : State} {w : Nat} {i : SeqInstr} {rest : List SeqInstr} (h : s.HeadReady w i rest) (hfree : s.headFree (s.wgBy w) i)
include h hfree

theorem execKStep_last (hsteps : i.steps = 1) (hstep : s.stepped s1 w)
    (hrun : runStep i (s.wgBy w) (s.wgBy w) 0 (s.wgBy w).seq.step (s.wgBy w).seq.begun (s.wgBy w).seq.probe s =
      ⟨s1, true, (s.wgBy w).seq.probe, none⟩) : ∃ u, exec (.kStep w) s = .next u ∧ s.headEnds s1 u w i rest := by
  refine ⟨_, execKStep_after h (.inr hfree), ?_⟩
  rw [hrun]
  exact headAfter_last h hstep h.writes (by rw [hsteps]; exact Nat.le_add_left _ _)

theorem execKStep_tile (hop : i.op.toNat ≤ 0xC4) (hstep : s.stepped s1 w) (hrun : runTileStep (s.wgBy w) i s = .ok s1) :
    ∃ u, exec (.kStep w) s = .next u ∧ s.headEnds s1 u w i rest := by
  refine execKStep_last h hfree (SeqInstr.steps_of_other (by omega)) hstep ((if_pos hop).trans ?_)
  rw [hrun]
  rfl

theorem execKStep_tile_fault {c : Nat} (hop : i.op.toNat ≤ 0xC4) (hrun : runTileStep (s.wgBy w) i s = .error c) :
    exec (.kStep w) s = .next (headAfter (s.wgBy w) i ⟨s, false, (s.wgBy w).seq.probe, some (.code c)⟩) := by
  refine (execKStep_after h (.inr hfree)).trans (congrArg (fun r => Host.Outcome.next (headAfter (s.wgBy w) i r)) ((if_pos hop).trans ?_))
  rw [hrun]
  rfl

theorem execKStep_tdef (hop : i.op = 0xC0) : ∃ u, exec (.kStep w) s = .next u ∧
    s.headEnds (s.putWg ((s.wgBy w).setShape (tileReg i.imm11) ⟨tdefRows i.ext, tdefCols i.ext, resultTag i.func⟩)) u w i rest := by
  refine execKStep_tile h hfree (by rw [hop]; decide) (State.stepped_putWg s.onlyCells_refl h.wid ⟨_, _, _, rfl⟩) ?_
  unfold runTileStep
  rw [hop]
  rfl

theorem execKStep_tzero (hop : i.op = 0xC1) : ∃ u, exec (.kStep w) s = .next u ∧
    s.headEnds (writeTile (s.wgBy w) (tileReg i.imm11) ((List.range ((s.wgBy w).seq.shapeOf (tileReg i.imm11)).rows).map
      (fun r => (r, List.replicate ((s.wgBy w).seq.shapeOf (tileReg i.imm11)).cols 0))) s) u w i rest := by
  refine execKStep_tile h hfree (by rw [hop]; decide) (State.stepped_of_cells (State.onlyCells_writeTile _ _ _ s) h.wid) ?_
  unfold runTileStep
  rw [hop]
  rfl

theorem execKStep_ufdef (hop : i.op = 0xC7) :
    ∃ u, exec (.kStep w) s = .next u ∧ s.headEnds (s.putWg ((s.wgBy w).setUnfold i)) u w i rest := by
  have hnat : i.op.toNat = 0xC7 := by rw [hop]; rfl
  refine execKStep_last h hfree (SeqInstr.steps_of_other (by omega))
    (State.stepped_putWg s.onlyCells_refl h.wid ⟨_, _, _, rfl⟩) ?_
  exact (if_neg (by omega)).trans (if_pos hnat)

end

/-! ### `TLD` of `.f32` -/

/-- The cells that a loaded row of `.f32` fills. -/
def loadedRow (len : Nat) (bs : List Byte) : List Nat := (List.range len).map (fun c => leNat ((bs.drop (4 * c)).take 4))

theorem loadedRow_getD {len c : Nat} (hc : c < len) (bs : List Byte) : (loadedRow len bs).getD c 0 % 2 ^ 32 = leNat ((bs.drop (4 * c)).take 4) := by
  rw [loadedRow, List.getD_eq_getElem _ _ (by simpa using hc), List.getElem_map, List.getElem_range]
  refine Nat.mod_eq_of_lt ((leNat_lt _).trans_le ?_)
  calc 256 ^ ((bs.drop (4 * c)).take 4).length ≤ 256 ^ 4 := Nat.pow_le_pow_right (by decide) (List.length_take_le _ _)
    _ = 2 ^ 32 := by norm_num

/-- What `TLD` of some rows leaves before its flags: the cells, and the shape. -/
def tldResult (x : Workgroup) (i : SeqInstr) (row : Nat → List Byte) (s : State) : State :=
  (writeTile x (tileReg i.imm11) ((List.range (tileRows i.ext)).map (fun r => (r, loadedRow (tileCols i.ext) (row r)))) s).putWg
    (x.setShape (tileReg i.imm11) ⟨tileRows i.ext, tileCols i.ext, accTag (typeOf i.func)⟩)

theorem tileCols_le (ext : W64) : tileCols ext ≤ 128 := Nat.succ_le_of_lt (Nat.mod_lt _ (by decide))

theorem tldResult_cell {x : Workgroup} {i : SeqInstr} {s : State} (hwf : Memory.wf s.tmem = true) (row : Nat → List Byte) {r c : Nat}
    (hr : r < tileRows i.ext) (hc : c < tileCols i.ext) : memNat (tldResult x i row s).tmem (cellAt x (tileReg i.imm11) r c) 4 =
      (loadedRow (tileCols i.ext) (row r)).getD c 0 % 2 ^ 32 :=
  writeTile_cell hwf (fun r _ => by rw [loadedRow, List.length_map, List.length_range]) (tileCols_le i.ext) hr hc

theorem tldResult_shape {x : Workgroup} {i : SeqInstr} {s : State} {w : Nat} (hx : x.wid = w) (row : Nat → List Byte) (fl : BitVec 8) :
    (((tldResult x i row s).orMflags w fl).wgBy w).seq.shape =
      vset x.seq.shape (tileReg i.imm11) ⟨tileRows i.ext, tileCols i.ext, accTag (typeOf i.func)⟩ := by
  have hput : (tldResult x i row s).wgBy w = x.setShape (tileReg i.imm11) ⟨tileRows i.ext, tileCols i.ext, accTag (typeOf i.func)⟩ :=
    State.wgBy_putWg_of_wid _ hx
  rw [State.orMflags_wgBy (by rw [hput]; exact hx), hput]
  rfl

theorem runTld_f32 {x : Workgroup} {i : SeqInstr} {s : State} (hx : s.wgBy x.wid = x) (ht : typeOf i.func = 8)
    (hfzi : ctlBit i.func 7 = false) {row : Nat → List Byte}
    (hrow : ∀ r, r < tileRows i.ext → fetchLocal s (plazaOf x.anchor) (x.lbase + tileOff i.ext + r * tilePitch i.ext) (4 * tileCols i.ext) =
      .ok (row r)) : ∃ fl, runTld x i s = .ok ((tldResult x i row s).orMflags x.wid fl) := by
  unfold runTld
  generalize (parseImage (vget i.imgs (typeOf i.func - 16) 0)).getD Narrow.std = K
  have hfst : ∀ l : List Nat, (l.map (fun v => (v, (0 : BitVec 7)))).map Prod.fst = l := fun l => by
    rw [List.map_map]
    exact List.map_id l
  dsimp only
  rw [mapM_pure_of_mem (m := Except Nat) (g := fun r => (loadedRow (tileCols i.ext) (row r)).map (fun v => (v, (0 : BitVec 7)))), pure_bind,
    List.map_map]
  · have hwg := fun rows => (State.onlyCells_writeTile x (tileReg i.imm11) rows s).wgBy_eq x.wid
    simp only [Function.comp_def, hfst, hwg, hx]
    rw [← List.map_prod_left_eq_zip]
    exact ⟨_, rfl⟩
  · intro r hr
    refine (if_pos ht).trans ?_
    refine (congrArg (Except.map _) (hrow r (List.mem_range.mp hr))).trans ?_
    rw [hfzi, loadedRow, List.map_map]
    rfl

section
variable {s : State} {w : Nat} {i : SeqInstr} {rest : List SeqInstr} (h : s.HeadReady w i rest) (hfree : s.headFree (s.wgBy w) i)
include h hfree

theorem execKStep_tld (hop : i.op = 0xC2) (ht : typeOf i.func = 8) (hfzi : ctlBit i.func 7 = false) {row : Nat → List Byte}
    (hrow : ∀ r, r < tileRows i.ext → fetchLocal s (plazaOf (s.wgBy w).anchor) ((s.wgBy w).lbase + tileOff i.ext + r * tilePitch i.ext)
      (4 * tileCols i.ext) = .ok (row r)) : ∃ u fl, exec (.kStep w) s = .next u ∧
        s.headEnds ((tldResult (s.wgBy w) i row s).orMflags w fl) u w i rest := by
  obtain ⟨fl, hrun⟩ := runTld_f32 (by rw [h.wid]) ht hfzi hrow
  rw [h.wid] at hrun
  have hstep : s.stepped (tldResult (s.wgBy w) i row s) w :=
    State.stepped_putWg (State.onlyCells_writeTile _ _ _ s) h.wid ⟨_, _, _, rfl⟩
  have htile : runTileStep (s.wgBy w) i s = runTld (s.wgBy w) i s := by
    unfold runTileStep
    rw [hop]
    rfl
  obtain ⟨u, hu, hends⟩ := execKStep_tile h hfree (by rw [hop]; decide) (State.stepped_orMflags hstep fl) (htile.trans hrun)
  exact ⟨u, fl, hu, hends⟩

end

/-! ### `TST` of `.f32` -/

theorem storeRow_f32 {s : State} {plaza r : Nat} {g : Stored} {i : SeqInstr} {cells : List Nat} (ht : g.t = 8) (hfunc : typeOf i.func = 8)
    (hlen : cells.length = g.len) : ∃ fl, storeRow s plaza g i r cells = .ok ([(g.base + r * g.pitch, cellBytes cells)], fl) := by
  have hw : g.w = 32 := by
    unfold Stored.w
    rw [ht]
    rfl
  have hbytes : g.rowBytes = 4 * cells.length := by
    unfold Stored.rowBytes
    rw [hw, hlen]
    omega
  have hfst : (cells.map (storeCell i.func)).map Prod.fst = cells := by
    have hcell : ∀ x, (storeCell i.func x).1 = x := fun x => congrArg Prod.fst (if_pos (.inl hfunc))
    rw [List.map_map]
    exact (List.map_congr_left fun x _ => hcell x).trans (List.map_id cells)
  have hnarrow : ¬isNarrow g.t = true := by
    rw [ht]
    decide
  unfold storeRow
  rw [if_neg hnarrow]
  dsimp only
  rw [hfst, hw, hbytes, leBytes_packElems]
  exact ⟨_, rfl⟩

/-- What `TST` of `.f32` writes: each row of cells at its place in local memory. -/
def tstWrites (x : Workgroup) (i : SeqInstr) (s : State) : List (Nat × List Byte) :=
  (List.range (tileRows i.ext)).map (fun r =>
    (x.lbase + tileOff i.ext + r * tilePitch i.ext, cellBytes (tileRow s x (tileReg i.imm11) (tileCols i.ext) r)))

def tstResult (x : Workgroup) (i : SeqInstr) (s : State) : State :=
  (tstWrites x i s).foldl (fun s y => s.localWrite (plazaOf x.anchor) y.1 y.2) s

theorem runTst_f32 {x : Workgroup} {i : SeqInstr} {s : State} (ht : typeOf i.func = 8)
    (hgood : ∀ r, r < tileRows i.ext → s.tileBad x (tileReg i.imm11) r 0 (tileCols i.ext) = false)
    (hbank : ∀ r, r < tileRows i.ext →
      (s.plaza (plazaOf x.anchor)).badBank (x.lbase + tileOff i.ext + r * tilePitch i.ext) (4 * tileCols i.ext) = none) :
    ∃ fl, runTst x i s = .ok ((tstResult x i s).orMflags x.wid fl) := by
  unfold runTst
  generalize (parseImage (vget i.imgs (typeOf i.func - 16) 0)).getD Narrow.std = K
  have hread := readTile_good (fun r hr => hgood r (List.mem_range.mp hr))
  choose fl hfl using fun r => storeRow_f32 (s := s) (plaza := plazaOf x.anchor) (r := r) (g := tileStored x i.func i.ext K) (i := i) ht ht
    (tileRow_length s x (tileReg i.imm11) (tileCols i.ext) r)
  have hout := mapM_pure_of_mem (m := Except Nat)
    (l := (List.range (tileRows i.ext)).map (fun r => (r, tileRow s x (tileReg i.imm11) (tileCols i.ext) r)))
    (f := fun y => storeRow s (plazaOf x.anchor) (tileStored x i.func i.ext K) i y.1 y.2)
    (g := fun y => ([(x.lbase + tileOff i.ext + y.1 * tilePitch i.ext, cellBytes y.2)], fl y.1)) (fun y hy => by
      obtain ⟨r, -, rfl⟩ := List.mem_map.mp hy
      exact hfl r)
  have hbad : (tstWrites x i s).any (fun y => ((s.plaza (plazaOf x.anchor)).badBank y.1 y.2.length).isSome) = false := by
    refine List.any_eq_false.mpr fun y hy => ?_
    obtain ⟨r, hr, rfl⟩ := List.mem_map.mp hy
    rw [cellBytes_length, tileRow_length, hbank r (List.mem_range.mp hr)]
    decide
  dsimp only
  rw [show (tileStored x i.func i.ext K).rows = tileRows i.ext from rfl, show (tileStored x i.func i.ext K).len = tileCols i.ext from rfl, hread]
  dsimp only
  rw [← List.map_prod_left_eq_zip, hout, pure_bind, List.map_map, List.map_map]
  have hflat : ((List.range (tileRows i.ext)).map (fun r => [(x.lbase + tileOff i.ext + r * tilePitch i.ext,
      cellBytes (tileRow s x (tileReg i.imm11) (tileCols i.ext) r))])).flatten = tstWrites x i s :=
    (List.flatMap_def ..).symm.trans (List.map_eq_flatMap ..).symm
  simp only [Function.comp_def, hflat]
  rw [if_neg (Bool.eq_false_iff.mp hbad)]
  exact ⟨_, rfl⟩

theorem tstResult_eq (x : Workgroup) (i : SeqInstr) (s : State) : s.onlyCells (tstResult x i s) ∧ (tstResult x i s).tmem = s.tmem ∧
    (tstResult x i s).lmem = writeAll s.lmem ((List.range (tileRows i.ext)).map (fun r =>
      (localAt (plazaOf x.anchor) (x.lbase + tileOff i.ext) + r * tilePitch i.ext,
        cellBytes (tileRow s x (tileReg i.imm11) (tileCols i.ext) r)))) := by
  obtain ⟨ps, h⟩ := localWrites_eq (plazaOf x.anchor) (tstWrites x i s) s
  have hplace : (tstWrites x i s).map (fun y => (localAt (plazaOf x.anchor) y.1, y.2)) = (List.range (tileRows i.ext)).map (fun r =>
      (localAt (plazaOf x.anchor) (x.lbase + tileOff i.ext) + r * tilePitch i.ext,
        cellBytes (tileRow s x (tileReg i.imm11) (tileCols i.ext) r))) := by
    rw [tstWrites, List.map_map]
    refine List.map_congr_left fun r _ => Prod.ext ?_ rfl
    exact (Nat.add_assoc _ _ _).symm
  rw [hplace] at h
  unfold tstResult
  rw [h]
  exact ⟨⟨_, _, _, rfl⟩, rfl, rfl⟩

theorem tstResult_cell {x : Workgroup} {i : SeqInstr} {s : State} (hwf : Memory.wf s.lmem = true) (hp : 4 * tileCols i.ext ≤ tilePitch i.ext)
    {r c : Nat} (hr : r < tileRows i.ext) (hc : c < tileCols i.ext) :
    memNat (tstResult x i s).lmem (localAt (plazaOf x.anchor) (x.lbase + tileOff i.ext + r * tilePitch i.ext + 4 * c)) 4 =
      memNat s.tmem (cellAt x (tileReg i.imm11) r c) 4 := by
  have hplace : localAt (plazaOf x.anchor) (x.lbase + tileOff i.ext + r * tilePitch i.ext + 4 * c) =
      localAt (plazaOf x.anchor) (x.lbase + tileOff i.ext) + r * tilePitch i.ext + 4 * c := by
    unfold localAt
    omega
  obtain ⟨-, -, hl⟩ := tstResult_eq x i s
  rw [hplace, hl, memNat_writeRows hwf (fun r _ => tileRow_length s x (tileReg i.imm11) (tileCols i.ext) r) hp hr hc, tileRow_getD s x _ hc]
  exact Nat.mod_eq_of_lt (memNat_lt _ _)

theorem execKStep_tst {s : State} {w : Nat} {i : SeqInstr} {rest : List SeqInstr} (h : s.HeadReady w i rest) (hfree : s.headFree (s.wgBy w) i)
    (hop : i.op = 0xC3) (ht : typeOf i.func = 8)
    (hgood : ∀ r, r < tileRows i.ext → s.tileBad (s.wgBy w) (tileReg i.imm11) r 0 (tileCols i.ext) = false)
    (hbank : ∀ r, r < tileRows i.ext → (s.plaza (plazaOf (s.wgBy w).anchor)).badBank
      ((s.wgBy w).lbase + tileOff i.ext + r * tilePitch i.ext) (4 * tileCols i.ext) = none) :
    ∃ u fl, exec (.kStep w) s = .next u ∧ s.headEnds ((tstResult (s.wgBy w) i s).orMflags w fl) u w i rest := by
  obtain ⟨fl, hrun⟩ := runTst_f32 ht hgood hbank
  rw [h.wid] at hrun
  have hstep : s.stepped (tstResult (s.wgBy w) i s) w := State.stepped_of_cells (tstResult_eq (s.wgBy w) i s).1 h.wid
  have htile : runTileStep (s.wgBy w) i s = runTst (s.wgBy w) i s := by
    unfold runTileStep
    rw [hop]
    rfl
  obtain ⟨u, hu, hends⟩ := execKStep_tile h hfree (by rw [hop]; decide) (State.stepped_orMflags hstep fl) (htile.trans hrun)
  exact ⟨u, fl, hu, hends⟩

/-! ## A k-step of `MMA` (R184) -/

/-- The products of a k-step for one cell. -/
def mmaPairs (A B : Nat → Nat → Val) (ks r c : Nat) : List (Val × Val) := (List.range ks).map (fun k => (A r k, B k c))

/-- A cell of D after a k-step. -/
def mmaCell (s : State) (x : Workgroup) (m : Mul) (A B : Nat → Nat → Val) (r c : Nat) : Nat × BitVec 8 :=
  foldGroups (isInt (mulTA m.func)) (groupOf m.cls) (memNat s.tmem (cellAt x (mulD m.imm) r c) 4) (mmaPairs A B m.ks r c)

section
variable {s : State} {x : Workgroup} {m : Mul} {i : SeqInstr} {step : Nat} {A B : Nat → Nat → Val}
  (hA : ∀ r, r < mulM m.imm → fetchRow s (plazaOf x.anchor) (m.regA x.lbase) i.imgs false r (step * m.ks) (step * m.ks + m.ks) =
    .ok ((List.range m.ks).map (A r)))
  (hB : if mulBT m.imm then ∀ c, c < mulN m.ext →
      fetchRow s (plazaOf x.anchor) (m.regB x.lbase) i.imgs false c (step * m.ks) (step * m.ks + m.ks) =
        .ok ((List.range m.ks).map (fun k => B k c))
    else ∀ k, k < m.ks → fetchRow s (plazaOf x.anchor) (m.regB x.lbase) i.imgs false (k + step * m.ks) 0 (mulN m.ext) =
      .ok ((List.range (mulN m.ext)).map (B k)))

include hA in
theorem rowsOfA_fetched (hop : m.op = 0xC8) : rowsOfA s m i x (List.range (mulM m.imm)) (step * m.ks) (step * m.ks + m.ks) =
    .ok ((List.range (mulM m.imm)).map (fun r => (List.range m.ks).map (A r))) := by
  refine (if_neg (by rw [hop]; decide)).trans (mapM_pure_of_mem (m := Except Nat) fun r hr => ?_)
  exact hA r (List.mem_range.mp hr)

include hB in
theorem colsOfB_fetched (hop : m.op = 0xC8) : colsOfB s m i x 0 (mulN m.ext) (step * m.ks) (step * m.ks + m.ks) =
    .ok ((List.range (mulN m.ext)).map (fun c => (List.range m.ks).map (fun k => B k c))) := by
  unfold colsOfB
  dsimp only
  rw [if_neg (by rw [hop]; decide), Nat.sub_zero, Nat.add_sub_cancel_left]
  by_cases hT : mulBT m.imm = true
  · rw [if_pos hT] at hB ⊢
    rw [show (fun c => c + 0) = (id : Nat → Nat) from rfl, List.map_id]
    exact mapM_pure_of_mem (m := Except Nat) fun c hc => hB c (List.mem_range.mp hc)
  · rw [if_neg hT] at hB ⊢
    have hrows := mapM_pure_of_mem (m := Except Nat) (l := (List.range m.ks).map (· + step * m.ks))
      (f := fun k => fetchRow s (plazaOf x.anchor) (m.regB x.lbase) i.imgs false k 0 (mulN m.ext))
      (g := fun a => (List.range (mulN m.ext)).map (B (a - step * m.ks))) (fun a ha => by
        obtain ⟨k, hk, rfl⟩ := List.mem_map.mp ha
        rw [Nat.add_sub_cancel]
        exact hB k (List.mem_range.mp hk))
    rw [hrows, List.map_map]
    refine congrArg Except.ok ?_
    refine List.map_congr_left fun c hc => ?_
    rw [List.map_map]
    refine List.map_congr_left fun k _ => ?_
    simp only [Function.comp, Nat.add_sub_cancel]
    rw [List.getD_eq_getElem _ _ (by simpa using hc), List.getElem_map, List.getElem_range]

include hA hB in
theorem contributions_mma (hop : m.op = 0xC8) : contributions s m i x (List.range (mulM m.imm)) 0 (mulN m.ext) step =
    .ok ((List.range (mulM m.imm)).map (fun r => (List.range (mulN m.ext)).map (fun c => mmaPairs A B m.ks r c))) := by
  have hpairs : ∀ r c, ((List.range m.ks).map (A r)).zip ((List.range m.ks).map (fun k => B k c)) = mmaPairs A B m.ks r c :=
    fun r c => List.zip_map'
  unfold contributions
  dsimp only
  rw [hop, rowsOfA_fetched hA hop, colsOfB_fetched hB hop]
  refine congrArg Except.ok ?_
  simp only [List.map_map, Function.comp_def, hpairs]

theorem partCols_zero (hn : mulN m.ext ≤ 128) : partCols m 0 = (0, mulN m.ext) := by
  unfold partCols
  rw [Nat.mul_zero, Nat.zero_add, Nat.min_eq_left hn]

include hA hB in
theorem stepMul_mma {y : Workgroup} (hop : m.op = 0xC8) (hn : mulN m.ext ≤ 128)
    (hgood : ∀ r, r < mulM m.imm → s.tileBad y (mulD m.imm) r 0 (mulN m.ext) = false) :
    ∃ fl, stepMul m i x y 0 step (List.range (mulM m.imm)) s = .ok ((writeTile y (mulD m.imm) ((List.range (mulM m.imm)).map (fun r =>
      (r, (List.range (mulN m.ext)).map (fun c => (mmaCell s y m A B r c).1)))) s).orMflags y.wid fl) := by
  have hM : ¬(List.range (mulM m.imm)).isEmpty = true := by
    rw [List.isEmpty_iff, List.range_eq_nil]
    exact (Nat.mul_pos (by decide) (Nat.pow_pos (by decide))).ne'
  have hread := readTile_good (fun r hr => hgood r (List.mem_range.mp hr))
  have hcells : ∀ r, ((tileRow s y (mulD m.imm) (mulN m.ext) r).zip ((List.range (mulN m.ext)).map (fun c => mmaPairs A B m.ks r c))).map
      (fun z => foldGroups (isInt (mulTA m.func)) (groupOf m.cls) z.1 z.2) = (List.range (mulN m.ext)).map (mmaCell s y m A B r) := fun r => by
    rw [tileRow, List.zip_map', List.map_map]
    rfl
  unfold stepMul
  rw [partCols_zero hn]
  dsimp only
  rw [if_neg hM, Nat.sub_zero, hread, contributions_mma hA hB hop]
  dsimp only
  have hout : (((List.range (mulM m.imm)).map (tileRow s y (mulD m.imm) (mulN m.ext))).zip
      ((List.range (mulM m.imm)).map (fun r => (List.range (mulN m.ext)).map (fun c => mmaPairs A B m.ks r c)))).map
      (fun z => (z.1.zip z.2).map (fun v => foldGroups (isInt (mulTA m.func)) (groupOf m.cls) v.1 v.2)) =
        (List.range (mulM m.imm)).map (fun r => (List.range (mulN m.ext)).map (mmaCell s y m A B r)) := by
    rw [List.zip_map', List.map_map]
    exact List.map_congr_left fun r _ => hcells r
  simp only [bind, Except.bind, hout]
  rw [List.map_map, ← List.map_prod_left_eq_zip]
  simp only [Function.comp_def, List.map_map]
  exact ⟨_, rfl⟩

end

theorem groupOf_pos (c : Nat) : 0 < groupOf c := by
  unfold groupOf
  split_ifs
  all_goals decide

theorem mmaCell_int {s : State} {x : Workgroup} {m : Mul} (hint : isInt (mulTA m.func) = true) (A B : Nat → Nat → Val) (r c : Nat) :
    (((mmaCell s x m A B r c).1 % 2 ^ 32 : Nat) : Int) = (toSigned 32 (memNat s.tmem (cellAt x (mulD m.imm) r c) 4) +
      ((List.range m.ks).map (fun k => valInt (A r k) * valInt (B k c))).sum) % 2 ^ 32 := by
  have hsum : productSum (mmaPairs A B m.ks r c) = ((List.range m.ks).map (fun k => valInt (A r k) * valInt (B k c))).sum := by
    rw [productSum, mmaPairs, List.map_map]
    rfl
  rw [← hsum, ← foldGroups_int (groupOf_pos m.cls), mmaCell, hint, Int.natCast_emod]
  rfl

/-- What a k-step of `MMA` leaves before its flags. -/
def mmaResult (s : State) (x : Workgroup) (m : Mul) (A B : Nat → Nat → Val) : State :=
  writeTile x (mulD m.imm) ((List.range (mulM m.imm)).map (fun r => (r, (List.range (mulN m.ext)).map (fun c => (mmaCell s x m A B r c).1)))) s

theorem mmaResult_cell {s : State} {x : Workgroup} {m : Mul} (A B : Nat → Nat → Val) (hwf : Memory.wf s.tmem = true) (hn : mulN m.ext ≤ 128)
    {r c : Nat} (hr : r < mulM m.imm) (hc : c < mulN m.ext) :
    memNat (mmaResult s x m A B).tmem (cellAt x (mulD m.imm) r c) 4 = (mmaCell s x m A B r c).1 % 2 ^ 32 := by
  refine (writeTile_cell hwf (fun r _ => by rw [List.length_map, List.length_range]) hn hr hc).trans ?_
  rw [List.getD_eq_getElem _ _ (by simpa using hc), List.getElem_map, List.getElem_range]

theorem execKStep_mma {s : State} {w : Nat} {i : SeqInstr} {rest : List SeqInstr} {A B : Nat → Nat → Val} (h : s.HeadReady w i rest)
    (hop : i.op = 0xC8) (hbegun : (s.wgBy w).seq.begun = true) (hn : mulN i.ext ≤ 128)
    (hgood : ∀ r, r < mulM i.imm11 → s.tileBad (s.wgBy w) (mulD i.imm11) r 0 (mulN i.ext) = false)
    (hA : ∀ r, r < mulM i.imm11 → fetchRow s (plazaOf (s.wgBy w).anchor) (i.mul.regA (s.wgBy w).lbase) i.imgs false r
      ((s.wgBy w).seq.step * i.mul.ks) ((s.wgBy w).seq.step * i.mul.ks + i.mul.ks) = .ok ((List.range i.mul.ks).map (A r)))
    (hB : if mulBT i.imm11 then ∀ c, c < mulN i.ext → fetchRow s (plazaOf (s.wgBy w).anchor) (i.mul.regB (s.wgBy w).lbase) i.imgs false c
        ((s.wgBy w).seq.step * i.mul.ks) ((s.wgBy w).seq.step * i.mul.ks + i.mul.ks) = .ok ((List.range i.mul.ks).map (fun k => B k c))
      else ∀ k, k < i.mul.ks → fetchRow s (plazaOf (s.wgBy w).anchor) (i.mul.regB (s.wgBy w).lbase) i.imgs false
        (k + (s.wgBy w).seq.step * i.mul.ks) 0 (mulN i.ext) = .ok ((List.range (mulN i.ext)).map (B k))) :
    ∃ fl, s.stepped ((mmaResult s (s.wgBy w) i.mul A B).orMflags w fl) w ∧ exec (.kStep w) s = .next (headAfter (s.wgBy w) i
      ⟨(mmaResult s (s.wgBy w) i.mul A B).orMflags w fl, true, (s.wgBy w).seq.probe, none⟩) := by
  have hnat : i.op.toNat = 0xC8 := by rw [hop]; rfl
  obtain ⟨fl, hstepMul⟩ := stepMul_mma (m := i.mul) (y := s.wgBy w) hA hB hnat hn hgood
  rw [h.wid] at hstepMul
  refine ⟨fl, State.stepped_orMflags (State.stepped_of_cells (State.onlyCells_writeTile _ _ _ s) h.wid) fl, ?_⟩
  refine (execKStep_after h (.inl hbegun)).trans (congrArg (fun r => Host.Outcome.next (headAfter (s.wgBy w) i r)) ?_)
  unfold runStep
  dsimp only
  rw [hnat, if_neg (by decide), if_neg (by decide), if_neg (by decide), if_pos (by decide), if_pos hbegun, h.wid]
  exact congrArg (fun r => ranOf s true (s.wgBy w).seq.probe (Except.mapError Stop.code r)) hstepMul

/-! ## The open batch after the issuer's exit (R196) -/

theorem execIssuerExitCommit_commits {s : State} {w : Nat} (hp : (s.wgBy w).seq.pendingCommit = true)
    (hf : (s.wgBy w).seq.holds (s.wgBy w).seq.nextNo = false) :
    exec (.issuerExitCommit w) s = .next (s.putSeq (s.wgBy w) (s.wgBy w).seq.commit) :=
  congrArg Host.Outcome.next (if_pos (by rw [hp, hf]; rfl))

theorem execIssuerExitCommit_waits {s : State} {w : Nat}
    (h : (s.wgBy w).seq.pendingCommit = false ∨ (s.wgBy w).seq.holds (s.wgBy w).seq.nextNo = true) :
    exec (.issuerExitCommit w) s = .next s := by
  refine congrArg Host.Outcome.next (if_neg ?_)
  obtain h | h := h <;> simp [h]

/-- Settles O51: the step of the head leaves what its own function leaves of the cells, `headAfter` ends it, and a step that fails stops it. -/
theorem sequencerStepEvents : Obligations.SequencerStepEvents := by
  intro s w x hwid
  refine ⟨execIssuerExitCommit_commits, execIssuerExitCommit_waits,
    fun g i rest hg hrunning hpart hqueue hheld hfault hown hflight hwrites hparts hdone hwfl hwft => ?_⟩
  have h : s.HeadReady w i rest := ⟨hwid, ⟨g, hg, hrunning⟩, hpart, hqueue, hheld, hfault, hown, hflight, hwrites, hparts, hdone⟩
  refine ⟨fun _ hstep hmix hdoom hitems hjobs => ?_, fun hop hbegun hlt hn hgood A B hA hB => ?mma⟩
  · have hfree : s.headFree (s.wgBy w) i := ⟨hmix, hdoom, hitems, hjobs⟩
    refine ⟨fun hop => ?tdef, fun hop => ?tzero, fun hop ht hfzi row hrow => ?tld, fun hop ht hp hgood hbank => ?tst, fun hop => ?ufdef,
      fun c _ hop hrun hc hgone hstopped => ?fault⟩
    case tdef =>
      obtain ⟨u, hu, hm, hn, hl, ht, hends, hshape, -⟩ := execKStep_tdef h hfree hop
      rw [State.wgBy_putWg_of_wid (w := x.setShape (tileReg i.imm11) _) s hwid] at hshape
      exact ⟨u, hu, hm, hn, hends, ht, hl, Sequencer.shapeOf_of_vset (q := x.seq) (tileReg_lt _) hshape⟩
    case tzero =>
      obtain ⟨u, hu, hm, hn, hl, ht, hends, -, -⟩ := execKStep_tzero h hfree hop
      refine ⟨u, hu, hm, hn, hends, hl.trans (writeTile_lmem _ _ _ s), ?_⟩
      rw [ht]
      exact writeTile_zero hwft
    case tld =>
      obtain ⟨u, fl, hu, hm, hn, hl, htm, hends, hshape, -⟩ := execKStep_tld h hfree hop ht hfzi hrow
      refine ⟨u, hu, hm, hn, hends, hl.trans (writeTile_lmem _ _ _ s), ?_, fun r c hr hc => ?_⟩
      · refine Sequencer.shapeOf_of_vset (q := x.seq) (tileReg_lt _) (hshape.trans ((tldResult_shape hwid row fl).trans ?_))
        rw [ht]
        rfl
      · rw [htm]
        exact (tldResult_cell hwft row hr hc).trans (loadedRow_getD hc (row r))
    case tst =>
      obtain ⟨u, fl, hu, hm, hn, hl, htm, hends, -, -⟩ := execKStep_tst h hfree hop ht hgood hbank
      obtain ⟨-, htile, -⟩ := tstResult_eq x i s
      refine ⟨u, hu, hm, hn, hends, htm.trans htile, fun r c hr hc => ?_⟩
      rw [hl]
      exact tstResult_cell hwfl hp hr hc
    case ufdef =>
      obtain ⟨u, hu, hm, hn, hl, ht, hends, -, hunfold⟩ := execKStep_ufdef h hfree hop
      rw [State.wgBy_putWg_of_wid (w := x.setUnfold i) s hwid] at hunfold
      exact ⟨u, hu, hm, hn, hends, ht, hl, hunfold⟩
    case fault =>
      obtain ⟨hm, hn, ht, hl, hq, hcause, hsstep, hpos⟩ := headAfter_fault (begun := false) (pr := x.seq.probe) h hc hgone hstopped
      exact ⟨_, execKStep_tile_fault h hfree hop hrun, hm, hn, ht, hl, hq, hcause, hsstep.trans hstep, hpos⟩
  case mma =>
    obtain ⟨fl, hstepped, hu⟩ := execKStep_mma h hop hbegun hn hgood hA hB
    have hsteps : i.steps = mulSteps i.ext := if_pos (by rw [hop]; decide)
    have hlmem : (mmaResult s x i.mul A B).lmem = s.lmem := writeTile_lmem _ _ _ s
    have hcells : ∀ r c, r < mulM i.imm11 → c < mulN i.ext →
        memNat (mmaResult s x i.mul A B).tmem (cellAt x (mulD i.imm11) r c) 4 = (mmaCell s x i.mul A B r c).1 % 2 ^ 32 :=
      fun r c hr hc => mmaResult_cell A B hwft hn hr hc
    obtain hmore | hlast := Nat.lt_or_ge (x.seq.step + 1) (mulSteps i.ext)
    · obtain ⟨hm, hn', hl, ht, hqueue', hstep'⟩ := headAfter_next (begun := true) (pr := x.seq.probe) h hstepped (hsteps ▸ hmore)
      refine ⟨_, hu, hm, hn', hl.trans hlmem, fun _ => ⟨hqueue', hstep'⟩, fun heq => absurd heq hmore.ne, fun r c hr hc => ?_⟩
      rw [ht]
      exact ⟨hcells r c hr hc, fun hint => (congrArg Nat.cast (hcells r c hr hc)).trans (mmaCell_int hint A B r c)⟩
    · obtain ⟨hm, hn', hl, ht, hends, -, -⟩ := headAfter_last (begun := true) h hstepped hwrites (hsteps ▸ hlast)
      refine ⟨_, hu, hm, hn', hl.trans hlmem, fun hmore => absurd hmore (Nat.not_lt_of_ge hlast), fun _ => hends, fun r c hr hc => ?_⟩
      rw [ht]
      exact ⟨hcells r c hr hc, fun hint => (congrArg Nat.cast (hcells r c hr hc)).trans (mmaCell_int hint A B r c)⟩

end Sys2Proof.Machine
end
